-- ==== Sys2Proof/Word.lean ====
section
/-!
DEFINITION. The word types of the hub and the plain containers its state is built from.
-/
namespace Sys2Proof

/-- One byte of a slot, of a mailbox window, of the NVM. -/
abbrev Byte := BitVec 8

/-- The 64 bytes of a line, byte 0 in bits [7:0] (R6). -/
abbrev Line := BitVec 512

/-- Address bits [51:6] of a line. -/
abbrev LAddr := BitVec 46

/-- A table keyed by a number: an unlisted key holds the table's default. -/
abbrev Tbl (α : Type) := List (Nat × α)

end Sys2Proof
end

