-- ==== Sys2Proof/Config.lean ====
section
/-!
DEFINITION. What one part or one implementation fixes, and the free values: constants without a body.
-/
namespace Sys2Proof.Config

/-- HUB_INFO byte 5 and R512: true for ATL-H20-B0-X, false for ATL-H20-B0-C. -/
opaque variantX : Bool

/-- HUB_INFO UID: the die identifier, fixed at manufacture (Table 15-3). -/
opaque uid : BitVec 64

/-- SHA-384 of a byte string: 48 bytes, of a standard outside the spec (log 13). -/
opaque sha384 : List Byte → List Byte

/-- ECDSA P-384: a public key, a message and a signature r, s verify; of a standard outside the spec
(log 13). -/
opaque ecdsaP384 : List Byte → List Byte → List Byte → Bool

/-- The key digest fixed in the boot ROM, which the spec does not print (R436; log 13). -/
opaque keyDigest : List Byte

/-- The CRC over bytes 0 to 241 of a flit, of PCIe Base 6.0 Flit Mode (R44; log 42). -/
opaque flitCrc : BitVec 1936 → BitVec 64

/-- The FEC over bytes 0 to 249 of a flit, of PCIe Base 6.0 Flit Mode (R44; log 42). -/
opaque flitFec : BitVec 2000 → BitVec 48

/-- The word of MEM 0xB that holds an item of the Cosy configuration, of which Table 12-1 gives no layout
(log 20). -/
opaque cosyWord : Nat → BitVec 10

/-- A value the spec leaves open, one per use: the argument is State.free (log 3). -/
opaque freeValue : Nat → BitVec 64

end Sys2Proof.Config
end

