-- ==== Sys2Proof/Syntax.lean ====
section
/-!
DEFINITION. The commands of the hub: messages, flits, and one constructor of `Instr` for each row of
spec/opcode_table.json.
-/
namespace Sys2Proof

/-! ## Messages (03_messages.md) -/

/-- Message classes, R47 and Table 03-1, in the dependence order of R77. -/
inductive Cls where
  | req | wb | snp | mrq | rsp | dat
deriving DecidableEq, Repr

/-- REQ opcodes, Table 03-4, PMK apart. -/
inductive ReqOp where
  | rds | rdo | rdc | upg | wrl | wrp | atm | rnc | wnc | cure
deriving DecidableEq, Repr

/-- WB opcodes, R90. -/
inductive WbOp where
  | wbm | evc
deriving DecidableEq, Repr

/-- SNP opcodes, R92. -/
inductive SnpOp where
  | sns | sni | snc | snf
deriving DecidableEq, Repr

/-- MRQ opcodes, R93. -/
inductive MrqOp where
  | mrd | mwr | mat
deriving DecidableEq, Repr

/-- Snoop answers, Table 03-10. -/
inductive AnsOp where
  | sri | srs | srf | srm | srd
deriving DecidableEq, Repr

/-- DAT opcodes, R97. -/
inductive DatOp where
  | dsh | dow | dfw | dmm
deriving DecidableEq, Repr

/-- The slot prefix of Table 03-2 without CLS and OP. -/
structure Hdr where
  tid   : BitVec 12
  dan   : BitVec 7
  epoch : BitVec 8
  dom   : BitVec 3
deriving DecidableEq, Repr

/-- The REQ fields of Table 03-5. -/
structure ReqF where
  tkv    : Bool
  ticket : BitVec 16
  asz    : BitVec 2
  sub    : BitVec 4
  ofs    : BitVec 6
  laddr  : LAddr
  stream : BitVec 6
deriving DecidableEq, Repr

/-- The SNP fields of Table 03-7. -/
structure SnpF where
  h     : Hdr
  op    : SnpOp
  proxy : Bool
  fmode : BitVec 2
  laddr : LAddr
  htag  : BitVec 14
deriving DecidableEq, Repr

/-- The MRQ fields of Table 03-9. -/
structure MrqF where
  h     : Hdr
  op    : MrqOp
  poi   : Bool
  asz   : BitVec 2
  sub   : BitVec 4
  ofs   : BitVec 6
  laddr : LAddr
  htag  : BitVec 14
deriving DecidableEq, Repr

/-- The fields of a snoop answer, Table 03-11; `poi` is the POI that R98 and R210 give an SRD and for
which the table has no bit (log 41). -/
structure AnsF where
  h     : Hdr
  nst   : BitVec 2
  laddr : LAddr
  htag  : BitVec 14
  poi   : Bool
deriving DecidableEq, Repr

/-- The DAT fields of Table 03-12. -/
structure DatF where
  h     : Hdr
  poi   : Bool
  res   : Bool
  gst   : BitVec 2
  laddr : LAddr
  htag  : BitVec 14
deriving DecidableEq, Repr

/-- One message, its line data included where it is a data message. -/
inductive Msg where
  | req (op : ReqOp) (h : Hdr) (f : ReqF) (data : Line)
  | pmk (h : Hdr) (stream : BitVec 6) (mask : BitVec 64)
  | wb  (op : WbOp) (h : Hdr) (laddr : LAddr) (data : Line)
  | snp (f : SnpF)
  | mrq (f : MrqF) (data : Line)
  | cmp (h : Hdr) (gst : BitVec 2)
  | nak (h : Hdr) (reason : BitVec 4) (ticket : BitVec 16) (tkv : Bool)
  | ans (op : AnsOp) (f : AnsF) (data : Line)
  | mcp (h : Hdr) (laddr : LAddr) (htag : BitVec 14)
  | hnt (h : Hdr) (kind : BitVec 4) (mbx : BitVec 4) (status : BitVec 8) (fsrc : BitVec 6)
  | dat (op : DatOp) (f : DatF) (data : Line)
deriving DecidableEq, Repr

/-! ## Link control and flits (02_tlanyx_link.md) -/

/-- The CAP fields of Table 02-10. -/
structure CapF where
  ver   : BitVec 8
  role  : BitVec 3
  mem   : Bool
  matc  : Bool
  fcap  : Bool
  pwic  : Bool
  sets  : BitVec 4
  ways  : BitVec 6
  hubn  : BitVec 3
  sport : BitVec 2
deriving DecidableEq, Repr

/-- The ASSIGN fields of Table 02-11. -/
structure AssignF where
  dom   : BitVec 3
  dan   : BitVec 7
  mir   : Bool
  var   : Bool
  epoch : BitVec 8
  tans  : BitVec 3
  tsnp  : BitVec 3
deriving DecidableEq, Repr

/-- The PWI fields of R99. -/
structure PwiF where
  int  : BitVec 4
  lvl  : BitVec 4
  lead : BitVec 12
deriving DecidableEq, Repr

/-- Link-control messages, Table 02-8. -/
inductive LinkCtl where
  | cap (c : CapF)
  | capAck (result : BitVec 8) (port : BitVec 5)
  | assign (a : AssignF)
  | release (dom : BitVec 3)
  | pwi (f : PwiF)
  | linkDown (reason : BitVec 8)
deriving DecidableEq, Repr

/-- The parts of the 256 bytes of a flit (R44), laid out in Decode.lean. The FEC and CRC are those of
PCIe Base 6.0, so what their checks find on receipt is an operand: `crcOk`, and `fecCorr` symbols
corrected (log 42). -/
structure RawFlit where
  crcOk   : Bool
  fecCorr : Nat
  dlf     : BitVec 48
  hdr     : BitVec 96
  slots   : List (BitVec 128)
  crc     : BitVec 64 := 0
  fec     : BitVec 48 := 0
deriving DecidableEq, Repr

/-- Lane rates of R38. `low` is any rate below 16 GT/s. -/
inductive Rate where
  | low | g16 | g32 | g64
deriving DecidableEq, Repr

/-- How a training from Detect ends: on the way to L0, or in one of the two states for validation
(Table 02-1). -/
inductive TrainEnd where
  | link | loopback | compliance
deriving DecidableEq, Repr

/-- What a training from Detect found (R38 to R43): the highest rate at which both ends completed
equalization, the wired width, the physical lanes that trained, reversal, the physical lanes with
inverted polarity, and whether the far end advertised both options of R43. -/
structure Trained where
  rate     : Rate
  wired    : Fin 9
  lanesOk  : BitVec 8
  reversed : Bool
  polarity : BitVec 8
  farOpts  : Bool := false
  ending   : TrainEnd := .link
deriving DecidableEq, Repr

/-- An awaited answer that T_snoop watches (Table 06-5): one of a tracker's, a merge-buffer drain's or
a directory victim's. -/
inductive AnswerWait where
  | tracker (sl : Fin 17) (t : Fin 64) (i : Nat)
  | merge (i : Nat)
  | victim (sl : Fin 17) (i : Nat)
deriving DecidableEq, Repr

/-! ## Registers, sideband, firmware operands -/

/-- Which half of a register a write covers (R383). -/
inductive Part where
  | full | lo | hi
deriving DecidableEq, Repr

/-- The target of an SMBus row. -/
inductive SmbIf where
  | smb0 | smb1
deriving DecidableEq, Repr

/-- An SMBus block write as the target sees it up to its end (R457): the address, the count byte, the
data bytes, the PEC byte when one is present, and whether a STOP ended it. -/
structure SmbWrite where
  addr  : BitVec 7
  count : Byte
  bytes : List Byte
  pec   : Option Byte
  stop  : Bool
deriving DecidableEq, Repr

/-- How one SMBC poll of a regulator ended (R471, R473). -/
inductive PollEnd where
  | ok (vout iout temp : BitVec 16)
  | failed
  | badPec
  | lost
deriving DecidableEq, Repr

/-- What a probe of a regulator address found (R470). -/
inductive ProbeEnd where
  | absent
  | found (rev vmode : Byte) (pecOk : Bool)
deriving DecidableEq, Repr

/-- The TAP instructions of R506. -/
inductive TapOp where
  | bypass | idcode | samplePreload | extest | extestPulse | extestTrain | clamp | highz
deriving DecidableEq, Repr

/-! ## Commands -/

/-- The commands: one constructor per row of spec/opcode_table.json, in its order. -/
inductive Instr where
  | portDetect (p : Fin 20) (found : Bool)
  | trainingComplete (p : Fin 20) (r : Trained)
  | flitReceive (p : Fin 20) (f : RawFlit)
  | replayTimeout (p : Fin 20)
  | recoveryExit (p : Fin 20)
  | recoveryTimeout (p : Fin 20)
  | flitTransmit (p : Fin 20)
  | linkDown (p : Fin 20) (reason : BitVec 8)
  | farEndIdle (p : Fin 20)
  | cap (p : Fin 20) (c : CapF)
  | capAck (p : Fin 20) (result : BitVec 8) (port : BitVec 5)
  | capTimeout (p : Fin 20)
  | simmerRequest (p : Fin 20)
  | simmerAccept (p : Fin 20)
  | simmerRefuse (p : Fin 20)
  | simmerRequestTimeout (p : Fin 20)
  | simmerEntryComplete (p : Fin 20)
  | portIdleTimeout (p : Fin 20)
  | simmerExit (p : Fin 20)
  | simmerExitStart (p : Fin 20)
  | simmerExitSlow (p : Fin 20)
  | assignAfterRelease (a : Fin 16)
  | rds (p : Fin 20) (h : Hdr) (f : ReqF)
  | rdo (p : Fin 20) (h : Hdr) (f : ReqF)
  | rdc (p : Fin 20) (h : Hdr) (f : ReqF)
  | upg (p : Fin 20) (h : Hdr) (f : ReqF)
  | wrl (p : Fin 20) (h : Hdr) (f : ReqF) (data : Line)
  | pmk (p : Fin 20) (h : Hdr) (stream : BitVec 6) (mask : BitVec 64)
  | wrp (p : Fin 20) (h : Hdr) (f : ReqF) (data : Line)
  | atm (p : Fin 20) (h : Hdr) (f : ReqF) (data : Line)
  | rnc (p : Fin 20) (h : Hdr) (f : ReqF)
  | wnc (p : Fin 20) (h : Hdr) (f : ReqF) (data : Line)
  | cure (p : Fin 20) (h : Hdr) (f : ReqF)
  | wbm (p : Fin 20) (h : Hdr) (laddr : LAddr) (data : Line)
  | evc (p : Fin 20) (h : Hdr) (laddr : LAddr)
  | sri (p : Fin 20) (f : AnsF)
  | srs (p : Fin 20) (f : AnsF)
  | srf (p : Fin 20) (f : AnsF)
  | srm (p : Fin 20) (f : AnsF)
  | srd (p : Fin 20) (f : AnsF) (data : Line)
  | mcp (p : Fin 20) (h : Hdr) (laddr : LAddr) (htag : BitVec 14)
  | dmm (p : Fin 20) (f : DatF) (data : Line)
  | directoryWordDmm (p : Fin 20) (f : DatF) (data : Line)
  | dfw (p : Fin 20) (f : DatF) (data : Line)
  | proxySnoop (p : Fin 20) (f : SnpF)
  | passOn (p : Fin 20) (m : Msg)
  | pwi (a : Fin 16) (f : PwiF)
  | grantPlacement (sl : Fin 17) (t : Fin 64)
  | mrqPlacement (sl : Fin 17) (t : Fin 64)
  | directoryFillResume (sl : Fin 17) (t : Fin 64)
  | ticketWindowExpiry (sl : Fin 17) (t : Fin 64)
  | tAnswerExpiry (sl : Fin 17) (t : Fin 64)
  | tSnoopExpiry (w : AnswerWait)
  | tTrackerExpiry (sl : Fin 17) (t : Fin 64)
  | quiesced (d : Fin 8)
  | holdIdleLimit (sl : Fin 17) (t : Fin 64)
  | holdTimeLimit (sl : Fin 17) (t : Fin 64)
  | dsGatePass (a : Fin 16) (stream : BitVec 6)
  | cureComplete (a : Fin 16) (tid : BitVec 12)
  | mergeEntryAge (i : Fin 64)
  | mergePressureDrain
  | drainWaiterResume (sl : Fin 17) (t : Fin 64)
  | sweepMwr (d : Fin 8)
  | zeroSweepComplete (d : Fin 8)
  | sweepTimeout (d : Fin 8)
  | stagePNotice (p : Fin 20) (n : AssignF)
  | stageRNotice (p : Fin 20) (n : AssignF)
  | spanRelease (p : Fin 20) (d : Fin 8)
  | stagePComplete (d : Fin 8)
  | stageRComplete (d : Fin 8)
  | stageTimeout (d : Fin 8)
  | pllLock
  | pllLockTimeout
  | pllLockLoss
  | steepIdleElapsed
  | stopStep
  | wakeNEdge (a : Fin 16)
  | wakeNetFall
  | dormantEntry
  | dormantAssign
  | wakeTrainingTimeout (p : Fin 20)
  | droopStretch
  | droopEase
  | stretchEpisodeLong
  | droopNEdge (a : Fin 16)
  | pacingWindow (a : Fin 16) (sinceTrigger : Nat)
  | watchEnd (a : Fin 16)
  | fallHintEnd (a : Fin 16)
  | fallSignature (a : Fin 16)
  | ldhDeferredChange (a : Fin 16)
  | paceForced (sl : Fin 17) (t : Fin 64)
  | bucketLeak (m : Fin 12)
  | trowelStep
  | selftestStep
  | selftestCopyComplete
  | switchWindowEnd
  | sliceDrainComplete
  | selftestTestComplete (pass : Bool)
  | spareInitialTest (ok : BitVec 34)
  | sliceFail (phys : Fin 17) (cause : Fin 3)
  | spareTakeover (phys : Fin 17)
  | sliceSpread (phys : Fin 17)
  | itBkt (m : Fin 12) (part : Part) (v : BitVec 64)
  | itFlipCtl (v : BitVec 32)
  | chkrd (v : BitVec 32)
  | itRawData (v : BitVec 32)
  | itRawChkb (v : BitVec 32)
  | itInjCtl (v : BitVec 32)
  | faultEvent (src : Fin 64) (dom : Option (Fin 8)) (detail : BitVec 64)
  | cosyConfigCheck
  | faultNoticePlacement (a : Fin 16)
  | logWrite
  | tokenGain
  | logScan
  | fcStatus (part : Part) (v : BitVec 64)
  | sensorReading (v : BitVec 16)
  | mbDoorbell (m : Fin 10) (who : BitVec 7) (v : BitVec 32)
  | mailboxWindowWrite (m : Fin 10) (who : BitVec 7) (off : Fin 320) (bytes : List Byte)
  | mbLockClaim (d : Fin 8) (who : BitVec 7)
  | mbLockRelease (d : Fin 8) (who : BitVec 7)
  | lockIdleTimeout (d : Fin 8)
  | mailboxNoticePlacement (m : Fin 10)
  | mailboxOpen
  | replayRecord
  | hubInfo (m : Fin 10)
  | fwInfo (m : Fin 10)
  | caps (m : Fin 10)
  | configRead (m : Fin 10)
  | configWrite (m : Fin 10)
  | configCommit (m : Fin 10)
  | configLock (m : Fin 10)
  | regionSet (m : Fin 10)
  | regionGet (m : Fin 10)
  | proximitySet (m : Fin 10)
  | portConfig (m : Fin 10)
  | domainCreate (m : Fin 10)
  | domainStart (m : Fin 10)
  | domainQuiesce (m : Fin 10)
  | domainStop (m : Fin 10)
  | domainStatus (m : Fin 10)
  | dirSweepWriteback (m : Fin 10)
  | dirSweepZero (m : Fin 10)
  | quotaSet (m : Fin 10)
  | agentAdmitPort (m : Fin 10)
  | agentAdmitRecord (m : Fin 10)
  | agentExpelPort (m : Fin 10)
  | agentExpelRecord (m : Fin 10)
  | linkStatus (m : Fin 10)
  | linkRetrain (m : Fin 10)
  | linkMargin (m : Fin 10)
  | linkCounters (m : Fin 10)
  | spanSpare (m : Fin 10)
  | powerStateRead (m : Fin 10)
  | powerStateClear (m : Fin 10)
  | powerStateWake (m : Fin 10)
  | powerPolicyHub (m : Fin 10)
  | powerPolicyPort (m : Fin 10)
  | forecastStatus (m : Fin 10)
  | faultRead (m : Fin 10)
  | faultClear (m : Fin 10)
  | faultConfigSource (m : Fin 10)
  | faultConfigNotify (m : Fin 10)
  | errlogRead (m : Fin 10)
  | injectCollector (m : Fin 10)
  | injectChecker (m : Fin 10)
  | injectFlip (m : Fin 10)
  | scrubConfig (m : Fin 10)
  | selftestStart (m : Fin 10)
  | selftestStatus (m : Fin 10)
  | sliceStatus (m : Fin 10)
  | fwStage (m : Fin 10)
  | fwVerify (m : Fin 10)
  | fwActivate (m : Fin 10)
  | fwCommitSlot (m : Fin 10)
  | nvmRead (m : Fin 10)
  | tempRead (m : Fin 10)
  | statsRead (m : Fin 10)
  | watchdogExpiry
  | exchangeBegin
  | exchangeFallback (pc : BitVec 32) (trapCause : Option (BitVec 8))
  | firmwareTimer (id : Nat)
  | crcCtl (u : Fin 2) (v : BitVec 32)
  | crcData8 (u : Fin 2) (v : BitVec 8)
  | crcData16 (u : Fin 2) (v : BitVec 16)
  | crcData32 (u : Fin 2) (v : BitVec 32)
  | crcAbsorbDone (u : Fin 2)
  | smb0AddressMatch (addr : BitVec 7)
  | setPtr (w : SmbWrite)
  | write (w : SmbWrite)
  | read (addr : BitVec 7) (stop : Bool)
  | status (addr : BitVec 7)
  | alertResponse (others : Byte)
  | smbusTimeout (i : SmbIf)
  | datapathRegate (i : SmbIf)
  | smb1Wake
  | smb1TempNow (addr : BitVec 7)
  | smb1TempMax (addr : BitVec 7)
  | smb1TempLimit (addr : BitVec 7)
  | smb1State (addr : BitVec 7)
  | smb1HubInfo (addr : BitVec 7)
  | smb1FcStatus (addr : BitVec 7)
  | smb1TelemetrySelect (addr : BitVec 7) (port : Byte) (pec : Option Byte)
  | smb1Telemetry (addr : BitVec 7)
  | smbcPoll (r : PollEnd)
  | regulatorProbe (n : Fin 16) (r : ProbeEnd)
  | smbcRetry (r : PollEnd)
  | busRecovery (clocks : Fin 10) (sdaLow : Bool)
  | smbcAbandon
  | powerOnReset
  | pwrOk (level : Bool)
  | sysRstN (level : Bool)
  | resetRelease
  | tapInstruction (i : TapOp)
  | registerWrite (off : BitVec 18) (part : Part) (v : BitVec 64)
  | largeRiseImminent (a : Fin 16)
  | exchangeComplete
  | downProcessingComplete (d : Fin 8)
  | replayAdmitTimeout
  | farEndRecovery (p : Fin 20)
deriving DecidableEq, Repr

end Sys2Proof
end

