-- ==== Sys2Proof/Machine/State.lean ====
section
/-!
DEFINITION. The hub's state as plain data, the reasons a command can stop, and the state after reset.
Every table holds only what differs from its default, which the accessors of Ops.lean name.
-/
namespace Sys2Proof.Machine

/-! ## Ports (02, 03, 10, 11) -/

/-- LINK_STATUS STATE, Table 15-12, and the two states for validation of Table 02-1. -/
inductive LinkSt where
  | noReceiver | held | training | l0 | simmer | recovery | loopback | compliance
deriving DecidableEq, Repr

/-- The Simmer handshake of R72 and R73. -/
inductive SimmerHs where
  | idle
  /-- The hub's request is outstanding; true once its flit is acknowledged. -/
  | requested (acked : Bool)
  /-- Accepted by either end; lanes are going to electrical idle. -/
  | entering
deriving DecidableEq, Repr

/-- Electrical and training facts of a port (R38 to R43, Table 15-12). -/
structure Link where
  st       : LinkSt := .held
  rate     : Nat := 0
  width    : Nat := 0
  reversed : Bool := false
  degraded : Bool := false
  polarity : BitVec 8 := 0
  rateCap  : BitVec 2 := 0
  farCap   : Option CapF := none
  capAcked : Bool := false
  peerAck  : Bool := false
  lastDown : BitVec 8 := 0
  coeff    : Option (Nat × Nat) := none
  upAtDormant : Bool := false
  wakeTrain : Bool := false
  hs       : SimmerHs := .idle
  refused  : Bool := false
  /-- the flit that acknowledges an accept is still to be sent (R73) -/
  ackDue   : Bool := false
  exiting  : Bool := false
  exitDue  : Bool := false
  /-- the wake net read high when the hub's Simmer exit in progress began (R303) -/
  netHigh  : Bool := false
  retrain  : Option Nat := none
deriving DecidableEq, Repr

/-- A data message that is open on a link (R58): its tag, class, header SEQ, message and data slots
placed or taken so far. -/
structure OpenMsg where
  tag  : Nat
  seq  : BitVec 10
  msg  : Msg
  done : Nat
deriving DecidableEq, Repr

/-- One slot of a flit on transmit; a data slot keeps the domain of its message (R270). -/
inductive TxSlot where
  | empty
  | ctl (c : LinkCtl)
  | start (tag : Nat) (m : Msg)
  | data (tag : Nat) (dom : Nat) (chunk : BitVec 128)
deriving DecidableEq, Repr

/-- A credit return of Table 02-5: class code, domain, count. -/
structure CreditRet where
  cls : Nat
  dom : Nat
  cnt : Nat
deriving DecidableEq, Repr

/-- A flit as the hub sends it. `idle` flits carry nothing but ACK, ACKV and RPQ (R49). -/
structure TxFlit where
  idle  : Bool
  seq   : BitVec 10
  ack   : BitVec 10
  ackv  : Bool
  rpq   : Bool
  pm    : BitVec 2
  crs   : List CreditRet
  slots : List TxSlot
deriving DecidableEq, Repr

/-- The transmitter (R50 to R62). -/
structure Tx where
  seq      : BitVec 10 := 0
  replay   : List TxFlit := []
  replayAt : Option (BitVec 10) := none
  serving  : Option (BitVec 10) := none
  replays  : Nat := 0
  opens    : List OpenMsg := []
  lcq      : List LinkCtl := []
  q        : List Msg := []
  pm       : BitVec 2 := 0
  pmSeq    : Option (BitVec 10) := none
  credits  : Tbl Nat := []
  /-- the flits of the last step that placed any, in order -/
  wire     : List TxFlit := []
deriving DecidableEq, Repr

/-- What a receiver has delivered and its step has not yet taken. -/
inductive Delivered where
  | msg (m : Msg)
  | ctl (c : LinkCtl)
  | pm (v : BitVec 2)
deriving DecidableEq, Repr

/-- The receiver (R51, R52, R58 to R63) and the credits it has granted (R105 to R107). -/
structure Rx where
  seq     : BitVec 10 := 0
  any     : Bool := false
  rpq     : Bool := false
  opens   : List OpenMsg := []
  inbox   : List Delivered := []
  /-- the PMK that waits for its WRP (R89); on a span port one a domain -/
  pmk     : List (Hdr × BitVec 6 × BitVec 64) := []
  granted : Tbl Nat := []
  returns : Tbl Nat := []
  /-- SNFs and MATs placed on this agent port whose DFW or DMM has not come: R98 judges that data by
  them -/
  snfs    : List SnpF := []
  mats    : List MrqF := []
deriving DecidableEq, Repr

/-- The port's membership (R25, R70, R246). `sent` is the last ASSIGN placed; `relSeq` the flit whose
acknowledgement a RELEASE waits for, once it is known. -/
structure Member where
  dom     : Option Nat := none
  dan     : Nat := 0
  sent    : Option AssignF := none
  relWait : Bool := false
  relSeq  : Option (BitVec 10) := none
  assignQ : Option AssignF := none
  ignoreCr : Bool := false
  consent : Bool := false
  released : Bool := false
deriving DecidableEq, Repr

/-- Forecast phases, R317 and Table 15-14. -/
inductive FPhase where
  | none | lead | ramp | watch
deriving DecidableEq, Repr

/-- Parameters of Table 11-4. -/
structure FParams where
  paceEn  : Bool := true
  strict  : Bool := false
  floor   : Nat := 4
  ceil    : Nat := 127
  step    : Nat := 4
  leadMin : Nat := 1
  leadMax : Nat := 16
  quietT  : Nat := 8
  burstN  : Nat := 4
  ovrK    : Nat := 3
  ovrW    : Nat := 8
  ovrLim  : Nat := 1
deriving DecidableEq, Repr

/-- The forecaster and pacer of one agent port (11_load_forecast.md). -/
structure Forecast where
  par      : FParams := {}
  /-- parameters written and not yet in effect (R325) -/
  parNext  : Option FParams := none
  phase    : FPhase := .none
  large    : Bool := false
  imminent : Bool := false
  hint     : Bool := false
  ldh      : BitVec 2 := 0
  ldhHold  : Bool := false
  ldhDue   : Option (BitVec 2) := none
  lead     : Nat := 4
  start    : Nat := 4
  /-- L as it stood at the trigger of the event in progress -/
  leadAt   : Nat := 4
  limit    : Nat := 127
  count    : Nat := 0
  windowReqs : Nat := 0
  quietAtFirst : Bool := false
  burstTrig : Bool := false
  busy     : Nat := 0
  quietFrom : Nat := 0
  run      : Nat := 0
  edgeInEvent : Bool := false
  ovr      : Bool := false
  /-- an override that starts with the next window -/
  ovrNext  : Bool := false
  ovrQuiet : Nat := 0
  /-- a counted edge has fallen in the window in progress (R326) -/
  edgeWin  : Bool := false
  edges    : List Nat := []
  trigExit : Nat := 0
  trigBurst : Nat := 0
  trigPwi  : Nat := 0
  droopCnt : Nat := 0
  droopLatched : Nat := 0
  stepsUp  : Nat := 0
  stepsDown : Nat := 0
  ovrCount : Nat := 0
  ovrBlocked : Nat := 0
  paceForced : Nat := 0
  delayed  : Nat := 0
  longest  : Nat := 0
  pwiIgnored : Nat := 0
  lastLead : BitVec 12 := 0
  lastLvl  : BitVec 4 := 0
deriving DecidableEq, Repr

/-- One request as the home keeps it. `port` is where it entered this hub. -/
structure Req where
  op   : ReqOp
  port : Nat
  h    : Hdr
  f    : ReqF
  data : Line
  mask : BitVec 64
deriving DecidableEq, Repr

/-- The DS order gate of one stream (R230). -/
inductive Gate where
  | idle
  | busy (tid : BitVec 12)
  | broken (tid : BitVec 12)
deriving DecidableEq, Repr

/-- A CURE in a barrier slot (R226, R227): the writes and merge entries it still waits for, and
whether it holds a watch entry. -/
structure Cure where
  h      : Hdr
  stream : BitVec 6
  writes : List (BitVec 12)
  drains : List (Nat × LAddr)
deriving DecidableEq, Repr

structure Port where
  link : Link := {}
  tx   : Tx := {}
  rx   : Rx := {}
  mem  : Member := {}
  fore : Forecast := {}
  cnt  : Tbl Nat := []
  gates : Tbl Gate := []
  gateBuf : List Req := []
  gateEnd : Tbl (Option (BitVec 4)) := []
  cures : List Cure := []
  opens : List (BitVec 6 × BitVec 12) := []
  /-- lines of the UPGs that have had no final answer (R133) -/
  upgs : List (BitVec 12 × LAddr) := []
  /-- trackers (slice, number) whose delayed grants wait for this port, in ready order (R322) -/
  ready : List (Nat × Nat) := []
  hntQ  : List (BitVec 6) := []
deriving DecidableEq, Repr

/-! ## Domains (08, 09) -/

inductive DomSt where
  | none | created | started | quiescing | quiesced | down
deriving DecidableEq, Repr

/-- Agent kinds as order 8 of Table 09-3 codes them. -/
inductive Kind where
  | caching | mirrored | io | memory
deriving DecidableEq, Repr

/-- One agent-map entry (R114). `port` is none for an agent of another hub. -/
structure Agent where
  hub    : Nat
  kind   : Kind
  mem    : Bool
  matc   : Bool
  port   : Option Nat
  shelves : List Nat
  sets   : Nat
  ways   : Nat
deriving DecidableEq, Repr

/-- Domain parameters, Table 08-3; T_answer and T_snoop reset to the values of Table 06-5. -/
structure Params where
  var    : Bool := false
  fmig   : Bool := false
  atmp   : BitVec 2 := 0
  tans   : Nat := 4
  tsnp   : Nat := 2
  twBase : BitVec 52 := 0
  twLog  : Nat := 0
  dirBase : BitVec 52 := 0
  dirTgt : Nat := 0
  q      : Nat := 0
  b      : Nat := 0
  cq     : Nat := 0
  mbq    : Nat := 0
deriving DecidableEq, Repr

/-- Where a DOMAIN_START stands (R261, R281). -/
inductive Stage where
  | waitP | sweep | waitR
deriving DecidableEq, Repr

structure StartJob where
  origin : DomSt
  stage  : Stage
  mbx    : Option Nat
deriving DecidableEq, Repr

/-- A directory sweep in progress (R262): the next block or directory-cache way, and the addresses whose
MCPs are outstanding. `flush` marks the hub's own write-back of a quiesce or a stop (R244). -/
structure Sweep where
  zero    : Bool
  flush   : Bool
  next    : Nat
  outst   : List (BitVec 52)
  mbx     : Option Nat
deriving DecidableEq, Repr

structure Dom where
  st     : DomSt := .none
  epoch  : BitVec 8 := 0
  par    : Params := {}
  zeroFlag : Bool := false
  downing : Bool := false
  cause  : Nat := 0xFE
  map    : Tbl (Option Agent) := []
  stale  : BitVec 128 := 0
  prox   : Tbl (BitVec 3) := []
  start  : Option StartJob := none
  sweep  : Option Sweep := none
  quiesceMbx : Option Nat := none
  /-- the last stage notice accepted from each other hub (R280) -/
  stageP : List (Nat × AssignF) := []
  stageR : List (Nat × AssignF) := []
  /-- (DAN, EPOCH) of the notices relayed -/
  relayed : List (Nat × Nat) := []
  /-- span REQs held from stage R to the start, with the time of their delivery (R205, R281) -/
  heldReqs : List (Nat × Req) := []
  naks   : Tbl Nat := []
  stats  : Tbl Nat := []
deriving DecidableEq, Repr

/-! ## Home (05, 06, 07) -/

/-- Tracker phases, Table 05-1; a FREE tracker has no record, `reserved` is that of R184. -/
inductive Phase where
  | lookup | dirread | collect | grant | drain | hold | reserved
deriving DecidableEq, Repr

/-- What a tracker waits for. Candidates are DANs 0 to 39, or 40 + h for hub h (R143). -/
inductive Await where
  | snoop (cand : Nat) (op : SnpOp)
  | wbm (cand : Nat)
  | word
  | line
  | mat
  | mcp
  | drain (id : Nat)
deriving DecidableEq, Repr

/-- How the tracker's transaction ends. -/
inductive Flow where
  | undecided
  | share | current | own | upgrade
  | wrl | wrp
  | atmHome (forced : Bool) | atmMem
  | read
  | devWrite | ncWrl | ncWrp | ncMerge
  | writeback
deriving DecidableEq, Repr

/-- A ticket queue (R183, R251): outstanding places in issue order, and the place issued last. -/
structure TQueue where
  quota  : Bool
  places : List Nat
  last   : Nat
deriving DecidableEq, Repr

/-- An MRQ that waits in its tracker for a credit (R157): its destination DAN and fields. -/
structure MrqWait where
  dan  : Nat
  f    : MrqF
  data : Line
deriving DecidableEq, Repr

/-- A WB in the writeback store (R150): its entry, and whether the port it came by still awaits its
credit. `had` is what the Strainer held for a local mirrored writer at delivery: 0 nothing, 1 S, 2 F,
3 M. -/
structure WbEntry where
  num   : Nat
  owed  : Bool
  port  : Nat
  op    : WbOp
  h     : Hdr
  laddr : LAddr
  data  : Line
  had   : Nat
deriving DecidableEq, Repr

/-- Where the home keeps a line's directory word while its tracker lives: nowhere yet, in a way of its set,
or in the tracker itself (R127). -/
inductive WordAt where
  | nowhere
  | way (i : Nat)
  | own
deriving DecidableEq, Repr

/-- A tracker that is not FREE (R146, R148). Candidates are numbered as `Await.snoop` says. -/
structure Tracker where
  sl     : Nat
  num    : Nat
  dom    : Nat
  laddr  : LAddr
  phase  : Phase
  /-- the request it serves; none for a writeback tracker and a reserved one -/
  req    : Option Req := none
  flow   : Flow := .undecided
  awaits : List Await := []
  /-- line data collected; `dirty`: from a snoop answer or a WBM, not from memory -/
  got    : Option Line := none
  poison : Bool := false
  dirty  : Bool := false
  /-- the outstanding line read is discarded on arrival (R161, R169) -/
  dropLine : Bool := false
  /-- the recorded owner in M, and the recorded forwarder, at the decision -/
  owner  : Option Nat := none
  fwd    : Option Nat := none
  /-- holders to remove, and holders that became plain sharers, at the grant (R160) -/
  gone   : List Nat := []
  kept   : List Nat := []
  /-- the forward mode of the SNF last placed -/
  fmode  : BitVec 2 := 0
  /-- the DFW has been passed on before the SRF arrived -/
  dfw    : Bool := false
  /-- the line's directory word as its lookup read it or the home last wrote it, and where it stands -/
  word   : BitVec 56 := 0
  wordAt : WordAt := .nowhere
  /-- snoops that wait for a forward record (R201) -/
  heldSnoops : List (Nat × SnpF) := []
  mrqs   : List MrqWait := []
  /-- another cache held the line of a region without memory (R140) -/
  held   : Bool := false
  /-- since when pacing has held the grant back (R328) -/
  pacedAt : Option Nat := none
  readyAt : Nat := 0
  /-- writers whose WB was absorbed; the data of a WBM, and whether its writer held M in the Strainer of
  this hub (R189) -/
  absorbed : List Nat := []
  wbOwned : Bool := false
  wbData : Option (Nat × Line) := none
  /-- the WB of a writeback tracker whose directory word is being read -/
  wb     : Option WbEntry := none
  /-- HOLD: dirty, count n, forced by R213 (R216) -/
  hold   : Option (Bool × Nat × Bool) := none
  tq     : Option TQueue := none
  taken  : Nat := 0
  late   : Bool := false
  /-- a fill that waits for a victim-buffer entry (R175): the word and whether it is dirty -/
  fillWait : Option (BitVec 56 × Bool) := none
deriving DecidableEq, Repr

/-- An evicted directory word whose MWR is outstanding (R175): its entry of the slice's buffer, and the
header and tracker that the MWR carries. -/
structure Victim where
  sl    : Nat
  num   : Nat
  trk   : Nat
  h     : Hdr
  dom   : Nat
  laddr : LAddr
  word  : BitVec 56
deriving DecidableEq, Repr

/-- A forward record (R201). -/
structure FwdRec where
  sl    : Nat
  dom   : Nat
  laddr : LAddr
  dan   : Nat
deriving DecidableEq, Repr

/-- A proxy snoop this hub resolves (R165): local holders still to answer, and the strongest answer. -/
structure Proxy where
  port : Nat
  f    : SnpF
  wait : List Nat
  best : Option AnsOp
  data : Line
  poison : Bool
deriving DecidableEq, Repr

/-- A merge-buffer entry (R234). `drain`: 0 none, 1 the line read is outstanding,
2 the write is. `first`: the time of its first write. -/
structure Merge where
  id    : Nat
  dom   : Nat
  laddr : LAddr
  data  : Line
  valid : BitVec 64
  poison : Bool
  who   : List (Nat × BitVec 6)
  sl    : Nat
  drain : Nat
  first : Nat
deriving DecidableEq, Repr

/-- Slice roles, Table 15-16. -/
inductive Role where
  | inService | spare | draining | testing | fenced | failed
deriving DecidableEq, Repr

/-- Slice failure record (R356). -/
structure SliceRec where
  phys    : Nat
  logical : Nat
  cause   : Nat
  time    : Nat
  doms    : BitVec 8
  outcome : Nat
deriving DecidableEq, Repr

structure Home where
  trackers : List Tracker := []
  wbs      : List WbEntry := []
  victims  : List Victim := []
  fwds     : List FwdRec := []
  proxies  : List Proxy := []
  merges   : List Merge := []
  pred     : Tbl (BitVec 2) := []
  /-- logical slice to physical slice; none while it has none (R142, R354) -/
  smap     : Tbl (Option Nat) := []
  spread   : List Nat := []
  roles    : Tbl (Option Role) := []
  switching : Option Nat := none
  drainOf  : Option (Nat × Nat) := none
  s3       : Nat := 0
  s3dim    : Nat := 0
  s3edge   : Option (Nat × Nat) := none
  recs     : List SliceRec := []
  /-- the port whose REQ each slice looked up last (R151) -/
  turn     : Tbl Nat := []
deriving DecidableEq, Repr

/-! ## Stored data and its integrity (04, 12) -/

/-- A leaky bucket, R335. -/
structure Bucket where
  ce    : Nat := 0
  ovf   : Nat := 0
  level : Nat := 0
  cap   : Nat := 0x20
  per   : Nat := 0xA
deriving DecidableEq, Repr

/-- A rotating unit (R346, R351): banks 0 to 31, 32 the directory cache, 33 the slices. -/
structure Rot where
  sp      : Nat
  up      : Bool := false
  noSpare : Bool := false
  /-- bitmap of the elements whose last test passed -/
  passed  : Nat := 0
  steps   : Nat := 0
  fails   : Nat := 0
deriving DecidableEq, Repr

/-- The self-test step in progress (R347): its unit, its phase and the element being freed. -/
inductive TestPhase where
  | copy | window | drain | test
deriving DecidableEq, Repr

structure TestStep where
  unit  : Nat
  phase : TestPhase
  src   : Nat
deriving DecidableEq, Repr

/-- The stored arrays: code words, keyed as Ops.lean says. -/
structure Arrays where
  ent   : Tbl (BitVec 48) := []
  valid : Tbl (BitVec 17) := []
  shelf : Tbl (Option (Nat × Nat)) := []
  tag   : Tbl (BitVec 47) := []
  owner : Tbl (BitVec 5) := []
  word  : Tbl (BitVec 64) := []
  plru  : Tbl (BitVec 15) := []
  /-- difference between the stored code word and the intended one, of a word of MEM 0x4 to 0xB that has
  been written and not been read since: data, check -/
  err   : List ((Nat × Nat) × (BitVec 64 × BitVec 8)) := []
deriving DecidableEq, Repr

structure Integ where
  bkt   : Tbl Bucket := []
  ueLast : BitVec 64 := 0
  passes : Nat := 0
  step   : Nat := 0
  pass   : Nat := 600
  flipCtl : BitVec 32 := 0
  flipData : BitVec 64 := 0
  flipChk : BitVec 32 := 0
  rawCtl  : BitVec 32 := 0
  injCtl  : BitVec 32 := 0x00FF0000
  enable  : BitVec 3 := 7
  interval : Nat := 100
  nextUnit : Nat := 0
  rot     : Tbl Rot := []
  test    : Option TestStep := none
  /-- a Trowel step fell due in a switch window of its array (R340) -/
  stepDue : Bool := false
  checkAt : Nat := 0
deriving DecidableEq, Repr

/-! ## The Kettle (10) -/

inductive Power where
  | boil | warm | steep | dormant | enterSteep | leaveDormant
deriving DecidableEq, Repr

structure Kettle where
  st       : Power := .warm
  pllOn    : Bool := true
  pllLock  : Bool := false
  attempts : Nat := 1
  pllFrom  : Nat := 0
  gaveUp   : Bool := false
  stretch  : Nat := 0
  episode  : Nat := 0
  run      : Bool := false
  portIdle : Nat := 10
  steepEn  : Bool := true
  steepIdle : Nat := 20
  dormantEn : Bool := false
  net      : Bool := false
  netPull  : Bool := true
  cause    : BitVec 32 := 0
  maxAc    : Nat := 0
  fails    : Nat := 0
  lastAc   : Nat := 0
  episodes : Nat := 0
  longest  : Nat := 0
  steepIn  : Nat := 0
  dormantIn : Nat := 0
  wakeFail : Nat := 0
deriving DecidableEq, Repr

/-! ## The fault collector (13) -/

/-- Base classes, Table 13-3. -/
inductive FClass where
  | notice | serious | severe | grave
deriving DecidableEq, Repr

/-- Configuration of one source (R362). -/
structure SrcCfg where
  cls    : FClass
  base   : BitVec 5
  severe : BitVec 5
  escN   : Nat := 16
  escW   : Nat := 10
deriving DecidableEq, Repr

/-- An escalation unit (R367). -/
structure EscUnit where
  c   : Nat := 0
  ts  : Nat := 0
  esc : Bool := false
deriving DecidableEq, Repr

/-- An error line that has risen, at a Cosy time, and is not yet latched (R365). -/
structure ErrLine where
  src    : Nat
  dom    : Option Nat
  detail : BitVec 64
  inj    : Bool
  time   : Nat := 0
deriving DecidableEq, Repr

/-- A log record, Table 13-4, before SEQ and CRC are laid out. -/
structure LogRec where
  seq    : Nat
  time   : Nat
  src    : Nat
  first  : Bool
  inj    : Bool
  cls    : Nat
  esc    : Bool
  missed : Bool
  dom    : Option Nat
  react  : BitVec 5
  grave  : Bool
  escc   : Nat
  detail : BitVec 64
  events : Nat
deriving DecidableEq, Repr

structure Collector where
  status : BitVec 64 := 0
  missed : BitVec 64 := 0
  errPin : BitVec 64 := 0
  src    : Tbl (Option SrcCfg) := []
  events : Tbl Nat := []
  units  : Tbl EscUnit := []
  lines  : List ErrLine := []
  latchedAt : Tbl (Option Nat) := []
  pnp    : Option Nat := none
  dna    : Tbl (Option Nat) := []
  grave  : Bool := false
  graveSrc : Nat := 0
  testErr : Bool := false
  extErr : Bool := false
  int    : Bool := false
  nmi    : Bool := false
  queue  : List LogRec := []
  copy   : List LogRec := []
  tokens : Nat := 16
  nextSeq : Nat := 0
  recDrop : Nat := 0
  hntDrop : Nat := 0
  firstDone : Bool := false
  scanning : Bool := true
deriving DecidableEq, Repr

/-! ## Configuration, mailboxes, firmware (14, 15, 16, 18) -/

/-- Configuration items, Table 15-5, and the region table (R136). -/
structure Items where
  n      : Nat := 1
  pport  : Option Nat := none
  crcu   : BitVec 16 := 0
  smb0   : BitVec 64 := 0x0000040000000000#64 ||| 0xB1#64
  smb1   : BitVec 64 := 0
  speed  : Nat := 0
  region : Tbl (BitVec 128) := []
deriving DecidableEq, Repr

structure Cfg where
  eff    : Items := {}
  staged : Items := {}
  lock   : BitVec 2 := 0
deriving DecidableEq, Repr

inductive MbSt where
  | idle | busy | done
deriving DecidableEq, Repr

structure Mailbox where
  st      : MbSt := .idle
  status  : BitVec 8 := 0
  tag     : BitVec 8 := 0
  ringer  : BitVec 7 := 0
  overrun : Bool := false
  blocked : Bool := false
  notify  : Option (Nat × BitVec 8) := none
  holder  : Option (BitVec 7) := none
  /-- the command passed its checks and is being executed -/
  checked : Bool := false
  /-- the ring waits for the mailboxes to open (R489) -/
  waiting : Bool := false
  /-- the command's execution has begun and ends with a later step -/
  running : Bool := false
deriving DecidableEq, Repr

inductive Boot where
  | rom | recovery | running
deriving DecidableEq, Repr

/-- A firmware timer (R443): identifier, due time and period in ac (0 for a single shot). -/
structure FwTimer where
  id     : Nat
  due    : Nat
  period : Nat
deriving DecidableEq, Repr

/-- A live exchange (R441): the mailbox of FW_ACTIVATE, the mailboxes it waits for, and whether its
steps have begun. -/
structure Exchange where
  mbx    : Nat
  waits  : List Nat
  begun  : Bool
deriving DecidableEq, Repr

/-- An image bank of firmware RAM (Table 16-1): the body copied into it, its ENTRY, and whether it is
write-protected (R437, R439). -/
structure Bank where
  body  : List Byte := []
  entry : Nat := 0
  prot  : Bool := false
deriving DecidableEq, Repr

/-- The firmware and its RAM but for the raw test window: the banks, the handover block at 0x3_0000
(Table 16-6 step 2), where the core was last sent, what firmware keeps in its data. `loaded`: a FW_VERIFY
since the last reset has copied the inactive slot's body into the free bank; `wdog`: when the watchdog
last expired with no restart since. -/
structure Firmware where
  boot     : Boot := .rom
  slot     : Nat := 0
  bank     : Nat := 0
  version  : Nat := 0
  bank0    : Bank := {}
  bank1    : Bank := {}
  pc       : Nat := 0
  handover : List FwTimer := []
  loaded   : Bool := false
  fellBack : Bool := false
  isOpen   : Bool := false
  exch     : Option Exchange := none
  heldInt  : Bool := false
  heldNmi  : Bool := false
  exchanges : Nat := 0
  wdog     : Option Nat := none
  timers   : List FwTimer := []
  /-- the stored record that replay applies next (R491) -/
  replay   : Option Nat := none
  /-- the collector configuration held its reset values when replay began -/
  replayFc : Bool := false
  /-- the mailbox whose command is taken up first (R395) -/
  mbTurn   : Nat := 0
  rowsA    : Nat := 0
  rowsB    : Nat := 0
  released : Bool := false
deriving DecidableEq, Repr

/-- A CRC unit (R446 to R449). `busy`: the bytes not yet absorbed. -/
structure Crc where
  poly   : BitVec 2 := 0
  refin  : Bool := true
  refout : Bool := true
  xout   : Bool := true
  init   : BitVec 32 := 0xFFFFFFFF
  xor    : BitVec 32 := 0xFFFFFFFF
  value  : BitVec 32 := 0xFFFFFFFF
  count  : Nat := 0
  busy   : List Byte := []
  answer : Option Req := none
deriving DecidableEq, Repr

/-- A telemetry entry, Table 17-9, AGE apart: `polled` is the uptime of the last complete poll. -/
structure Telem where
  vout  : BitVec 16 := 0
  iout  : BitVec 16 := 0
  temp  : BitVec 16 := 0
  rev   : Byte := 0
  vmode : Byte := 0
  stat  : BitVec 5 := 0
  polled : Option Nat := none
deriving DecidableEq, Repr

/-- The SMBus interfaces (17). `out`: what a target sent in the last transaction, none where it did not
acknowledge; `pollAt` the first regulator of the next poll, `polling` one whose poll is retried. -/
structure Smb where
  ptr    : Nat := 0
  rlen   : Nat := 16
  woke   : Bool := false
  tmo    : Bool := false
  pec    : Bool := false
  discard : Bool := false
  alert  : Bool := false
  gated0 : Bool := false
  gated1 : Bool := false
  telPort : Nat := 0
  out    : Option (List Byte) := none
  telem  : Tbl Telem := []
  pollAt : Nat := 0
  retries : Nat := 0
  polling : Option Nat := none
deriving DecidableEq, Repr

structure Sensor where
  now   : BitVec 16 := 0
  max   : BitVec 16 := 0
  armed : Bool := true
deriving DecidableEq, Repr

/-- Straps, R481. -/
structure Straps where
  hubId  : BitVec 3 := 0
  smbA   : BitVec 2 := 0
  slotB  : Bool := false
  strict : Bool := false
deriving DecidableEq, Repr

/-- The reset the hub is held in. -/
inductive Held where
  | none | powerOn | sys
deriving DecidableEq, Repr

structure Board where
  pwrOk   : Bool := true
  sysRstN : Bool := true
  held    : Held := .none
  pins    : Straps := {}
  straps  : Straps := {}
  tap     : TapOp := .idcode
deriving DecidableEq, Repr

/-! ## The whole state -/

structure State where
  pending : List Instr := []
  uptime  : Nat := 0
  free    : Nat := 0
  board   : Board := {}
  ports   : Tbl Port := []
  doms    : Tbl Dom := []
  home    : Home := {}
  arr     : Arrays := {}
  integ   : Integ := {}
  kt      : Kettle := {}
  flt     : Collector := {}
  cfg     : Cfg := {}
  mbs     : Tbl Mailbox := []
  mbram   : Tbl (BitVec 39) := []
  fw      : Firmware := {}
  fwram   : Tbl (BitVec 39) := []
  nvm     : List Host.Cell := []
  nvmErr  : List (Nat × BitVec 64 × BitVec 8) := []
  nvmFail : List Nat := []
  crc     : Tbl Crc := []
  smb     : Smb := {}
  sens    : Sensor := {}
deriving DecidableEq, Repr

/-- The hub right after a reset has been released with nothing attached (R483, R487): every field at
the value the spec gives for reset, or at the value its log entry names. -/
def State.reset : State := {}

/-! ## Stops -/

/-- Why a command stops the machine. -/
inductive Fault where
  /-- Raised by FLIT_RECEIVE for a flit without fourteen slots, which no lane can deliver (R44). Safe:
  nothing is changed. -/
  | illFormed
deriving DecidableEq, Repr

/-- Why a command has no meaning. -/
inductive Refusal where
  /-- Raised by exec alone, for a row that has no meaning yet. Safe. -/
  | notModelled (mnemonic : String)
deriving DecidableEq, Repr

/-- The answer of a meaning. -/
abbrev Out := Host.Outcome State Fault Refusal

end Sys2Proof.Machine
end

