-- ==== Sys2Proof/Decode.lean ====
section
/-!
DEFINITION. The bit layouts of slots, slot headers and data-link fields (02_tlanyx_link.md,
03_messages.md), read and written, and the word of an opcode-table row (none has bits).
-/
namespace Sys2Proof

open Machine

/-! ## Words of the opcode table -/

/-- The command a word of the opcode table spells. No row of the table gives bits, so none does. -/
def decodeTableWord (_nbits _w : Nat) : Option Instr := none

/-! ## Fields -/

def boolBit (b : Bool) : BitVec 1 := BitVec.ofBool b

def bitAt {w : Nat} (v : BitVec w) (i : Nat) : Bool := v.getLsbD i

/-! ## Codes (R47, R85, R90, R92, R93, R95, R97) -/

def Cls.code : Cls → BitVec 3
  | .req => 0 | .wb => 1 | .snp => 2 | .mrq => 3 | .rsp => 4 | .dat => 5

def Cls.ofCode (c : BitVec 3) : Option Cls :=
  if c = 0 then some .req else if c = 1 then some .wb else if c = 2 then some .snp
  else if c = 3 then some .mrq else if c = 4 then some .rsp else if c = 5 then some .dat else none

def ReqOp.code : ReqOp → BitVec 4
  | .rds => 1 | .rdo => 2 | .rdc => 3 | .upg => 4 | .wrl => 5 | .wrp => 6
  | .atm => 8 | .rnc => 9 | .wnc => 0xA | .cure => 0xB

def ReqOp.ofCode (c : BitVec 4) : Option ReqOp :=
  if c = 1 then some .rds else if c = 2 then some .rdo else if c = 3 then some .rdc
  else if c = 4 then some .upg else if c = 5 then some .wrl else if c = 6 then some .wrp
  else if c = 8 then some .atm else if c = 9 then some .rnc else if c = 0xA then some .wnc
  else if c = 0xB then some .cure else none

/-- The opcodes that are data messages, Table 03-4. -/
def ReqOp.isData : ReqOp → Bool
  | .wrl | .wrp | .atm | .wnc => true
  | _ => false

def SnpOp.code : SnpOp → BitVec 4
  | .sns => 1 | .sni => 2 | .snc => 3 | .snf => 4

def SnpOp.ofCode (c : BitVec 4) : Option SnpOp :=
  if c = 1 then some .sns else if c = 2 then some .sni else if c = 3 then some .snc
  else if c = 4 then some .snf else none

def MrqOp.code : MrqOp → BitVec 4
  | .mrd => 1 | .mwr => 2 | .mat => 3

def MrqOp.ofCode (c : BitVec 4) : Option MrqOp :=
  if c = 1 then some .mrd else if c = 2 then some .mwr else if c = 3 then some .mat else none

def MrqOp.isData : MrqOp → Bool
  | .mrd => false
  | _ => true

def AnsOp.code : AnsOp → BitVec 4
  | .sri => 3 | .srs => 4 | .srf => 5 | .srm => 6 | .srd => 7

def AnsOp.ofCode (c : BitVec 4) : Option AnsOp :=
  if c = 3 then some .sri else if c = 4 then some .srs else if c = 5 then some .srf
  else if c = 6 then some .srm else if c = 7 then some .srd else none

/-- NST is used only in SRS, SRF and SRD; elsewhere it is reserved (R95). -/
def AnsOp.usesNst : AnsOp → Bool
  | .srs | .srf | .srd => true
  | _ => false

def DatOp.code : DatOp → BitVec 4
  | .dsh => 1 | .dow => 2 | .dfw => 3 | .dmm => 4

def DatOp.ofCode (c : BitVec 4) : Option DatOp :=
  if c = 1 then some .dsh else if c = 2 then some .dow else if c = 3 then some .dfw
  else if c = 4 then some .dmm else none

/-! ## Messages -/

/-- The class of a message (R47). -/
def Msg.cls : Msg → Cls
  | .req .. | .pmk .. => .req
  | .wb .. => .wb
  | .snp .. => .snp
  | .mrq .. => .mrq
  | .cmp .. | .nak .. | .ans .. | .mcp .. | .hnt .. => .rsp
  | .dat .. => .dat

/-- The slot prefix of a message (Table 03-2). -/
def Msg.hdr : Msg → Hdr
  | .req _ h _ _ | .pmk h _ _ | .wb _ h _ _ | .cmp h _ | .nak h _ _ _ | .mcp h _ _
  | .hnt h _ _ _ _ => h
  | .snp f => f.h
  | .mrq f _ => f.h
  | .ans _ f _ => f.h
  | .dat _ f _ => f.h

/-- Whether a message is a data message: one header slot and four data slots (R47). -/
def Msg.isData : Msg → Bool
  | .req op _ _ _ => op.isData
  | .wb .wbm _ _ _ => true
  | .mrq f _ => f.op.isData
  | .ans .srd _ _ => true
  | .dat .. => true
  | _ => false

/-- The line a data message carries. -/
def Msg.data : Msg → Line
  | .req _ _ _ d | .wb _ _ _ d | .mrq _ d | .ans _ _ d | .dat _ _ d => d
  | _ => 0

def Msg.withData (m : Msg) (d : Line) : Msg :=
  match m with
  | .req op h f _ => .req op h f d
  | .wb op h l _ => .wb op h l d
  | .mrq f _ => .mrq f d
  | .ans op f _ => .ans op f d
  | .dat op f _ => .dat op f d
  | m => m

/-- The opcode within the class (Table 03-2). -/
def Msg.opc : Msg → BitVec 4
  | .req op .. => op.code
  | .pmk .. => 7
  | .wb .wbm .. => 1
  | .wb .evc .. => 2
  | .snp f => f.op.code
  | .mrq f _ => f.op.code
  | .cmp .. => 1
  | .nak .. => 2
  | .ans op .. => op.code
  | .mcp .. => 8
  | .hnt .. => 9
  | .dat op .. => op.code

/-- Bits [36:0] of a slot, Table 03-2. -/
def prefixBits (h : Hdr) (op : BitVec 4) (c : BitVec 3) : BitVec 37 :=
  h.tid ++ h.dan ++ h.epoch ++ h.dom ++ op ++ c

/-- Bits [127:37] of a slot: Tables 03-5, 03-7, 03-9, 03-11 and 03-12, R89 and R90. -/
def Msg.bodyBits : Msg → BitVec 91
  | .req _ _ f _ =>
    boolBit f.tkv ++ f.ticket ++ 0#10 ++ f.asz ++ f.sub ++ f.ofs ++ f.laddr ++ f.stream
  | .pmk _ st mask => 0#21 ++ mask ++ st
  | .wb _ _ l _ => 0#39 ++ l ++ 0#6
  | .snp f => 0#28 ++ boolBit f.proxy ++ f.fmode ++ f.laddr ++ f.htag
  | .mrq f _ => 0#18 ++ boolBit f.poi ++ f.asz ++ f.sub ++ f.ofs ++ f.laddr ++ f.htag
  | .cmp _ gst => 0#89 ++ gst
  | .nak _ reason ticket tkv => 0#70 ++ boolBit tkv ++ ticket ++ reason
  | .ans _ f _ => 0#29 ++ f.nst ++ f.laddr ++ f.htag
  | .mcp _ l t => 0#31 ++ l ++ t
  | .hnt _ kind mbx st src => 0#69 ++ src ++ st ++ mbx ++ kind
  | .dat _ f _ => 0#27 ++ boolBit f.poi ++ boolBit f.res ++ f.gst ++ f.laddr ++ f.htag

/-- The control slot or header slot of a message (R79). -/
def encodeSlot (m : Msg) : BitVec 128 :=
  m.bodyBits ++ prefixBits m.hdr m.opc m.cls.code

/-- The slot prefix read back. -/
def slotHdr (w : BitVec 128) : Hdr :=
  { tid := w.extractLsb' 25 12, dan := w.extractLsb' 18 7, epoch := w.extractLsb' 10 8,
    dom := w.extractLsb' 7 3 }

def slotReqF (w : BitVec 128) : ReqF :=
  { tkv := bitAt w 127, ticket := w.extractLsb' 111 16, asz := w.extractLsb' 99 2,
    sub := w.extractLsb' 95 4, ofs := w.extractLsb' 89 6, laddr := w.extractLsb' 43 46,
    stream := w.extractLsb' 37 6 }

def slotLaddr (w : BitVec 128) : LAddr := w.extractLsb' 51 46

def slotHtag (w : BitVec 128) : BitVec 14 := w.extractLsb' 37 14

/-- The message a control slot (`data` false) or a data-header slot (`data` true) spells, its line all
zero. None where the class or the opcode is reserved, or the opcode belongs in the other slot kind:
rows 1 and 2 of Table 03-3. -/
def decodeSlot (data : Bool) (w : BitVec 128) : Option Msg :=
  let op : BitVec 4 := w.extractLsb' 3 4
  let h := slotHdr w
  let m : Option Msg :=
    match Cls.ofCode (w.extractLsb' 0 3) with
    | none => none
    | some .req =>
      if op = 7 then some (.pmk h (w.extractLsb' 37 6) (w.extractLsb' 43 64))
      else (ReqOp.ofCode op).map fun o => .req o h (slotReqF w) 0
    | some .wb =>
      if op = 1 then some (.wb .wbm h (w.extractLsb' 43 46) 0)
      else if op = 2 then some (.wb .evc h (w.extractLsb' 43 46) 0) else none
    | some .snp => (SnpOp.ofCode op).map fun o =>
        .snp { h, op := o, proxy := bitAt w 99, fmode := w.extractLsb' 97 2, laddr := slotLaddr w,
               htag := slotHtag w }
    | some .mrq => (MrqOp.ofCode op).map fun o =>
        .mrq { h, op := o, poi := bitAt w 109, asz := w.extractLsb' 107 2,
               sub := w.extractLsb' 103 4, ofs := w.extractLsb' 97 6, laddr := slotLaddr w,
               htag := slotHtag w } 0
    | some .rsp =>
      if op = 1 then some (.cmp h (w.extractLsb' 37 2))
      else if op = 2 then
        some (.nak h (w.extractLsb' 37 4) (w.extractLsb' 41 16) (bitAt w 57))
      else if op = 8 then some (.mcp h (slotLaddr w) (slotHtag w))
      else if op = 9 then
        some (.hnt h (w.extractLsb' 37 4) (w.extractLsb' 41 4) (w.extractLsb' 45 8)
          (w.extractLsb' 53 6))
      else (AnsOp.ofCode op).map fun o =>
        .ans o { h, nst := if o.usesNst then w.extractLsb' 97 2 else 0, laddr := slotLaddr w,
                 htag := slotHtag w, poi := false } 0
    | some .dat => (DatOp.ofCode op).map fun o =>
        .dat o { h, poi := bitAt w 100, res := bitAt w 99, gst := w.extractLsb' 97 2,
                 laddr := slotLaddr w, htag := slotHtag w } 0
  match m with
  | some m => if m.isData = data then some m else none
  | none => none

/-- The 16 bytes of data slot i (0 to 3) of a line (R47). -/
def lineChunk (d : Line) (i : Nat) : BitVec 128 := d.extractLsb' (128 * i) 128

/-- A line with the 16 bytes of data slot i replaced. -/
def setChunk (d : Line) (i : Nat) (c : BitVec 128) : Line :=
  (d &&& ~~~((BitVec.allOnes 128).setWidth 512 <<< (128 * i)))
    ||| (c.setWidth 512 <<< (128 * i))

/-- "Reserved value of a defined field in a message of a class other than REQ" (Table 03-3, R98):
CMP GST 0b01 and 0b10, NAK reasons outside Table 06-1, MRQ sizes and operations outside R93, and the
GST that R98 excludes. -/
def Msg.reservedValue : Msg → Bool
  | .cmp _ gst => gst = 1 || gst = 2
  | .nak _ reason _ _ => reason = 0 || reason.toNat > 0xA
  | .mrq f _ =>
    match f.op with
    | .mat => f.asz = 3 || f.sub.toNat > 9
    | _ => f.sub.toNat > 6
  | .dat .dsh f _ => f.gst = 3
  | .dat .dow f _ => f.gst ≠ 3
  | .dat .dmm f _ => f.gst ≠ 0
  | _ => false

/-! ## Link-control slots (R64, Table 02-8) -/

def encodeCtl : LinkCtl → BitVec 128
  | .cap c =>
    0#72 ++ 0#3 ++ c.sport ++ c.hubn ++ 0#6 ++ c.ways ++ c.sets ++ 0#1 ++ boolBit c.pwic
      ++ boolBit c.fcap ++ boolBit c.matc ++ boolBit c.mem ++ c.role ++ c.ver ++ 0#8 ++ 0x01#8
  | .capAck r p => 0#99 ++ p ++ r ++ 0#8 ++ 0x02#8
  | .assign a =>
    0#85 ++ a.tsnp ++ a.tans ++ 0#1 ++ a.epoch ++ boolBit a.var ++ boolBit a.mir ++ a.dan
      ++ a.dom ++ 0#8 ++ 0x03#8
  | .release d => 0#109 ++ d ++ 0#8 ++ 0x04#8
  | .pwi f => 0#92 ++ f.lead ++ f.lvl ++ f.int ++ 0#8 ++ 0x05#8
  | .linkDown r => 0#104 ++ r ++ 0x01#8 ++ 0x06#8

/-- A link-control slot read, or none where R64 makes it a reserved encoding. `span` tells the kind of
port, and with it which types its far end may send. -/
def decodeCtl (span : Bool) (w : BitVec 128) : Option LinkCtl :=
  let ty : BitVec 8 := w.extractLsb' 0 8
  if bitAt w 8 ≠ (ty = 6) then none
  else if ty = 1 then
    some (.cap { ver := w.extractLsb' 16 8, role := w.extractLsb' 24 3, mem := bitAt w 27,
                 matc := bitAt w 28, fcap := bitAt w 29, pwic := bitAt w 30,
                 sets := w.extractLsb' 32 4, ways := w.extractLsb' 36 6,
                 hubn := w.extractLsb' 48 3, sport := w.extractLsb' 51 2 })
  else if ty = 2 ∧ span then some (.capAck (w.extractLsb' 16 8) (w.extractLsb' 24 5))
  else if ty = 3 ∧ span then
    some (.assign { dom := w.extractLsb' 16 3, dan := w.extractLsb' 19 7, mir := bitAt w 26,
                    var := bitAt w 27, epoch := w.extractLsb' 28 8, tans := w.extractLsb' 37 3,
                    tsnp := w.extractLsb' 40 3 })
  else if ty = 4 ∧ span then some (.release (w.extractLsb' 16 3))
  else if ty = 5 ∧ !span then
    some (.pwi { int := w.extractLsb' 16 4, lvl := w.extractLsb' 20 4, lead := w.extractLsb' 24 12 })
  else if ty = 6 then some (.linkDown (w.extractLsb' 16 8))
  else none

/-! ## Flits (R44, R45, R48, R55) -/

def RawFlit.fk (f : RawFlit) : BitVec 2 := f.dlf.extractLsb' 22 2
def RawFlit.rpq (f : RawFlit) : Bool := bitAt f.dlf 21
def RawFlit.ackv (f : RawFlit) : Bool := bitAt f.dlf 20
def RawFlit.ack (f : RawFlit) : BitVec 10 := f.dlf.extractLsb' 10 10
def RawFlit.seq (f : RawFlit) : BitVec 10 := f.dlf.extractLsb' 0 10
def RawFlit.pm (f : RawFlit) : BitVec 2 := f.hdr.extractLsb' 88 2
def RawFlit.cr (f : RawFlit) (i : Nat) : BitVec 16 := f.hdr.extractLsb' (56 + 16 * i) 16
def RawFlit.kind (f : RawFlit) (i : Nat) : BitVec 4 := f.hdr.extractLsb' (4 * i) 4

/-- A credit return's fields (Table 02-5). -/
def crValid (c : BitVec 16) : Bool := bitAt c 15
def crCls (c : BitVec 16) : Nat := (c.extractLsb' 12 3).toNat
def crDom (c : BitVec 16) : Nat := (c.extractLsb' 9 3).toNat
def crCnt (c : BitVec 16) : Nat := (c.extractLsb' 0 9).toNat

def encodeCr : Option CreditRet → BitVec 16
  | none => 0
  | some c => 1#1 ++ BitVec.ofNat 3 c.cls ++ BitVec.ofNat 3 c.dom ++ BitVec.ofNat 9 c.cnt

/-- The kind code of a slot on transmit (Table 02-4). -/
def Machine.TxSlot.kind : TxSlot → BitVec 4
  | .empty => 0
  | .ctl _ => 1
  | .start tag m => if m.isData then 3 + BitVec.ofNat 4 tag else 2
  | .data tag _ _ => 8 + BitVec.ofNat 4 tag

def Machine.TxSlot.bits : TxSlot → BitVec 128
  | .empty => 0
  | .ctl c => encodeCtl c
  | .start _ m => encodeSlot m
  | .data _ _ c => c

/-- The KIND field of Table 02-3, slot 0 in bits [3:0]. -/
def kindBits : List TxSlot → BitVec 56
  | [] => 0
  | s :: rest => (kindBits rest <<< 4) ||| (Machine.TxSlot.kind s).setWidth 56

/-- Bytes 12 to 235 of a flit: slot i in bytes 12 + 16i to 27 + 16i (R44). -/
def slotArea (l : List (BitVec 128)) : BitVec 1792 :=
  (List.range 14).foldl (fun a i => a ||| ((l[i]?).getD 0).setWidth 1792 <<< (128 * i)) 0

/-- Bytes 0 to 241 of a flit, over which its CRC goes: header, slots, data-link field (R44). -/
def flitBody (f : RawFlit) : BitVec 1936 := f.dlf ++ slotArea f.slots ++ f.hdr

/-- The 256 bytes of a flit, byte n in bits [8n+7:8n]: the CRC in bytes 242 to 249, the FEC in bytes
250 to 255 (R44, R6). -/
def flitBits (f : RawFlit) : BitVec 2048 := f.fec ++ f.crc ++ flitBody f

/-- The parts of 256 bytes, with what the checks of R51 found in them. -/
def flitOf (crcOk : Bool) (fecCorr : Nat) (w : BitVec 2048) : RawFlit :=
  { crcOk, fecCorr, hdr := w.extractLsb' 0 96,
    slots := (List.range 14).map fun i => w.extractLsb' (96 + 128 * i) 128,
    dlf := w.extractLsb' 1888 48, crc := w.extractLsb' 1936 64, fec := w.extractLsb' 2000 48 }

/-- A flit with its CRC and then its FEC put in place. -/
def sealFlit (f : RawFlit) : RawFlit :=
  let crc := Config.flitCrc (flitBody f)
  { f with crc, fec := Config.flitFec (crc ++ flitBody f) }

/-- The flit as the lanes carry it (R44, R45, R48). -/
def encodeFlit (f : TxFlit) : RawFlit :=
  sealFlit
    { crcOk := true, fecCorr := 0,
      dlf := 0#24 ++ (if f.idle then 1#2 else 0#2) ++ boolBit f.rpq ++ boolBit f.ackv ++ f.ack
        ++ (if f.idle then 0 else f.seq),
      hdr := if f.idle then 0 else
        0#6 ++ f.pm ++ encodeCr (f.crs[1]?) ++ encodeCr (f.crs[0]?) ++ kindBits f.slots,
      slots := if f.idle then List.replicate 14 0 else f.slots.map Machine.TxSlot.bits }

/-! ## Home tags and tickets (R83, Table 03-5) -/

def mkHtag (hub sl t : Nat) : BitVec 14 :=
  BitVec.ofNat 3 hub ++ BitVec.ofNat 5 sl ++ BitVec.ofNat 6 t

def htagHub (h : BitVec 14) : Nat := (h.extractLsb' 11 3).toNat
def htagSlice (h : BitVec 14) : Nat := (h.extractLsb' 6 5).toNat
def htagTracker (h : BitVec 14) : Nat := (h.extractLsb' 0 6).toNat

def mkTicket (hub sl t place : Nat) : BitVec 16 :=
  BitVec.ofNat 3 hub ++ BitVec.ofNat 5 sl ++ BitVec.ofNat 6 t ++ BitVec.ofNat 2 place

def ticketHub (h : BitVec 16) : Nat := (h.extractLsb' 13 3).toNat
def ticketSlice (h : BitVec 16) : Nat := (h.extractLsb' 8 5).toNat
def ticketTracker (h : BitVec 16) : Nat := (h.extractLsb' 2 6).toNat
def ticketPlace (h : BitVec 16) : Nat := (h.extractLsb' 0 2).toNat

end Sys2Proof
end

