-- ==== Sys2Proof/Machine/Tbl.lean ====
section
/-!
DEFINITION. Tables with a default, sparse RAMs in canonical form, and saturating counters.
-/
namespace Sys2Proof.Machine

/-- The value at key k: the first entry listed for it, or the default d. -/
def tget {α : Type} (d : α) : Tbl α → Nat → α
  | [], _ => d
  | (k', v) :: rest, k => if k' = k then v else tget d rest k

/-- The table with v at key k: the first entry for k replaced, or a new entry at the end. -/
def tset {α : Type} : Tbl α → Nat → α → Tbl α
  | [], k, v => [(k, v)]
  | (k', v') :: rest, k, v => if k' = k then (k, v) :: rest else (k', v') :: tset rest k v

/-- The table with the entries that satisfy f dropped, so that their keys read the default. -/
def tdrop {α : Type} (t : Tbl α) (f : Nat → α → Bool) : Tbl α :=
  t.filter fun e => !f e.1 e.2

/-- Every listed entry rewritten by f. -/
def tmap {α : Type} (t : Tbl α) (f : Nat → α → α) : Tbl α :=
  t.map fun e => (e.1, f e.1 e.2)

/-! ## RAMs: keys strictly rising, no entry equal to the default (R387, R430) -/

/-- What an unlisted address of the NVM or of a RAM reads as (log 10). -/
def ramGet {w : Nat} : List (Nat × BitVec w) → Nat → BitVec w
  | [], _ => 0
  | (k', v) :: rest, k => if k' = k then v else ramGet rest k

/-- A write that keeps the canonical form. -/
def ramSet {w : Nat} : List (Nat × BitVec w) → Nat → BitVec w → List (Nat × BitVec w)
  | [], k, v => if v = 0 then [] else [(k, v)]
  | (k', v') :: rest, k, v =>
    if k < k' then (if v = 0 then (k', v') :: rest else (k, v) :: (k', v') :: rest)
    else if k = k' then (if v = 0 then rest else (k, v) :: rest)
    else (k', v') :: ramSet rest k v

/-- Every key of m is above k. -/
def ramAbove {w : Nat} (k : Nat) (m : List (Nat × BitVec w)) : Bool :=
  m.all fun e => decide (k < e.1)

/-- The canonical form: keys strictly rising, no entry zero. -/
def ramWf {w : Nat} : List (Nat × BitVec w) → Bool
  | [] => true
  | (k, v) :: rest => decide (v ≠ 0) && ramAbove k rest && ramWf rest

/-- Bytes written from address k upward. -/
def ramSetMany {w : Nat} (m : List (Nat × BitVec w)) (k : Nat) : List (BitVec w) → List (Nat × BitVec w)
  | [] => m
  | v :: rest => ramSetMany (ramSet m k v) (k + 1) rest

/-- n values read from address k upward. -/
def ramRead {w : Nat} (m : List (Nat × BitVec w)) (k n : Nat) : List (BitVec w) :=
  (List.range n).map fun i => ramGet m (k + i)

/-! ## Counters -/

/-- n + m, saturating at the largest value of a w-bit counter. -/
def satAdd (w n m : Nat) : Nat := min (n + m) (2 ^ w - 1)

/-- A 32-bit counter one higher, saturating (R76, R255, R328). -/
def bump (n : Nat) : Nat := satAdd 32 n 1

/-! ## Little-endian bytes (R6) -/

/-- The n low bytes of v, byte 0 first. -/
def toBytes (n v : Nat) : List Byte :=
  (List.range n).map fun i => BitVec.ofNat 8 (v >>> (8 * i))

/-- The number whose bytes are bs, byte 0 first. -/
def ofBytes : List Byte → Nat
  | [] => 0
  | b :: rest => b.toNat + 256 * ofBytes rest

/-- n bytes of bs from byte k, zero past its end. -/
def bytesAt (bs : List Byte) (k n : Nat) : List Byte :=
  (List.range n).map fun i => (bs[k + i]?).getD 0

/-- The n-byte little-endian number of bs at byte k. -/
def numAt (bs : List Byte) (k n : Nat) : Nat := ofBytes (bytesAt bs k n)

/-- Field [hi:lo] of a number. -/
def fld (v hi lo : Nat) : Nat := (v >>> lo) % 2 ^ (hi + 1 - lo)

/-- Bit i of a number. -/
def nbit (v i : Nat) : Bool := v.testBit i

/-- A flag placed at bit i. -/
def flag (b : Bool) (i : Nat) : Nat := if b then 2 ^ i else 0

/-- Field [hi:lo] of v replaced by x. -/
def setFld (v hi lo x : Nat) : Nat :=
  v - (fld v hi lo) * 2 ^ lo + (x % 2 ^ (hi + 1 - lo)) * 2 ^ lo

end Sys2Proof.Machine
end

