-- ==== Sys2Proof/Machine/Flags.lean ====
section
/-!
DEFINITION. The codes of the hub: SECDED check bits and the checker (12 R332), parity, and the CRCs
(R277, R446, R456).
-/
namespace Sys2Proof.Machine

/-! ## SECDED (Table 12-2) -/

/-- Masks of the (39,32) code. -/
def masks39 : List Nat :=
  [0x2DA65CB7, 0x56AAAD5B, 0x9B33366D, 0xE3C3C78E, 0x03FC07F0, 0x03FFF800, 0xFC000000]

/-- Masks of the (47,40) code. -/
def masks47 : List Nat :=
  [0xD32DA65CB7, 0x5556AAAD5B, 0x999B33366D, 0xE1E3C3C78E, 0xFE03FC07F0, 0x0003FFF800,
   0xFFFC000000]

/-- Masks of the (48,41) code. -/
def masks48 : List Nat :=
  [0x0D32DA65CB7, 0x15556AAAD5B, 0x1999B33366D, 0x1E1E3C3C78E, 0x1FE03FC07F0, 0x00003FFF800,
   0x1FFFC000000]

/-- Masks of the (64,56) code. -/
def masks64 : List Nat :=
  [0x04225844B12CB7, 0x0844A88952555B, 0x10893112649A6D, 0x2111C22388E38E, 0x421E043C0F03F0,
   0x83E007C00FFC00, 0xFC0007FFF00000, 0xFFFFF800000000]

/-- Masks of the (72,64) code. -/
def masks72 : List Nat :=
  [0xDF04225844B12CB7, 0xEF0844A88952555B, 0xF710893112649A6D, 0x7B2111C22388E38E,
   0xBD421E043C0F03F0, 0x3E83E007C00FFC00, 0xC0FC0007FFF00000, 0x00FFFFF800000000]

/-- The XOR of the low n bits of v. -/
def parity : Nat → Nat → Bool
  | 0, _ => false
  | n + 1, v => (v % 2 == 1) != parity n (v / 2)

/-- Check bits of data d, check bit j from mask j, the first mask's in bit 0. -/
def chkBits (d : Nat) : List Nat → Nat
  | [] => 0
  | m :: rest => (if parity 64 (d &&& m) then 1 else 0) + 2 * chkBits d rest

/-- The column of data bit i: its bit j is bit i of mask j (R332). -/
def column (i : Nat) : List Nat → Nat
  | [] => 0
  | m :: rest => (if m.testBit i then 1 else 0) + 2 * column i rest

/-- What a checker answers (R332): clean, a corrected data word, or uncorrectable; with the
syndrome. -/
inductive Chk where
  | clean
  | corrected (data : Nat) (syn : Nat)
  | bad (syn : Nat)
deriving DecidableEq, Repr

/-- The position of the data bit whose column is s, among bits 0 to n - 1. -/
def columnOf (ms : List Nat) (s : Nat) : Nat → Option Nat
  | 0 => none
  | n + 1 => if column n ms = s then some n else columnOf ms s n

/-- s has exactly one bit set among bits 0 to n - 1 (and none above). -/
def oneBit (s : Nat) : Nat → Bool
  | 0 => false
  | n + 1 => s == 2 ^ n || oneBit s n

/-- The checker of R332 over n data bits d with stored check bits c. -/
def check (ms : List Nat) (n d c : Nat) : Chk :=
  let s := c ^^^ chkBits d ms
  if s = 0 then .clean
  else match columnOf ms s n with
    | some i => .corrected (d ^^^ 2 ^ i) s
    | none => if oneBit s ms.length then .corrected d s else .bad s

/-- A 39-bit code word of a 32-bit word (MEM 0x7, 0x8). -/
def enc39 (d : BitVec 32) : BitVec 39 := BitVec.ofNat 7 (chkBits d.toNat masks39) ++ d

/-- A 47-bit directory-cache tag word (R125). -/
def enc47 (d : BitVec 40) : BitVec 47 := BitVec.ofNat 7 (chkBits d.toNat masks47) ++ d

/-- A 48-bit Strainer entry (R129). -/
def enc48 (d : BitVec 41) : BitVec 48 := BitVec.ofNat 7 (chkBits d.toNat masks48) ++ d

/-- A directory word with its check bits (R117). -/
def enc64 (d : BitVec 56) : BitVec 64 := BitVec.ofNat 8 (chkBits d.toNat masks64) ++ d

def chk39 (w : BitVec 39) : Chk := check masks39 32 (fld w.toNat 31 0) (fld w.toNat 38 32)
def chk47 (w : BitVec 47) : Chk := check masks47 40 (fld w.toNat 39 0) (fld w.toNat 46 40)
def chk48 (w : BitVec 48) : Chk := check masks48 41 (fld w.toNat 40 0) (fld w.toNat 47 41)
def chk64 (w : BitVec 64) : Chk := check masks64 56 (fld w.toNat 55 0) (fld w.toNat 63 56)

/-- A valid-array group with its even parity bit (Table 12-1). -/
def encGroup (v : BitVec 16) : BitVec 17 := BitVec.ofBool (parity 16 v.toNat) ++ v

/-- An owner copy: V in bit 0, DOM in bits [3:1], even parity in bit 4 (R333). -/
def encOwner (v : Bool) (d : Nat) : BitVec 5 :=
  let x := (if v then 1 else 0) + 2 * (d % 8)
  BitVec.ofNat 5 (x + (if parity 4 x then 16 else 0))

/-- Even parity over n bits holds. -/
def evenOk (n v : Nat) : Bool := !parity n v

/-! ## CRCs -/

/-- One bit of a reflected CRC step. -/
def crcStepR (poly : BitVec 32) : Nat → BitVec 32 → BitVec 32
  | 0, c => c
  | n + 1, c => crcStepR poly n (if c.getLsbD 0 then (c >>> 1) ^^^ poly else c >>> 1)

/-- A reflected CRC over bytes. -/
def crcR (poly : BitVec 32) (c : BitVec 32) : List Byte → BitVec 32
  | [] => c
  | b :: rest => crcR poly (crcStepR poly 8 (c ^^^ b.setWidth 32)) rest

/-- CRC-32C with the parameters of R277: polynomial 0x1EDC_6F41, reflected, initial value and final
XOR all ones. -/
def crc32c (bs : List Byte) : BitVec 32 := ~~~(crcR 0x82F63B78#32 0xFFFFFFFF#32 bs)

/-- The SMBus PEC, CRC-8 with polynomial 0x07, most significant bit first (R466). -/
def pecStep : Nat → BitVec 8 → BitVec 8
  | 0, c => c
  | n + 1, c => pecStep n (if c.getLsbD 7 then (c <<< 1) ^^^ 0x07#8 else c <<< 1)

/-- The PEC of bytes that follow a PEC of c. -/
def pecFrom (c : BitVec 8) : List Byte → BitVec 8
  | [] => c
  | b :: rest => pecFrom (pecStep 8 (c ^^^ b)) rest

def pec (bs : List Byte) : Byte := pecFrom 0 bs

end Sys2Proof.Machine
end

