-- ==== Sys2Proof/Machine/Operands.lean ====
section
/-!
DEFINITION. Operand forms: access to the parts of State, addresses (region, home hub, slice, directory
set, directory address: 04_tracking.md), and bytes of a line.
-/
namespace Sys2Proof.Machine

/-! ## Parts of State -/

def State.port (s : State) (p : Nat) : Port := tget {} s.ports p
def State.setPort (s : State) (p : Nat) (v : Port) : State := { s with ports := tset s.ports p v }
def State.updPort (s : State) (p : Nat) (f : Port → Port) : State := s.setPort p (f (s.port p))
def State.updLink (s : State) (p : Nat) (f : Link → Link) : State :=
  s.updPort p fun q => { q with link := f q.link }
def State.updTx (s : State) (p : Nat) (f : Tx → Tx) : State :=
  s.updPort p fun q => { q with tx := f q.tx }
def State.updRx (s : State) (p : Nat) (f : Rx → Rx) : State :=
  s.updPort p fun q => { q with rx := f q.rx }
def State.updMem (s : State) (p : Nat) (f : Member → Member) : State :=
  s.updPort p fun q => { q with mem := f q.mem }
def State.updFore (s : State) (p : Nat) (f : Forecast → Forecast) : State :=
  s.updPort p fun q => { q with fore := f q.fore }

def State.dom (s : State) (d : Nat) : Dom := tget {} s.doms d
def State.setDom (s : State) (d : Nat) (v : Dom) : State := { s with doms := tset s.doms d v }
def State.updDom (s : State) (d : Nat) (f : Dom → Dom) : State := s.setDom d (f (s.dom d))

def State.mb (s : State) (m : Nat) : Mailbox := tget {} s.mbs m
def State.setMb (s : State) (m : Nat) (v : Mailbox) : State := { s with mbs := tset s.mbs m v }
def State.updMb (s : State) (m : Nat) (f : Mailbox → Mailbox) : State := s.setMb m (f (s.mb m))

def State.crcu (s : State) (u : Nat) : Crc := tget {} s.crc u
def State.setCrc (s : State) (u : Nat) (v : Crc) : State := { s with crc := tset s.crc u v }

def State.updHome (s : State) (f : Home → Home) : State := { s with home := f s.home }
def State.updArr (s : State) (f : Arrays → Arrays) : State := { s with arr := f s.arr }
def State.updInteg (s : State) (f : Integ → Integ) : State := { s with integ := f s.integ }
def State.updKt (s : State) (f : Kettle → Kettle) : State := { s with kt := f s.kt }
def State.updFlt (s : State) (f : Collector → Collector) : State := { s with flt := f s.flt }
def State.updFw (s : State) (f : Firmware → Firmware) : State := { s with fw := f s.fw }
def State.updSmb (s : State) (f : Smb → Smb) : State := { s with smb := f s.smb }

/-- The next free value of the model (log 3), and the state that has used it. -/
def State.nextFree (s : State) : BitVec 64 × State :=
  (Config.freeValue s.free, { s with free := s.free + 1 })

/-- The numbers below n, ascending. -/
def upto (n : Nat) : List Nat := List.range n

def agentPorts : List Nat := upto 16
def spanPorts : List Nat := [16, 17, 18, 19]
def allPorts : List Nat := upto 20
def allDoms : List Nat := upto 8

def LinkSt.isUp : LinkSt → Bool
  | .l0 | .simmer | .recovery => true
  | _ => false

/-- The port is up: its last training reached L0 and it has not gone Down. -/
def State.up (s : State) (p : Nat) : Bool := (s.port p).link.st.isUp

/-- The hub clock runs (Table 10-2): not in Steep or Dormant, not in the Grave state, not in reset. -/
def State.clocked (s : State) : Bool :=
  s.board.held == .none && !s.flt.grave && s.kt.st != .steep && s.kt.st != .dormant

/-- The hub is out of reset and not in the Grave state (R372, R479). -/
def State.alive (s : State) : Bool := s.board.held == .none && !s.flt.grave

def State.hubId (s : State) : Nat := s.board.straps.hubId.toNat
def State.hubs (s : State) : Nat := s.cfg.eff.n

/-! ## Domains and the agent map (R114) -/

def DomSt.code : DomSt → Nat
  | .none => 0 | .created => 1 | .started => 2 | .quiescing => 3 | .quiesced => 4 | .down => 5

/-- "A domain is started in the states STARTED, QUIESCING and QUIESCED" (R138). -/
def DomSt.inService : DomSt → Bool
  | .started | .quiescing | .quiesced => true
  | _ => false

def State.agent (s : State) (d dan : Nat) : Option Agent := tget none (s.dom d).map dan

/-- The agent port of this hub at which a DAN of the domain attaches. -/
def State.agentPort (s : State) (d dan : Nat) : Option Nat :=
  match s.agent d dan with
  | some a => if a.hub = s.hubId then a.port else none
  | none => none

/-- DANs of a domain that satisfy f, ascending. -/
def State.dans (s : State) (d : Nat) (f : Agent → Bool) : List Nat :=
  (upto 128).filter fun n => match s.agent d n with
    | some a => f a
    | none => false

/-- Mirrored agents of the domain attached to this hub. -/
def State.localMirrored (s : State) (d : Nat) : List Nat :=
  s.dans d fun a => a.kind == .mirrored && a.hub == s.hubId

/-- Other hubs to which a mirrored agent of the domain attaches (R140, R274). -/
def State.mirrorHubs (s : State) (d : Nat) : List Nat :=
  allDoms.filter fun h => h != s.hubId
    && !(s.dans d fun a => a.kind == .mirrored && a.hub == h).isEmpty

/-- Ports of this hub that belong to a domain. -/
def State.portsOf (s : State) (d : Nat) : List Nat :=
  agentPorts.filter fun p => (s.port p).mem.dom == some d

/-- The domain that the CRCU_ASSIGN of a set of items gives a CRC unit to (Table 15-5). -/
def crcOwnerOf (c : Items) (u : Nat) : Option Nat :=
  let b := fld c.crcu.toNat (8 * u + 7) (8 * u)
  if nbit b 7 then some (b % 8) else none

/-- The domain that the configuration in force gives a CRC unit to. -/
def State.crcOwner (s : State) (u : Nat) : Option Nat := crcOwnerOf s.cfg.eff u

/-! ## Addresses -/

/-- The byte address of a line, with an offset. -/
def lineAddr (l : LAddr) (ofs : Nat) : Nat := l.toNat * 64 + ofs

def xorBits (a : Nat) : List Nat → Bool
  | [] => false
  | i :: rest => (a.testBit i) != xorBits a rest

def bitsToNat : List Bool → Nat
  | [] => 0
  | b :: rest => (if b then 1 else 0) + 2 * bitsToNat rest

/-- HH[2:0] of Table 04-9. -/
def homeHash (a : Nat) : Nat :=
  bitsToNat [xorBits a [6, 17, 20, 34, 42, 45], xorBits a [7, 18, 21, 35, 43, 46],
    xorBits a [8, 19, 22, 36, 44, 47]]

/-- SL[3:0] of Table 04-9. -/
def sliceHash (a : Nat) : Nat :=
  bitsToNat [xorBits a [9, 13, 24, 30, 38, 48], xorBits a [10, 14, 25, 31, 39, 49],
    xorBits a [11, 15, 26, 32, 40, 50], xorBits a [12, 16, 27, 33, 41, 51]]

/-- The home hub of a line (R141): the low log2(N) bits of HH; N is 1, 2, 4 or 8. -/
def State.homeHub (s : State) (l : LAddr) : Nat := homeHash (lineAddr l 0) % s.hubs

/-- IDX of R124. -/
def dirIdx (l : LAddr) : Nat := fld (lineAddr l 0) 16 6 ^^^ fld (lineAddr l 0) 27 17

/-- ATAG of R124: address bits [51:17]. -/
def dirTag (l : LAddr) : Nat := fld (lineAddr l 0) 51 17

/-- The directory-cache set of a line. -/
def dirSet (l : LAddr) : Nat := 2048 * sliceHash (lineAddr l 0) + dirIdx l

/-- Slice map (R142): logical slice k serves at this physical slice. -/
def State.sliceMap (s : State) (k : Nat) : Option Nat := tget (some k) s.home.smap k

/-- Logical slices that have a physical slice, ascending (R355). -/
def State.mapped (s : State) : List Nat := (upto 16).filter fun k => (s.sliceMap k).isSome

/-- The physical slice that serves a line (R142, R355). -/
def State.physSlice (s : State) (l : LAddr) : Option Nat :=
  let k := sliceHash (lineAddr l 0)
  match s.sliceMap k with
  | some p => some p
  | none =>
    if s.home.spread.contains k then
      match s.mapped[dirIdx l % s.mapped.length]? with
      | some k' => s.sliceMap k'
      | none => none
    else none

/-! ## Regions (R136, R137) -/

/-- Region types, Table 04-8. -/
inductive RType where
  | co | nc | ds | dr | so
deriving DecidableEq, Repr

def RType.ofCode (c : Nat) : Option RType :=
  match c with
  | 0 => some .co | 1 => some .nc | 2 => some .ds | 3 => some .dr | 4 => some .so | _ => none

def rgValid (e : BitVec 128) : Bool := e.getLsbD 0
def rgType (e : BitVec 128) : Nat := fld e.toNat 3 1
def rgDom (e : BitVec 128) : Nat := fld e.toNat 6 4
def rgTgt (e : BitVec 128) : Nat := fld e.toNat 14 8
def rgBase (e : BitVec 128) : Nat := fld e.toNat 63 28
def rgLimit (e : BitVec 128) : Nat := fld e.toNat 127 92

/-- An address of domain d matches a region entry (R137). -/
def rgMatch (e : BitVec 128) (d a : Nat) : Bool :=
  rgValid e && rgDom e == d && decide (rgBase e ≤ fld a 51 16) && decide (fld a 51 16 ≤ rgLimit e)

/-- Where the platform aperture and, above it, the domain aperture begin (R381). -/
def platBase : Nat := 0xFFFFFFFFC0000
def domBase : Nat := 0xFFFFFFFFF0000

/-- The address lies in one of the two apertures. -/
def inAperture (a : Nat) : Bool := decide (platBase ≤ a)

/-- The region entry in effect that decides an address: the lowest index that matches. An aperture address
matches none (R381). -/
def State.regionEntry (s : State) (d a : Nat) : Option (BitVec 128) :=
  if inAperture a then none
  else ((upto 64).map fun i => tget 0 s.cfg.eff.region i).find? fun e => rgMatch e d a

/-- Type and target of an address. -/
def State.region (s : State) (d a : Nat) : Option (RType × Nat) :=
  match s.regionEntry d a with
  | some e => (RType.ofCode (rgType e)).map fun t => (t, rgTgt e)
  | none => none

/-! ## The directory region (R121) -/

/-- Bytes of the tracked window; twLog is 0 for none, else log2 of its size. -/
def Params.twSize (p : Params) : Nat := if p.twLog = 0 then 0 else 2 ^ p.twLog

/-- The byte address of a line's directory word. -/
def dirAddr (p : Params) (l : LAddr) : Nat :=
  p.dirBase.toNat + ((lineAddr l 0 - p.twBase.toNat) / 64) * 8

/-! ## Bytes of a line -/

def lineByte (d : Line) (i : Nat) : Byte := d.extractLsb' (8 * i) 8

/-- Bits of a byte mask widened to bits of a line. -/
def maskBits (m : BitVec 64) : Nat → Line
  | 0 => 0
  | n + 1 =>
    (if m.getLsbD n then (0xFF#512 <<< (8 * n)) else 0) ||| maskBits m n

/-- `new` where the mask has a 1, `old` elsewhere (Table 05-5, the merge of PMK + WRP). -/
def mergeLine (m : BitVec 64) (new old : Line) : Line :=
  (new &&& maskBits m 64) ||| (old &&& ~~~(maskBits m 64))

/-- n bytes from byte ofs. -/
def rangeMask (ofs n : Nat) : BitVec 64 := BitVec.ofNat 64 ((2 ^ n - 1) * 2 ^ ofs)

/-- A line of free values (log 3). -/
def freeLine (n : Nat) : Line :=
  Config.freeValue (n + 7) ++ Config.freeValue (n + 6) ++ Config.freeValue (n + 5)
    ++ Config.freeValue (n + 4) ++ Config.freeValue (n + 3) ++ Config.freeValue (n + 2)
    ++ Config.freeValue (n + 1) ++ Config.freeValue n

/-- The 64 bytes of a data message whose operand lies in the bytes of m: the spec states no others, so they
are free values (log 35). -/
def State.fill (s : State) (m : BitVec 64) (d : Line) : Line × State :=
  (mergeLine m d (freeLine s.free), { s with free := s.free + 8 })

/-- An n-byte number read at byte ofs of a line. -/
def lineNum (d : Line) (ofs n : Nat) : Nat := (d.toNat >>> (8 * ofs)) % 2 ^ (8 * n)

/-- A line of zeros with an n-byte number at byte ofs. -/
def numLine (v ofs n : Nat) : Line := BitVec.ofNat 512 ((v % 2 ^ (8 * n)) * 2 ^ (8 * ofs))

/-- A line whose n bytes at ofs are replaced by a number. -/
def putNum (d : Line) (ofs n v : Nat) : Line :=
  mergeLine (rangeMask ofs n) (numLine v ofs n) d

/-- Valid bytes that form one naturally aligned block of 2^k bytes: k and its offset (R237). -/
def alignedBlock (m : BitVec 64) : Option (Nat × Nat) :=
  ((upto 7).flatMap fun k => (upto (64 / 2 ^ k)).map fun i => (k, i * 2 ^ k)).find?
    fun e => m == rangeMask e.2 (2 ^ e.1)

/-! ## Atomic operations (R209, Table 07-1) -/

/-- The signed value of an n-bit number. -/
def toSigned (n v : Nat) : Int := if v < 2 ^ (n - 1) then v else (v : Int) - 2 ^ n

/-- The new value of the target bytes; n is the operand's width in bits. -/
def atomNew (sub n old opnd swap : Nat) : Nat :=
  match sub with
  | 0 => opnd
  | 1 => if old = opnd then swap else old
  | 2 => (old + opnd) % 2 ^ n
  | 3 => old &&& opnd
  | 4 => old ||| opnd
  | 5 => old ^^^ opnd
  | 6 => if toSigned n opnd < toSigned n old then opnd else old
  | 7 => if toSigned n old < toSigned n opnd then opnd else old
  | 8 => min old opnd
  | 9 => max old opnd
  | _ => old

/-- Bytes of an operand: ASZ (Table 03-5). -/
def aszBytes (z : BitVec 2) : Nat := 4 * 2 ^ z.toNat

/-- An atomic on a line: the new line and the result line, which holds the old value at the operand's
position (R98, R209). -/
def atomLine (f : ReqF) (opnd line : Line) : Line × Line :=
  let n := aszBytes f.asz
  let o := f.ofs.toNat
  let old := lineNum line o n
  let new := atomNew f.sub.toNat (8 * n) old (lineNum opnd o n) (lineNum opnd (o ^^^ 0x20) n)
  (putNum line o n new, numLine old o n)

end Sys2Proof.Machine
end

