-- ==== Sys2Proof/Machine/MailOps.lean ====
section
/-!
DEFINITION. Mailbox RAM and the end of a mailbox command (14_mailboxes.md R386 to R396).
-/
namespace Sys2Proof.Machine

/-! ## Mailbox RAM (R385 to R387) -/

/-- Word IDX of window offset o of mailbox m: the header below 0x010, the payload from 0x040 (R387). -/
def mbIdx (m o : Nat) : Nat := if o < 16 then 0x60 * m + o / 4 else 0x60 * m + 4 + (o - 0x40) / 4

/-- The data bits of a 39-bit code word, a correctable error corrected. -/
def word39 (w : BitVec 39) : Nat :=
  match chk39 w with
  | .corrected d _ => d
  | _ => fld w.toNat 31 0

/-- A mailbox word's data bits, the event not counted: a checked read is `readMb` of IntegOps. -/
def mbWord (s : State) (i : Nat) : Nat := word39 (ramGet s.mbram i)

def mbPut (s : State) (i v : Nat) : State :=
  { s with mbram := ramSet s.mbram i (enc39 (BitVec.ofNat 32 v)) }

/-- Words written from index i upward. -/
def mbPutWords (s : State) (i : Nat) : List Nat → State
  | [] => s
  | v :: rest => mbPutWords (mbPut s i v) (i + 1) rest

/-- Bytes as little-endian words; the last word keeps `old`'s bytes above them. -/
def bytesToWords (old : Nat → Nat) (i : Nat) : List Byte → List Nat
  | [] => []
  | [a] => [a.toNat + 2 ^ 8 * (old i / 2 ^ 8)]
  | [a, b] => [a.toNat + 2 ^ 8 * b.toNat + 2 ^ 16 * (old i / 2 ^ 16)]
  | [a, b, c] => [a.toNat + 2 ^ 8 * b.toNat + 2 ^ 16 * c.toNat + 2 ^ 24 * (old i / 2 ^ 24)]
  | a :: b :: c :: d :: rest =>
    (a.toNat + 2 ^ 8 * b.toNat + 2 ^ 16 * c.toNat + 2 ^ 24 * d.toNat) :: bytesToWords old (i + 1) rest

/-- Payload bytes of mailbox m from byte 0. -/
def mbPutPayload (s : State) (m : Nat) (bs : List Byte) : State :=
  let i := 0x60 * m + 4
  mbPutWords s i (bytesToWords (mbWord s) i bs)

/-! ## Header fields (Table 14-4) -/

def mbOpcode (s : State) (m : Nat) : Nat := fld (mbWord s (0x60 * m)) 15 0
def mbTag (s : State) (m : Nat) : Nat := fld (mbWord s (0x60 * m)) 23 16
def mbNotify (s : State) (m : Nat) : Bool := nbit (mbWord s (0x60 * m)) 24
def mbLen (s : State) (m : Nat) : Nat := fld (mbWord s (0x60 * m + 1)) 15 0
def mbPcrc (s : State) (m : Nat) : Nat := mbWord s (0x60 * m + 3)

/-- The request payload: its first n bytes. -/
def mbPayload (s : State) (m n : Nat) : List Byte :=
  (upto n).map fun k => BitVec.ofNat 8 (mbWord s (0x60 * m + 4 + k / 4) >>> (8 * (k % 4)))

/-! ## Notices and locks (R389, R393) -/

/-- The agent port to which mailbox m's notice goes: the ringing agent's, or the platform port. -/
def mbTarget (s : State) (m : Nat) : Option Nat :=
  if m < 8 then s.agentPort m (s.mb m).ringer.toNat
  else if m = 8 then s.cfg.eff.pport else none

/-- ALERT_EN of SMB0_TARGET in effect (Table 17-3). -/
def alertEn (s : State) : Bool := s.cfg.eff.smb0.getLsbD 42

/-- The completion notice of R393; on MBB the alert of R467. -/
def mbNotice (s : State) (m : Nat) (status : BitVec 8) : State :=
  if m = 9 then
    if alertEn s then s.updSmb fun b => { b with alert := true } else s
  else match mbTarget s m with
    | some p =>
      if (s.port p).mem.sent.isSome then s.updMb m fun b => { b with notify := some (p, status) } else s
    | none => s

/-- Notices that wait for a port's agent are discarded (R393). -/
def mbDropPort (s : State) (p : Nat) : State :=
  { s with mbs := tmap s.mbs fun _ b => match b.notify with
      | some (q, _) => if q = p then { b with notify := none } else b
      | none => b }

/-- The agent of a domain mailbox's lock still holds the domain's ASSIGN on this hub. -/
def holderStands (s : State) (d : Nat) (dan : BitVec 7) : Bool :=
  match s.agentPort d dan.toNat with
  | some p => (s.port p).mem.sent.isSome && (s.port p).mem.dom == some d
  | none => false

/-- The lock of domain d's mailbox is freed when its holder is expelled or released; a command in
progress keeps it (R389). -/
def mbFreeLock (s : State) (d dan : Nat) : State :=
  s.updMb d fun b =>
    if b.st ≠ .busy ∧ b.holder = some (BitVec.ofNat 7 dan) then { b with holder := none } else b

/-! ## Completion (R390, R392, R396) -/

/-- The response of a mailbox command and the DONE state. A response payload is given only where the
command's entry states one (R390); a lock whose holder has been released meanwhile is freed (R396). -/
def mbFinish (s : State) (m status detail : Nat) (resp : List Byte) : State :=
  let b := s.mb m
  if b.st ≠ .busy then s
  else
    let i := 0x60 * m
    let note := mbNotify s m
    let s := mbPutPayload s m resp
    let s := mbPutWords s (i + 1)
      [mbLen s m + 2 ^ 16 * resp.length, status + 2 ^ 16 * detail, (crc32c resp).toNat]
    let st := BitVec.ofNat 8 status
    let keep : Bool := match b.holder with
      | some h => decide (m < 8) && holderStands s m h
      | none => false
    let s := s.setMb m { b with st := .done, status := st, checked := false, waiting := false,
                                running := false, holder := if keep then b.holder else none }
    if note then mbNotice s m st else s

/-- References of jobs in progress to a mailbox whose command has ended without them. -/
def forgetMbx (s : State) (m : Nat) : State :=
  let s := { s with doms := tmap s.doms fun _ q =>
    { q with quiesceMbx := if q.quiesceMbx = some m then none else q.quiesceMbx,
             start := q.start.map fun (j : StartJob) => if j.mbx = some m then { j with mbx := none } else j,
             sweep := q.sweep.map fun (j : Sweep) => if j.mbx = some m then { j with mbx := none } else j } }
  { s with ports := tmap s.ports fun _ q =>
    if q.link.retrain = some m then { q with link := { q.link with retrain := none } } else q }

/-- The words of a mailbox's header and payload read zero. -/
def mbZero (s : State) (m : Nat) : State :=
  { s with mbram := s.mbram.filter fun e => !(0x60 * m ≤ e.1 && e.1 < 0x60 * m + 68) }

/-- An uncorrectable word in a mailbox's RAM (R336, R396): the command in progress ends with FAILED and
DETAIL 0xFFFF, the header, payload and lock are cleared; the notice follows the NOTIFY bit as it was
written. A mailbox without a command in progress keeps its STATE. -/
def mbBlockReset (s : State) (m : Nat) : State :=
  let b := s.mb m
  let note := mbNotify s m
  let s := mbZero s m
  if b.st = .busy then
    let s := forgetMbx s m
    let s := mbPut s (0x60 * m + 2) (8 + 2 ^ 16 * 0xFFFF)
    let s := s.setMb m { b with st := .done, status := 8, checked := false, waiting := false,
                                running := false, holder := none }
    if note then mbNotice s m 8 else s
  else s.setMb m { b with holder := none }

end Sys2Proof.Machine
end

