-- ==== Sys2Proof/Machine/Ops.lean ====
section
/-!
DEFINITION. The named operations of the ports and of the fault collector's error lines: counters, link
control, credits, ASSIGN and RELEASE, LINK_DOWN, Simmer exits (02, 03, 10).
-/
namespace Sys2Proof.Machine

/-! ## Counters and error lines -/

/-- Link error counter i of a port (Table 02-13) raised by n. -/
def cntAdd (s : State) (p i n : Nat) : State :=
  s.updPort p fun q => { q with cnt := tset q.cnt i (satAdd 32 (tget 0 q.cnt i) n) }

/-- Statistics counter i of a domain (Table 15-18) one higher. -/
def statAdd (s : State) (d i : Nat) : State :=
  s.updDom d fun q => { q with stats := tset q.stats i (satAdd 64 (tget 0 q.stats i) 1) }

/-- NAK counter i of a domain (R255): 0 QUOTA_DELAY, 1 QUOTA_REFUSED, 2 POOL_FULL. -/
def nakAdd (s : State) (d i : Nat) : State :=
  s.updDom d fun q => { q with naks := tset q.naks i (bump (tget 0 q.naks i)) }

/-- The error line of a source rises (R365): the event waits for FAULT_EVENT. -/
def raiseInj (s : State) (src : Nat) (dom : Option Nat) (detail : Nat) (inj : Bool) : State :=
  s.updFlt fun f => { f with lines := f.lines ++ [⟨src, dom, BitVec.ofNat 64 detail, inj, s.uptime⟩] }

def raise (s : State) (src : Nat) (dom : Option Nat) (detail : Nat) : State :=
  raiseInj s src dom detail false

/-! ## Link control and traffic -/

/-- Something arises for a port (R73, R296): a port in Simmer, or entering it, owes an exit. -/
def nudge (s : State) (p : Nat) : State :=
  s.updLink p fun l =>
    if l.st = .simmer ∨ l.hs = .entering then { l with exitDue := true } else l

/-- A link-control message is queued for a port that is up. -/
def placeCtl (s : State) (p : Nat) (c : LinkCtl) : State :=
  if s.up p then nudge (s.updTx p fun t => { t with lcq := t.lcq ++ [c] }) p else s

/-- A message is queued for a port that is up; the agent-port bookkeeping is in PlaceOps. -/
def queueMsg (s : State) (p : Nat) (m : Msg) : State :=
  if s.up p then nudge (s.updTx p fun t => { t with q := t.q ++ [m] }) p else s

/-! ## Credits (R55 to R57, R105, R106) -/

/-- The key of a credit counter: the class on agent ports, domain and class on span ports (R56). -/
def creditKey (p : Nat) (c : Cls) (d : Nat) : Nat :=
  if p < 16 then c.code.toNat else 8 * d + c.code.toNat

def msgKey (p : Nat) (m : Msg) : Nat := creditKey p m.cls m.hdr.dom.toNat

/-- n credits of the class are held beyond those that queued messages will spend. -/
def creditsFree (s : State) (p : Nat) (c : Cls) (d n : Nat) : Bool :=
  let t := (s.port p).tx
  let k := creditKey p c d
  decide ((t.q.filter fun m => msgKey p m == k).length + n ≤ tget 0 t.credits k)

def creditFree (s : State) (p : Nat) (c : Cls) (d : Nat) : Bool := creditsFree s p c d 1

/-- The receiver owes its sender one more credit (R57, R107). -/
def returnCredit (s : State) (p : Nat) (c : Cls) (d : Nat) : State :=
  if s.up p then
    let k := creditKey p c d
    nudge (s.updRx p fun r => { r with returns := tset r.returns k (tget 0 r.returns k + 1) }) p
  else s

/-- The initial credits the hub grants on an agent port (Table 03-15). -/
def agentCredits : Tbl Nat := [(0, 32), (1, 16), (4, 32), (5, 32)]

/-- The initial credits the hub grants on a span port (Table 03-16). -/
def spanCredits : Tbl Nat :=
  allDoms.flatMap fun d => [(8 * d, 8), (8 * d + 1, 4), (8 * d + 2, 8), (8 * d + 3, 8),
    (8 * d + 4, 16), (8 * d + 5, 16)]

/-- The question a message answers on its agent port is no longer open: a DFW or an SRM ends its SNF, a
DMM its MAT (R98, R102, R104). -/
def Rx.answered (r : Rx) (m : Msg) : Rx :=
  match m with
  | .dat .dfw f _ => { r with snfs := r.snfs.eraseP fun x => x.htag == f.htag && x.laddr == f.laddr }
  | .ans .srm f _ => { r with snfs := r.snfs.eraseP fun x => x.htag == f.htag && x.laddr == f.laddr }
  | .dat .dmm f _ => { r with mats := r.mats.eraseP fun x => x.htag == f.htag && x.laddr == f.laddr }
  | _ => r

/-- A delivered message leaves the inbox of its port. One that never stood there was delivered with
this step: it spends a credit now (log 14). -/
def takeMsg (s : State) (p : Nat) (m : Msg) : State :=
  s.updRx p fun r =>
    let r := r.answered m
    if r.inbox.contains (.msg m) then { r with inbox := r.inbox.erase (.msg m) }
    else
      let k := msgKey p m
      { r with granted := tset r.granted k (tget 0 r.granted k - 1) }

/-- A message stands at a port: the hub clock runs and the port is up, or the message had been delivered
before the port went Down (R66). -/
def stands (s : State) (p : Nat) (m : Msg) : Bool :=
  s.clocked && (s.up p || (s.port p).rx.inbox.contains (.msg m))

/-- The messages in the inbox of a port, in delivery order (R61). -/
def Rx.msgs (r : Rx) : List Msg :=
  r.inbox.filterMap fun x => match x with
    | .msg m => some m
    | _ => none

/-- A message that has been taken goes back to the front of its port's inbox and waits there. -/
def putBack (s : State) (p : Nat) (m : Msg) : State :=
  s.updRx p fun r => { r with inbox := .msg m :: r.inbox }

/-- A delivered link-control slot leaves the inbox. -/
def takeCtl (s : State) (p : Nat) (c : LinkCtl) : State :=
  s.updRx p fun r => { r with inbox := r.inbox.erase (.ctl c) }

/-- A delivered PM code leaves the inbox. -/
def takePm (s : State) (p : Nat) (v : BitVec 2) : State :=
  s.updRx p fun r => { r with inbox := r.inbox.erase (.pm v) }

/-! ## Snoops behind answers and data (R202) -/

/-- The line that a message names. -/
def msgLine : Msg → Option LAddr
  | .ans _ f _ => some f.laddr
  | .mcp _ l _ => some l
  | .dat _ f _ => some f.laddr
  | .snp f => some f.laddr
  | _ => none

/-- An RSP or DAT that a snoop may not pass: of its domain and line, or one that names no line (R202). -/
def barsSnoop (f : SnpF) (n : Msg) : Bool :=
  (n.cls == .rsp || n.cls == .dat) && n.hdr.dom == f.h.dom
    && (msgLine n == none || msgLine n == some f.laddr)

/-! ## Forecast events end (R314) -/

/-- LDH returns to 0b00 at once, which starts the hold of that code like any change (R313), and any event in
progress ends. -/
def foreEnd (f : Forecast) : Forecast :=
  { f with phase := .none, large := false, imminent := false, hint := false, ldh := 0,
           ldhHold := f.ldhHold || f.ldh != 0, ldhDue := none, quietAtFirst := false, burstTrig := false, busy := 0,
           edgeInEvent := false, limit := f.par.ceil }

/-! ## Notices (R374) -/

/-- The notice queue of a port is discarded, and mailbox notices that wait for it (R393). -/
def dropNotices (s : State) (p : Nat) : State :=
  let s := mbDropPort s p
  let q := (s.port p).hntQ
  if q.isEmpty then s
  else
    let s := s.updPort p fun q => { q with hntQ := [] }
    let s := s.updFlt fun f => { f with hntDrop := satAdd 8 f.hntDrop q.length }
    if q.all fun n => n == 46 then s else raise s 46 none 0

/-! ## ASSIGN and RELEASE (R70) -/

/-- The ASSIGN fields of an agent of a domain. -/
def assignFields (s : State) (d dan : Nat) (mir : Bool) : AssignF :=
  let q := s.dom d
  { dom := BitVec.ofNat 3 d, dan := BitVec.ofNat 7 dan, mir, var := q.par.var, epoch := q.epoch,
    tans := BitVec.ofNat 3 (q.par.tans - 1), tsnp := BitVec.ofNat 3 (q.par.tsnp - 1) }

/-- Whether the agent of a port is mirrored. -/
def portMirrored (s : State) (p : Nat) : Bool :=
  match (s.port p).mem.dom with
  | some d => match s.agent d (s.port p).mem.dan with
    | some a => a.kind == .mirrored
    | none => false
  | none => false

/-- ASSIGN placed on an agent port; with `creds` the hub's initial credits follow it. While a RELEASE
is unacknowledged the ASSIGN waits (R70). -/
def placeAssign (s : State) (p : Nat) (creds : Bool) : State :=
  match (s.port p).mem.dom with
  | none => s
  | some d =>
    let a := assignFields s d (s.port p).mem.dan (portMirrored s p)
    if (s.port p).mem.relWait then s.updMem p fun m => { m with assignQ := some a }
    else
      let s := placeCtl s p (.assign a)
      let s := s.updMem p fun m =>
        { m with sent := some a, ignoreCr := false, consent := false, assignQ := none }
      if creds then s.updRx p fun r => { r with returns := agentCredits, granted := [] } else s

/-- What still stood in a port's receive entries awaits no credit any more: the port has gone Down, or its
agent is in no domain (R25, R56, R70). Port 20 is none. -/
def forgetCredits (s : State) (p : Nat) : State :=
  let s := s.updHome fun h => { h with
    wbs := h.wbs.map fun w => if w.port == p then { w with owed := false } else w,
    proxies := h.proxies.map fun x => if x.port == p then { x with port := 20 } else x }
  { s with doms := tmap s.doms fun _ q => { q with
      heldReqs := q.heldReqs.map fun e => if e.2.port == p then (e.1, { e.2 with port := 20 }) else e } }

/-- RELEASE placed on an agent port whose agent holds an ASSIGN (R70). -/
def placeRelease (s : State) (p d : Nat) : State :=
  let s := forgetCredits s p
  if (s.port p).mem.sent.isSome && s.up p then
    let s := placeCtl s p (.release (BitVec.ofNat 3 d))
    let s := s.updTx p fun t => { t with credits := [], q := [] }
    let s := s.updRx p fun r => { r with returns := [], pmk := [], snfs := [], mats := [] }
    s.updMem p fun m =>
      { m with sent := none, relWait := true, relSeq := none, ignoreCr := true, consent := false,
               assignQ := none }
  else s.updMem p fun m => { m with sent := none, consent := false, assignQ := none }

/-! ## Ports going Down (R65, R66) -/

/-- Messages already delivered stand (R66). -/
def stand (l : List Delivered) : List Delivered :=
  l.filter fun x => match x with
    | .msg _ => true
    | _ => false

/-- The transmitter and receiver of a port that has ended: nothing queued, nothing open, no credit
(R50, R56, R66). The last flit stays on record. -/
def clearLink (q : Port) : Port :=
  { q with tx := { wire := q.tx.wire }, rx := { inbox := stand q.rx.inbox }, ready := q.ready, fore := foreEnd q.fore,
           gates := [], gateBuf := [], gateEnd := [], upgs := [] }

/-- A port is Down and held there until LINK_RETRAIN (R42); a LINK_RETRAIN in progress has failed
(R414). -/
def holdPort (s : State) (p : Nat) (reason : BitVec 8) : State :=
  let s := forgetCredits (dropNotices s p) p
  let s := match (s.port p).link.retrain with
    | some m => mbFinish s m 8 0x301 []
    | none => s
  s.updPort p fun q =>
    let q := clearLink q
    { q with
      link := { q.link with st := .held, rate := 0, width := 0, reversed := false, degraded := false,
                            polarity := 0, farCap := none, capAcked := false, peerAck := false,
                            lastDown := reason, hs := .idle, refused := false, ackDue := false,
                            exiting := false, exitDue := false, coeff := none,
                            retrain := none, wakeTrain := false },
      mem := { q.mem with sent := none, relWait := false, relSeq := none, assignQ := none,
                          ignoreCr := false, consent := false } }

/-- Flit i of the four that carry LINK_DOWN in slot 0 and no other message (R65); RPQ stands in every
flit while a replay is due (R51). -/
def downFlit (t : Tx) (r : Rx) (reason : BitVec 8) (i : Nat) : TxFlit :=
  { idle := false, seq := t.seq + BitVec.ofNat 10 i, ack := r.seq - 1, ackv := r.any, rpq := r.rpq,
    pm := 0, crs := [], slots := .ctl (.linkDown reason) :: List.replicate 13 .empty }

/-- LINK_DOWN sent in the next four flits, whatever is open or held, behind the flits of `first`; then
electrical idle, and the port is Down (R65). -/
def sendDownAfter (s : State) (p : Nat) (first : List TxFlit) (reason : BitVec 8) : State :=
  let s := cntAdd s p 11 1
  let s := s.updPort p fun q =>
    { q with tx := { q.tx with
        wire := first ++ (upto 4).map (downFlit q.tx q.rx reason),
        seq := q.tx.seq + 4 } }
  holdPort s p reason

def sendLinkDown (s : State) (p : Nat) (reason : BitVec 8) : State := sendDownAfter s p [] reason

/-- The domain of a port's admitted agent. -/
def portDom (s : State) (p : Nat) : Option Nat := (s.port p).mem.dom

/-- LINK_FATAL (Table 13-1 source 2, Table 13-5). -/
def raiseFatalBy (inj : Bool) (s : State) (p : Nat) (reason : BitVec 8) : State :=
  raiseInj s 2 (portDom s p) (p + 256 * reason.toNat) inj

def raiseFatal (s : State) (p : Nat) (reason : BitVec 8) : State := raiseFatalBy false s p reason

/-! ## Service writes of MEM 0x4 to 0x6 and 0x9 to 0xB (R343)

Where a word stands in these memories is the model's own numbering; the spec numbers none (log 20). What
differs from the intended code word is kept. -/

/-- The data and check masks of one service write to MEM m, unit u, owned by domain d: zero unless
the flip-mask is armed and its filters match, which clears ARM and sets DONE. -/
def flipTake (s : State) (m u : Nat) (d : Option Nat) : Nat × Nat × State :=
  let v := s.integ.flipCtl.toNat
  let hit := nbit v 31 ∧ fld v 27 24 = m ∧ (nbit v 23 → d = some (fld v 22 20))
    ∧ (nbit v 19 → fld v 18 14 = u)
  if hit then
    (s.integ.flipData.toNat, fld s.integ.flipChk.toNat 7 0,
     s.updInteg fun i => { i with flipCtl := i.flipCtl &&& 0x3FFFFFFF#32 ||| 0x40000000#32 })
  else (0, 0, s)

def dropErr (s : State) (m k : Nat) : State :=
  s.updArr fun r => { r with err := r.err.filter fun e => e.1 != (m, k) }

/-- A service write of word k of MEM m: the flip-mask may leave a difference behind. -/
def storeMem (s : State) (m unit k : Nat) (d : Option Nat) : State :=
  let (fd, fc, s) := flipTake s m unit d
  let s := dropErr s m k
  if fd = 0 ∧ fc = 0 then s
  else s.updArr fun r =>
    { r with err := ((m, k), (BitVec.ofNat 64 fd, BitVec.ofNat 8 fc)) :: r.err }

/-! ### Words of MEM 0x9 and 0xA

A region entry is two words whose bits Table 04-7 gives: what they read differs by is what the entry
differs by. Of the other words the spec gives no layout, so a difference alters nothing (log 20). -/

def keyRegion (i : Nat) : Nat := 2 * i
def keyPar (d : Nat) : Nat := 128 + d
def keyMap (d dan : Nat) : Nat := 1024 + 128 * d + dan
def keyProx (d dan : Nat) : Nat := 2048 + 128 * d + dan
def keySmap (k : Nat) : Nat := 160 + k
def keyShelf (b : Nat) : Nat := 192 + b

end Sys2Proof.Machine
end

