-- ==== Sys2Proof/Machine/DomainOps.lean ====
section
/-!
DEFINITION. Domain down, expulsion, and what a port going Down costs (08_domains.md, 09_multi_hub.md).
-/
namespace Sys2Proof.Machine

/-! ## Directory cache ways and shelves of a domain -/

/-- The domain of a way with V = 1, from its tag where that passes its check or can be corrected, else from
its owner copy (R336). -/
def wayOwner (t : BitVec 47) (o : BitVec 5) : Option Nat :=
  let of := fun (v : Nat) => if nbit v 39 then some (fld v 37 35) else none
  match chk47 t with
  | .clean => of t.toNat
  | .corrected x _ => of x
  | .bad _ => if evenOk 5 o.toNat && o.getLsbD 0 then some (fld o.toNat 3 1) else none

/-- Every directory-cache way of the domain reads V = 0, without a write to memory (R128, R258). -/
def clearWays (s : State) (d : Nat) : State :=
  let ks := s.arr.tag.filterMap fun e =>
    if wayOwner e.2 (tget 0 s.arr.owner e.1) = some d then some e.1 else none
  s.updArr fun a => { a with tag := tdrop a.tag fun k _ => ks.contains k,
                             owner := tdrop a.owner fun k _ => ks.contains k }

/-- Every valid bit of a bank cleared (R131, R247). -/
def clearShelf (s : State) (b : Nat) : State :=
  s.updArr fun a => { a with valid := tdrop a.valid fun k _ => k / 4224 == b }

/-- Shelves that belong to a domain. -/
def shelvesOf (s : State) (d : Nat) : List Nat :=
  (upto 32).filter fun b => match tget none s.arr.shelf b with
    | some (d', _) => d' == d
    | none => false

def clearShelves (s : State) (bs : List Nat) : State := bs.foldl clearShelf s

/-! ## Expulsion (R247) -/

/-- The shelf map's entry of a bank written (MEM 0x9). -/
def setShelf (s : State) (b : Nat) (o : Option (Nat × Nat)) : State :=
  storeMem (s.updArr fun r => { r with shelf := tset r.shelf b o }) 9 0 (keyShelf b) (o.map Prod.fst)

/-- The agent map's entry of a DAN written (MEM 0x9), and the domain's stale DANs. -/
def putMap (s : State) (d dan : Nat) (o : Option Agent) (stale : Dom → BitVec 128) : State :=
  storeMem (s.updDom d fun q => { q with map := tset q.map dan o, stale := stale q }) 9 0 (keyMap d dan) (some d)

/-- The port of an expelled agent leaves its domain: RELEASE unless already released or Down; the gate
of its port is reset, its CUREs and open writes end, its forecast event ends (R230, R314). -/
def leavePort (s : State) (p d : Nat) : State :=
  let s := placeRelease s p d
  let s := dropNotices s p
  s.updPort p fun q =>
    { q with gates := [], gateBuf := [], gateEnd := [], cures := [], opens := [], upgs := [], ready := [],
             fore := foreEnd q.fore, mem := { q.mem with dom := none, dan := 0 } }

/-- AGENT_EXPEL of one DAN on this hub (R247). -/
def expel (s : State) (d dan : Nat) : State :=
  match s.agent d dan with
  | none => s
  | some a =>
    let s := match s.agentPort d dan with
      | some p => mbFreeLock (leavePort s p d) d dan
      | none => s
    let s := if a.hub = s.hubId then clearShelves s a.shelves else s
    let s := if a.hub = s.hubId then a.shelves.foldl (fun s b => setShelf s b none) s else s
    putMap s d dan none fun q => if a.kind = .caching then q.stale ||| (1#128 <<< dan) else q.stale

def expelAll (s : State) (d : Nat) (dans : List Nat) : State :=
  dans.foldl (fun s n => expel s d n) s

/-! ## Domain down (R199, R258) -/

/-- Step 2 of R258: the trackers, queues, records and entries of a domain on this hub; what waited in a
receive entry returns its credit (R199). -/
def freeDomain (s : State) (d : Nat) : State :=
  let lost := s.home.wbs.filter fun w => w.h.dom.toNat == d && w.owed
  let s := lost.foldl (fun s w => returnCredit s w.port .wb d) s
  let s := (s.dom d).heldReqs.foldl (fun s e => returnCredit s e.2.port .req d) s
  let s := s.updDom d fun q => { q with heldReqs := [] }
  let s := s.home.proxies.foldl
    (fun s x => if x.f.h.dom.toNat == d then returnCredit s x.port .snp d else s) s
  s.updHome fun h =>
    { h with trackers := h.trackers.filter fun t => t.dom != d,
             wbs := h.wbs.filter fun w => w.h.dom.toNat != d,
             victims := h.victims.filter fun v => v.dom != d,
             fwds := h.fwds.filter fun f => f.dom != d,
             proxies := h.proxies.filter fun x => x.f.h.dom.toNat != d,
             merges := h.merges.filter fun m => m.dom != d }

/-- Messages of the domain still queued for the span ports are placed no more (R199). -/
def dropQueued (s : State) (d : Nat) : State :=
  spanPorts.foldl (fun s p => s.updTx p fun t =>
    { t with q := t.q.filter fun m => m.hdr.dom.toNat != d }) s

/-- Steps 4 and 5 of R258 on one agent port of the domain: gates to IDLE, barriers and open writes
freed, RELEASE sent. -/
def downPort (s : State) (d : Nat) (p : Nat) : State :=
  let s := placeRelease s p d
  let s := mbFreeLock (mbDropPort s p) d (s.port p).mem.dan
  s.updPort p fun q =>
    { q with gates := [], gateBuf := [], gateEnd := [], cures := [], opens := [], upgs := [], ready := [] }

/-- A notice placed on every up span port but one (R278). -/
def spanNotice (s : State) (except : Option Nat) (c : LinkCtl) : State :=
  spanPorts.foldl (fun s p => if some p == except then s else placeCtl s p c) s

/-- The commands that a domain down ends with FAILED and WENT_DOWN: a quiesce, a sweep, a start (R244,
R262, Table 15-2). -/
def abortJobs (s : State) (d : Nat) : State :=
  let q := s.dom d
  let ms := (q.quiesceMbx.toList ++ (q.sweep.bind fun w => w.mbx).toList
    ++ (q.start.bind fun j => j.mbx).toList)
  let s := s.updDom d fun q => { q with quiesceMbx := none, sweep := none, start := none }
  ms.foldl (fun s m => mbFinish s m 8 0x206 []) s

/-- The CRC units of a domain return to their reset values (R446). -/
def crcRelease (s : State) (d : Nat) : State :=
  ([0, 1]).foldl (fun s u => if s.crcOwner u = some d then s.setCrc u {} else s) s

/-- A domain-down event with its cause (R258): nothing happens unless the domain is in service. `dead`
are the DANs found dead; `src` is the span port that brought a notice; `inj` tells that an injected check
caused it (R342). -/
def domainDownBy (inj : Bool) (s : State) (d cause : Nat) (dead : List Nat) (src : Option Nat) : State :=
  if !(s.dom d).st.inService then s
  else
    let ep := (s.dom d).epoch.toNat
    let s := s.updDom d fun q =>
      { q with st := .down, downing := true, cause, stageP := [], stageR := [], relayed := [] }
    let s := spanNotice s src (.release (BitVec.ofNat 3 d))
    let s := abortJobs s d
    let s := freeDomain s d
    let s := dropQueued s d
    let s := clearShelves (clearWays s d) (shelvesOf s d)
    let s := crcRelease s d
    let s := (s.portsOf d).foldl (fun s p => downPort s d p) s
    let ps := dead.filterMap fun n => s.agentPort d n
    let s := expelAll s d dead
    let s := ps.foldl (fun s p => if s.up p then raiseFatal (sendLinkDown s p 7) p 7 else s) s
    let gone := s.dans d fun a => match a.port with
      | some p => a.hub == s.hubId && !s.up p
      | none => false
    let s := expelAll s d gone
    raiseInj s 14 (some d) (cause + 256 * ep) inj

/-- A domain-down event that no injection caused. -/
def domainDown (s : State) (d cause : Nat) (dead : List Nat) (src : Option Nat) : State :=
  domainDownBy false s d cause dead src

/-! ## Consequences of a port going Down (R257, R270) -/

/-- Domains with a message in a held flit or queued for a span port (R270). -/
def domsOnPort (q : Port) : List Nat :=
  let slots := q.tx.replay.flatMap TxFlit.slots
  (q.tx.q ++ q.tx.opens.map OpenMsg.msg).map (fun m => m.hdr.dom.toNat)
    ++ slots.filterMap fun x => match x with
      | .start _ m => some m.hdr.dom.toNat
      | .data _ d _ => some d
      | _ => none

/-- What the Down of an agent port means for its agent's domain (R257). -/
def agentGone (s : State) (p : Nat) : State :=
  match (s.port p).mem.dom with
  | none => s
  | some d =>
    let dan := (s.port p).mem.dan
    let io : Bool := match s.agent d dan with
      | some a => a.kind == .io
      | none => false
    match (s.dom d).st with
    | .started | .quiescing => domainDown s d 2 [dan] none
    | .quiesced => if io then expel s d dan else domainDown s d 2 [dan] none
    | .created => expel s d dan
    | .down => if (s.dom d).downing then s else expel s d dan
    | .none => s

/-- A port has gone Down for the reason given (already held); `q` is the port before. -/
def downConsequences (s : State) (p : Nat) (q : Port) : State :=
  if p < 16 then agentGone s p
  else
    let s := raise s 4 none p
    (domsOnPort q).foldl (fun s d => domainDown s d 4 [] none) s

/-- The port is taken Down by a fault: held, reported, and its domains dealt with (R42, R63, R66). -/
def portFault (s : State) (p : Nat) (reason : BitVec 8) : State :=
  let q := s.port p
  let s := raiseFatal s p reason
  downConsequences (holdPort s p reason) p q

/-- The hub ends the link with a reason (R63, R65). -/
def fatal (s : State) (p : Nat) (reason : BitVec 8) : State :=
  let q := s.port p
  let s := raiseFatal s p reason
  downConsequences (sendLinkDown s p reason) p q

end Sys2Proof.Machine
end

