-- ==== Sys2Proof/Machine/ResetOps.lean ====
section
/-!
DEFINITION. Resets: the moments of a chip reset, what each reset clears (18_bringup_reset.md R482 to
R487).
-/
namespace Sys2Proof.Machine

/-! ## The moments of a chip reset (R484) -/

/-- The span RELEASE of every domain in service, in one flit (R484 step 1). -/
def releaseFlit (s : State) (p : Nat) : List TxFlit :=
  let ds := allDoms.filter fun d => (s.dom d).st.inService
  let q := s.port p
  if p < 16 ∨ ds.isEmpty then []
  else
    let cs : List TxSlot := ds.map fun d => .ctl (.release (BitVec.ofNat 3 d))
    [{ idle := false, seq := q.tx.seq, ack := q.rx.seq - 1, ackv := q.rx.any, rpq := false, pm := 0,
       crs := [], slots := cs ++ List.replicate (14 - cs.length) .empty }]

/-- Steps 1 and 2 of R484 on one port: RELEASEs on a span port, then LINK_DOWN with reason 0x07. -/
def endPort (inj : Bool) (s : State) (p : Nat) : State :=
  if s.up p then
    let fs := releaseFlit s p
    let s := raiseFatalBy inj s p 7
    sendDownAfter (s.updTx p fun t => { t with seq := t.seq + BitVec.ofNat 10 fs.length }) p fs 7
  else s

/-! ## What a reset clears (Table 18-3) -/

/-- A port after a reset at uptime t: held, nothing kept but the last flits and the last LINK_DOWN
reason; quiet since the reset (R316). -/
def freshPort (t : Nat) (q : Port) : Port :=
  { link := { lastDown := q.link.lastDown }, tx := { wire := q.tx.wire }, fore := { quietFrom := t } }

/-- The reset value of the configuration items: SMB0_TARGET from the straps (Table 15-5, R452). -/
def freshItems (st : Straps) : Items :=
  { smb0 := BitVec.ofNat 64 (2 ^ 42 + 2 * (0x58 + st.smbA.toNat) + 1) }

/-- What every reset clears: ports, domains, the home, stored arrays, the Kettle, configuration,
mailboxes, firmware RAM, CRC units, SMBus targets. MEM 0xA and 0xB keep their words. -/
def clearCommon (s : State) : State :=
  let items := freshItems s.board.straps
  { s with
    ports := tmap s.ports fun _ q => freshPort s.uptime q,
    doms := [],
    home := { recs := s.home.recs },
    arr := { err := s.arr.err.filter fun e => e.1.1 == 0xA || e.1.1 == 0xB },
    integ := { ueLast := s.integ.ueLast, checkAt := s.integ.checkAt },
    kt := {},
    cfg := { eff := items, staged := items },
    mbs := [], mbram := [], fwram := [], crc := [],
    flt := { s.flt with int := false, nmi := false },
    fw := { exchanges := s.fw.exchanges },
    smb := {} }

/-- The collector configuration (MEM 0xA) at its reset values (R364); escalation units stand (R367). -/
def freshCollector (s : State) : State :=
  let s := s.updFlt fun f => { f with src := [], pnp := none, dna := [] }
  s.updArr fun a => { a with err := a.err.filter fun e => e.1.1 != 0xA }

/-- A chip reset (R484): no effect in the Grave state (R373) or while another reset holds. `inj` tells that
an injected check caused it (R342). -/
def chipResetBy (inj : Bool) (s : State) : State :=
  if !s.alive then s
  else clearCommon (if s.kt.st = .dormant then s else allPorts.foldl (endPort inj) s)

def chipReset (s : State) : State := chipResetBy false s

/-- What power-on and SYS_RST_N clear beyond a chip reset: the collector but for the Grave bits and the
log, IT_UE_LAST, the slice records (Table 18-3). -/
def clearSys (s : State) : State :=
  let keep := BitVec.ofNat 64 (2 ^ 56 + 2 ^ 57)
  let s := clearCommon s
  let f := s.flt
  { s with
    home := {},
    integ := {},
    sens := {},
    arr := { err := s.arr.err.filter fun e => e.1.1 == 0xB },
    flt := { status := f.status &&& keep, missed := f.missed &&& keep, errPin := f.errPin &&& keep,
             events := f.events, lines := [], grave := f.grave, graveSrc := f.graveSrc,
             extErr := f.extErr, queue := f.queue, copy := f.copy, tokens := f.tokens,
             nextSeq := f.nextSeq, recDrop := f.recDrop, hntDrop := f.hntDrop,
             firstDone := f.firstDone, scanning := f.scanning } }

/-- What a power-on reset leaves: everything at its reset value but the NVM, the pins and the queue. -/
def clearPower (s : State) : State :=
  { pending := s.pending, free := s.free,
    board := { s.board with held := .powerOn, tap := .idcode },
    ports := tmap s.ports fun _ q => { tx := { wire := q.tx.wire } },
    kt := {},
    flt := { extErr := s.flt.extErr },
    nvm := s.nvm, nvmErr := s.nvmErr, nvmFail := s.nvmFail }

end Sys2Proof.Machine
end

