-- ==== Sys2Proof/Machine/IntegOps.lean ====
section
/-!
DEFINITION. Checked reads and service writes of the protected memories, correctable events and
uncorrectable errors (12_integrity.md).
-/
namespace Sys2Proof.Machine

/-! ## Correctable events (R334, R335) -/

def State.bkt (s : State) (m : Nat) : Bucket := tget {} s.integ.bkt m
def State.setBkt (s : State) (m : Nat) (b : Bucket) : State :=
  s.updInteg fun i => { i with bkt := tset i.bkt m b }

/-- One correctable event of MEM m: the level rises, or overflows at CAP and raises CE_OVF_m. -/
def ceEvent (s : State) (m : Nat) (inj : Bool) : State :=
  let b := s.bkt m
  let b := { b with ce := bump b.ce }
  if b.level < b.cap then s.setBkt m { b with level := b.level + 1 }
  else
    let b := { b with level := 0, ovf := satAdd 8 b.ovf 1 }
    raiseInj (s.setBkt m b) (16 + m) none (b.ce + 2 ^ 32 * b.ovf) inj

/-! ## Uncorrectable errors (R336 to R338) -/

/-- Who found an uncorrectable word. -/
inductive Finder where
  | demand | scrub | selftest
deriving DecidableEq, Repr

/-- Where an uncorrectable word lies: the scope code of IT_UE_LAST (0 none, 1 block, 2 domain, 3 chip,
4 Grave), memory, owner domain, unit, index, syndrome. -/
structure UeAt where
  scope : Nat
  mem   : Nat
  dom   : Nat
  unit  : Nat
  index : Nat
  syn   : Nat
deriving DecidableEq, Repr

/-- The IT_UE_LAST image of one uncorrectable error. -/
def ueWord (u : UeAt) (by_ : Finder) (inj : Bool) : Nat :=
  2 ^ 63 + flag (by_ = .scrub) 62 + flag (by_ = .selftest) 61 + flag inj 60 + 2 ^ 56 * u.scope
    + 2 ^ 52 * u.mem + 2 ^ 49 * (if u.scope = 2 then u.dom else 0) + 2 ^ 44 * (u.unit % 32)
    + 2 ^ 24 * (u.index % 2 ^ 20) + 2 ^ 16 * (u.syn % 256)

/-- An uncorrectable error: recorded first-come in IT_UE_LAST, reported through UE, and its scope reset
(R336, R338). -/
def ueEvent (s : State) (u : UeAt) (by_ : Finder) (inj : Bool) : State :=
  let w := ueWord u by_ inj
  let s := s.updInteg fun i =>
    { i with ueLast := if nbit i.ueLast.toNat 63 then i.ueLast ||| (1#64 <<< 59)
                       else BitVec.ofNat 64 w }
  let s := raiseInj s 28 (if u.scope = 2 then some u.dom else none) (w / 2 ^ 16) inj
  match u.scope with
  | 1 => mbBlockReset s u.unit
  | 2 => domainDownBy inj s u.dom 28 [] none
  | 3 => if u.mem = 0xA then freshCollector (chipResetBy inj s) else chipResetBy inj s
  | 4 => raiseInj s 56 none (u.index % 1024 + 1024 * (u.syn % 128)) inj
  | _ => s

/-- An uncorrectable error in domain state (R116, R118, R134): its memory is named, its unit, index and
syndrome are free values (log 43). -/
def stateError (s : State) (mem d : Nat) : State :=
  let (v, s) := s.nextFree
  let n := v.toNat
  ueEvent s ⟨2, mem, d, n % 32, n / 32 % 2 ^ 20, n / 2 ^ 25 % 256⟩ .demand false

/-- A domain is not in service: an error just found has brought it down, or made a chip reset. -/
def stopped (s : State) (d : Nat) : Bool := !(s.dom d).st.inService

/-! ## Injection (R345) -/

/-- The check-bit mask of one checked read of MEM m owned by domain d, and the state after it. -/
def injTake (s : State) (m : Nat) (d : Option Nat) : Nat × State :=
  let v := s.integ.injCtl.toNat
  let hit := fld v 31 24 ≠ 0 ∧ fld v 15 12 = m ∧ (nbit v 11 → d = some (fld v 10 8))
  if hit then
    (fld v 23 16, s.updInteg fun i => { i with injCtl := i.injCtl - 0x01000000#32 })
  else (0, s)

/-! ## Rotating units (R346) -/

/-- A rotating unit: banks 0 to 31, the directory cache 32, the slices 33. -/
def State.rotOf (s : State) (u : Nat) : Rot :=
  tget { sp := if u < 32 then 32 else 16 } s.integ.rot u

def State.setRot (s : State) (u : Nat) (r : Rot) : State :=
  s.updInteg fun i => { i with rot := tset i.rot u r }

/-- Logical element i of a unit lies at this physical element. -/
def State.physElem (s : State) (u i : Nat) : Nat :=
  if i < (s.rotOf u).sp then i else i + 1

/-- The logical element at physical element q of a unit; the spare stands for none. -/
def State.logElem (s : State) (u q : Nat) : Nat := if q < (s.rotOf u).sp then q else q - 1

/-! ## The Strainer (R129, R131, R135) -/

/-- Where an entry lies: bank, physical sub-array, row. -/
structure StrAt where
  bank : Nat
  sub  : Nat
  row  : Nat
deriving DecidableEq, Repr

def StrAt.entKey (a : StrAt) : Nat := (a.bank * 33 + a.sub) * 2048 + a.row
def StrAt.grpKey (a : StrAt) : Nat := (a.bank * 33 + a.sub) * 128 + a.row / 16

/-- Position p of an entry in its bank, spare sub-array apart (R131); the index of IT_UE_LAST. -/
def strPos (s : State) (a : StrAt) : Nat := s.logElem a.bank a.sub * 2048 + a.row

/-- Way w of set t of a mirrored agent (R131). -/
def State.strAt (s : State) (a : Agent) (w t : Nat) : StrAt :=
  let e := w * a.sets + t
  let b := (a.shelves[e / 65536]?).getD 0
  let p := e % 65536
  ⟨b, s.physElem b (p / 2048), p % 2048⟩

/-- The domain that owns a bank (R336). -/
def State.shelfDom (s : State) (b : Nat) : Option Nat :=
  (tget none s.arr.shelf b).map fun e => e.1

/-- A checked read of a valid-array group: its 16 valid bits, the state, and whether the error was
uncorrectable. In a bank of no agent a bad group is rewritten all invalid (R135). -/
def readGroup (s : State) (a : StrAt) (by_ : Finder) : BitVec 16 × Bool × State :=
  let v := tget 0 s.arr.valid a.grpKey
  let (m, s) := injTake s 1 (s.shelfDom a.bank)
  if evenOk 17 (v.toNat ^^^ (2 ^ 16 * (m % 2))) then (v.setWidth 16, false, s)
  else match s.shelfDom a.bank with
    | some d =>
      (0, true, ueEvent s ⟨2, 1, d, a.bank, strPos s a, 1⟩ by_ (m % 2 == 1))
    | none =>
      (0, false, ceEvent (s.updArr fun r => { r with valid := tset r.valid a.grpKey 0 }) 1
        (m % 2 == 1))

/-- A service write of a valid-array group (MEM 0x1). -/
def writeGroup (s : State) (a : StrAt) (v : BitVec 16) : State :=
  let (fd, fc, s) := flipTake s 1 a.bank (s.shelfDom a.bank)
  let w := encGroup v
  s.updArr fun r => { r with
    valid := tset r.valid a.grpKey (w ^^^ BitVec.ofNat 17 (fd % 2 ^ 16 + 2 ^ 16 * (fc % 2))) }

def setValid (s : State) (a : StrAt) (v : BitVec 16) (b : Bool) : State :=
  let i := a.row % 16
  writeGroup s a (if b then v ||| (1#16 <<< i) else v &&& ~~~(1#16 <<< i))

/-- A checked read of an entry (MEM 0x0); `live` tells whether it holds something (R341). Answers its
data bits, whether it was corrected, and whether the error was uncorrectable. -/
def readEnt (s : State) (a : StrAt) (live : Bool) (by_ : Finder) :
    BitVec 41 × Bool × Bool × State :=
  let w := tget 0 s.arr.ent a.entKey
  let (m, s) := injTake s 0 (s.shelfDom a.bank)
  let put := fun (s : State) (x : BitVec 48) =>
    s.updArr fun r => { r with ent := tset r.ent a.entKey x }
  match check masks48 41 (fld w.toNat 40 0) (fld w.toNat 47 41 ^^^ (m % 128)) with
  | .clean => (w.setWidth 41, false, false, s)
  | .corrected x _ =>
    let x := BitVec.ofNat 41 x
    (x, true, false, ceEvent (put s (enc48 x)) 0 (m % 128 ≠ 0))
  | .bad syn =>
    if live then
      (0, true, true, ueEvent s ⟨if (s.shelfDom a.bank).isSome then 2 else 0, 0,
        (s.shelfDom a.bank).getD 0, a.bank, strPos s a, syn⟩ by_ (m % 128 ≠ 0))
    else (0, true, false, ceEvent (put s 0) 0 (m % 128 ≠ 0))

/-- A service write of an entry (MEM 0x0). -/
def writeEnt (s : State) (a : StrAt) (x : BitVec 41) : State :=
  let (fd, fc, s) := flipTake s 0 a.bank (s.shelfDom a.bank)
  let w := enc48 x ^^^ BitVec.ofNat 48 (fd % 2 ^ 41 + 2 ^ 41 * (fc % 128))
  s.updArr fun r => { r with ent := tset r.ent a.entKey w }

/-! ## The directory cache (R125, R333) -/

def wayKey (set phys : Nat) : Nat := set * 32 + phys

def tagV (t : BitVec 40) : Bool := t.getLsbD 39
def tagD (t : BitVec 40) : Bool := t.getLsbD 38
def tagDom (t : BitVec 40) : Nat := fld t.toNat 37 35
def tagAtag (t : BitVec 40) : Nat := fld t.toNat 34 0

def mkTag (dirty : Bool) (d atag : Nat) : BitVec 40 :=
  BitVec.ofNat 40 (2 ^ 39 + flag dirty 38 + 2 ^ 35 * (d % 8) + atag % 2 ^ 35)

/-- A service write of a tag and its owner copy (MEM 0x2). -/
def writeTag (s : State) (k : Nat) (t : BitVec 40) : State :=
  let (fd, fc, s) := flipTake s 2 0 (some (tagDom t))
  let w := enc47 t ^^^ BitVec.ofNat 47 (fd % 2 ^ 40 + 2 ^ 40 * (fc % 128))
  s.updArr fun r => { r with tag := tset r.tag k w,
                             owner := tset r.owner k (encOwner (tagV t) (tagDom t)) }

/-- A checked read of a tag and its owner copy. Answers the tag (all zero where the way holds
nothing), whether anything was corrected, and whether the error was uncorrectable (R333, R336,
R341). `spare` marks a way of the spare way-slice. -/
def readTag (s : State) (k : Nat) (spare : Bool) (by_ : Finder) :
    BitVec 40 × Bool × Bool × State :=
  let w := tget 0 s.arr.tag k
  let o := tget 0 s.arr.owner k
  let oOk := evenOk 5 o.toNat
  let od := fld o.toNat 3 1
  let (m, s) := injTake s 2 (if oOk then some od else none)
  let inj : Bool := m % 128 ≠ 0
  let fixOwner := fun (s : State) (t : BitVec 40) =>
    if oOk then s
    else ceEvent (s.updArr fun r =>
      { r with owner := tset r.owner k (encOwner (tagV t) (tagDom t)) }) 2 inj
  match check masks47 40 (fld w.toNat 39 0) (fld w.toNat 46 40 ^^^ (m % 128)) with
  | .clean => (w.setWidth 40, !oOk, false, fixOwner s (w.setWidth 40))
  | .corrected x _ =>
    let x := BitVec.ofNat 40 x
    let s := ceEvent (s.updArr fun r => { r with tag := tset r.tag k (enc47 x) }) 2 inj
    (x, true, false, fixOwner s x)
  | .bad syn =>
    if spare || (oOk && !o.getLsbD 0) then
      let s := s.updArr fun r => { r with tag := tset r.tag k 0, owner := tset r.owner k 0 }
      (0, true, false, ceEvent s 2 inj)
    else if oOk then (0, true, true, ueEvent s ⟨2, 2, od, 0, k, syn⟩ by_ inj)
    else (0, true, true, ueEvent s ⟨3, 2, 0, 0, k, syn⟩ by_ inj)

/-- A service write of a directory word (MEM 0x3). -/
def writeWord (s : State) (k d : Nat) (x : BitVec 56) : State :=
  let (fd, fc, s) := flipTake s 3 0 (some d)
  let w := enc64 x ^^^ BitVec.ofNat 64 (fd % 2 ^ 56 + 2 ^ 56 * (fc % 256))
  s.updArr fun r => { r with word := tset r.word k w }

/-- A checked read of a stored directory word of a way that holds one. -/
def readWord (s : State) (k d : Nat) (by_ : Finder) : BitVec 56 × Bool × Bool × State :=
  let w := tget 0 s.arr.word k
  let (m, s) := injTake s 3 (some d)
  match check masks64 56 (fld w.toNat 55 0) (fld w.toNat 63 56 ^^^ m) with
  | .clean => (w.setWidth 56, false, false, s)
  | .corrected x _ =>
    let x := BitVec.ofNat 56 x
    (x, true, false,
      ceEvent (s.updArr fun r => { r with word := tset r.word k (enc64 x) }) 3 (m ≠ 0))
  | .bad syn => (0, true, true, ueEvent s ⟨2, 3, d, 0, k, syn⟩ by_ (m ≠ 0))

/-- A directory word as it arrives from memory (R334, R336): its data, whether it was corrected,
whether it was uncorrectable. -/
def checkWord (s : State) (d sl : Nat) (w : BitVec 64) : BitVec 56 × Bool × Bool × State :=
  let (m, s) := injTake s 3 (some d)
  match check masks64 56 (fld w.toNat 55 0) (fld w.toNat 63 56 ^^^ m) with
  | .clean => (w.setWidth 56, false, false, s)
  | .corrected x _ => (BitVec.ofNat 56 x, true, false, ceEvent s 3 (m ≠ 0))
  | .bad syn => (0, true, true, ueEvent s ⟨2, 3, d, sl, 0, syn⟩ .demand (m ≠ 0))

/-! ## MEM 0x4 to 0x6 and 0x9 to 0xB: differences between stored and intended words

Their service write is `storeMem` of Ops. -/

/-- The difference between the stored and the intended code word of word k of MEM m: data and check. -/
def errOf (s : State) (m k : Nat) : Nat × Nat :=
  match s.arr.err.find? fun e => e.1 == (m, k) with
  | some e => (e.2.1.toNat, e.2.2.toNat)
  | none => (0, 0)

/-- A checked read of word k of MEM m before it is used: true with the state after it when the error is
uncorrectable, else what the word read differs by from the one intended. A correctable error is counted
and the word corrected (R332, R334, R337). The codes are linear, so the difference alone decides; once
read, it is in the caller's hands. The index of IT_UE_LAST is the word number in MEM 0xB (R358), and a
free value elsewhere (log 20). -/
def useMem (s : State) (m unit k : Nat) (d : Option Nat) (scope : Nat) : Bool × Nat × State :=
  let (inj, s) := injTake s m d
  let (dx, cx) := errOf s m k
  let s := dropErr s m k
  let (ms, n, wd) := if m = 0xA ∨ m = 0xB then (masks39, 32, 128) else (masks72, 64, 256)
  let cx := cx ^^^ (inj % wd)
  if dx = 0 ∧ cx = 0 then (false, 0, s)
  else match check ms n dx cx with
    | .clean => (false, dx, s)
    | .corrected x _ => (false, x, ceEvent s m (inj % wd ≠ 0))
    | .bad syn =>
      let (v, s) := s.nextFree
      let at_ := if m = 0xB then k else v.toNat
      (true, 0, ueEvent s ⟨scope, m, d.getD 0, unit, at_, syn⟩ .demand (inj % wd ≠ 0))

/-- Line k of MEM m, of eight words, written in ascending order. -/
def storeLine (s : State) (m unit k : Nat) (d : Option Nat) : State :=
  (upto 8).foldl (fun s i => storeMem s m unit (8 * k + i) d) s

/-- Line k of MEM m checked as a whole (R337): true where a word is uncorrectable, else what the line read
differs by from the one intended. -/
def useLine (s : State) (m unit k : Nat) (d : Option Nat) : Bool × Line × State :=
  (upto 8).foldl (fun (bad, e, s) i =>
    let (b, x, s) := useMem s m unit (8 * k + i) d 2
    (bad || b, e ||| BitVec.ofNat 512 (x * 2 ^ (64 * i)), s)) (false, 0, s)

/-! ### Lines of MEM 0x4 -/

/-- The line that a tracker collects, and the data of its request. -/
def gotLine (sl t : Nat) : Nat := 2 * (sl * 64 + t)
def dataLine (sl t : Nat) : Nat := 2 * (sl * 64 + t) + 1

/-- A writeback-store entry, and a word of a victim buffer, beyond the trackers' lines. -/
def wbLine (n : Nat) : Nat := 2176 + n
def victimWord (sl n : Nat) : Nat := 8 * (2560 + sl) + n

/-! ### Words of MEM 0x9 and 0xA -/

/-- A checked read of a configuration word before it is used: chip scope. -/
def useCfg (s : State) (m key : Nat) (d : Option Nat) : Bool × State :=
  let (bad, _, s) := useMem s m 0 key d 3
  (bad, s)

/-- Checked reads of several words of MEM 0x9 of a domain: true with the state after the first that is
uncorrectable. -/
def useCfgs (s : State) (d : Nat) : List Nat → Bool × State
  | [] => (false, s)
  | k :: rest =>
    let (bad, s) := useCfg s 9 k (some d)
    if bad then (true, s) else useCfgs s d rest

/-- What MEM 0xB holds (Table 12-1), in words that Config.cosyWord places. -/
inductive CosyItem where
  | straps | boot | smb0 | smb1
deriving DecidableEq, Repr

def CosyItem.code : CosyItem → Nat
  | .straps => 0 | .boot => 1 | .smb0 => 2 | .smb1 => 3

/-- A demand read of MEM 0xB (R358): true with the state after it where the word is uncorrectable. -/
def useCosy (s : State) (c : CosyItem) : Bool × State :=
  let (bad, _, s) := useMem s 0xB 0 (Config.cosyWord c.code).toNat none 4
  (bad, s)

/-- Region entry i stored: both its words are written. -/
def storeRegion (s : State) (i d : Nat) : State :=
  storeMem (storeMem s 9 0 (keyRegion i) (some d)) 9 0 (keyRegion i + 1) (some d)

/-- Region entry i checked: a word that reads otherwise than intended changes the entry. -/
def useRegion (s : State) (d i : Nat) : Bool × State :=
  let (b0, x0, s) := useMem s 9 0 (keyRegion i) (some d) 3
  let (b1, x1, s) := useMem s 9 0 (keyRegion i + 1) (some d) 3
  if b0 || b1 then (true, s)
  else if x0 = 0 ∧ x1 = 0 then (false, s)
  else
    let e := tget 0 s.cfg.eff.region i ^^^ BitVec.ofNat 128 (x0 + 2 ^ 64 * x1)
    (false, { s with cfg := { s.cfg with eff := { s.cfg.eff with region := tset s.cfg.eff.region i e } } })

def useRegions (s : State) (d : Nat) : List Nat → Bool × State
  | [] => (false, s)
  | i :: rest =>
    let (bad, s) := useRegion s d i
    if bad then (true, s) else useRegions s d rest

end Sys2Proof.Machine
end

