-- ==== Sys2Proof/Machine/StrainerOps.lean ====
section
/-!
DEFINITION. The Strainer as the flows use it (R129 to R135), the routes between hubs (R265 to R268), and
the placing of messages with all that the attach hub does then (R133, R225, R230, R321).
-/
namespace Sys2Proof.Machine

/-! ## Strainer lookups -/

/-- Entry states, Table 04-6. -/
inductive HSt where
  | s | f | m
deriving DecidableEq, Repr

def HSt.ofCode (c : Nat) : HSt := if c = 1 then .f else if c = 2 then .m else .s
def HSt.code : HSt → Nat
  | .s => 0 | .f => 1 | .m => 2

def strSet (a : Agent) (l : LAddr) : Nat := l.toNat % a.sets
def strTag (a : Agent) (l : LAddr) : Nat := l.toNat / a.sets

/-- What a lookup of one agent's set has found: ways that hold the line, the lowest-numbered free way (the
one a fill takes, where R132 allows any: DESIGN CHOICE, log 43), whether a word was corrected, whether an
error was uncorrectable. -/
structure StrFound where
  hits : List (Nat × HSt) := []
  free : Option Nat := none
  corr : Bool := false
  bad  : Bool := false
deriving DecidableEq, Repr

/-- One way of the set (R134): valid entries with ST 0b11 or a bit above the tag width are
uncorrectable; their syndrome is a free value (log 43). -/
def strWay (a : Agent) (l : LAddr) (x : StrFound × State) (w : Nat) : StrFound × State :=
  let (r, s) := x
  let at_ := s.strAt a w (strSet a l)
  let (v, gbad, s) := readGroup s at_ .demand
  let live := v.getLsbD (at_.row % 16)
  let (e, corr, ebad, s) := readEnt s at_ live .demand
  let n := e.toNat
  let wrong := live && !ebad && (fld n 39 38 == 3 || nbit n 40 || decide (fld n 37 0 ≥ 2 ^ 46 / a.sets))
  let s := if wrong then
      let (v, s) := s.nextFree
      ueEvent s ⟨if (s.shelfDom at_.bank).isSome then 2 else 0, 0, (s.shelfDom at_.bank).getD 0,
        at_.bank, strPos s at_, v.toNat⟩ .demand false
    else s
  let hit := live && !ebad && !wrong && fld n 37 0 == strTag a l
  ({ hits := if hit then r.hits ++ [(w, HSt.ofCode (fld n 39 38))] else r.hits,
     free := if r.free.isNone && !live then some w else r.free,
     corr := r.corr || corr, bad := r.bad || gbad || ebad || wrong }, s)

/-- A lookup of one mirrored agent's set, its shelves' words of the shelf map checked; two entries with one
tag are uncorrectable (R134). -/
def strFind (s : State) (a : Agent) (l : LAddr) : StrFound × State :=
  let d := (s.shelfDom ((a.shelves[0]?).getD 0)).getD 0
  let (bad, s) := useCfgs s d (a.shelves.map keyShelf)
  if bad then ({ bad }, s)
  else
    let (r, s) := (upto a.ways).foldl (strWay a l) ({}, s)
    if r.hits.length > 1 then ({ r with bad := true }, stateError s 0 d) else (r, s)

/-- The local mirrored holders of a line, ascending (R116), whether a word was corrected, and whether
an error was uncorrectable. -/
def strHolders (s : State) (d : Nat) (l : LAddr) : List (Nat × HSt) × Bool × Bool × State :=
  (s.localMirrored d).foldl (fun (hs, corr, bad, s) n =>
    match s.agent d n with
    | none => (hs, corr, bad, s)
    | some a =>
      let (r, s) := strFind s a l
      (hs ++ (match r.hits.head? with | some (_, st) => [(n, st)] | none => []),
       corr || r.corr, bad || r.bad, s)) ([], false, false, s)

def mkEnt (a : Agent) (l : LAddr) (st : HSt) : BitVec 41 :=
  BitVec.ofNat 41 (2 ^ 38 * st.code + strTag a l)

/-- A fill (R132, R133): the entry of the line in place, else a free way; none is an overflow, which
brings the domain down (R134). -/
def strFill (s : State) (d dan : Nat) (a : Agent) (l : LAddr) (st : HSt) : State :=
  let (r, s) := strFind s a l
  if r.bad then s
  else match r.hits.head? with
    | some (w, _) => writeEnt s (s.strAt a w (strSet a l)) (mkEnt a l st)
    | none => match r.free with
      | some w =>
        let at_ := s.strAt a w (strSet a l)
        let s := writeEnt s at_ (mkEnt a l st)
        setValid s at_ ((tget 0 s.arr.valid at_.grpKey).setWidth 16) true
      | none =>
        let b := (a.shelves[0]?).getD 0
        let s := raise s 13 (some d) (b + 2 ^ 5 * strSet a l + 2 ^ 21 * dan)
        domainDown s d 13 [] none

/-- The entry of a line takes a state, where there is one (R133). -/
def strMark (s : State) (a : Agent) (l : LAddr) (st : HSt) : State :=
  let (r, s) := strFind s a l
  if r.bad then s
  else match r.hits.head? with
    | some (w, _) => writeEnt s (s.strAt a w (strSet a l)) (mkEnt a l st)
    | none => s

/-- The valid bit of a line's entry is cleared (R133). -/
def strClear (s : State) (a : Agent) (l : LAddr) : State :=
  let (r, s) := strFind s a l
  if r.bad then s
  else match r.hits.head? with
    | some (w, _) =>
      let at_ := s.strAt a w (strSet a l)
      setValid s at_ ((tget 0 s.arr.valid at_.grpKey).setWidth 16) false
    | none => s

/-- A mirrored agent attached to this hub. -/
def State.mirrored (s : State) (d dan : Nat) : Option Agent :=
  match s.agent d dan with
  | some a => if a.kind == .mirrored && a.hub == s.hubId then some a else none
  | none => none

/-! ## Messages placed on an agent port -/

/-- The state a message grants its receiver (Table 03-12). -/
def grantOf : Msg → BitVec 2
  | .cmp _ g => g
  | .dat .dsh f _ | .dat .dow f _ | .dat .dfw f _ => f.gst
  | _ => 0

/-- DSH, DOW, DFW, and CMP with GST 0b11: the messages pacing counts (Table 11-3). -/
def isGrant : Msg → Bool
  | .dat .dsh .. | .dat .dow .. | .dat .dfw .. => true
  | .cmp _ g => g == 3
  | _ => false

/-- A final answer to a request of the port's agent (Table 03-13): its reason, 0 unless a NAK. -/
def finalReason : Msg → Option (BitVec 4)
  | .cmp .. => some 0
  | .nak _ r _ _ => some r
  | .dat .dsh .. | .dat .dow .. | .dat .dfw .. => some 0
  | _ => none

/-- The line whose Strainer entry a grant writes. A CMP names none: it is the line of the UPG. -/
def grantLine (q : Port) : Msg → Option LAddr
  | .dat _ f _ => some f.laddr
  | .cmp h _ => (q.upgs.find? fun e => e.1 == h.tid).map Prod.snd
  | _ => none

/-- What the attach hub notes when a transaction's final answer is placed: the write or UPG is no
longer open, CUREs wait for it no more, its DS gate has an answer (R227, R230). -/
def noteAnswer (q : Port) (tid : BitVec 12) (reason : BitVec 4) : Port :=
  { q with
    opens := q.opens.filter fun e => e.2 != tid,
    upgs := q.upgs.filter fun e => e.1 != tid,
    cures := q.cures.map fun c => { c with writes := c.writes.filter fun t => t != tid },
    gateEnd := q.gates.foldl (fun g e => match e.2 with
      | .busy t => if t = tid then tset g e.1 (some reason) else g
      | _ => g) q.gateEnd }

/-- An SNF or a MAT placed on an agent port: the data that answers it is judged by it (R98). -/
def noteAsk (s : State) (p : Nat) (m : Msg) : State :=
  match m with
  | .snp f => if f.op = .snf then s.updRx p fun r => { r with snfs := r.snfs ++ [f] } else s
  | .mrq f _ => if f.op = .mat then s.updRx p fun r => { r with mats := r.mats ++ [f] } else s
  | _ => s

/-- A message placed toward the agent of a port: only while the agent holds the domain's ASSIGN. The
attach hub writes its Strainer (R133), counts grants (R321) and answers (R101). -/
def placeAgent (s : State) (p : Nat) (m : Msg) : State :=
  let d := m.hdr.dom.toNat
  let q := s.port p
  if q.mem.dom ≠ some d ∨ q.mem.sent.isNone ∨ !s.up p then s
  else
    let g := grantOf m
    let line := if isGrant m ∧ g ≠ 0 then grantLine q m else none
    let s := match finalReason m with
      | some r =>
        let s := statAdd s d 1
        let s := if r = 0 then s else statAdd s d (7 + r.toNat)
        s.updPort p fun q => noteAnswer q m.hdr.tid r
      | none => s
    let s := if isGrant m then s.updFore p fun f => { f with count := f.count + 1 } else s
    let s := noteAsk (queueMsg s p m) p m
    match line, s.mirrored d q.mem.dan with
    | some l, some a =>
      strFill s d q.mem.dan a l (if g = 1 then .s else if g = 2 then .f else .m)
    | _, _ => s

/-! ## Routes (R265 to R268) -/

/-- The lowest set bit of x among 0 to 2. -/
def lowBit (x : Nat) : Nat := if x % 2 = 1 then 0 else if x / 2 % 2 = 1 then 1 else 2

/-- The default route from hub a to hub b crosses the edge of dimension k at hub e. -/
def crosses (a b e k : Nat) : Bool :=
  ((upto 3).foldl (fun (cur, hit) j =>
    if (a ^^^ b).testBit j then
      (cur ^^^ 2 ^ j, hit || (j == k && (cur == e || cur ^^^ 2 ^ j == e)))
    else (cur, hit)) (a, false)).2

/-- The span port on which a message to hub t leaves; `placing` is false where it is passed on; `key`
is the agent key of R267. -/
def routePort (s : State) (t d key : Nat) (placing : Bool) : Nat :=
  let k := lowBit (s.hubId ^^^ t)
  let detour := placing && s.home.s3 == 2 && (match s.home.s3edge with
    | some (e, ek) => crosses s.hubId t e ek
    | none => false)
  if detour then 19
  else if s.home.s3 = 1 ∧ s.home.s3dim = k ∧ (d ^^^ key) % 2 = 1 then 19
  else 16 + k

/-- A hub that holds a domain down, not restarting, places no message of it (R199). -/
def silent (s : State) (d : Nat) : Bool := (s.dom d).st == .down && (s.dom d).start.isNone

/-- A message placed on, or passed on over, the span network; through a Down port it is discarded and
its domain brought down (R270). -/
def placeSpan (s : State) (t key : Nat) (placing : Bool) (m : Msg) : State :=
  let d := m.hdr.dom.toNat
  let p := routePort s t d key placing
  if silent s d then s else if s.up p then queueMsg s p m else domainDown s d 4 [] none

/-- A message toward an agent of the domain, wherever it attaches (Table 09-2). -/
def sendAgent (s : State) (d dan : Nat) (m : Msg) : State :=
  match s.agent d dan with
  | none => s
  | some a =>
    if a.hub = s.hubId then match a.port with
      | some p => placeAgent s p m
      | none => s
    else placeSpan s a.hub dan true m

/-- The port on which a message toward an agent leaves, for its credits. -/
def outPort (s : State) (d dan : Nat) : Option Nat :=
  match s.agent d dan with
  | none => none
  | some a => if a.hub = s.hubId then a.port else some (routePort s a.hub d dan true)

/-! ## The requester of a transaction -/

/-- A message to the requester: on the port it came from, or over the span (Table 09-2). -/
def answerReq (s : State) (r : Req) (m : Msg) : State :=
  if r.port < 16 then placeAgent s r.port m
  else sendAgent s r.h.dom.toNat r.h.dan.toNat m

def answerPort (s : State) (r : Req) : Option Nat :=
  if r.port < 16 then some r.port else outPort s r.h.dom.toNat r.h.dan.toNat

/-- NAK (R180). Quota and pool NAKs are counted (R255). -/
def nakReq (s : State) (r : Req) (reason : Nat) (ticket : Option (BitVec 16)) : State :=
  let d := r.h.dom.toNat
  let s := if reason = 3 then nakAdd s d 0 else if reason = 4 then nakAdd s d 1
    else if reason = 5 then nakAdd s d 2 else s
  answerReq s r (.nak r.h (BitVec.ofNat 4 reason) (ticket.getD 0) ticket.isSome)

/-- PROTOCOL (source 8, Table 13-5): port, byte 0 of the slot, the sender's DAN, A[51:12]. -/
def raiseProtocol (s : State) (p : Nat) (d : Option Nat) (m : Msg) (l : LAddr) : State :=
  raise s 8 d (p + 2 ^ 8 * fld (encodeSlot m).toNat 7 0 + 2 ^ 16 * m.hdr.dan.toNat
    + 2 ^ 24 * (l.toNat / 64))

/-- POISON (source 9): data with POI = 1 passed on (R98). -/
def raisePoison (s : State) (p : Nat) (m : Msg) (l : LAddr) : State :=
  raise s 9 (some m.hdr.dom.toNat) (p + 2 ^ 8 * fld (encodeSlot m).toNat 7 0
    + 2 ^ 16 * m.hdr.dan.toNat + 2 ^ 24 * (l.toNat / 64))

end Sys2Proof.Machine
end

