-- ==== Sys2Proof/Machine/DirOps.lean ====
section
/-!
DEFINITION. Trackers as records, the directory cache with its victim buffer (04 R124 to R128, 05 R168 to
R175), the directory word and the holders it names (04 R116 to R120).
-/
namespace Sys2Proof.Machine

/-! ## Trackers -/

def State.trk (s : State) (sl t : Nat) : Option Tracker :=
  s.home.trackers.find? fun x => x.sl == sl && x.num == t

def dropTrk (s : State) (sl t : Nat) : State :=
  s.updHome fun h => { h with trackers := h.trackers.filter fun x => !(x.sl == sl && x.num == t) }

/-- A tracker record stored, while its domain is in service: a domain down frees every tracker, and
none returns (R199). -/
def putTrk (s : State) (x : Tracker) : State :=
  if (s.dom x.dom).st.inService then
    if (s.trk x.sl x.num).isSome then
      s.updHome fun h => { h with
        trackers := h.trackers.map fun y => if y.sl == x.sl && y.num == x.num then x else y }
    else s.updHome fun h => { h with trackers := h.trackers ++ [x] }
  else s

/-- A live tracker: neither FREE nor reserved (R184). -/
def Tracker.live (x : Tracker) : Bool := x.phase != .reserved

/-- The tracker of a slice that holds a line: live, or reserved for a conflict ticket of it (R146,
R184, R251). -/
def State.lineTrk (s : State) (sl d : Nat) (l : LAddr) : Option Tracker :=
  s.home.trackers.find? fun x => x.sl == sl && x.dom == d && x.laddr == l
    && (x.live || (match x.tq with | some q => !q.quota | none => false))

/-! ## MRQs -/

/-- A header of the domain at its current epoch; TID and DAN are for the user to fill in. -/
def hubHdr (s : State) (d : Nat) : Hdr :=
  { tid := 0, dan := 0, epoch := (s.dom d).epoch, dom := BitVec.ofNat 3 d }

def reqHdr (s : State) (r : Req) : Hdr := { r.h with epoch := (s.dom r.h.dom.toNat).epoch }

/-- An MRQ of 2^sz bytes at an offset of a line (R93). -/
def mkMrq (s : State) (h : Hdr) (op : MrqOp) (sz ofs : Nat) (l : LAddr) (sl t : Nat) (poi : Bool) :
    MrqF :=
  { h, op, poi, asz := 0, sub := BitVec.ofNat 4 sz, ofs := BitVec.ofNat 6 ofs, laddr := l,
    htag := mkHtag s.hubId sl t }

/-- An MRQ sent on; an MWR of poisoned data is reported (R98). -/
def sendMrq (s : State) (d dan : Nat) (f : MrqF) (data : Line) : State :=
  let m : Msg := .mrq f data
  let s := match f.poi, outPort s d dan with
    | true, some p => raisePoison s p m f.laddr
    | _, _ => s
  sendAgent s d dan m

/-- An MRQ of a tracker: placed when the port holds an MRQ credit, else it waits in the tracker
(R157). -/
def trkMrq (s : State) (x : Tracker) (dan : Nat) (f : MrqF) (data : Line) : Tracker × State :=
  let d := x.dom
  let free := match outPort s d dan with
    | some p => x.mrqs.isEmpty && (creditFree s p .mrq d || !s.up p)
    | none => true
  if free then (x, sendMrq s d dan f data)
  else ({ x with mrqs := x.mrqs ++ [⟨dan, f, data⟩] }, s)

/-- An MRQ of the hub's own (drains, sweeps): queued for its credit at the port. The spec
names no requester and no tracker for it, so TID, DAN and the tracker of HTAG are free values
(log 15). -/
def hubMrq (s : State) (d dan : Nat) (op : MrqOp) (sz ofs : Nat) (l : LAddr) (sl : Nat) (poi : Bool)
    (data : Line) : State :=
  let (v, s) := s.nextFree
  let h : Hdr := { hubHdr s d with tid := v.extractLsb' 0 12, dan := v.extractLsb' 12 7 }
  sendMrq s d dan (mkMrq s h op sz ofs l sl (v.extractLsb' 19 6).toNat poi) data

/-! ## The directory word (R117 to R119) -/

/-- Word states, Table 04-2. -/
def wSt (w : BitVec 56) : Nat := fld w.toNat 55 54
def wFwd (w : BitVec 56) : Nat := fld w.toNat 53 48
def wBit (w : BitVec 56) (c : Nat) : Bool := nbit w.toNat c
def wVec (w : BitVec 56) : Nat := fld w.toNat 47 0

/-- Candidates whose bit is set. -/
def wBits (w : BitVec 56) : List Nat := (upto 48).filter fun c => wBit w c

def mkWord (st fwd : Nat) (bits : List Nat) : BitVec 56 :=
  BitVec.ofNat 56 (2 ^ 54 * st + 2 ^ 48 * fwd + bits.foldl (fun n b => n ||| 2 ^ b) 0)

/-- A vector bit the home ignores: its DAN is absent, I/O or a memory agent (R119). -/
def staleBit (s : State) (d c : Nat) : Bool :=
  decide (c < 40) && (match s.agent d c with
    | none => true
    | some a => a.kind == .io || a.kind == .memory)

/-- Table 04-3 and the note under it (R118). -/
def wordValid (s : State) (d : Nat) (w : BitVec 56) : Bool :=
  let n := (wBits w).length
  let own := wBit w (40 + s.hubId)
  let mir := (upto 40).any fun c => wBit w c && (match s.agent d c with
    | some a => a.kind == .mirrored
    | none => false)
  !own && !mir &&
  (match wSt w with
   | 0 => n == 0 && wFwd w == 0
   | 1 => n != 0 && wFwd w == 0
   | 2 => n != 0 && decide (wFwd w < 48) && wBit w (wFwd w) && (s.dom d).par.var
   | _ => n == 1 && wFwd w == 0)

/-- A holder: a DAN below 40, or 40 + h for the mirrored agents of hub h; `loc` marks a local mirrored
agent (R116, R144). -/
structure Holder where
  cand : Nat
  st   : HSt
  loc  : Bool
deriving DecidableEq, Repr

/-- The holders of a line from its word and the local Strainer (R116, R119, R249); none where the word is
invalid or the two are inconsistent. A stale bit names no holder, and no forwarder. -/
def holdersOf (s : State) (d : Nat) (w : BitVec 56) (hs : List (Nat × HSt)) : Option (List Holder) :=
  if !wordValid s d w then none
  else
    let ws := ((wBits w).filter fun c => !staleBit s d c).map fun c =>
      (⟨c, if wSt w = 3 then .m else if wSt w = 2 ∧ wFwd w = c then .f else .s, false⟩ : Holder)
    let all := hs.map (fun e => (⟨e.1, e.2, true⟩ : Holder)) ++ ws
    let m := (all.filter fun h => h.st == .m).length
    let f := (all.filter fun h => h.st == .f).length
    if m > 1 ∨ (m = 1 ∧ all.length > 1) ∨ f > 1 then none else some all

/-! ## Directory cache -/

/-- The physical way of logical way i (R346). -/
def State.physWay (s : State) (i : Nat) : Nat := s.physElem 32 i

/-- The nodes on the path to way w with the bit that points away from it (R126). -/
def plruPath (w : Nat) : List (Nat × Bool) :=
  [(1, decide (w / 8 % 2 = 0)), (2 + w / 8, decide (w / 4 % 2 = 0)),
   (4 + w / 4, decide (w / 2 % 2 = 0)), (8 + w / 2, decide (w % 2 = 0))]

def plruTouch (t : BitVec 15) (w : Nat) : BitVec 15 :=
  (plruPath w).foldl (fun t e =>
    if e.2 then t ||| (1#15 <<< (e.1 - 1)) else t &&& ~~~(1#15 <<< (e.1 - 1))) t

/-- The ways below a node at a depth: a node of depth k covers 16 / 2^k ways. -/
def nodeWays (n k : Nat) : List Nat :=
  let span := 16 / 2 ^ k
  (upto span).map fun i => (n - 2 ^ k) * span + i

/-- The pseudo-LRU choice among the ways that `ok` allows (R126). -/
def plruPick (t : BitVec 15) (ok : Nat → Bool) : Option Nat :=
  if !(upto 16).any ok then none
  else
    let n := (upto 4).foldl (fun n k =>
      let b := if t.getLsbD (n - 1) then 1 else 0
      let c := 2 * n + b
      if (nodeWays c (k + 1)).any ok then c else 2 * n + (1 - b)) 1
    some (n - 16)

def touchWay (s : State) (l : LAddr) (w : Nat) : State :=
  s.updArr fun a => { a with plru := tset a.plru (dirSet l) (plruTouch (tget 0 a.plru (dirSet l)) w) }

/-- The tags of a set, every one checked with its owner copy, in way order, and whether anything needed
correction. A way whose tag is uncorrectable holds nothing any more: its domain has gone down (R336). -/
def readSet (s : State) (set : Nat) : List (BitVec 40) × Bool × State :=
  (upto 16).foldl (fun (ts, corr, s) i =>
    let (t, c, b, s) := readTag s (wayKey set (s.physWay i)) false .demand
    (ts ++ [if b then 0 else t], corr || c, s)) ([], false, s)

/-- What a directory-cache lookup answers: the way and its word on a hit, whether anything was corrected,
whether an error has ended the request's own domain. -/
structure DirFound where
  hit  : Option (Nat × BitVec 56) := none
  corr : Bool := false
  bad  : Bool := false
deriving DecidableEq, Repr

/-- A lookup (R124, R153): every way's tag and owner copy checked, the word checked on a hit. An
uncorrectable tag of another domain's way brings that domain down and leaves the lookup to go on. -/
def dirLookup (s : State) (d : Nat) (l : LAddr) : DirFound × State :=
  let (ts, corr, s) := readSet s (dirSet l)
  if stopped s d then ({ corr, bad := true }, s)
  else match ts.findIdx? fun t => tagV t && tagDom t == d && tagAtag t == dirTag l with
    | none => ({ corr }, s)
    | some i =>
      let (w, c, b, s) := readWord s (wayKey (dirSet l) (s.physWay i)) d .demand
      ({ hit := some (i, w), corr := corr || c, bad := b }, touchWay s l i)

/-- The word of a line written with D = 1 (R128), in its tracker when that keeps it (R127). -/
def setWord (s : State) (x : Tracker) (w : BitVec 56) : Tracker × State :=
  let y := { x with word := w }
  match x.wordAt with
  | .way i =>
    let k := wayKey (dirSet x.laddr) (s.physWay i)
    (y, writeWord (writeTag s k (mkTag true x.dom (dirTag x.laddr))) k x.dom w)
  | _ => (y, s)

/-- The line that holds a line's directory word, and the word's offset in it (R121). -/
def dirLine (s : State) (d : Nat) (l : LAddr) : LAddr × Nat :=
  let a := dirAddr (s.dom d).par l
  (BitVec.ofNat 46 (a / 64), a % 64)

/-- The MWR of a directory word (R93, R123). -/
def dirMwr (s : State) (d sl : Nat) (l : LAddr) (w : BitVec 56) : State :=
  let (dl, o) := dirLine s d l
  let (data, s) := s.fill (rangeMask o 8) (numLine (enc64 w).toNat o 8)
  hubMrq s d (s.dom d).par.dirTgt .mwr 3 o dl sl false data

/-- The requester that a tracker serves: the agent of its request or of its WB. -/
def trkHdr (s : State) (x : Tracker) : Hdr :=
  match x.req, x.wb with
  | some r, _ => r.h
  | none, some w => w.h
  | none, none => hubHdr s x.dom

/-- The MWR of a directory word that a tracker writes: the word it kept (R127) or the word its fill
evicts (R175). DAN and TID are those of the tracker's requester (R93, DEDUCED, log 25). -/
def trkDirMwr (s : State) (x : Tracker) (d : Nat) (l : LAddr) (w : BitVec 56) : State :=
  let (dl, o) := dirLine s d l
  let (data, s) := s.fill (rangeMask o 8) (numLine (enc64 w).toNat o 8)
  let h := { hubHdr s d with tid := (trkHdr s x).tid, dan := (trkHdr s x).dan }
  sendMrq s d (s.dom d).par.dirTgt (mkMrq s h .mwr 3 o dl x.sl x.num false) data

/-- Way i of the set is held by a live tracker (R127). -/
def wayHeld (s : State) (set i : Nat) : Bool :=
  s.home.trackers.any fun x => x.live && x.wordAt == .way i && dirSet x.laddr == set

/-- Where a fill goes. -/
inductive FillAt where
  | way (i : Nat) (victim : Option (BitVec 40))
  | tracker
  | wait
deriving DecidableEq, Repr

/-- The line a way's tag and set name (R124). -/
def wayLine (set : Nat) (t : BitVec 40) : LAddr :=
  BitVec.ofNat 46 (tagAtag t * 2048 + ((set % 2048) ^^^ (tagAtag t % 2048)))

/-- The entries of a slice's victim buffer in use, and the lowest-numbered free one. -/
def freeVictim (s : State) (sl : Nat) : Option Nat :=
  (upto 8).find? fun n => !(s.home.victims.any fun v => v.sl == sl && v.num == n)

/-- The choice of R126, R127 and R175 among ways with these tags. -/
def fillAt (s : State) (sl : Nat) (l : LAddr) (ts : List (BitVec 40)) : FillAt :=
  let set := dirSet l
  match ts.findIdx? fun t => !tagV t with
  | some i => .way i none
  | none => match plruPick (tget 0 s.arr.plru set) fun i => !wayHeld s set i with
    | none => .tracker
    | some i =>
      let t := (ts[i]?).getD 0
      if tagD t then if (freeVictim s sl).isNone then .wait else .way i (some t) else .way i none

/-- A dirty word leaves its way: into the victim buffer, its MWR sent (R126, R175). An uncorrectable one
has brought its own domain down instead. -/
def evict (s : State) (x : Tracker) (k : Nat) (t : BitVec 40) : State :=
  let vl := wayLine (dirSet x.laddr) t
  let vd := tagDom t
  let (vw, _, bad, s) := readWord s k vd .demand
  if bad then s
  else
    let n := (freeVictim s x.sl).getD 0
    let h := { hubHdr s vd with tid := (trkHdr s x).tid, dan := (trkHdr s x).dan }
    let s := s.updHome fun y => { y with victims := y.victims ++ [⟨x.sl, n, x.num, h, vd, vl, vw⟩] }
    trkDirMwr (storeMem s 4 x.sl (victimWord x.sl n) (some vd)) x vd vl vw

/-- A fill of a line's word (R126, R127, R175). Answers the tracker, which keeps the word where every
way is held, or waits; true when the fill is done. Where an error found on the way has ended the
tracker's own domain, nothing is done. -/
def dirFill (s : State) (x : Tracker) (w : BitVec 56) (dirty : Bool) : Bool × Tracker × State :=
  let set := dirSet x.laddr
  let (ts, _, s) := readSet s set
  if stopped s x.dom then (false, x, s)
  else match fillAt s x.sl x.laddr ts with
  | .wait => (false, { x with fillWait := some (w, dirty) }, s)
  | .tracker => (true, { x with word := w, wordAt := .own, fillWait := none }, s)
  | .way i v =>
    let k := wayKey set (s.physWay i)
    let s := match v with
      | some t => evict s x k t
      | none => s
    if stopped s x.dom then (false, x, s)
    else
      let s := writeWord (writeTag s k (mkTag dirty x.dom (dirTag x.laddr))) k x.dom w
      (true, { x with word := w, wordAt := .way i, fillWait := none }, touchWay s x.laddr i)

/-- A slice drains after a rotation: whoever serves its lines now also heeds what it still holds (R349). -/
def drains (s : State) (q : Nat) : Bool := (s.home.drainOf.map Prod.fst) == some q

/-- The word of a line in a victim buffer: of its slice, or of the one that drains after a rotation (R175,
R349). Of a line evicted twice the newer word serves. It is checked before it is used. -/
def victimOf (s : State) (sl d : Nat) (l : LAddr) : Option Victim :=
  s.home.victims.reverse.find? fun v => v.dom == d && v.laddr == l
    && (v.sl == sl || drains s v.sl)

/-- A victim's word read with its check: none where it is uncorrectable. -/
def readVictim (s : State) (v : Victim) : Option (BitVec 56) × State :=
  let (bad, e, s) := useMem s 4 v.sl (victimWord v.sl v.num) (some v.dom) 2
  if bad then (none, s)
  else
    let w := v.word ^^^ BitVec.ofNat 56 e
    (some w, s.updHome fun h =>
      { h with victims := h.victims.map fun y => if y == v then { v with word := w } else y })

end Sys2Proof.Machine
end

