-- ==== Sys2Proof/Machine/HomeOps.lean ====
section
/-!
DEFINITION. The home's flows after the lookup: snoops and forward records, the decision by request and
line state, answers, grants and their recording, freeing a tracker (05, 06, 07).
-/
namespace Sys2Proof.Machine

/-! ## The requester as a holder -/

/-- How the home records the requester: nothing for an I/O agent (Table 05-3). -/
inductive Rqst where
  | tracked (cand : Nat)
  | localMir
  | remoteMir (cand : Nat)
  | untracked
deriving DecidableEq, Repr

def rqstOf (s : State) (d dan : Nat) : Rqst :=
  match s.agent d dan with
  | none => .untracked
  | some a => match a.kind with
    | .caching => .tracked dan
    | .mirrored => if a.hub = s.hubId then .localMir else .remoteMir (40 + a.hub)
    | _ => .untracked

/-- A holder that is the requester itself; the home never snoops it (R162, R164). The presence bit of
another hub does not tell which of its mirrored agents holds, so it never makes one of them a holder: its UPG
is served as an RDO, and its hub gets a proxy SNI (DESIGN CHOICE, log 43). -/
def isRequester (s : State) (r : Req) (h : Holder) : Bool :=
  decide (h.cand < 40) && h.cand == r.h.dan.toNat
    && (match rqstOf s r.h.dom.toNat r.h.dan.toNat with
        | .tracked _ => !h.loc
        | .localMir => h.loc
        | _ => false)

/-! ## Snoops and forward records (R163, R201) -/

/-- A snoop to this candidate goes to the requester of a forward record: to its DAN, or as a proxy snoop to
the hub of a mirrored one. -/
def towardRequester (s : State) (f : FwdRec) (cand : Nat) : Bool :=
  if cand < 40 then f.dan == cand else rqstOf s f.dom f.dan == .remoteMir cand

/-- A forward record holds back a snoop of its line to its requester; the records of a slice that
drains after a rotation count for its successor (R201, R349). -/
def recordHolds (s : State) (sl d : Nat) (l : LAddr) (cand : Nat) : Bool :=
  s.home.fwds.any fun f => f.dom == d && f.laddr == l && towardRequester s f cand
    && (f.sl == sl || drains s f.sl)

/-- An SNF of the tracker has been placed and not been answered. -/
def snfOut (x : Tracker) : Bool :=
  x.awaits.any fun a => match a with
    | .snoop c .snf => !(x.heldSnoops.any fun e => e.1 == c)
    | _ => false

/-- 64 forward records of a slice are in use, those that trackers with an SNF outstanding will need
included (R201). -/
def recordsFull (s : State) (sl : Nat) : Bool :=
  decide (64 ≤ (s.home.fwds.filter fun f => f.sl == sl).length
    + (s.home.trackers.filter fun x => x.sl == sl && snfOut x).length)

/-- A snoop sent toward a candidate (R267, R274). -/
def sendSnoop (s : State) (d cand : Nat) (f : SnpF) : State :=
  if stopped s d then s
  else if cand < 40 then sendAgent (statAdd s d 5) d cand (.snp f)
  else placeSpan (statAdd s d 6) (cand - 40) cand true (.snp f)

def mkSnoop (s : State) (x : Tracker) (r : Req) (cand : Nat) (op : SnpOp) (fmode : BitVec 2) : SnpF :=
  { h := reqHdr s r, op, proxy := decide (40 ≤ cand), fmode, laddr := x.laddr,
    htag := mkHtag s.hubId x.sl x.num }

/-- A snoop of a tracker: placed, or held for a forward record (R201). -/
def snoop (x : Tracker) (s : State) (r : Req) (cand : Nat) (op : SnpOp) (fmode : BitVec 2) :
    Tracker × State :=
  let f := mkSnoop s x r cand op fmode
  let x := { x with awaits := x.awaits ++ [.snoop cand op], fmode,
                    phase := .collect }
  if recordHolds s x.sl x.dom x.laddr cand || (op == .snf && recordsFull s x.sl) then
    ({ x with heldSnoops := x.heldSnoops ++ [(cand, f)] }, s)
  else (x, sendSnoop s x.dom cand f)

/-- Snoops to several candidates in the order of R163, which the list is in. -/
def snoopAll (x : Tracker) (s : State) (r : Req) (op : SnpOp) (cs : List Nat) : Tracker × State :=
  cs.foldl (fun (x, s) c => snoop x s r c op 0) (x, s)

/-- Holders in the order of R163: local mirrored, directory-tracked, proxies. -/
def snoopOrder (hs : List Holder) : List Nat :=
  ((hs.filter fun h => h.loc).map Holder.cand)
    ++ ((hs.filter fun h => !h.loc && h.cand < 40).map Holder.cand)
    ++ ((hs.filter fun h => !h.loc && 40 ≤ h.cand).map Holder.cand)

/-! ## The data of a tracker, checked before use (R337) -/

/-- The line a tracker has collected, checked as a whole; true where a word is uncorrectable. -/
def useGot (x : Tracker) (s : State) : Bool × Tracker × State :=
  match x.got with
  | none => (false, x, s)
  | some g =>
    let (bad, e, s) := useLine s 4 x.sl (gotLine x.sl x.num) (some x.dom)
    (bad, { x with got := some (g ^^^ e) }, s)

/-- The data of a tracker's request, checked as a whole. -/
def useData (x : Tracker) (s : State) (r : Req) : Bool × Tracker × Req × State :=
  let (bad, e, s) := useLine s 4 x.sl (dataLine x.sl x.num) (some x.dom)
  let r := { r with data := r.data ^^^ e }
  (bad, { x with req := some r }, r, s)

/-- A held line of the atomic buffer, checked as a whole. -/
def useHeld (x : Tracker) (s : State) : Bool × Tracker × State :=
  let (bad, e, s) := useLine s 5 x.sl (x.sl * 64 + x.num) (some x.dom)
  (bad, { x with got := some (x.got.getD 0 ^^^ e) }, s)

/-- A tracker's collected line is written into it (MEM 0x4). -/
def storeGot (s : State) (x : Tracker) : State := storeLine s 4 x.sl (gotLine x.sl x.num) (some x.dom)

def storeHeld (s : State) (x : Tracker) : State := storeLine s 5 x.sl (x.sl * 64 + x.num) (some x.dom)

/-! ## Line reads and writes of a tracker -/

/-- The region's target of a tracker's line. -/
def lineTgt (s : State) (x : Tracker) : Nat :=
  match s.region x.dom (lineAddr x.laddr 0) with
  | some (_, t) => t
  | none => 0x7F

/-- The line MRD; a line of an SO region with TGT 0x7F that no cache holds reads as zero (R140). -/
def readLine (x : Tracker) (s : State) (r : Req) : Tracker × State :=
  let tgt := lineTgt s x
  let x := { x with phase := .collect }
  if tgt = 0x7F then
    (if x.dirty then x else { x with got := some 0 }, s)
  else
    let (x, s) := trkMrq s x tgt (mkMrq s (reqHdr s r) .mrd 6 0 x.laddr x.sl x.num false) 0
    ({ x with awaits := x.awaits ++ [.line] }, s)

/-- What a read finds of a line with TGT 0x7F that caches hold, or held, and none has sent: the spec gives
it no value, so it is free (log 43). -/
def unheldData (x : Tracker) (s : State) : Tracker × State :=
  if x.held ∧ !x.dirty ∧ x.got = some 0 ∧ lineTgt s x = 0x7F then
    ({ x with got := some (freeLine s.free), held := false }, { s with free := s.free + 8 })
  else (x, s)

/-- The line MWR, its MCP awaited; with TGT 0x7F the data is discarded (R140). -/
def writeLine (x : Tracker) (s : State) (h : Hdr) (data : Line) (poi : Bool) : Tracker × State :=
  let tgt := lineTgt s x
  if tgt = 0x7F then (x, s)
  else
    let (x, s) := trkMrq s x tgt (mkMrq s h .mwr 6 0 x.laddr x.sl x.num poi) data
    ({ x with awaits := x.awaits ++ [.mcp] }, s)

/-! ## The forward chain (R144) -/

def proxCost (s : State) (d dan cand : Nat) : Nat :=
  (tget 3 (s.dom d).prox (dan * 48 + cand)).toNat

/-- The candidate of lowest cost below 7, the lowest number on equal cost. -/
def nearest (s : State) (d dan : Nat) (cs : List Nat) : Option Nat :=
  cs.foldl (fun best c =>
    let k := proxCost s d dan c
    if k ≥ 7 then best
    else match best with
      | none => some c
      | some b => if k < proxCost s d dan b ∨ (k = proxCost s d dan b ∧ c < b) then some c else best)
    none

/-- The SNF mode of a read toward a candidate: Current for RDC; Share, or with FMIG = 1 toward the
forwarder, Share with pass (R159). -/
def chainMode (s : State) (x : Tracker) (cand : Nat) : BitVec 2 :=
  if x.flow = .current then 3
  else if (s.dom x.dom).par.fmig ∧ (s.dom x.dom).par.var ∧ x.fwd = some cand then 1 else 0

/-- The end of the chain: the forwarder where it has not been asked and still holds, else memory. -/
def chainTail (x : Tracker) (s : State) (r : Req) : Tracker × State :=
  match x.fwd with
  | some f =>
    if x.gone.contains f then readLine x s r else snoop x s r f .snf (chainMode s x f)
  | none => readLine x s r

/-- The chain begins at the nearest candidate; the requester's row of the proximity table is checked
first. -/
def chainStart (x : Tracker) (s : State) (r : Req) (cs : List Nat) : Tracker × State :=
  let (_, s) := useCfg s 9 (keyProx x.dom r.h.dan.toNat) (some x.dom)
  match nearest s x.dom r.h.dan.toNat cs with
  | some c => snoop x s r c .snf (chainMode s x c)
  | none => chainTail x s r

/-! ## Recording a grant (R160, Table 05-3) -/

/-- The word after a grant of state g to the requester, with the holders that remain. -/
def grantWord (s : State) (x : Tracker) (rq : Rqst) (g : BitVec 2) (clear : Bool) (w : BitVec 56) :
    BitVec 56 :=
  let bits := (wBits w).filter fun c => !staleBit s x.dom c && !x.gone.contains c
  let bits := if g = 3 ∨ clear then [] else bits
  let fwd := if wSt w = 2 ∧ bits.contains (wFwd w) ∧ !x.kept.contains (wFwd w) then some (wFwd w)
    else none
  let ownM := wSt w = 3 ∧ !bits.any x.kept.contains ∧ g = 0
  let rc : Option Nat := if g = 0 then none else match rq with
    | .tracked c => some c
    | .remoteMir c => some c
    | _ => none
  let bits := match rc with
    | some c => if bits.contains c then bits else bits ++ [c]
    | none => bits
  let fwd := if g = 2 then rc else fwd
  if bits.isEmpty then mkWord 0 0 []
  else if g = 3 ∨ ownM then mkWord 3 0 bits
  else match fwd with
    | some f => mkWord 2 f bits
    | none => mkWord 1 0 bits

/-- Whether the tracker's line has a directory word: a CO line. -/
def coLine (s : State) (d : Nat) (l : LAddr) : Bool :=
  match s.region d (lineAddr l 0) with
  | some (.co, _) => true
  | _ => false

/-- The grant recorded in the line's word, with D = 1; `clear` where no holder may remain. -/
def recordGrant (x : Tracker) (s : State) (r : Req) (g : BitVec 2) (clear : Bool) : Tracker × State :=
  if coLine s x.dom x.laddr ∧ !stopped s x.dom then
    setWord s x (grantWord s x (rqstOf s x.dom r.h.dan.toNat) g clear x.word)
  else (x, s)

/-! ## Freeing a tracker (R149, R170, R184) -/

/-- A tracker freed: a word it kept is written to memory; with a ticket outstanding it becomes reserved,
else it is FREE. -/
def freeTrk (s : State) (x : Tracker) : State :=
  let s := if x.wordAt = .own then trkDirMwr s x x.dom x.laddr x.word else s
  match x.tq with
  | some q =>
    if q.places.isEmpty then dropTrk s x.sl x.num
    else putTrk s { sl := x.sl, num := x.num, dom := x.dom, laddr := x.laddr, phase := .reserved,
                    tq := x.tq, taken := x.taken }
  | none => dropTrk s x.sl x.num

/-- After the grant: DRAIN while an answer is outstanding, else freed. -/
def settle (x : Tracker) (s : State) : State :=
  if x.awaits.isEmpty && x.mrqs.isEmpty then freeTrk s x
  else putTrk s { x with phase := .drain }

/-! ## The atomic buffer (R216, R218, R220) -/

def predIdx (x : Tracker) : Nat :=
  let a := lineAddr x.laddr 0
  (fld a 17 6 ^^^ fld a 29 18 ^^^ (x.dom * 512)) % 4096

/-- Predictor counter of a slice; every counter reads 0b01 after a chip reset (R219). -/
def predGet (s : State) (sl i : Nat) : Nat := (tget 1 s.home.pred (sl * 4096 + i)).toNat

def predSet (s : State) (sl i v : Nat) : State :=
  s.updHome fun h => { h with pred := tset h.pred (sl * 4096 + i) (BitVec.ofNat 2 (min v 3)) }

def predicted (s : State) (d : Nat) : Bool := (s.dom d).par.atmp == 2

/-- The predictor's update at a release (R220). -/
def predRelease (s : State) (x : Tracker) (n : Nat) (forced : Bool) : State :=
  if forced ∨ !predicted s x.dom then s
  else
    let i := predIdx x
    let v := predGet s x.sl i
    if n ≥ 3 then predSet s x.sl i (v + 1) else if n = 1 then predSet s x.sl i (v - 1) else s

/-- A line leaves the atomic buffer, or never entered it: MWR if dirty, then freed on its MCP (R218). -/
def releaseLine (s : State) (x : Tracker) (h : Hdr) (dirty : Bool) : State :=
  let x := { x with hold := none }
  if dirty then
    let (x, s) := writeLine x s h (x.got.getD 0) x.poison
    settle x s
  else settle x s

/-- A held line is released (R218), its predictor entry updated; dirty data is checked before its MWR. -/
def releaseHold (s : State) (x : Tracker) : State :=
  match x.hold, x.req with
  | some (dirty, n, forced), some r =>
    let s := predRelease s x n forced
    let (bad, x, s) := if dirty then useHeld x s else (false, x, s)
    if bad then s else releaseLine s x (reqHdr s r) dirty
  | _, _ => s

/-! ## Grants (R158, R166, R173) -/

/-- The state an RDS is granted: F in an MSI+F domain when no forwarder remains (R158). -/
def shareGst (s : State) (x : Tracker) : BitVec 2 :=
  let remains := match x.fwd with
    | some f => !x.gone.contains f && !x.kept.contains f
    | none => false
  if (s.dom x.dom).par.var && !remains then 2 else 1

def mkDat (s : State) (x : Tracker) (r : Req) (g : BitVec 2) (res poi : Bool) : DatF :=
  { h := reqHdr s r, poi, res, gst := g, laddr := x.laddr, htag := mkHtag s.hubId x.sl x.num }

/-- The final answer that a tracker's flow ends with, once every awaited answer is in. -/
def finalMsg (s : State) (x : Tracker) (r : Req) : Msg :=
  let d := x.got.getD 0
  match x.flow with
  | .share => .dat .dsh (mkDat s x r (shareGst s x) false x.poison) d
  | .own => .dat .dow (mkDat s x r 3 false x.poison) d
  | .upgrade => .cmp (reqHdr s r) 3
  | .atmHome _ =>
    .dat .dsh (mkDat s x r 0 true x.poison) (if x.poison then 0 else (atomLine r.f r.data d).2)
  | .atmMem => .dat .dsh (mkDat s x r 0 true x.poison) (if x.poison then 0 else d)
  | .current | .read => .dat .dsh (mkDat s x r 0 false x.poison) d
  | _ => .cmp (reqHdr s r) 0

/-- The flows whose final answer is a grant that pacing may delay (Table 11-3, R173). -/
def pacedFlow : Flow → Bool
  | .share | .current | .own | .upgrade | .atmHome _ | .atmMem | .read => true
  | _ => false

/-- The grant limit in force on an agent port; none is unlimited (R323). -/
def paceLimit (f : Forecast) : Option Nat :=
  let ceil := if f.par.ceil = 127 then none else some f.par.ceil
  if !f.par.paceEn then none
  else if f.ovr && !f.par.strict then some f.par.ovrLim
  else match f.phase with
    | .lead => some f.limit
    | .ramp => if f.limit ≥ f.par.ceil then ceil else some f.limit
    | _ => ceil

def paceOpen (f : Forecast) : Bool :=
  match paceLimit f with
  | none => true
  | some n => decide (f.count < n)

/-- The MWR of an owner's data for RDS and RDC, which does not wait for the grant (Table 05-5, R190,
R324). True where the data is uncorrectable. -/
def grantWrite (x : Tracker) (s : State) (r : Req) : Bool × Tracker × State :=
  let left := match x.owner with
    | some o => x.gone.contains o || x.kept.contains o
    | none => true
  let due := match x.flow with
    | .share => x.dirty
    | .current => x.dirty && left
    | _ => false
  if due then
    let (bad, x, s) := useGot x s
    if bad then (true, x, s)
    else
      let (x, s) := writeLine x s (reqHdr s r) (x.got.getD 0) x.poison
      (false, { x with dirty := false }, s)
  else (false, x, s)

/-- A home-executed atomic's line enters the atomic buffer, or leaves the home at once (R216, R218). -/
def holdLine (s : State) (x : Tracker) (r : Req) (forced : Bool) : State :=
  let h := reqHdr s r
  let new := if x.poison then x.got.getD 0 else (atomLine r.f r.data (x.got.getD 0)).1
  let dirty := if x.poison then x.dirty else true
  let s := statAdd s x.dom 18
  let full := decide (16 ≤ (s.home.trackers.filter fun y => y.sl == x.sl && y.phase == .hold).length)
  let queued := match x.tq with
    | some q => !q.quota && !q.places.isEmpty
    | none => false
  let x := { x with got := some new, hold := some (dirty, if x.poison then 0 else 1, forced) }
  if full then releaseLine s x h dirty
  else
    let x := { x with phase := .hold }
    let s := storeHeld (putTrk s x) x
    if queued || (s.dom x.dom).st != .started then releaseHold s x else s

/-- What follows the placing of a tracker's grant of state g: recording it, the line's write to memory, the
atomic buffer, freeing (Table 05-5, Table 07-3). -/
def afterGrant (s : State) (x : Tracker) (r : Req) (g : BitVec 2) : State :=
  let h := reqHdr s r
  match x.flow with
  | .share | .current =>
    let (x, s) := recordGrant x s r g false
    let (bad, x, s) := grantWrite x s r
    if bad then s else settle x s
  | .own | .upgrade =>
    let (x, s) := recordGrant x s r 3 false
    settle x s
  | .wrl =>
    let (x, s) := recordGrant x s r 0 true
    let (bad, x, r, s) := useData x s r
    if bad then s
    else
      let (x, s) := writeLine x s h r.data false
      settle x s
  | .wrp =>
    let (x, s) := recordGrant x s r 0 true
    let (x, s) := if r.mask = 0 then (x, s)
      else writeLine x s h (mergeLine r.mask r.data (x.got.getD 0)) x.poison
    settle x s
  | .atmHome forced =>
    let (x, s) := recordGrant x s r 0 true
    holdLine s x r forced
  | .atmMem =>
    let (x, s) := recordGrant x s r 0 true
    settle x (statAdd s x.dom 20)
  | _ => settle x s

/-- The lines that a tracker's final answer depends on, checked: what it collected, and for a merge or an
atomic the data of the request. -/
def useFinal (x : Tracker) (s : State) (r : Req) : Bool × Tracker × Req × State :=
  let (bad, x, s) := match x.flow with
    | .share | .current | .own | .wrp | .atmHome _ | .atmMem | .read => useGot x s
    | _ => (false, x, s)
  if bad then (true, x, r, s)
  else match x.flow with
    | .wrp | .atmHome _ => useData x s r
    | _ => (false, x, r, s)

/-- The grant of a tracker placed: the line is checked before its header slot (R337), poison passed on
is reported (R98). -/
def placeGrant (s : State) (x : Tracker) (r : Req) : State :=
  let (bad, x, r, s) := useFinal x s r
  if bad then s
  else
    let m := finalMsg s x r
    let s := if x.poison then match answerPort s r with
        | some p => raisePoison s p m x.laddr
        | none => s
      else s
    afterGrant (answerReq s r m) x r (grantOf m)

/-- The credit a final answer needs on its way out. -/
def grantCredit (s : State) (x : Tracker) (r : Req) : Bool :=
  let m := finalMsg s x r
  match answerPort s r with
  | some p => creditFree s p m.cls (r.h.dom.toNat) || !s.up p
  | none => true

/-- A tracker taken more than 4 µs before its grant became ready: pacing never delays it (R324). -/
def oldAt (x : Tracker) (t : Nat) : Bool := decide (x.taken + 32 < t)

/-- The trackers whose delayed grants wait for a port, in ready order. -/
def waiting (s : State) (p : Nat) : List Tracker :=
  (s.port p).ready.filterMap fun e => (s.trk e.1 e.2).filter fun y => y.phase == .grant

/-- A grant that is ready: placed at once, or delayed for a credit or for pacing (R173, R322, R324).
CMPs of writes are neither. -/
def readyGrant (s : State) (x : Tracker) (r : Req) : State :=
  let (x, s) := unheldData x s
  if !pacedFlow x.flow then placeGrant s x r
  else
    let paced : Bool := decide (r.port < 16) && !oldAt x s.uptime
      && (!paceOpen (s.port r.port).fore || (waiting s r.port).any fun y => y.pacedAt.isSome)
    let behind : Bool := decide (r.port < 16) && !oldAt x s.uptime
      && (waiting s r.port).any fun y => !oldAt y y.readyAt
    if grantCredit s x r && !paced && !behind then placeGrant s x r
    else
      let s := if paced then s.updFore r.port fun f => { f with delayed := bump f.delayed } else s
      let s := if r.port < 16 then
          s.updPort r.port fun q => { q with ready := q.ready ++ [(x.sl, x.num)] } else s
      let (bad, x, s) := grantWrite x s r
      if bad then s
      else putTrk s { x with phase := .grant, readyAt := s.uptime,
                             pacedAt := if paced then some s.uptime else none }

/-! ## Progress of a tracker -/

/-- What the grant still waits for: a discarded line read does not hold it back. -/
def blocking (x : Tracker) : List Await :=
  x.awaits.filter fun a => !(x.dropLine && a == .line)

/-- Whether a flow needs line data before it ends. -/
def needsData : Flow → Bool
  | .share | .current | .own | .wrp | .atmHome _ => true
  | _ => false

/-- A tracker after an event: its final answer is ready when nothing it needs is outstanding. Data that
no answer brought is read from memory; a memory-placed atomic sends its MAT (R214, R215). -/
def progress (x : Tracker) (s : State) : State :=
  match x.req with
  | none => putTrk s x
  | some r =>
    if stopped s x.dom then s
    else if x.phase = .grant then putTrk s x
    else if !(blocking x).isEmpty || !x.heldSnoops.isEmpty || x.phase == .dirread then putTrk s x
    else if x.flow = .atmMem ∧ x.got.isNone then
      let f := { mkMrq s (reqHdr s r) .mat 0 r.f.ofs.toNat x.laddr x.sl x.num false with
        asz := r.f.asz, sub := r.f.sub }
      let (bad, x, r, s) := useData x s r
      if bad then s
      else
        let (x, s) := trkMrq s x (lineTgt s x) f r.data
        putTrk s { x with awaits := x.awaits ++ [.mat], phase := .collect }
    else if needsData x.flow && x.got.isNone then
      let (x, s) := readLine x s r
      if x.got.isSome then readyGrant s x r else putTrk s x
    else readyGrant s x r

/-! ## The decision (Table 05-4) -/

/-- RDS and RDC. `paired` tells that a paired line read is outstanding or its data is in (R169). -/
def decideRead (x : Tracker) (s : State) (r : Req) (hs : List Holder) (op : SnpOp) (paired : Bool) :
    Tracker × State :=
  match hs.find? fun h => h.st == .m with
  | some h =>
    snoop { x with dropLine := paired, got := none, owner := some h.cand } s r h.cand op 0
  | none =>
    if paired then ({ x with phase := .collect }, s)
    else if hs.isEmpty then readLine x s r
    else chainStart x s r (hs.map Holder.cand)

/-- RDS and RDC in an SO region with mirrored agents on other hubs: every such hub is snooped as a possible
owner in M, a local owner in M as itself, and the line is read (R140, R161). -/
def soRead (x : Tracker) (s : State) (r : Req) (hs : List Holder) (op : SnpOp) (proxies : List Nat) :
    Tracker × State :=
  let own := hs.filter fun h => h.st == .m
  let (x, s) := snoopAll { x with owner := (own.head?).map Holder.cand } s r op
    (own.map Holder.cand ++ proxies)
  readLine x s r

/-- RDO, and an UPG served as one: its owner is snooped with SNI (R193). -/
def decideOwn (x : Tracker) (s : State) (r : Req) (hs : List Holder) (upg paired : Bool) :
    Tracker × State :=
  match hs.find? fun h => h.st == .m with
  | some h =>
    let x := { x with dropLine := paired, got := none, owner := some h.cand }
    if upg then snoop x s r h.cand .sni 0 else snoop x s r h.cand .snf 2
  | none =>
    let (x, s) := snoopAll x s r .sni (snoopOrder hs)
    if paired then ({ x with phase := .collect }, s) else readLine x s r

/-- Writes and atomics: SNI to every holder; the line read where `rd` and no owner has the data. -/
def decideWrite (x : Tracker) (s : State) (r : Req) (hs : List Holder) (rd paired : Bool) :
    Tracker × State :=
  let own := hs.find? fun h => h.st == .m
  let x := { x with owner := own.map Holder.cand, phase := .collect,
                    dropLine := own.isSome && paired, got := if own.isSome then none else x.got }
  let (x, s) := snoopAll x s r .sni (snoopOrder hs)
  if rd && own.isNone && !paired then readLine x s r else (x, s)

/-- Placement of an ATM (R212, R213): carried out at the home, and whether R213 forces it there. -/
def atmPlacement (s : State) (x : Tracker) (own : Bool) (tgt : Nat) : Bool × Bool :=
  let matc := match s.agent x.dom tgt with
    | some a => a.matc
    | none => false
  let mode := (s.dom x.dom).par.atmp.toNat
  if !matc || tgt == 0x7F || own then (true, mode != 0)
  else if mode = 0 then (true, false)
  else if mode = 2 then (decide (2 ≤ predGet s x.sl (predIdx x)), false)
  else (false, false)

/-- The flow that an ATM's lookup places it in, before the home's records of its line are known (R212). -/
def atmLookupFlow (s : State) (x : Tracker) : Flow :=
  let (home, forced) := atmPlacement s x false (lineTgt s x)
  if home then .atmHome forced else .atmMem

/-- The placement of an ATM whose lookup has decided it: an owner in M forces the home (R212, R213). -/
def atmDecided (s : State) (x : Tracker) (own : Bool) : Bool × Bool :=
  if own then atmPlacement s x true (lineTgt s x)
  else match x.flow with
    | .atmHome forced => (true, forced)
    | .atmMem => (false, false)
    | _ => atmPlacement s x false (lineTgt s x)

/-- The flow of a request over the holders the home records (Table 05-4, R161, R211 to R214). `so`
lists the hubs that receive proxy snoops in an SO region; there a local owner in M, too, gets SNI for RDO
and for a UPG served as one (DESIGN CHOICE, log 43: R161 words it for the proxy snoops). -/
def decideFlow (x : Tracker) (s : State) (r : Req) (all : List Holder) (so : List Nat) (paired : Bool) :
    State :=
  let d := x.dom
  let mine := all.filter fun h => isRequester s r h
  let hs := all.filter fun h => !isRequester s r h
  let fwd := ((all.filter fun h => h.st == .f).head?).map Holder.cand
  let x := { x with fwd := if mine.any fun h => h.st == .f then none else fwd, held := !all.isEmpty }
  let proxies := so.map fun h => 40 + h
  match r.op with
  | .rds =>
    let x := { x with flow := .share }
    let (x, s) := if so.isEmpty then decideRead x s r hs .sns paired else soRead x s r hs .sns proxies
    progress x s
  | .rdc =>
    let x := { x with flow := .current }
    let (x, s) := if so.isEmpty then decideRead x s r hs .snc paired else soRead x s r hs .snc proxies
    progress x s
  | .rdo =>
    let x := { x with flow := .own }
    if so.isEmpty then
      let (x, s) := decideOwn x s r hs false paired
      progress x s
    else
      let (x, s) := snoopAll x s r .sni (snoopOrder hs ++ proxies)
      let (x, s) := readLine { x with owner := (hs.find? fun h => h.st == .m).map Holder.cand } s r
      progress x s
  | .upg =>
    if !mine.isEmpty then
      let (x, s) := snoopAll { x with flow := .upgrade, phase := .collect } s r .sni
        (snoopOrder hs ++ proxies)
      progress x s
    else
      let x := { x with flow := .own }
      if so.isEmpty then
        let (x, s) := decideOwn x s r hs true paired
        progress x s
      else
        let (x, s) := snoopAll x s r .sni (snoopOrder hs ++ proxies)
        let (x, s) := readLine { x with owner := (hs.find? fun h => h.st == .m).map Holder.cand } s r
        progress x s
  | .wrl =>
    let (x, s) := decideWrite { x with flow := .wrl } s r hs false false
    let (x, s) := snoopAll x s r .sni proxies
    progress x s
  | .wrp =>
    let rd := decide (r.mask ≠ 0)
    if so.isEmpty then
      let (x, s) := decideWrite { x with flow := .wrp } s r hs rd paired
      progress x s
    else
      let (x, s) := decideWrite { x with flow := .wrp } s r hs false false
      let (x, s) := snoopAll x s r .sni proxies
      let (x, s) := readLine x s r
      progress x s
  | .atm =>
    let bad := mine.any fun h => h.loc || h.st != .s
    if bad then
      let s := raiseProtocol s r.port (some d) (.req r.op r.h r.f 0) x.laddr
      nakReq (freeTrk s x) r 8 none
    else
      let own := hs.any fun h => h.st == .m
      let x := { x with gone := mine.map Holder.cand }
      let (home, forced) := atmDecided s x own
      if home then
        let (x, s) := decideWrite { x with flow := .atmHome forced } s r hs so.isEmpty paired
        let (x, s) := snoopAll x s r .sni proxies
        let (x, s) := if so.isEmpty then (x, s) else readLine x s r
        progress x s
      else
        let (x, s) := decideWrite { x with flow := .atmMem } s r hs false false
        let (x, s) := snoopAll x s r .sni proxies
        progress x s
  | _ => putTrk s x

end Sys2Proof.Machine
end

