-- ==== Sys2Proof/Machine/ReqOps.lean ====
section
/-!
DEFINITION. The lookup of a request at its home: conflicts and tickets (06), quotas (08 R250 to R255), the
flows by region, the merge buffer (07 R233 to R239), and writebacks (05 R150, 06 R189 to R192).
-/
namespace Sys2Proof.Machine

/-! ## Tickets (R183 to R186, R251, R252) -/

/-- The place issued next: place 0 first, then the first free one in cyclic order after the last. -/
def nextPlace : Option TQueue → Option Nat
  | none => some 0
  | some q => ([1, 2, 3, 4].map fun i => (q.last + i) % 4).find? fun k => !q.places.contains k

def issue (q : Option TQueue) (quota : Bool) (k : Nat) : TQueue :=
  match q with
  | none => ⟨quota, [k], k⟩
  | some q => { q with places := q.places ++ [k], last := k }

/-- The tracker whose queue a presented ticket names, where the ticket is valid (R186, R252). -/
def ticketTrk (s : State) (r : Req) (sl : Nat) : Option Tracker :=
  let t := r.f.ticket
  if r.f.tkv && ticketHub t == s.hubId && ticketSlice t == sl then
    match s.trk sl (ticketTracker t) with
    | some x => match x.tq with
      | some q =>
        if x.dom == r.h.dom.toNat && q.places.contains (ticketPlace t)
          && (q.quota || x.laddr == r.f.laddr) then some x else none
      | none => none
    | none => none
  else none

/-- A place of a tracker's queue is served, expired or released. The queue, though empty, stays with a
live tracker and remembers the place issued last; it ends when the tracker is freed (R183, R184). -/
def dropPlace (x : Tracker) (k : Nat) : Tracker :=
  { x with tq := x.tq.map fun q => { q with places := q.places.filter fun p => p != k } }

def noPlaces (x : Tracker) : Bool :=
  match x.tq with
  | some q => q.places.isEmpty
  | none => true

/-- A reserved tracker moves to its next ticket, or is freed with its queue (R184). -/
def passReserved (s : State) (x : Tracker) (k : Nat) : State :=
  let x := dropPlace x k
  if noPlaces x then dropTrk s x.sl x.num else putTrk s x

/-! ## Quotas (R250) -/

/-- u: the REQ trackers a domain holds on a slice, reserved and HOLD ones included. -/
def usedTrk (s : State) (sl d : Nat) : Nat :=
  (s.home.trackers.filter fun x => x.sl == sl && x.dom == d && x.flow != .writeback).length

def poolSize (s : State) : Nat := 56 - (allDoms.map fun d => (s.dom d).par.q).sum
def poolUsed (s : State) (sl : Nat) : Nat :=
  (allDoms.map fun d => usedTrk s sl d - (s.dom d).par.q).sum

/-- The lowest-numbered free REQ tracker of a slice (R146). -/
def freeTracker (s : State) (sl : Nat) : Option Nat :=
  (upto 56).find? fun t => (s.trk sl t).isNone

def hasQuotaTicket (s : State) (sl d : Nat) : Bool :=
  s.home.trackers.any fun x => x.sl == sl && x.dom == d && (match x.tq with
    | some q => q.quota && !q.places.isEmpty
    | none => false)

/-- Rows 1 and 2 of Table 08-4. -/
def quotaAdmits (s : State) (sl d : Nat) (ignoreTicket : Bool) : Option Nat :=
  let u := usedTrk s sl d
  let p := (s.dom d).par
  match freeTracker s sl with
  | none => none
  | some t =>
    if u < p.q then some t
    else if u < p.q + p.b ∧ poolUsed s sl < poolSize s ∧ (ignoreTicket ∨ !hasQuotaTicket s sl d) then
      some t
    else none

/-- The tracker on which a quota queue hangs: the one the domain has, else the oldest live REQ tracker
that carries no queue (R251). Trackers stand in the order they were taken. -/
def quotaQueueTrk (s : State) (sl d : Nat) : Option Tracker :=
  let mine := s.home.trackers.filter fun x => x.sl == sl && x.dom == d
  match mine.find? fun x => (match x.tq with | some q => q.quota | none => false) with
  | some x => some x
  | none => mine.find? fun x => x.live && x.flow != .writeback && x.tq.isNone

/-- Rows 3 to 5 of Table 08-4: the NAK of a request no tracker admits. -/
def quotaNak (s : State) (r : Req) (sl : Nat) : State :=
  let d := r.h.dom.toNat
  let p := (s.dom d).par
  if usedTrk s sl d ≥ p.q + p.b then nakReq s r 4 none
  else match quotaQueueTrk s sl d with
    | some x => match nextPlace x.tq with
      | some k =>
        let s := putTrk s { x with tq := some (issue x.tq true k) }
        nakReq s r 3 (some (mkTicket s.hubId sl x.num k))
      | none => nakReq s r 5 none
    | none => nakReq s r 5 none

/-! ## The merge buffer (R234 to R239) -/

def State.merge (s : State) (i : Nat) : Option Merge := s.home.merges.find? fun m => m.id == i

def State.mergeOf (s : State) (d : Nat) (l : LAddr) : Option Merge :=
  s.home.merges.find? fun m => m.dom == d && m.laddr == l

def putMerge (s : State) (m : Merge) : State :=
  s.updHome fun h => { h with merges := h.merges.map fun y => if y.id == m.id then m else y }

/-- An entry read with its check (MEM 0x6), as a whole: true where a word is uncorrectable. -/
def useMerge (s : State) (m : Merge) : Bool × Merge × State :=
  let (bad, e, s) := useLine s 6 0 m.id (some m.dom)
  let m := { m with data := m.data ^^^ e }
  (bad, m, putMerge s m)

/-- The drain of an entry starts (R237); a drain in progress goes on. -/
def startDrain (s : State) (i : Nat) : State :=
  match s.merge i with
  | none => s
  | some m =>
    if m.drain ≠ 0 then s
    else
      let (bad, m, s) := useMerge s m
      if bad then s
      else match s.region m.dom (lineAddr m.laddr 0) with
        | none => s
        | some (_, tgt) =>
          match alignedBlock m.valid with
          | some (k, o) =>
            let s := putMerge s { m with drain := 2 }
            let (data, s) := s.fill (rangeMask o (2 ^ k)) m.data
            hubMrq s m.dom tgt .mwr k o m.laddr m.sl m.poison data
          | none =>
            let s := putMerge s { m with drain := 1 }
            hubMrq s m.dom tgt .mrd 6 0 m.laddr m.sl false 0

/-- The entries of a domain, or of all, not yet draining, oldest first. -/
def idleEntries (s : State) (f : Merge → Bool) : List Merge :=
  s.home.merges.filter fun m => m.drain == 0 && f m

/-- The bytes of a write entered in the line's entry, or in a new one: the entry's number, and whether a
word of the entry was uncorrectable (R234). -/
def enterBytes (s : State) (x : Tracker) (r : Req) (bytes : BitVec 64) : Bool × Nat × State :=
  let who := (r.h.dan.toNat, r.f.stream)
  match s.mergeOf x.dom x.laddr with
  | some m =>
    let (bad, m, s) := useMerge s m
    (bad, m.id, putMerge s { m with data := mergeLine bytes r.data m.data, valid := m.valid ||| bytes,
                                    who := if m.who.contains who then m.who else m.who ++ [who] })
  | none =>
    let i := ((upto 64).find? fun i => (s.merge i).isNone).getD 0
    (false, i, s.updHome fun h => { h with
      merges := h.merges ++ [⟨i, x.dom, x.laddr, mergeLine bytes r.data 0, bytes, false, [who], x.sl, 0,
        s.uptime⟩] })

/-- A write enters the buffer and completes (R234). A CURE that waits for the write then waits for the
entry's drain, which starts (R227, Table 07-5). A REQ carries no POI, so no write is poisoned on its way
in (R239, log 43). -/
def enterMerge (s : State) (x : Tracker) (r : Req) (bytes : BitVec 64) : State :=
  let (bad, x, r, s) := useData x s r
  if bad then s
  else
    let (bad, i, s) := enterBytes s x r bytes
    if bad then s
    else
      let s := storeLine s 6 0 i (some x.dom)
      let waited := (s.port r.port).cures.any fun c => c.writes.contains r.h.tid
      let note := fun (c : Cure) =>
        if c.writes.contains r.h.tid then { c with drains := c.drains ++ [(i, x.laddr)] } else c
      let s := s.updPort r.port fun q => { q with cures := q.cures.map note }
      let s := answerReq s r (.cmp (reqHdr s r) 0)
      let s := freeTrk s x
      match s.merge i with
      | some m => if waited || m.valid == BitVec.allOnes 64 then startDrain s i else s
      | none => s

/-- Writes that waited for a drain which has completed, in the order of their lookups; each takes the next
free entry (R234, R235). -/
def mergeTurn (s : State) (x : Tracker) : List Tracker :=
  s.home.trackers.filter fun y => y.flow == .ncMerge && y.phase == .collect && y.awaits.isEmpty
    && !(y.sl == x.sl && y.num == x.num)

/-- A tracker waits for the drain of an entry (R235, R238). -/
def waitDrain (s : State) (x : Tracker) (i : Nat) : State :=
  let s := startDrain s i
  putTrk s { x with awaits := [.drain i], phase := .collect }

/-- An eligible write at the buffer (R233 to R235, R255). -/
def mergeWrite (s : State) (x : Tracker) (r : Req) (bytes : BitVec 64) : State :=
  let who := (r.h.dan.toNat, r.f.stream)
  match s.mergeOf x.dom x.laddr with
  | some m =>
    if m.drain ≠ 0 ∨ (!m.who.contains who ∧ m.who.length ≥ 4) then waitDrain s x m.id
    else enterMerge s x r bytes
  | none =>
    let mine := s.home.merges.filter fun m => m.dom == x.dom
    let turn := mergeTurn s x
    let wait := fun (l : List Merge) => match l.head? with
      | some m => waitDrain s x m.id
      | none => putTrk s { x with awaits := [], phase := .collect }
    if mine.length + (turn.filter fun y => y.dom == x.dom).length ≥ (s.dom x.dom).par.mbq then
      wait ((idleEntries s fun m => m.dom == x.dom) ++ mine)
    else if s.home.merges.length + turn.length ≥ 64 then wait s.home.merges
    else enterMerge s x r bytes

/-! ## NC, DS and DR requests (R172, R229, R233, R238) -/

/-- Bytes an RNC or WNC names: 2^SZ of them at OFS; a full line for the others. -/
def reqBytes (r : Req) : BitVec 64 :=
  match r.op with
  | .rnc | .wnc => rangeMask r.f.ofs.toNat (2 ^ r.f.sub.toNat)
  | .wrp => r.mask
  | _ => BitVec.allOnes 64

/-- Only these requests enter the merge buffer (R233). -/
def mergeEligible (s : State) (r : Req) (rt : RType) : Bool :=
  rt == .nc && (r.op == .wnc || r.op == .wrp || r.op == .wrl) && r.port < 16
    && (s.dom r.h.dom.toNat).par.mbq != 0
    && (match s.agent r.h.dom.toNat r.h.dan.toNat with
        | some a => a.kind == .io
        | none => false)

/-- The MRQ of a non-coherent or device request (R172, R233). -/
def ncStart (s : State) (x : Tracker) (r : Req) : State :=
  let tgt := lineTgt s x
  let h := reqHdr s r
  match r.op with
  | .rnc =>
    let (x, s) := trkMrq s x tgt
      (mkMrq s h .mrd r.f.sub.toNat r.f.ofs.toNat x.laddr x.sl x.num false) 0
    putTrk s { x with flow := .read, awaits := [.line], phase := .collect }
  | .rdc =>
    let (x, s) := trkMrq s x tgt (mkMrq s h .mrd 6 0 x.laddr x.sl x.num false) 0
    putTrk s { x with flow := .read, awaits := [.line], phase := .collect }
  | .wnc =>
    let (bad, x, r, s) := useData x s r
    if bad then s
    else
      let (x, s) := trkMrq s x tgt
        (mkMrq s h .mwr r.f.sub.toNat r.f.ofs.toNat x.laddr x.sl x.num false)
        (mergeLine (reqBytes r) r.data 0)
      putTrk s { x with flow := .devWrite, awaits := [.mcp], phase := .collect }
  | .wrl =>
    let (bad, x, r, s) := useData x s r
    if bad then s
    else
      let (x, s) := trkMrq s x tgt (mkMrq s h .mwr 6 0 x.laddr x.sl x.num false) r.data
      putTrk s { x with flow := .ncWrl, awaits := [.mcp], phase := .collect }
  | .wrp =>
    let (x, s) := trkMrq s x tgt (mkMrq s h .mrd 6 0 x.laddr x.sl x.num false) 0
    putTrk s { x with flow := .ncWrp, awaits := [.line], phase := .collect }
  | _ => decideFlow x s r [] [] false

/-- A request to an NC, DS or DR region with its tracker taken. -/
def ncLookup (s : State) (x : Tracker) (r : Req) (rt : RType) : State :=
  if r.op = .wrp ∧ r.mask = 0 then
    freeTrk (answerReq s r (.cmp (reqHdr s r) 0)) x
  else if mergeEligible s r rt then mergeWrite s { x with flow := .ncMerge } r (reqBytes r)
  else if rt = .nc then
    match s.mergeOf x.dom x.laddr with
    | none => ncStart s x r
    | some m =>
      if r.op = .rnc ∨ r.op = .rdc then
        let want := reqBytes r
        if want &&& m.valid = want then
          let (bad, m, s) := useMerge s m
          if bad then s
          else
            let (data, s) := s.fill want m.data
            let x := { x with flow := .read, got := some data, poison := m.poison }
            readyGrant s x r
        else if want &&& m.valid = 0 then ncStart s x r
        else waitDrain s x m.id
      else waitDrain s x m.id
  else ncStart s x r

/-! ## CO and SO requests (R168, R169, R161) -/

/-- The decision once the word is known (R116, R118). -/
def decideWord (s : State) (x : Tracker) (r : Req) (w : BitVec 56) (hs : List (Nat × HSt))
    (paired : Bool) : State :=
  match holdersOf s x.dom w hs with
  | none => stateError s 3 x.dom
  | some all => decideFlow x s r all [] paired

/-- The request may take the skim path, as far as opcode, ticket reservations of the line and the MRQ
credit for the region's target decide (R155). -/
def skims (s : State) (x : Tracker) (r : Req) : Bool :=
  (r.op == .rds || r.op == .rdo || r.op == .rdc)
    && (match x.tq with
        | some q => q.quota || q.places.isEmpty
        | none => true)
    && (match outPort s x.dom (lineTgt s x) with
        | some p => creditFree s p .mrq x.dom
        | none => false)

/-- A request to a CO region with its tracker taken (R151, R168). -/
def coLookup (s : State) (x : Tracker) (r : Req) : State :=
  let d := x.dom
  let (hs, c1, b1, s) := strHolders s d x.laddr
  let (f, s) := dirLookup s d x.laddr
  if b1 || f.bad then s
  else match f.hit with
    | some (i, w) =>
      let s := statAdd s d 3
      let skim := skims s x r && !c1 && !f.corr && wSt w == 0 && hs.isEmpty
      decideWord (if skim then statAdd s d 2 else s) { x with word := w, wordAt := .way i } r w hs false
    | none =>
      let s := statAdd s d 4
      match victimOf s x.sl d x.laddr with
      | some v =>
        match readVictim s v with
        | (none, s) => s
        | (some w, s) =>
          let (done, x, s) := dirFill s x w true
          if done then decideWord s x r w hs false
          else putTrk s { x with phase := .dirread }
      | none =>
        let (dl, o) := dirLine s d x.laddr
        let x := { x with phase := .dirread, awaits := [.word] }
        let (x, s) := trkMrq s x (s.dom d).par.dirTgt
          (mkMrq s (reqHdr s r) .mrd 3 o dl x.sl x.num false) 0
        let pair := (r.op == .rds || r.op == .rdo || r.op == .rdc || r.op == .wrp)
          && !(hs.any fun e => e.2 == .m)
        if pair then
          let (x, s) := trkMrq s x (lineTgt s x)
            (mkMrq s (reqHdr s r) .mrd 6 0 x.laddr x.sl x.num false) 0
          putTrk s { x with awaits := x.awaits ++ [.line] }
        else putTrk s x

/-- A request to an SO region with its tracker taken (R155, R161). -/
def soLookup (s : State) (x : Tracker) (r : Req) : State :=
  let (hs, corr, bad, s) := strHolders s x.dom x.laddr
  let skim := skims s x r && !corr && hs.isEmpty && (s.mirrorHubs x.dom).isEmpty && lineTgt s x != 0x7F
  let s := if skim && !bad then statAdd s x.dom 2 else s
  if bad then s
  else match holdersOf s x.dom 0 hs with
    | none => stateError s 0 x.dom
    | some all => decideFlow x s r all (s.mirrorHubs x.dom) false

/-- The requests that bring data, which their tracker keeps (MEM 0x4). -/
def bringsData : ReqOp → Bool
  | .wrl | .wrp | .atm | .wnc => true
  | _ => false

/-- A request with its tracker taken goes on by its region type. A pair with MASK all ones has the
effect of a WRL, one with MASK all zero writes nothing (R89). -/
def serve (s : State) (x : Tracker) (r : Req) (rt : RType) : State :=
  let s := if bringsData r.op then storeLine s 4 x.sl (dataLine x.sl x.num) (some x.dom) else s
  let r := if r.op = .wrp ∧ r.mask = BitVec.allOnes 64 then { r with op := .wrl } else r
  let x := { x with req := some r }
  let x := if r.op = .atm then { x with flow := atmLookupFlow s x } else x
  match rt with
  | .co | .so =>
    if r.op = .wrp ∧ r.mask = 0 then freeTrk (answerReq s r (.cmp (reqHdr s r) 0)) x
    else if rt = .co then coLookup s x r else soLookup s x r
  | _ => ncLookup s x r rt

def newTrk (s : State) (r : Req) (sl t : Nat) (tq : Option TQueue) : Tracker :=
  { sl, num := t, dom := r.h.dom.toNat, laddr := r.f.laddr, phase := .lookup, req := some r, tq,
    taken := s.uptime }

/-! ## The atomic buffer's own executions (R217) -/

/-- The messages queued for a port that the credits it holds do not cover. -/
def uncovered (p : Nat) (t : Tx) : List Msg :=
  (t.q.foldl (fun (l, seen) m =>
    let n := tget 0 seen (msgKey p m)
    (if n < tget 0 t.credits (msgKey p m) then l else l ++ [m], tset seen (msgKey p m) (n + 1)))
    (([] : List Msg), ([] : Tbl Nat))).1

/-- The result queue of a slice: results of its held lines for which no DAT credit is held (R217). A
tracker's result is placed with its credit, so it never stands there. -/
def resultsQueued (s : State) (sl : Nat) : Nat :=
  (allPorts.map fun p => ((uncovered p (s.port p).tx).filter fun m => match m with
    | .dat .dsh f _ => f.res && htagSlice f.htag == sl
    | _ => false).length).sum

/-- An ATM that meets a held line (R210, R217). -/
def inBuffer (s : State) (x : Tracker) (r : Req) : State :=
  if resultsQueued s x.sl ≥ 8 then nakReq s r 5 none
  else
    let (bad, x, s) := useHeld x s
    if bad then s
    else
      let old := x.got.getD 0
      let (new, res) := atomLine r.f r.data old
      let m : Msg := .dat .dsh (mkDat s x r 0 true x.poison) (if x.poison then 0 else res)
      let s := statAdd s x.dom 19
      let s := if x.poison then s else match x.hold with
        | some (_, n, forced) =>
          storeHeld (putTrk s { x with got := some new, hold := some (true, n + 1, forced) }) x
        | none => s
      let s := if x.poison then match answerPort s r with
          | some p => raisePoison s p m x.laddr
          | none => s
        else s
      answerReq s r m

/-! ## The lookup (R178, R179) -/

/-- The opcodes a region type admits (Table 03-4); RDS, RDO and UPG of an SO region only from mirrored
agents (R140). -/
def opAllowed (s : State) (r : Req) (rt : RType) : Bool :=
  match rt, r.op with
  | .co, .rnc | .co, .wnc | .so, .rnc | .so, .wnc => false
  | .co, _ => true
  | .so, .rds | .so, .rdo | .so, .upg =>
    (match s.agent r.h.dom.toNat r.h.dan.toNat with
     | some a => a.kind == .mirrored
     | none => false)
  | .so, _ => true
  | .nc, .rds | .nc, .rdo | .nc, .upg => false
  | .nc, _ => true
  | _, .rnc | _, .wnc => true
  | _, _ => false

/-- The alignment rule of R87. -/
def misaligned (r : Req) : Bool :=
  match r.op with
  | .atm => decide (r.f.ofs.toNat % aszBytes r.f.asz ≠ 0)
  | .rnc | .wnc => decide (r.f.ofs.toNat % 2 ^ r.f.sub.toNat ≠ 0)
  | _ => false

/-- A field rule of R84, R87 or Table 03-5 broken: BAD_REQUEST. ASZ means something in an ATM alone; its
reserved value in another request is ignored (DESIGN CHOICE, log 42). -/
def badFields (r : Req) : Bool :=
  match r.op with
  | .cure => r.f.laddr != 0 || r.f.ofs != 0 || r.f.sub != 0
  | .atm => r.f.asz == 3 || decide (9 < r.f.sub.toNat)
  | .rnc | .wnc => decide (6 < r.f.sub.toNat)
  | _ => r.f.ofs != 0 || r.f.sub != 0

/-- The switch window in progress affects a slice's REQs (R348). -/
def switchHits (s : State) (sl : Nat) : Bool :=
  match s.home.switching with
  | none => false
  | some k => k == 16 || s.sliceMap k == some sl

/-- A request that meets a line already in use: NAKed with a ticket, or carried out in the atomic
buffer (Table 06-1). `live` is the live tracker of the line, `x` the tracker that carries its queue. -/
def conflict (s : State) (r : Req) (x : Tracker) : State :=
  let quota : Bool := match x.tq with
    | some q => q.quota
    | none => false
  if quota then nakReq s r 2 none
  else match nextPlace x.tq with
    | none => nakReq s r 2 none
    | some k =>
      let x' := { x with tq := some (issue x.tq false k) }
      let s := putTrk s x'
      let s := if x.phase = .hold then releaseHold s x' else s
      nakReq s r 1 (some (mkTicket s.hubId x.sl x.num k))

/-- A REQ at its home slice, its region known: steps 2 to 6 of R179. -/
def lookup (s : State) (r : Req) (rt : RType) : State :=
  let d := r.h.dom.toNat
  let l := r.f.laddr
  match s.physSlice l with
  | none => nakReq s r 6 none
  | some sl =>
    if switchHits s sl then nakReq s r 6 none
    else if (s.dom d).st ≠ .started then nakReq s r 7 none
    else
      let live := s.home.trackers.find? fun x => x.sl == sl && x.dom == d && x.laddr == l && x.live
      let resv := s.home.trackers.find? fun x => x.sl == sl && x.dom == d && x.laddr == l && !x.live
        && (match x.tq with | some q => !q.quota | none => false)
      let old := s.home.trackers.any fun x => x.dom == d && x.laddr == l && x.live
        && x.sl != sl && drains s x.sl
      let valid := ticketTrk s r sl
      if old then nakReq s r 2 none
      else match live, resv with
        | some x, rv =>
          let held := x.phase == .hold && r.op == .atm
          match valid with
          | some v =>
            if v.laddr = l ∧ !(match v.tq with | some q => q.quota | none => true) then
              nakReq s r 1 (some r.f.ticket)
            else if held then inBuffer s x r else conflict s r (rv.getD x)
          | none =>
            if held then inBuffer s x r
            else
              let s := if r.op = .atm ∧ x.flow = .atmMem ∧ predicted s d then
                  predSet s sl (predIdx x) (predGet s sl (predIdx x) + 1) else s
              conflict s r (rv.getD x)
        | none, some x =>
          match valid with
          | some v =>
            if v.num = x.num then
              if (match x.tq with | some q => q.places.head? | none => none)
                  = some (ticketPlace r.f.ticket) then
                let x' := dropPlace x (ticketPlace r.f.ticket)
                serve (dropTrk s sl x.num) (newTrk s r sl x.num x'.tq) r rt
              else nakReq s r 1 (some r.f.ticket)
            else conflict s r x
          | none => conflict s r x
        | none, none =>
          match valid with
          | some v =>
            let k := ticketPlace r.f.ticket
            if v.phase = .reserved ∧ (match v.tq with | some q => q.places.head? | none => none) = some k
            then
              let v' := dropPlace v k
              serve (dropTrk s sl v.num) (newTrk s r sl v.num v'.tq) r rt
            else match quotaAdmits s sl d true with
              | some t =>
                let s := if v.live then putTrk s (dropPlace v k) else passReserved s v k
                serve s (newTrk s r sl t none) r rt
              | none => nakReq s r 3 (some r.f.ticket)
          | none =>
            match quotaAdmits s sl d false with
            | some t => serve s (newTrk s r sl t none) r rt
            | none => quotaNak s r sl

/-- The region entries that a lookup reads: every one is matched, and a word that reads as it was written
changes nothing, so these are the entry that matches and those whose words differ (R137, R337). -/
def regionsRead (s : State) (d a : Nat) : List Nat :=
  let first := (upto 64).find? fun i => rgMatch (tget 0 s.cfg.eff.region i) d a
  (upto 64).filter fun i => some i == first || errOf s 9 (keyRegion i) != (0, 0)
    || errOf s 9 (keyRegion i + 1) != (0, 0)

/-- The configuration words that a lookup reads beside them: domain parameters, agent-map entry, slice
map. -/
def lookupWords (r : Req) : List Nat :=
  let d := r.h.dom.toNat
  [keyPar d, keyMap d r.h.dan.toNat, keySmap (sliceHash (lineAddr r.f.laddr 0))]

/-- A REQ at its home hub: steps 1 to 6 of R179, on configuration words that pass their checks. -/
def homeReq (s : State) (r : Req) : State :=
  if badFields r then nakReq s r 8 none
  else
    let d := r.h.dom.toNat
    let (bad, s) := useRegions s d (regionsRead s d (lineAddr r.f.laddr 0))
    let (bad', s) := if bad then (true, s) else useCfgs s d (lookupWords r)
    if bad' then s
    else match s.region r.h.dom.toNat (lineAddr r.f.laddr 0) with
      | none => nakReq s r 0xA none
      | some (rt, _) =>
        if !opAllowed s r rt then nakReq s r 0xA none
        else if misaligned r then nakReq s r 9 none
        else lookup s r rt

end Sys2Proof.Machine
end

