-- ==== Sys2Proof/Machine/FlowOps.lean ====
section
/-!
DEFINITION. What answers do to trackers (05 R160 to R170, 06 R189 to R195), writebacks (05 R150, 06 R189 to
R192), proxy snoops (05 R165), forwarded data (06 R201).
-/
namespace Sys2Proof.Machine

/-! ## Writebacks -/

/-- How the home records the writer of a WB: a DAN, or the hub of a mirrored agent elsewhere. -/
def writerCand (s : State) (d dan : Nat) : Nat :=
  match rqstOf s d dan with
  | .remoteMir c => c
  | _ => dan

/-- CMP of a WB (R91). -/
def wbCmp (s : State) (w : WbEntry) : State :=
  let h := { w.h with epoch := (s.dom w.h.dom.toNat).epoch }
  let m : Msg := .cmp h 0
  if w.port < 16 then placeAgent s w.port m else sendAgent s h.dom.toNat h.dan.toNat m

/-- A WB leaves the store: its data is checked, its credit is returned where the port still awaits it, and
its CMP goes (R150, R189). Answers the WB as read; true where the data was uncorrectable, which has taken
its domain down. -/
def wbLeave (s : State) (w : WbEntry) : Bool × WbEntry × State :=
  let d := w.h.dom.toNat
  let (bad, e, s) := if w.op = .wbm then
      useLine s 4 ((s.physSlice w.laddr).getD 0) (wbLine w.num) (some d) else (false, 0, s)
  if bad then (true, w, s)
  else
    let s := s.updHome fun h => { h with wbs := h.wbs.erase w }
    let s := if w.owed then returnCredit s w.port .wb d else s
    (false, { w with data := w.data ^^^ e }, wbCmp s w)

def wbProtocol (s : State) (w : WbEntry) : State :=
  raiseProtocol s w.port (some w.h.dom.toNat) (.wb w.op w.h w.laddr 0) w.laddr

/-- The word after a holder is removed (R191, Table 05-5). -/
def dropHolder (s : State) (d c : Nat) (w : BitVec 56) : BitVec 56 :=
  let bits := (wBits w).filter fun b => b != c && !staleBit s d b
  if bits.isEmpty then mkWord 0 0 []
  else if wSt w = 3 then mkWord 3 0 bits
  else if wSt w = 2 ∧ bits.contains (wFwd w) then mkWord 2 (wFwd w) bits
  else mkWord 1 0 bits

/-- What a WB does to the line's word, for a writer that is no local mirrored agent (R191): answers whether
a WBM's data is good. -/
def wbWord (s : State) (x : Tracker) (w : WbEntry) : Bool × Tracker × State :=
  let d := w.h.dom.toNat
  let c := writerCand s d w.h.dan.toNat
  let v := x.word
  let own := wSt v == 3 && wBit v c
  let held := wBit v c
  let remote := decide (40 ≤ c)
  match w.op with
  | .wbm =>
    let s := if own then s else wbProtocol s w
    if held && !remote then
      let (x, s) := setWord s x (dropHolder s d c v)
      (own, x, s)
    else (own, x, s)
  | .evc =>
    let s := if own && !remote then wbProtocol s w else s
    if held && !remote then
      let (x, s) := setWord s x (dropHolder s d c v)
      (false, x, s)
    else (false, x, s)

/-- A WB whose word is known, with its tracker: MWR for a good WBM, else freed (Table 05-5). -/
def wbFinish (s : State) (x : Tracker) (w : WbEntry) (good : Bool) : State :=
  if good then
    let (x, s) := writeLine { x with awaits := [] } s { hubHdr s x.dom with tid := w.h.tid, dan := w.h.dan }
      w.data false
    settle x s
  else settle { x with awaits := [] } s

/-- A WB whose tracker has its line's word: a word that breaks Table 04-3 is an uncorrectable error
(R118). -/
def wbApply (s : State) (x : Tracker) (w : WbEntry) : State :=
  if !wordValid s x.dom x.word then stateError s 3 x.dom
  else
    let (good, x, s) := wbWord s x w
    wbFinish s x w good

/-- A WB of a writer that the directory tracks, at its line's word: in the directory cache, in a victim
buffer, else read from memory while the WB stands in its tracker (R191). -/
def wbLookup (s : State) (x : Tracker) (w : WbEntry) : State :=
  let d := x.dom
  let (f, s) := dirLookup s d w.laddr
  if f.bad then s
  else match f.hit with
    | some (i, v) => wbApply s { x with word := v, wordAt := .way i } w
    | none => match victimOf s x.sl d w.laddr with
      | some v => match readVictim s v with
        | (none, s) => s
        | (some v, s) =>
          let (done, x, s) := dirFill s x v true
          if done then wbApply s x w
          else putTrk s { x with wb := some w, phase := .dirread }
      | none =>
        let (dl, o) := dirLine s d w.laddr
        let (x, s) := trkMrq s { x with phase := .dirread, awaits := [.word] } (s.dom d).par.dirTgt
          (mkMrq s { hubHdr s d with tid := w.h.tid, dan := w.h.dan } .mrd 3 o dl x.sl x.num false) 0
        putTrk s { x with wb := some w }

/-- The configuration words that a WB's lookup reads, checked (R337). -/
def useWbCfg (s : State) (w : WbEntry) : Bool × State :=
  let d := w.h.dom.toNat
  let a := lineAddr w.laddr 0
  let (bad, s) := useRegions s d (regionsRead s d a)
  if bad then (true, s) else useCfgs s d [keyMap d w.h.dan.toNat, keySmap (sliceHash a)]

/-- A WB takes a writeback tracker, and its CMP goes at once (R150, R191). In an SO region the home keeps no
record of the mirrored agents of other hubs: their WBM is good (DEDUCED, log 43). No other agent but a
local mirrored one can own a line there. -/
def wbTake (s : State) (w : WbEntry) (sl t : Nat) : State :=
  let d := w.h.dom.toNat
  let (bad, s) := useWbCfg s w
  let (bad', w, s) := if bad then (true, w, s) else wbLeave s w
  if bad' || stopped s d then s
  else
    let x : Tracker := { sl, num := t, dom := d, laddr := w.laddr, phase := .lookup, flow := .writeback,
                         taken := s.uptime }
    let wbm := w.op == .wbm
    match s.region d (lineAddr w.laddr 0), rqstOf s d w.h.dan.toNat with
    | some (.co, _), .localMir | some (.so, _), .localMir =>
      let own := w.had == 3
      wbFinish (if wbm = own then s else if wbm || own then wbProtocol s w else s) x w (wbm && own)
    | some (.so, _), .remoteMir _ => wbFinish s x w wbm
    | some (.so, _), _ => wbFinish (if wbm then wbProtocol s w else s) x w false
    | some (.co, _), _ => wbLookup s x w
    | _, _ => wbFinish (wbProtocol s w) x w false

/-- Trackers 56 to 63 free on a slice (R146). -/
def freeWbTrk (s : State) (sl : Nat) : List Nat :=
  ([56, 57, 58, 59, 60, 61, 62, 63]).filter fun t => (s.trk sl t).isNone

/-- A domain may take a writeback tracker when enough stay free for every other started domain that
holds none (R255). -/
def wbAdmits (s : State) (sl d : Nat) : Option Nat :=
  let others := allDoms.filter fun e => e != d && (s.dom e).st.inService
    && !(s.home.trackers.any fun x => x.sl == sl && x.dom == e && x.flow == .writeback)
  let free := freeWbTrk s sl
  match free with
  | t :: rest => if others.length ≤ rest.length then some t else none
  | [] => none

/-- In an SO region the hub of a mirrored agent elsewhere, of which the home keeps no record, may own the
line (R161; DEDUCED, log 43). -/
def soRemote (s : State) (x : Tracker) (c : Nat) : Bool :=
  decide (40 ≤ c) && (match s.region x.dom (lineAddr x.laddr 0) with
    | some (.so, _) => true
    | _ => false)

/-- The data of an absorbed WBM is the line's, as if its writer's snoop had been answered with SRD, NST I
(R190). A memory-placed atomic whose MAT has gone has no use for it. -/
def takeWbm (x : Tracker) (s : State) (c : Nat) (data : Line) : State :=
  let x := { x with awaits := x.awaits.erase (.wbm c), wbData := none }
  if x.flow = .atmMem ∧ (x.got.isSome ∨ x.awaits.contains .mat) then progress x s
  else
    let x := { x with got := some data, dirty := true, poison := false, held := true,
                      dropLine := x.dropLine || x.awaits.contains .line,
                      flow := if x.flow = .atmMem then .atmHome true else x.flow }
    progress x (storeGot s x)

/-- A WB absorbed after its line's grant (R189): the writer leaves the word, and the data of one that the
grant, or the home before it, made owner goes to memory (DEDUCED, log 25). -/
def absorbDrain (s : State) (x : Tracker) (w : WbEntry) : State :=
  let d := x.dom
  let c := writerCand s d w.h.dan.toNat
  let co := coLine s d w.laddr
  let own := w.op == .wbm && (w.had == 3 || soRemote s x c
    || (co && wSt x.word == 3 && wBit x.word c))
  let s := if w.op = .wbm ∧ !own then wbProtocol s w else s
  let (x, s) := if own then
      writeLine x s { hubHdr s d with tid := w.h.tid, dan := w.h.dan } w.data false else (x, s)
  let (x, s) := if 40 ≤ c ∨ !co then (x, s) else setWord s x (dropHolder s d c x.word)
  putTrk s x

/-- An absorbed WB (R189, R190): the tracker notes that the writer no longer holds the line. A WBM of the
line's owner is kept until the owner's snoop is answered, or serves as that answer. -/
def absorb (s : State) (x : Tracker) (w : WbEntry) : State :=
  let c := writerCand s x.dom w.h.dan.toNat
  let (bad, w, s) := wbLeave s w
  if bad || stopped s x.dom then s
  else if x.phase = .drain then absorbDrain s x w
  else
    let x := { x with absorbed := x.absorbed ++ [c],
                      gone := if 40 ≤ c then x.gone else x.gone ++ [c] }
    match w.op with
    | .evc => putTrk s x
    | .wbm =>
      if x.phase ≠ .dirread ∧ x.owner ≠ some c ∧ w.had ≠ 3 ∧ !soRemote s x c then
        putTrk (wbProtocol s w) x
      else
        let x := { x with wbData := some (c, w.data), wbOwned := w.had == 3 }
        let asked := x.awaits.any fun a => match a with
          | .snoop n _ => n == c
          | _ => false
        if asked || x.phase == .dirread then putTrk s x else takeWbm x s c w.data

/-- One attempt to serve a WB of the store (Table 06-1): absorbed by a live REQ tracker, kept while a
writeback tracker holds its line, else a writeback tracker where one may be taken. -/
def wbTry (s : State) (w : WbEntry) : State :=
  let d := w.h.dom.toNat
  match s.physSlice w.laddr with
  | none => s
  | some sl =>
    if switchHits s sl then s
    else
      let live := s.home.trackers.find? fun x => x.dom == d && x.laddr == w.laddr && x.live
        && (x.sl == sl || drains s x.sl)
      match live with
      | some x =>
        if x.sl ≠ sl ∨ x.flow = .writeback then s
        else if x.phase = .hold then
          let (bad, w, s) := wbLeave s w
          if w.op = .wbm ∧ !bad then wbProtocol s w else s
        else absorb s x w
      | none => match wbAdmits s sl d with
        | some t => wbTake s w sl t
        | none => s

/-- The writeback store served, oldest WB first (R150). -/
def serveStore (s : State) : State := s.home.wbs.foldl wbTry s

/-! ## Answers of memory -/

/-- The flow a request takes when its line's owner has already written the line back. -/
def ownedFlow (s : State) (x : Tracker) (r : Req) : Flow :=
  match r.op with
  | .rds => .share
  | .rdc => .current
  | .rdo | .upg => .own
  | .wrl => .wrl
  | .wrp => .wrp
  | .atm => .atmHome (atmPlacement s x true (lineTgt s x)).2
  | _ => x.flow

/-- The decision once the word has been read. A holder whose WB was absorbed meanwhile holds the line no
longer (R189): an owner's WBM is taken as its snoop's answer, SRD with NST I (R190); an owner that sent EVC
is reported as in R191 (DEDUCED, log 25). A local mirrored owner has left the Strainer at its WBM, so the
tracker knows it from the delivery. A mirrored agent of another hub is snooped all the same (R120). -/
def decideLate (s : State) (x : Tracker) (r : Req) (w : BitVec 56) (hs : List (Nat × HSt))
    (paired : Bool) : State :=
  match holdersOf s x.dom w hs with
  | none => stateError s 3 x.dom
  | some all =>
    let out := fun (h : Holder) => decide (h.cand < 40) && x.absorbed.contains h.cand
    let rest := all.filter fun h => !out h
    let owner := if x.wbOwned then x.wbData.map Prod.fst
      else (all.find? fun h => out h && h.st == .m).map Holder.cand
    match owner, x.wbData with
    | none, _ => decideFlow x s r rest [] paired
    | some c, some (c', d) =>
      if c = c' then takeWbm { x with flow := ownedFlow s x r, owner := some c } s c d
      else decideFlow x s r rest [] paired
    | some c, none =>
      let m : Msg := .wb .evc { r.h with dan := BitVec.ofNat 7 c } x.laddr 0
      decideFlow x (raiseProtocol s r.port (some x.dom) m x.laddr) r rest [] paired

/-- A tracker after its word has been filled: a WB is applied, a request decided (R169, R171). An absorbed
WBM of an agent that turns out to be no owner is reported and its data dropped (R191). -/
def wordReady (s : State) (x : Tracker) (w : BitVec 56) : State :=
  match x.wb, x.req with
  | some b, _ => serveStore (wbApply s { x with wb := none } b)
  | none, some r =>
    let (hs, _, bad, s) := strHolders s x.dom x.laddr
    if bad then s
    else
      let (x, s) := match x.wbData with
        | some (c, _) =>
          if (wSt w == 3 && wBit w c) || x.wbOwned then (x, s)
          else ({ x with wbData := none },
            raiseProtocol s r.port (some x.dom) (.wb .wbm { r.h with dan := BitVec.ofNat 7 c } x.laddr 0)
              x.laddr)
        | none => (x, s)
      let paired := x.awaits.contains .line || x.got.isSome
      decideLate s { x with phase := .collect } r w hs paired
  | none, none => s

/-- A directory word delivered (R169, R175, R336): checked, filled, and the flow decided. -/
def onWord (s : State) (x : Tracker) (poi : Bool) (data : Line) : State :=
  let x := { x with awaits := x.awaits.erase .word }
  let (_, o) := dirLine s x.dom x.laddr
  let w := BitVec.ofNat 64 (lineNum data o 8)
  let (w, corr, bad, s) := checkWord s x.dom x.sl w
  if bad then s
  else if poi then ueEvent s ⟨2, 3, x.dom, x.sl, 0, 0⟩ .demand false
  else
    let (done, x, s) := dirFill s x w corr
    if done then wordReady s x w else putTrk s x

/-- Line data delivered (R157, R169, R233). -/
def onLine (s : State) (x : Tracker) (poi : Bool) (data : Line) : State :=
  let x := { x with awaits := x.awaits.erase .line }
  if x.dropLine || x.dirty then
    let x := { x with dropLine := false }
    if x.phase = .drain then settle x s else progress x s
  else
    let x := { x with got := some data, poison := poi }
    let s := storeGot s x
    match x.flow, x.req with
    | .ncWrp, some r =>
      let (bad, x, s) := useGot x s
      let (bad', x, r, s) := if bad then (true, x, r, s) else useData x s r
      if bad' then s
      else
        let (x, s) := trkMrq s x (lineTgt s x)
          (mkMrq s (reqHdr s r) .mwr 6 0 x.laddr x.sl x.num poi)
          (mergeLine r.mask r.data (x.got.getD 0))
        putTrk s { x with awaits := x.awaits ++ [.mcp] }
    | _, _ => progress x s

/-- A MAT's result delivered (Table 07-3). -/
def onMat (s : State) (x : Tracker) (poi : Bool) (data : Line) : State :=
  let x := { x with awaits := x.awaits.erase .mat, got := some data, poison := poi }
  progress x (storeGot s x)

/-- The MCP of a tracker's MWR (R149, R172). -/
def onMcp (s : State) (x : Tracker) : State :=
  let x := { x with awaits := x.awaits.erase .mcp }
  match x.phase, x.req with
  | .collect, some r =>
    if x.awaits.isEmpty then serveStore (readyGrant s x r) else putTrk s x
  | .grant, _ => putTrk s x
  | _, _ => serveStore (settle x s)

/-- The tracker an answer of memory names: its HTAG, the line of the MRQ, the requester (R83). -/
def answerTrk (s : State) (h : Hdr) (l : LAddr) (htag : BitVec 14) (ok : Tracker → Bool) :
    Option Tracker :=
  match s.trk (htagSlice htag) (htagTracker htag) with
  | some x =>
    let dl := (dirLine s x.dom x.laddr).1
    if x.dom = h.dom.toNat ∧ (x.laddr = l ∨ (dl = l ∧ x.awaits.contains .word)) ∧ ok x then some x
    else none
  | none => none

/-! ## Snoop answers at the home -/

/-- The SRF of a forward: the grant is recorded, the tracker freed, and a forward record opened unless
the DFW has gone already (R160, R167, R201). -/
def onSrf (s : State) (x : Tracker) (r : Req) : State :=
  let (x, s) := match x.flow with
    | .share =>
      recordGrant x s r (if x.fmode = 1 then 2 else 1) false
    | .own => recordGrant x s r 3 false
    | _ => recordGrant x s r 0 false
  let s := if x.dfw then s
    else s.updHome fun h => { h with fwds := h.fwds ++ [⟨x.sl, x.dom, x.laddr, r.h.dan.toNat⟩] }
  serveStore (settle { x with heldSnoops := [] } s)

/-- The next step of a flow whose SNF brought no forward: the forwarder, unless it was the one asked, then
memory (R144, R194). Any other answer without data leaves the flow to what it still awaits. -/
def chainOn (x : Tracker) (s : State) (r : Req) (cand : Nat) (snf : Bool) : State :=
  let (x, s) := if !snf then (x, s)
    else if x.fwd = some cand then readLine x s r else chainTail x s r
  progress x s

/-- The answerer's own copy after an answer with NST (R160). -/
def noteNst (x : Tracker) (cand : Nat) (nst : BitVec 2) : Tracker :=
  if nst = 0 then { x with gone := x.gone ++ [cand] }
  else if nst = 1 then { x with kept := x.kept ++ [cand] } else x

/-- A snoop answer at the home (R160, R190, R194, R195, R213). The recorded owner's answer without data
waits for its WBM only where R190 says so; a WBM absorbed before it is taken with it. -/
def homeAnswer (s : State) (x : Tracker) (r : Req) (op : AnsOp) (cand : Nat) (nst : BitVec 2)
    (poi : Bool) (data : Line) : State :=
  let snf := x.awaits.contains (.snoop cand .snf)
  let x := { x with held := x.held || op != .srm, awaits := x.awaits.filter fun a => match a with
    | .snoop c _ => c != cand
    | _ => true }
  match op with
  | .sri | .srm =>
    let x := { x with gone := x.gone ++ [cand] }
    let mine := x.owner == some cand || soRemote s x cand
    match x.wbData with
    | some (c, d) => if mine ∧ c = cand then takeWbm x s c d else chainOn x s r cand snf
    | none =>
      if x.owner = some cand ∧ (op = .srm ↔ snf) then putTrk s { x with awaits := x.awaits ++ [.wbm cand] }
      else chainOn x s r cand snf
  | .srs => chainOn (noteNst x cand nst) s r cand snf
  | .srf =>
    let x := noteNst x cand nst
    if snf then onSrf s x r else progress x s
  | .srd =>
    let x := if nst = 0 then { x with gone := x.gone ++ [cand] }
      else if nst = 3 then x else { x with kept := x.kept ++ [cand] }
    let flow := if x.flow = .atmMem then .atmHome true else
      match x.flow with
      | .atmHome _ => if (s.dom x.dom).par.atmp = 0 then x.flow else .atmHome true
      | f => f
    let x := { x with got := some data, dirty := true, poison := poi, flow,
                      owner := if x.owner.isSome then x.owner else some cand,
                      dropLine := x.dropLine || x.awaits.contains .line }
    progress x (storeGot s x)

/-! ## Proxy snoops (R165, R103) -/

def ansRank : AnsOp → Nat
  | .srd => 4 | .srf => 3 | .srs => 2 | .sri => 1 | .srm => 0

def strongest (hs : List (Nat × HSt)) : BitVec 2 :=
  if hs.any fun e => e.2 == .m then 3 else if hs.any fun e => e.2 == .f then 2
  else if hs.isEmpty then 0 else 1

/-- The combined answer of a proxy snoop toward the home, with the SNP credit returned. -/
def proxyReply (s : State) (p : Nat) (f : SnpF) (op : AnsOp) (nst : BitVec 2) (poi : Bool)
    (data : Line) : State :=
  let d := f.h.dom.toNat
  let a : AnsF := { h := { f.h with dan := BitVec.ofNat 7 (40 + s.hubId) },
                    nst := if op.usesNst then nst else 0, laddr := f.laddr, htag := f.htag,
                    poi }
  let s := placeSpan s (htagHub f.htag) (40 + s.hubId) true (.ans op a data)
  returnCredit s p .snp d

/-- A proxy snoop (R165): the local holders are snooped, or SRM answered. -/
def proxySnoop (s : State) (p : Nat) (f : SnpF) : State :=
  let d := f.h.dom.toNat
  let (gone, s) := useCfgs s d [keyMap d f.h.dan.toNat, keyProx d f.h.dan.toNat]
  let (hs, _, bad, s) := strHolders s d f.laddr
  if gone || bad then s
  else
    let hs := hs.filter fun e => e.1 != f.h.dan.toNat
    let tgts : List Nat := match f.op with
      | .snf => match hs.find? fun e => e.2 == .f with
        | some e => [e.1]
        | none =>
          let cs := hs.map Prod.fst
          (cs.foldl (fun (best : Option Nat) c => match best with
            | none => some c
            | some b => if proxCost s d f.h.dan.toNat c < proxCost s d f.h.dan.toNat b then some c
                        else some b) none).toList
      | _ => hs.map Prod.fst
    if tgts.isEmpty then proxyReply s p f .srm 0 false 0
    else
      let s := s.updHome fun h => { h with proxies := h.proxies ++ [⟨p, f, tgts, none, 0, false⟩] }
      tgts.foldl (fun s n => sendAgent (statAdd s d 5) d n (.snp { f with proxy := false })) s

/-- The opcode of the combined answer (R103): of the answers received the strongest, where they brought
data or forwarded it; else by whether any local agent still holds the line, or held it. -/
def combined (best : AnsOp) (left : List (Nat × HSt)) : AnsOp :=
  match best with
  | .srd => .srd
  | .srf => .srf
  | b => if !left.isEmpty then .srs else if b = .srm then .srm else .sri

/-- A local answer to a proxy snoop; the last one places the combined answer (R103, R165). -/
def proxyAnswer (s : State) (x : Proxy) (op : AnsOp) (dan : Nat) (poi : Bool) (data : Line) : State :=
  let better : Bool := match x.best with
    | none => true
    | some b => decide (ansRank b < ansRank op)
  let y := { x with wait := x.wait.filter fun n => n != dan,
                    best := if better then some op else x.best,
                    data := if op = AnsOp.srd then data else x.data,
                    poison := if op = AnsOp.srd then poi else x.poison }
  if y.wait.isEmpty then
    let s := s.updHome fun h => { h with proxies := h.proxies.erase x }
    let (hs, _, bad, s) := strHolders s x.f.h.dom.toNat x.f.laddr
    if bad then s
    else
      let left := hs.filter fun (e : Nat × HSt) => e.1 != x.f.h.dan.toNat
      proxyReply s x.port x.f (combined (y.best.getD .srm) left) (strongest left) y.poison y.data
  else s.updHome fun h => { h with proxies := h.proxies.map fun z => if z == x then y else z }

/-! ## Forwarded data (R201) -/

/-- Snoops that a forward record or a full record store held back are placed where they now may. -/
def retryHeld (s : State) (x : Tracker) : State :=
  let (stay, s) := x.heldSnoops.foldl (fun (stay, s) (e : Nat × SnpF) =>
    let waits := recordHolds s x.sl x.dom x.laddr e.1 || (e.2.op == .snf && recordsFull s x.sl)
    if waits then (stay ++ [e], s) else (stay, sendSnoop s x.dom e.1 e.2)) (([] : List (Nat × SnpF)), s)
  if stay.length = x.heldSnoops.length then s
  else match s.trk x.sl x.num with
    | some y => putTrk s { y with heldSnoops := stay }
    | none => s

def retryAllHeld (s : State) : State :=
  (s.home.trackers.filter fun x => !x.heldSnoops.isEmpty).foldl retryHeld s

/-- A message that came by a span port may go on toward an agent: the next port holds a credit for it
(R272). From an agent port it is placed at once. -/
def mayPass (s : State) (p : Nat) (c : Cls) (d dan : Nat) : Bool :=
  decide (p < 16) || (match outPort s d dan with
    | some o => creditFree s o c d || !s.up o
    | none => true)

/-- A DFW at the home hub: placed toward the requester, its record ended (R201). -/
def homeDfw (s : State) (p : Nat) (f : DatF) (data : Line) : State :=
  let d := f.h.dom.toNat
  let dan := f.h.dan.toNat
  let m : Msg := .dat .dfw f data
  if !mayPass s p .dat d dan then putBack s p m
  else
  let s := returnCredit s p .dat d
  let s := if f.poi then raisePoison s p m f.laddr else s
  let s := sendAgent s d dan m
  let rec_ := s.home.fwds.find? fun r => r.dom == d && r.laddr == f.laddr && r.dan == dan
  match rec_ with
  | some r => retryAllHeld (s.updHome fun h => { h with fwds := h.fwds.erase r })
  | none => match s.trk (htagSlice f.htag) (htagTracker f.htag) with
    | some x => if x.dom = d ∧ x.laddr = f.laddr then putTrk s { x with dfw := true } else s
    | none => s

end Sys2Proof.Machine
end

