-- ==== Sys2Proof/Machine/RegOps.lean ====
section
/-!
DEFINITION. Mailbox words read with their checker, the CRC units, and the registers of the apertures
(12 R342 to R345, 13 R379, 14 R381 to R397, 16 R446 to R449).
-/
namespace Sys2Proof.Machine

/-! ## Mailbox and firmware RAM through their checkers (R344, R387) -/

/-- The mailbox that holds a word of mailbox RAM, and the word's index in it. -/
def mbUnit (i : Nat) : Option (Nat × Nat) :=
  if i / 0x60 < 10 ∧ i % 0x60 < 68 then some (i / 0x60, i % 0x60) else none

/-- A checked read of mailbox RAM word i: what the checker found, the data, and the state after the
event is counted and the scope reset (R334, R336). A corrected word is not rewritten. -/
def readMb (s : State) (i : Nat) : Chk × Nat × State :=
  let own : Option Nat := match mbUnit i with
    | some (m, _) => if m < 8 then some m else none
    | none => none
  let w := ramGet s.mbram i
  let (x, s) := injTake s 8 own
  let inj : Bool := x % 128 ≠ 0
  let c := check masks39 32 (fld w.toNat 31 0) (fld w.toNat 38 32 ^^^ (x % 128))
  match c with
  | .clean => (c, fld w.toNat 31 0, s)
  | .corrected d _ => (c, d, ceEvent s 8 inj)
  | .bad syn =>
    let u := match mbUnit i with
      | some (m, k) => ueEvent s ⟨1, 8, 0, m, k, syn⟩ .demand inj
      | none => ueEvent s ⟨0, 8, 0, 0, i, syn⟩ .demand inj
    (c, 0, u)

/-- A checked read of word i of the firmware-RAM test window: scope none (R344). -/
def readFw (s : State) (i : Nat) : Chk × State :=
  let w := ramGet s.fwram i
  let (x, s) := injTake s 7 none
  let inj : Bool := x % 128 ≠ 0
  let c := check masks39 32 (fld w.toNat 31 0) (fld w.toNat 38 32 ^^^ (x % 128))
  match c with
  | .clean => (c, s)
  | .corrected _ _ => (c, ceEvent s 7 inj)
  | .bad syn => (c, ueEvent s ⟨0, 7, 0, 0, 0x1FC00 + i, syn⟩ .demand inj)

/-- The words of mailbox m from index i checked before use; true when one was uncorrectable, which has
reset the mailbox. -/
def useMbWords (s : State) (m i n : Nat) : Bool × State :=
  (upto n).foldl (fun (bad, s) k =>
    let (c, _, s) := readMb s (0x60 * m + i + k)
    (bad || (match c with | .bad _ => true | _ => false), s)) (false, s)

/-- Bytes of a mailbox's header or payload at window offset o. After a block reset they read zero. -/
def readWindow (s : State) (m o n : Nat) : List Byte × State :=
  let first := mbIdx m o
  let (_, s) := useMbWords s m (first - 0x60 * m) ((o % 4 + n + 3) / 4)
  ((upto n).map fun k =>
    BitVec.ofNat 8 (mbWord s (first + (o % 4 + k) / 4) >>> (8 * ((o + k) % 4))), s)

/-- One byte written by a read-modify-write of its word (R387). -/
def writeByte (s : State) (m o : Nat) (b : Byte) : State :=
  let i := mbIdx m o
  mbPut s i (setFld (mbWord s i) (8 * (o % 4) + 7) (8 * (o % 4)) b.toNat)

/-- Bytes written to a mailbox's header or payload; a word written in part is checked first. -/
def writeWindow (s : State) (m o : Nat) (bs : List Byte) : State :=
  let first := mbIdx m o
  let last := mbIdx m (o + bs.length - 1)
  let part := (if o % 4 ≠ 0 ∨ bs.length < 4 then [first] else [])
    ++ (if (o + bs.length) % 4 ≠ 0 ∧ first ≠ last then [last] else [])
  let s := part.foldl (fun s i => (readMb s i).2.2) s
  (bs.foldl (fun (s, k) b => (writeByte s m (o + k) b, k + 1)) (s, 0)).1

/-! ## The lock and the window (R388, R389) -/

/-- A read of MB_LOCK: a free lock goes to the reader. Answers the register's value. -/
def lockClaim (s : State) (d : Nat) (who : BitVec 7) : Nat × State :=
  match (s.mb d).holder with
  | none => (2 ^ 31 + 2 ^ 30 + who.toNat, s.updMb d fun b => { b with holder := some who })
  | some h => (2 ^ 31 + flag (h = who) 30 + h.toNat, s)

/-- A write of MB_LOCK with RELEASE = 1. -/
def lockRelease (s : State) (d : Nat) (who : BitVec 7) : State :=
  s.updMb d fun b => if b.holder = some who then { b with holder := none } else { b with blocked := true }

/-- A mailbox accepts writes of `who`: a domain mailbox only those of its lock's holder. -/
def mbAccepts (s : State) (m : Nat) (who : BitVec 7) : Bool :=
  decide (8 ≤ m) || (s.mb m).holder == some who

/-- A ring or a write to the header or payload that mailbox m ignores: BLOCKED where it comes from an agent
without the lock, OVERRUN where the mailbox is BUSY (R388, R389, R397). -/
def mbIgnore (s : State) (m : Nat) (who : BitVec 7) : State :=
  s.updMb m fun b => { b with blocked := b.blocked || !mbAccepts s m who,
                              overrun := b.overrun || b.st == .busy }

/-- A write to a window's header or payload (R388, R389). -/
def windowWrite (s : State) (m : Nat) (who : BitVec 7) (o : Nat) (bs : List Byte) : State :=
  if !mbAccepts s m who ∨ (s.mb m).st = .busy then mbIgnore s m who else writeWindow s m o bs

/-- n bytes at window offset o lie within one of its two RAM areas (R383). -/
def inArea (o n : Nat) : Bool := decide (o + n ≤ 0x10) || decide (0x40 ≤ o ∧ o + n ≤ 0x140)

def MbSt.code : MbSt → Nat
  | .idle => 0 | .busy => 1 | .done => 2

/-- MB_STATE. -/
def mbStateReg (s : State) (m : Nat) : Nat :=
  let b := s.mb m
  flag b.overrun 28 + flag b.blocked 27 + flag b.notify.isSome 26 + 2 ^ 24 * b.st.code
    + 2 ^ 16 * b.status.toNat + 2 ^ 8 * b.tag.toNat + b.ringer.toNat

def mbStateWrite (s : State) (m v : Nat) : State :=
  s.updMb m fun b => { b with overrun := b.overrun && !nbit v 28, blocked := b.blocked && !nbit v 27 }

/-- MB_SUMMARY. -/
def mbSummary (s : State) : Nat :=
  (allDoms.map fun d => flag (s.mb d).holder.isSome (20 + d)).sum
    + ((upto 10).map fun m => 4 ^ m * (s.mb m).st.code).sum

/-! ## CRC units (R447 to R449) -/

def crcWidth (poly : BitVec 2) : Nat := if poly = 3 then 8 else if poly = 2 then 16 else 32

def crcPoly (poly : BitVec 2) : Nat :=
  if poly = 0 then 0x1EDC6F41 else if poly = 1 then 0x04C11DB7 else if poly = 2 then 0x1021 else 7

/-- The low w bits of v in reverse order. -/
def reflect (v : Nat) : Nat → Nat
  | 0 => 0
  | w + 1 => (v % 2) * 2 ^ w + reflect (v / 2) w

/-- n steps of the inner loop of R448. -/
def crcSteps (w poly : Nat) : Nat → Nat → Nat
  | 0, v => v
  | n + 1, v =>
    crcSteps w poly n (if v.testBit (w - 1) then ((v * 2) ^^^ poly) % 2 ^ w else (v * 2) % 2 ^ w)

/-- One byte absorbed. -/
def crcByte (c : Crc) (b : Byte) : Crc :=
  let w := crcWidth c.poly
  let b := if c.refin then reflect b.toNat 8 else b.toNat
  let v := (c.value.toNat ^^^ (b * 2 ^ (w - 8))) % 2 ^ w
  { c with value := BitVec.ofNat 32 (crcSteps w (crcPoly c.poly) 8 v) }

/-- CRC_RESULT. -/
def crcResult (c : Crc) : Nat :=
  let w := crcWidth c.poly
  let v := c.value.toNat
  ((if c.refout then reflect v w else v) ^^^ (if c.xout then c.xor.toNat else 0)) % 2 ^ w

/-- A write of CRC_CTL: POLY's change masks the value, then LOAD. -/
def crcCtlWrite (c : Crc) (v : Nat) : Crc :=
  let poly := BitVec.ofNat 2 v
  let m := 2 ^ crcWidth poly
  let c := { c with poly, refin := nbit v 2, refout := nbit v 3, xout := nbit v 4,
                    value := BitVec.ofNat 32 (c.value.toNat % m) }
  if nbit v 8 then { c with value := BitVec.ofNat 32 (c.init.toNat % m), count := 0 } else c

/-- A data write begins to be absorbed: n bytes of v, low byte first. -/
def crcFeed (c : Crc) (n v : Nat) (who : Option Req) : Crc :=
  { c with busy := toBytes n v, count := satAdd 32 c.count n, answer := who }

/-- The absorption ends. -/
def crcAbsorb (c : Crc) : Crc := { c.busy.foldl crcByte c with busy := [], answer := none }

/-- Registers of a CRC unit by offset. -/
def crcRegs : List Nat := [0, 4, 8, 0xC, 0x10, 0x14, 0x20, 0x24, 0x28]

def crcRead (c : Crc) (o : Nat) : Nat :=
  match o with
  | 0 => flag c.xout 4 + flag c.refout 3 + flag c.refin 2 + c.poly.toNat
  | 4 => c.init.toNat
  | 8 => c.xor.toNat
  | 0xC => c.value.toNat
  | 0x10 => c.count
  | 0x14 => crcResult c
  | _ => 0

/-- A write of a register of a CRC unit; data ports begin an absorption for `who`. -/
def crcWrite (c : Crc) (o v : Nat) (who : Option Req) : Crc :=
  match o with
  | 0 => crcCtlWrite c v
  | 4 => { c with init := BitVec.ofNat 32 v }
  | 8 => { c with xor := BitVec.ofNat 32 v }
  | 0xC => { c with value := BitVec.ofNat 32 (v % 2 ^ crcWidth c.poly) }
  | 0x10 => { c with count := v % 2 ^ 32 }
  | 0x20 => crcFeed c 1 v who
  | 0x24 => crcFeed c 2 v who
  | 0x28 => crcFeed c 4 v who
  | _ => c

/-! ## Values of the platform registers -/

def Power.code : Power → Nat
  | .boil => 0 | .warm => 1 | .steep => 2 | .dormant => 3 | .enterSteep => 4 | .leaveDormant => 6

def simmerBits (s : State) : Nat :=
  (allPorts.map fun p => flag ((s.port p).link.st = .simmer) p).sum

/-- KT_STATE. -/
def ktState (s : State) : Nat :=
  let k := s.kt
  flag k.net 31 + flag k.netPull 30 + flag (k.stretch ≠ 0) 29 + flag k.pllLock 28
    + 2 ^ 25 * k.st.code + simmerBits s

def ktRelock (k : Kettle) : Nat := 2 ^ 16 * k.maxAc + 2 ^ 8 * k.fails + k.lastAc
def ktStretch (k : Kettle) : Nat := 2 ^ 16 * k.episodes + k.longest
def ktCnt (k : Kettle) : Nat := 2 ^ 32 * k.steepIn + 2 ^ 16 * k.dormantIn + k.wakeFail

/-- IT_BKT of a bucket. -/
def bktReg (b : Bucket) : Nat :=
  2 ^ 32 * b.ce + 2 ^ 24 * b.ovf + 2 ^ 16 * b.level + 2 ^ 8 * b.cap + b.per

/-- IT_TROWEL. -/
def trowelReg (s : State) : Nat := 2 ^ 32 * s.integ.passes + s.integ.step

/-- The escalation unit of a source and a domain, 8 for the unit without one. -/
def unitKey (src dom : Nat) : Nat := src * 9 + dom

def State.unit (s : State) (src dom : Nat) : EscUnit := tget {} s.flt.units (unitKey src dom)

def srcSevere (s : State) (src : Nat) : Bool := (upto 9).any fun d => (s.unit src d).esc

/-- FC_SEVERE. -/
def fcSevere (s : State) : Nat := ((upto 64).map fun i => flag (srcSevere s i) i).sum

/-- The hub asserts ERR_N (R370). -/
def errDriven (s : State) : Bool :=
  s.flt.status &&& s.flt.errPin != 0 || s.flt.testErr || s.flt.grave

/-- FC_PINS. -/
def fcPins (s : State) : Nat :=
  flag s.flt.grave 31 + flag (errDriven s) 30 + flag (errDriven s || s.flt.extErr) 29
    + flag s.flt.testErr 28 + 2 ^ 16 * s.flt.graveSrc

/-- FC_LOG. -/
def fcLog (s : State) : Nat :=
  let f := s.flt
  2 ^ 32 * (f.nextSeq % 2 ^ 32) + 2 ^ 24 * f.recDrop + 2 ^ 16 * f.hntDrop + 2 ^ 11 * f.tokens
    + 2 ^ 6 * f.queue.length

/-- EN, TGT and IDX of IT_RAW_CTL. -/
def rawEn (v : BitVec 32) : Bool := v.getLsbD 31
def rawMail (v : BitVec 32) : Bool := v.getLsbD 30
def rawIdx (v : BitVec 32) : Nat := fld v.toNat 9 0

/-- The raw word that IT_RAW_CTL selects. R344 speaks of EN = 1 only: with EN = 0 the raw registers read 0,
whatever was written before (DESIGN CHOICE, log 44). -/
def rawWord (s : State) : BitVec 39 :=
  let v := s.integ.rawCtl
  if !rawEn v then 0 else if rawMail v then ramGet s.mbram (rawIdx v) else ramGet s.fwram (rawIdx v)

/-- Registers of the platform aperture outside the mailbox window and the CRC units: offset and bytes. -/
def platRegs : List (Nat × Nat) :=
  [(0x200, 4), (0x24000, 4), (0x24004, 4), (0x24008, 4), (0x2400C, 4), (0x24010, 8),
   (0x25080, 4), (0x25088, 8), (0x25090, 4), (0x25094, 4), (0x250A0, 4), (0x250A4, 4),
   (0x250A8, 4), (0x250B0, 8), (0x250B8, 8)]
  ++ (upto 12).map (fun m => (0x25000 + 8 * m, 8))
  ++ [(0x26000, 8), (0x26008, 8), (0x26010, 8), (0x26018, 4), (0x26020, 8)]

/-- The value of a platform register by its offset (R379, R311, R335 to R345, R397). -/
def platRead (s : State) (o : Nat) : Nat :=
  match o with
  | 0x200 => mbSummary s
  | 0x24000 => ktState s
  | 0x24004 => s.kt.cause.toNat
  | 0x24008 => ktRelock s.kt
  | 0x2400C => ktStretch s.kt
  | 0x24010 => ktCnt s.kt
  | 0x25080 => s.integ.flipCtl.toNat
  | 0x25088 => s.integ.flipData.toNat
  | 0x25090 => s.integ.flipChk.toNat
  | 0x25094 => s.integ.injCtl.toNat
  | 0x250A0 => s.integ.rawCtl.toNat
  | 0x250A4 => fld (rawWord s).toNat 31 0
  | 0x250A8 => fld (rawWord s).toNat 38 32
  | 0x250B0 => s.integ.ueLast.toNat
  | 0x250B8 => trowelReg s
  | 0x26000 => s.flt.status.toNat
  | 0x26008 => s.flt.missed.toNat
  | 0x26010 => fcSevere s
  | 0x26018 => fcPins s
  | 0x26020 => fcLog s
  | _ => if 0x25000 ≤ o ∧ o < 0x25060 ∧ o % 8 = 0 then bktReg (s.bkt ((o - 0x25000) / 8)) else 0

/-! ## Writes -/

/-- The bits a part of a 64-bit register covers. -/
def partMask : Part → Nat
  | .full => 2 ^ 64 - 1
  | .lo => 2 ^ 32 - 1
  | .hi => (2 ^ 32 - 1) * 2 ^ 32

/-- A written value in place: the value of a half stands in the operand's low 32 bits. -/
def partVal (p : Part) (v : BitVec 64) : Nat :=
  match p with
  | .full => v.toNat
  | .lo => v.toNat % 2 ^ 32
  | .hi => v.toNat % 2 ^ 32 * 2 ^ 32

/-- A register's old value with the part replaced. -/
def partSet (p : Part) (old : Nat) (v : BitVec 64) : Nat :=
  (old &&& (2 ^ 64 - 1 - partMask p)) ||| partVal p v

/-- IT_BKT: CAP and PER, in the low half; LEVEL is limited to the new CAP (R335). -/
def bktWrite (s : State) (m : Nat) (p : Part) (v : BitVec 64) : State :=
  if p = .hi then s
  else
    let b := s.bkt m
    let cap := max 1 (fld v.toNat 15 8)
    s.setBkt m { b with cap, per := fld v.toNat 3 0, level := min b.level cap }

/-- Memories that have a flip-mask (Table 12-1). -/
def flipMem (m : Nat) : Bool := decide (m ≤ 6) || m == 9

/-- IT_FLIP_CTL (R343): DONE is RW1C; an ARM write naming a MEM without flip-mask is ignored. -/
def flipWrite (s : State) (v : BitVec 32) : State :=
  if v.getLsbD 31 && !flipMem (fld v.toNat 27 24) then s
  else
    let old := s.integ.flipCtl
    let done := old.getLsbD 30 && !v.getLsbD 30
    let new := (v &&& 0x8FFFC000#32) ||| (if done then 0x40000000#32 else 0)
    s.updInteg fun i => { i with flipCtl := new }

/-- IT_INJ_CTL (R345). -/
def injWrite (s : State) (v : BitVec 32) : State :=
  s.updInteg fun i => { i with injCtl := v &&& 0xFFFFFF00#32 }

/-- A checked read of raw word IDX: STAT and SYN reported, the event counted (R344). -/
def rawCheck (s : State) : State :=
  let v := s.integ.rawCtl
  if !rawEn v then s
  else
    let (c, s) := if rawMail v then
        let (c, _, s) := readMb s (rawIdx v)
        (c, s)
      else readFw s (rawIdx v)
    let (st, syn) : Nat × Nat := match c with
      | .clean => (0, 0)
      | .corrected _ y => (1, y)
      | .bad y => (2, y)
    s.updInteg fun i => { i with
      rawCtl := BitVec.ofNat 32 (setFld (setFld i.rawCtl.toNat 29 28 st) 25 19 syn) }

/-- IT_RAW_CTL: EN, TGT and IDX set, BLOCKED RW1C, then CHKRD. -/
def rawCtlWrite (s : State) (v : BitVec 32) : State :=
  let old := s.integ.rawCtl
  let new := (v &&& 0xC00003FF#32) ||| (old &&& 0x33F80000#32)
    ||| (if v.getLsbD 27 then 0 else old &&& 0x08000000#32)
  let s := s.updInteg fun i => { i with rawCtl := new }
  if v.getLsbD 26 then rawCheck s else s

/-- A raw write stores one part of the selected word's code word; a word of a mailbox with a command in
progress is left, and BLOCKED set (R344). With EN = 0 a write does nothing (DESIGN CHOICE, log 44). -/
def rawStore (s : State) (f : BitVec 39 → BitVec 39) : State :=
  let v := s.integ.rawCtl
  if !rawEn v then s
  else if rawMail v then
    let busy : Bool := match mbUnit (rawIdx v) with
      | some (m, _) => (s.mb m).st == .busy
      | none => false
    if busy then s.updInteg fun i => { i with rawCtl := i.rawCtl ||| 0x08000000#32 }
    else { s with mbram := ramSet s.mbram (rawIdx v) (f (ramGet s.mbram (rawIdx v))) }
  else { s with fwram := ramSet s.fwram (rawIdx v) (f (ramGet s.fwram (rawIdx v))) }

def rawDataWrite (s : State) (v : BitVec 32) : State :=
  rawStore s fun w => (w.extractLsb' 32 7 ++ v : BitVec 39)

def rawChkbWrite (s : State) (v : BitVec 32) : State :=
  rawStore s fun w => ((v.extractLsb' 0 7 : BitVec 7) ++ (w.extractLsb' 0 32 : BitVec 32) : BitVec 39)

/-- FC_STATUS or FAULT_CLEAR: status bits cleared, which ends the handling of their sources; bits 56 and
57 stay (R369). -/
def statusClear (s : State) (mask : Nat) : State :=
  let m := BitVec.ofNat 64 mask &&& ~~~(BitVec.ofNat 64 (2 ^ 56 + 2 ^ 57))
  s.updFlt fun f => { f with status := f.status &&& ~~~m, errPin := f.errPin &&& ~~~m }

def missedClear (s : State) (mask : Nat) : State :=
  let m := BitVec.ofNat 64 mask &&& ~~~(BitVec.ofNat 64 (2 ^ 56 + 2 ^ 57))
  s.updFlt fun f => { f with missed := f.missed &&& ~~~m }

/-- A write of a platform register by its offset (R14). -/
def platWrite (s : State) (o : Nat) (p : Part) (v : BitVec 64) : State :=
  let v32 : BitVec 32 := v.setWidth 32
  match o with
  | 0x24004 => s.updKt fun k => { k with cause := k.cause &&& ~~~v32 }
  | 0x25080 => flipWrite s v32
  | 0x25088 => s.updInteg fun i =>
      { i with flipData := BitVec.ofNat 64 (partSet p i.flipData.toNat v) }
  | 0x25090 => s.updInteg fun i => { i with flipChk := v32 &&& 0xFF#32 }
  | 0x25094 => injWrite s v32
  | 0x250A0 => rawCtlWrite s v32
  | 0x250A4 => rawDataWrite s v32
  | 0x250A8 => rawChkbWrite s v32
  | 0x250B0 => s.updInteg fun i =>
      { i with ueLast := BitVec.ofNat 64 (partSet p i.ueLast.toNat v) &&& ~~~(0xFFFF#64) }
  | 0x26000 => statusClear s (partVal p v)
  | 0x26008 => missedClear s (partVal p v)
  | 0x26018 => s.updFlt fun f => { f with testErr := v.getLsbD 28 }
  | _ => if 0x25000 ≤ o ∧ o < 0x25060 ∧ o % 8 = 0 then bktWrite s ((o - 0x25000) / 8) p v else s

end Sys2Proof.Machine
end

