-- ==== Sys2Proof/Machine/KettleOps.lean ====
section
/-!
DEFINITION. The Kettle: the PLL, idle conditions, wakes from Steep and Dormant, the wake net
(10_kettle.md).
-/
namespace Sys2Proof.Machine

/-! ## The PLL (R285, R290) -/

/-- A first lock attempt begins, where the policy selects Boil and the Kettle has not given up. -/
def pllStart (s : State) : State :=
  if !s.kt.run && !s.kt.gaveUp then
    s.updKt fun k => { k with pllOn := true, pllLock := false, attempts := 1, pllFrom := s.uptime }
  else s

/-- The running state of the hub: Boil with a locked PLL and RUN = 0, else Warm. -/
def runState (k : Kettle) : Power := if k.pllLock && !k.run then .boil else .warm

/-! ## Busy and idle (R291, R296) -/

/-- The hub is busy (R296): a tracker is live or reserved, a proxy snoop is being resolved, or a
message from a span port has not yet been passed on. -/
def hubBusy (s : State) : Bool :=
  !s.home.trackers.isEmpty || !s.home.proxies.isEmpty
    || spanPorts.any fun p => (s.port p).rx.inbox.any fun x => match x with
        | .msg _ => true
        | _ => false

/-- A port owes nothing: no message queued or delivered and not yet served, no grant that waits, every
payload flit acknowledged, every gate IDLE and no CURE waiting (R291). -/
def portQuiet (q : Port) : Bool :=
  q.tx.q.isEmpty && q.tx.opens.isEmpty && q.tx.lcq.isEmpty && q.tx.replay.isEmpty
    && q.rx.inbox.isEmpty && q.cures.isEmpty && q.gateBuf.isEmpty && q.hntQ.isEmpty
    && q.gates.all fun e => e.2 == .idle

/-- A domain is neither quiescing, starting, sweeping nor going down. -/
def domQuiet (q : Dom) : Bool :=
  q.st != .quiescing && q.start.isNone && q.sweep.isNone && !q.downing

/-- A slice remap is in progress: a logical slice of a failed one has neither a spare nor a spread yet
(R354, R355). -/
def remapping (s : State) : Bool :=
  (upto 16).any fun k => (s.sliceMap k).isNone && !s.home.spread.contains k

/-- The conditions of Steep entry, their duration apart (R291). -/
def steepConds (s : State) : Bool :=
  s.kt.steepEn && !hubBusy s && s.home.wbs.isEmpty && s.home.merges.isEmpty && s.home.fwds.isEmpty
    && s.home.victims.isEmpty && s.home.switching.isNone && s.home.drainOf.isNone
    && s.integ.test.isNone && !remapping s && ((upto 10).all fun m => (s.mb m).notify.isNone)
    && (allPorts.all fun p => !s.up p || portQuiet (s.port p))
    && (allDoms.all fun d => domQuiet (s.dom d))

/-! ## The wake net (R299, R301) -/

/-- A memory agent always counts as consenting to Dormant (R299). -/
def memoryPort (s : State) (p : Nat) : Bool :=
  match (s.port p).link.farCap with
  | some c => c.role == 3
  | none => false

/-- An agent port counts as consenting to Dormant. -/
def consents (s : State) (p : Nat) : Bool :=
  let m := (s.port p).mem
  m.dom.isNone || m.sent.isNone || m.consent || memoryPort s p

/-- The net is released only in Steep with DORMANT_EN = 1 and every admitted agent consenting; in
Dormant it stays released. A pulled net reads low. The level of a net this hub releases is high with
one hub; with more it depends on the others: a free value, until DORMANT_ENTRY finds it high. -/
def netUpdate (s : State) : State :=
  let free := s.kt.st == .steep && s.kt.dormantEn && agentPorts.all fun p => consents s p
  if s.kt.st = .dormant then s
  else if !free then s.updKt fun k => { k with netPull := true, net := false }
  else if !s.kt.netPull then s
  else if s.hubs = 1 then s.updKt fun k => { k with netPull := false, net := true }
  else
    let (v, s) := s.nextFree
    s.updKt fun k => { k with netPull := false, net := v.getLsbD 0 }

/-! ## Simmer exits (R74, R296) -/

/-- The hub begins Simmer exit on a port. -/
def beginExit (s : State) (p : Nat) : State :=
  s.updLink p fun l =>
    if l.st = .simmer then { l with exiting := true, exitDue := false, netHigh := s.kt.net } else l

def beginExits (s : State) : State := allPorts.foldl beginExit s

/-! ## Wakes (R293, R305) -/

def causePort (p : Nat) : Nat := 2 ^ p
def causePin (p : Nat) : Nat := 2 ^ 20 + 2 ^ p
def causeNet : Nat := 2 ^ 24
def causeFault : Nat := 2 ^ 25
def causeFw : Nat := 2 ^ 26

def addCause (s : State) (c : Nat) : State :=
  s.updKt fun k => { k with cause := k.cause ||| BitVec.ofNat 32 c }

/-- Steep to Warm. -/
def wakeSteep (s : State) (cause : Nat) : State :=
  let s := addCause (s.updKt fun k => { k with st := .warm }) cause
  netUpdate (pllStart (beginExits s))

/-- Dormant to Warm: the net pulled low, every port that was up trains from Detect (R305 steps 1 to 3);
the ASSIGNs of step 5 follow with DORMANT_ASSIGN. -/
def wakeDormant (s : State) (cause : Nat) : State :=
  let s := addCause (s.updKt fun k => { k with st := .leaveDormant, netPull := true, net := false })
    (cause + 2 ^ 31)
  let s := allPorts.foldl (fun s p => s.updLink p fun l =>
    if l.upAtDormant then { l with st := .training, wakeTrain := true, upAtDormant := false } else l) s
  pllStart (s.updSmb fun b => { b with gated0 := false, gated1 := false })

/-- A wake trigger (R293, R304, R305). An entry into Steep is abandoned (R292); a running hub has
nothing to do. -/
def wake (s : State) (cause : Nat) : State :=
  if s.flt.grave ∨ s.board.held ≠ .none then s
  else match s.kt.st with
    | .steep => wakeSteep s cause
    | .dormant => wakeDormant s cause
    | .enterSteep => netUpdate (s.updKt fun k => { k with st := runState k })
    | _ => s

end Sys2Proof.Machine
end

