-- ==== Sys2Proof/Machine/ForecastOps.lean ====
section
/-!
DEFINITION. The load forecaster and grant pacing of an agent port (11_load_forecast.md).
-/
namespace Sys2Proof.Machine

/-! ## The hint pins (R312 to R314) -/

/-- A code falls due on A<n>_LDH: driven at once, or deferred while the 100 ns hold of the last change
runs, where only the code due last counts (R313). -/
def ldhSet (f : Forecast) (c : BitVec 2) : Forecast :=
  if f.ldhHold then { f with ldhDue := if c = f.ldh then none else some c }
  else if f.ldh = c then f
  else { f with ldh := c, ldhHold := true, ldhDue := none }

/-- The 100 ns hold of the last change ends: a deferred code is driven, which starts a new hold. -/
def ldhRelease (f : Forecast) : Forecast :=
  match f.ldhDue with
  | some c => { f with ldh := c, ldhDue := none, ldhHold := true }
  | none => { f with ldhHold := false }

/-- The forecaster runs: the port is up and in a domain, and the hub clock runs (R314). -/
def foreRuns (s : State) (p : Nat) : Bool :=
  s.clocked && s.up p && (s.port p).mem.dom.isSome

/-! ## Events (R316 to R320) -/

def FPhase.code : FPhase → Nat
  | .none => 0 | .lead => 1 | .ramp => 2 | .watch => 3

/-- What a trigger leaves: LEAD at the limit S and with the lead time L as they stand. -/
def foreLead (f : Forecast) (large imminent : Bool) : Forecast :=
  ldhSet { f with phase := .lead, large, imminent, hint := false, edgeInEvent := false,
                  limit := f.start, leadAt := f.lead } (if imminent then 2 else 1)

/-- The bounds that hold for L and S: those of a policy change from its completion on (R325). -/
def bounds (f : Forecast) : FParams := f.parNext.getD f.par

/-- The adaptation at the end of a WATCH (R320): after eight events in a row without an edge, L falls by
one step and S rises by STEP. -/
def watchAdapt (f : Forecast) : Forecast :=
  if f.edgeInEvent then f
  else if f.run + 1 ≥ 8 then
    { f with run := 0, lead := max (bounds f).leadMin (f.lead - 1),
             start := min (bounds f).ceil (f.start + f.par.step), stepsDown := bump f.stepsDown }
  else { f with run := f.run + 1 }

/-- A trigger starts an event unless one is in LEAD or RAMP; one in WATCH ends with its adaptation
(R318). Where a large rise has its 0b10 point within 100 ns of the trigger, which only L = 250 ns
allows and the phase of the windows decides, 0b10 is driven from the trigger (R313): a free value. -/
def trigger (s : State) (p : Nat) (large : Bool) (count : Forecast → Forecast) : State :=
  let f := (s.port p).fore
  if f.phase = .lead ∨ f.phase = .ramp then s
  else
    let f := if f.phase = .watch then watchAdapt f else f
    let f := count f
    if large ∧ f.lead = 1 then
      let (v, s) := s.nextFree
      s.updFore p fun _ => foreLead f large (v.getLsbD 0)
    else s.updFore p fun _ => foreLead f large false

/-- A port has been quiet for QUIET_T (R316). -/
def quiet (s : State) (f : Forecast) : Bool := decide (f.quietFrom + 8 * f.par.quietT ≤ s.uptime)

/-- An event that began as a small burst becomes large; its 0b10 point may be past already where L is
250 ns, which is a free value (R317). -/
def growLarge (s : State) (p : Nat) : State :=
  let s := s.updFore p fun f => { f with large := true }
  if (s.port p).fore.leadAt = 1 then
    let (v, s) := s.nextFree
    if v.getLsbD 0 then s.updFore p fun f => ldhSet { f with imminent := true } 2 else s
  else s

/-- A REQ delivered from an agent port: quiet time ends, and a burst may start an event or become large
(R316, R317). -/
def reqDelivered (s : State) (p : Nat) : State :=
  let f := (s.port p).fore
  let f := { f with windowReqs := f.windowReqs + 1,
                    quietAtFirst := if f.windowReqs = 0 then quiet s f else f.quietAtFirst,
                    quietFrom := s.uptime }
  let s := s.updFore p fun _ => f
  if f.windowReqs = f.par.burstN ∧ f.quietAtFirst ∧ f.phase ≠ .lead ∧ f.phase ≠ .ramp then
    trigger s p false fun f => { f with trigBurst := bump f.trigBurst, burstTrig := true }
  else if f.windowReqs = 2 * f.par.burstN ∧ f.burstTrig ∧ f.phase = .lead ∧ !f.large then growLarge s p
  else s

/-- A WB delivered from an agent port ends quiet time. -/
def wbDelivered (s : State) (p : Nat) : State := s.updFore p fun f => { f with quietFrom := s.uptime }

/-- The fall hint: 0b11 for 1 µs, outside an event (R318). -/
def fallHint (f : Forecast) : Forecast :=
  if f.phase = .none then ldhSet { f with hint := true } 3 else f

/-! ## Windows (R322, R323, R326) -/

/-- The count a window starts with: what the last exceeded its limit by, up to that limit. -/
def carry (f : Forecast) : Nat :=
  match paceLimit f with
  | none => 0
  | some n => min (f.count - n) n

/-- The phases at a window boundary that lies `since` ns after the trigger (Table 11-2). -/
def phaseStep (f : Forecast) (since : Nat) : Forecast :=
  let top := fun (f : Forecast) =>
    if f.limit ≥ f.par.ceil then ldhSet { f with phase := .watch, limit := f.par.ceil } 0 else f
  match f.phase with
  | .lead =>
    if since ≥ 250 * f.leadAt then
      top (ldhSet { f with phase := .ramp, imminent := f.large } (if f.large then 2 else 1))
    else f
  | .ramp => top { f with limit := min f.par.ceil (f.limit + f.par.step) }
  | _ => f

/-- An override at a window boundary: a pending one starts, a running one counts its windows without a
counted edge. -/
def ovrStep (f : Forecast) : Forecast :=
  if f.ovrNext then { f with ovr := true, ovrNext := false, ovrQuiet := 0 }
  else if f.ovr then
    if f.edgeWin then { f with ovrQuiet := 0 }
    else if f.ovrQuiet + 1 ≥ 8 then { f with ovr := false, ovrQuiet := 0 }
    else { f with ovrQuiet := f.ovrQuiet + 1 }
  else f

/-- The run of windows that each delivered at least BURST_N REQs; a run of eight stays while no REQ
follows it, for the fall signature. -/
def busyStep (f : Forecast) : Nat :=
  if f.windowReqs ≥ f.par.burstN then f.busy + 1
  else if f.windowReqs = 0 ∧ f.busy ≥ 8 then f.busy else 0

/-- Parameters that waited for the boundary are in effect: limit, L and S stand within the new bounds, and an
override that STRICT held back does not start after all (R325, R327). -/
def takeParams (f : Forecast) : Forecast :=
  match f.parNext with
  | none => f
  | some x =>
    let freed := f.par.strict && !x.strict
    { f with par := x, parNext := none, limit := max x.floor (min x.ceil f.limit),
             lead := max x.leadMin (min x.leadMax f.lead), start := max x.floor (min x.ceil f.start),
             ovr := f.ovr && !freed, ovrNext := f.ovrNext && !freed }

/-- One window boundary for a forecaster. -/
def windowStep (f : Forecast) (since : Nat) : Forecast :=
  let f := { f with count := carry f, busy := busyStep f, windowReqs := 0, quietAtFirst := false,
                    burstTrig := false }
  { ovrStep (phaseStep (takeParams f) since) with edgeWin := false }

/-- A counted edge of A<n>_DROOP_N while the hub clock runs (R320, R326, R327). -/
def droopEdge (s : State) (p : Nat) : State :=
  let f := (s.port p).fore
  let f := { f with droopCnt := bump f.droopCnt, edgeWin := true,
                    edges := (f.edges.filter fun t => decide (s.uptime < t + 8 * f.par.ovrW)) ++ [s.uptime] }
  let f := if f.phase ≠ .none ∧ !f.edgeInEvent then
      { f with edgeInEvent := true, run := 0, lead := min (bounds f).leadMax (f.lead + 2),
               start := max (bounds f).floor (f.start / 2), stepsUp := bump f.stepsUp }
    else f
  if f.edges.length > f.par.ovrK ∧ !f.ovr ∧ !f.ovrNext then
    let f := if f.par.strict then { f with ovrBlocked := bump f.ovrBlocked, ovrNext := true }
      else { f with ovrCount := bump f.ovrCount, ovrNext := true }
    raise (s.updFore p fun _ => f) 34 none (p + flag f.par.strict 8)
  else s.updFore p fun _ => f

/-! ## Delayed grants (R322, R324) -/

/-- The grant of a port that may be placed now: one whose tracker was old at readiness, else the first in
ready order, while the count stays below the limit; its credit is held and its slice in no switch window. -/
def nextReady (s : State) (p : Nat) : Option Tracker :=
  let w := waiting s p
  let young := w.filter fun x => !oldAt x x.readyAt
  let l := (w.filter fun x => oldAt x x.readyAt)
    ++ if paceOpen (s.port p).fore then young.take 1 else []
  l.find? fun x => !switchHits s x.sl && (match x.req with
    | some r => grantCredit s x r
    | none => false)

def dropReady (s : State) (p sl t : Nat) : State :=
  s.updPort p fun q => { q with ready := q.ready.filter fun e => e != (sl, t) }

/-- A delayed grant placed; where pacing delayed it, its delay is recorded (R328). -/
def placeReady (s : State) (p : Nat) (x : Tracker) : State :=
  let s := dropReady s p x.sl x.num
  let s := match x.pacedAt with
    | some t => s.updFore p fun f => { f with longest := max f.longest (125 * (s.uptime - t)) }
    | none => s
  match x.req with
  | some r => placeGrant s x r
  | none => s

/-- From here on pacing alone delays the first young grant of a port: its credit is held and the count has
reached the limit. It counts as delayed once (R328). -/
def markPaced (s : State) (p : Nat) : State :=
  match (waiting s p).find? fun x => !oldAt x x.readyAt with
  | some x => match x.req, x.pacedAt with
    | some r, none =>
      if !paceOpen (s.port p).fore && grantCredit s x r then
        putTrk (s.updFore p fun f => { f with delayed := bump f.delayed }) { x with pacedAt := some s.uptime }
      else s
    | _, _ => s
  | none => s

/-- Delayed grants of a port are placed while they may be; `n` bounds how many. -/
def drainReady (s : State) (p : Nat) : Nat → State
  | 0 => markPaced s p
  | n + 1 => match nextReady s p with
    | some x => drainReady (placeReady s p x) p n
    | none => markPaced s p

end Sys2Proof.Machine
end

