-- ==== Sys2Proof/Machine/RingOps.lean ====
section
/-!
DEFINITION. The doorbell and the checks of a mailbox command (14_mailboxes.md R388 to R394, 15_commands.md
Table 15-1).
-/
namespace Sys2Proof.Machine

/-! ## The commands of Table 15-1 -/

/-- Opcodes of Table 15-1. -/
def mbOpcodes : List Nat :=
  [0, 1, 2, 0x100, 0x101, 0x102, 0x103, 0x104, 0x105, 0x106, 0x107,
   0x200, 0x201, 0x202, 0x203, 0x204, 0x205, 0x206, 0x207, 0x208]
  ++ [0x300, 0x301, 0x302, 0x303, 0x304, 0x400, 0x401, 0x402, 0x500, 0x501, 0x502, 0x503, 0x504,
      0x600, 0x601, 0x602, 0x603, 0x700, 0x701, 0x702, 0x703, 0x704, 0x800, 0x801]

/-- The size of a configuration item (Table 15-5). -/
def itemSize (i : Nat) : Option Nat :=
  match i with
  | 1 | 2 | 6 => some 1
  | 3 => some 2
  | 4 | 5 => some 8
  | _ => none

def byteAt (bs : List Byte) (i : Nat) : Nat := ((bs[i]?).getD 0).toNat

/-- LEN is one the command allows (Table 15-1, R399, R404). A reserved FORM passes where LEN fits any
form (log 31). -/
def lenFits (op len : Nat) (pl : List Byte) : Bool :=
  let b := byteAt pl
  match op with
  | 0 | 1 | 2 | 0x300 | 0x602 | 0x603 | 0x701 | 0x702 => len == 0
  | 0x101 =>
    let sz := b 2
    decide (4 ≤ len) && len == 4 + sz && (match itemSize (numAt pl 0 2) with
      | some n => n == sz
      | none => true)
  | 0x104 => len == 20
  | 0x106 => len == 24
  | 0x200 => len == 32
  | 0x201 | 0x206 | 0x207 | 0x302 | 0x503 => len == 8
  | 0x401 => if b 0 % 2 = 0 then len == 8 else len == 16
  | 0x501 => len == 20
  | 0x502 => (b 0 != 1 && len == 8) || (b 0 != 0 && len == 12)
  | 0x504 => (b 0 != 1 && b 0 != 2 && len == 12) || (b 0 != 0 && b 0 != 2 && len == 8)
      || (b 0 != 0 && b 0 != 1 && len == 16)
  | 0x700 => decide (9 ≤ len ∧ len ≤ 232) && len == 8 + numAt pl 4 2
  | 0x704 => len == 12
  | _ => len == 4

/-- The mailbox may issue the command (Table 14-6, R399). A field past LEN decides nothing. -/
def mbPermits (s : State) (m op len : Nat) (pl : List Byte) : Bool :=
  if 8 ≤ m then true
  else
    let own := fun i => decide (len ≤ i) || byteAt pl i % 8 == m
    match op with
    | 0 | 1 | 2 | 0x503 | 0x800 => true
    | 0x204 | 0x801 => own 0
    | 0x402 => decide (len = 0)
        || (decide (byteAt pl 0 < 16) && (s.port (byteAt pl 0)).mem.dom == some m)
    | 0x500 => decide (len ≤ 1) || byteAt pl 1 == m || byteAt pl 1 == 0xFF
    | _ => false

/-- The "W" commands (Table 15-1). -/
def mbWakes (op : Nat) (pl : List Byte) : Bool :=
  (decide (0x200 ≤ op ∧ op ≤ 0x208)) || (decide (0x300 ≤ op ∧ op ≤ 0x304))
    || ([0x102, 0x106, 0x401, 0x402, 0x504, 0x600, 0x601, 0x602, 0x702, 0x801]).contains op
    || (op == 0x400 && byteAt pl 0 == 2)

/-- Commands that the Grave state (R373) and the recovery service (R438) serve, on MBB alone. -/
def mbServed (s : State) (m op : Nat) : Bool :=
  if s.flt.grave then m == 9 && ([0, 0x500, 0x503]).contains op
  else if s.fw.boot = .recovery then
    m == 9 && ([0, 1, 0x700, 0x701, 0x703, 0x704, 0x500, 0x503]).contains op
  else true

/-! ## The checks of R390 -/

/-- Steps 4 to 6. A command that passes waits for its execution, and a "W" command wakes the hub. -/
def mbCheckTail (s : State) (m : Nat) : State :=
  let op := mbOpcode s m
  let len := mbLen s m
  let pl := mbPayload s m len
  if !mbOpcodes.contains op then mbFinish s m 2 0 []
  else if !mbPermits s m op len pl then mbFinish s m 5 0 []
  else if !lenFits op len pl then mbFinish s m 3 0 []
  else if !mbServed s m op then mbFinish s m 6 0 []
  else
    let s := s.updMb m fun b => { b with checked := true, waiting := false }
    if mbWakes op pl then wake s causeFw else s

/-- Steps 1 to 3, by Cosy hardware, then the rest once the mailboxes are open (R489). The words used are
checked words; an uncorrectable one has ended the command already. -/
def mbChecks (s : State) (m : Nat) : State :=
  let (bad, s) := useMbWords s m 0 4
  if bad then s
  else if s.fw.exch.isSome then mbFinish s m 7 0 []
  else
    let len := mbLen s m
    if 256 < len then mbFinish s m 3 0 []
    else
      let (bad, s) := useMbWords s m 4 ((len + 3) / 4)
      if bad then s
      else if (crc32c (mbPayload s m len)).toNat ≠ mbPcrc s m then mbFinish s m 4 0 []
      else if s.flt.grave ∨ s.fw.isOpen ∨ s.fw.boot = .recovery then mbCheckTail s m
      else s.updMb m fun b => { b with waiting := true }

/-- A write of MB_DOORBELL (R388, R389); a ring of MBB releases its alert (R467). RINGER is 0x7F for MBB
(R397). -/
def mbRing (s : State) (m : Nat) (who : BitVec 7) (v : Nat) : State :=
  if !nbit v 0 then
    if mbAccepts s m who then s else s.updMb m fun b => { b with blocked := true }
  else if !mbAccepts s m who ∨ (s.mb m).st = .busy then mbIgnore s m who
  else
    let s := s.updMb m fun b =>
      { b with st := .busy, tag := BitVec.ofNat 8 (mbTag s m), ringer := if m = 9 then 0x7F else who,
               notify := none, checked := false, waiting := false, running := false }
    let s := if m = 9 then s.updSmb fun b => { b with alert := false } else s
    mbChecks s m

end Sys2Proof.Machine
end

