-- ==== Sys2Proof/Machine/AperOps.lean ====
section
/-!
DEFINITION. The domain and platform apertures as a requester sees them (14_mailboxes.md R381 to R385, 16
R449).
-/
namespace Sys2Proof.Machine

def reqAddr (r : Req) : Nat := lineAddr r.f.laddr r.f.ofs.toNat

def isDev (r : Req) : Bool := r.op == .rnc || r.op == .wnc

/-- What an aperture access reaches. -/
inductive AperAt where
  | area (m o : Nat)
  | mreg (m o : Nat)
  | plat (o : Nat) (part : Part)
  | crc (u o : Nat)
  | reserved
  | bad
deriving DecidableEq, Repr

/-- [o, o + n) overlaps [a, a + k). -/
def overlaps (o n a k : Nat) : Bool := decide (o < a + k ∧ a < o + n)

/-- Where n bytes at window offset o of mailbox m lie (R383, R385). -/
def windowAt (m o n : Nat) : AperAt :=
  let regs : List Nat := if m < 8 then [0x20, 0x24, 0x28] else [0x20, 0x24]
  if inArea o n then .area m o
  else if n = 4 ∧ regs.contains o then .mreg m o
  else if overlaps o n 0 0x10 || overlaps o n 0x40 0x100 || regs.any fun a => overlaps o n a 4 then .bad
  else .reserved

def crcAt (u o n : Nat) : AperAt :=
  if n = 4 ∧ crcRegs.contains o then .crc u o
  else if crcRegs.any fun a => overlaps o n a 4 then .bad else .reserved

/-- A platform register: whole, or one half of a 64-bit one. -/
def platAt (o n : Nat) : AperAt :=
  match platRegs.find? fun e => overlaps o n e.1 e.2 with
  | none => .reserved
  | some (a, k) =>
    if n = k ∧ o = a then .plat a .full
    else if k = 8 ∧ n = 4 ∧ o = a then .plat a .lo
    else if k = 8 ∧ n = 4 ∧ o = a + 4 then .plat a .hi
    else .bad

/-- The place of an access of n bytes at address a by an agent of domain d (Table 14-2). -/
def aperAt (s : State) (d a n : Nat) : AperAt :=
  if domBase ≤ a then
    let o := a - domBase
    if o < 0x140 then windowAt d o n
    else if 0x1000 ≤ o ∧ o < 0x1200 ∧ s.crcOwner ((o - 0x1000) / 0x100) = some d then
      crcAt ((o - 0x1000) / 0x100) (o % 0x100) n
    else .reserved
  else
    let o := a - platBase
    if o < 0x140 then windowAt 8 o n
    else if 0x27000 ≤ o ∧ o < 0x27200 then
      if s.crcOwner ((o - 0x27000) / 0x100) = none then
        crcAt ((o - 0x27000) / 0x100) (o % 0x100) n
      else .reserved
    else platAt o n

/-- The NAK an aperture request meets before it is served (R179 step 1, R382, R383). A misaligned access is
one of R383's other combinations also where it lies wholly at a reserved offset: BAD_REQUEST, which
stands before MISALIGNED in R179 (DESIGN CHOICE, log 42). -/
def aperNak (s : State) (r : Req) : Option Nat :=
  let n := 2 ^ r.f.sub.toNat
  if isDev r then
    if 6 < r.f.sub.toNat ∨ r.f.ofs.toNat % n ≠ 0
      ∨ aperAt s r.h.dom.toNat (reqAddr r) n = .bad then some 8
    else if reqAddr r < domBase ∧ s.cfg.eff.pport ≠ some r.port then some 0xA
    else none
  else if badFields r then some 8 else some 0xA

/-- An aperture answer comes from no tracker: pacing neither counts nor delays it (Table 11-3). -/
def aperAnswer (s : State) (r : Req) (m : Msg) : State :=
  let c := (s.port r.port).fore.count
  (answerReq s r m).updFore r.port fun f => { f with count := c }

/-- The DSH of an aperture read: n bytes at OFS. Its HTAG names no tracker, so it is a free value
(log 16). -/
def aperRead (s : State) (r : Req) (v : Nat) : State :=
  let (x, s) := s.nextFree
  let o := r.f.ofs.toNat
  let n := 2 ^ r.f.sub.toNat
  let (data, s) := s.fill (rangeMask o n) (numLine v o n)
  let f : DatF := { h := reqHdr s r, poi := false, res := false, gst := 0, laddr := r.f.laddr,
                    htag := x.setWidth 14 }
  aperAnswer s r (.dat .dsh f data)

def aperWrote (s : State) (r : Req) : State := aperAnswer s r (.cmp (reqHdr s r) 0)

/-- A register of a mailbox window read; a read of MB_LOCK may claim the lock. -/
def mregRead (s : State) (m o : Nat) (who : BitVec 7) : Nat × State :=
  if o = 0x20 then (mbStateReg s m, s) else if o = 0x28 then lockClaim s m who else (0, s)

/-- A register of a mailbox window written. -/
def mregWrite (s : State) (m o : Nat) (who : BitVec 7) (v : Nat) : State :=
  if o = 0x20 then mbStateWrite s m v
  else if o = 0x24 then mbRing s m who v
  else if o = 0x28 ∧ nbit v 8 then lockRelease s m who else s

/-- The value of part of a platform register. -/
def platPart (v : Nat) : Part → Nat
  | .full => v
  | .lo => v % 2 ^ 32
  | .hi => v / 2 ^ 32

/-- An access that has passed the DS gate and its checks, carried out once (R383). -/
def aperServe (s : State) (r : Req) : State :=
  let n := 2 ^ r.f.sub.toNat
  let v := lineNum r.data r.f.ofs.toNat n
  let rd := r.op == .rnc
  match aperAt s r.h.dom.toNat (reqAddr r) n with
  | .area m o =>
    if rd then
      let (bs, s) := readWindow s m o n
      aperRead s r (ofBytes bs)
    else aperWrote (windowWrite s m r.h.dan o (toBytes n v)) r
  | .mreg m o =>
    if rd then
      let (v, s) := mregRead s m o r.h.dan
      aperRead s r v
    else aperWrote (mregWrite s m o r.h.dan v) r
  | .plat o part =>
    if rd then aperRead s r (platPart (platRead s o) part)
    else aperWrote (platWrite s o part (BitVec.ofNat 64 v)) r
  | .crc u o =>
    if !(s.crcu u).busy.isEmpty then nakReq s r 5 none
    else if rd then aperRead s r (crcRead (s.crcu u) o)
    else
      let s := s.setCrc u (crcWrite (s.crcu u) o v (some r))
      if 0x20 ≤ o then s else aperWrote s r
  | .reserved | .bad => if rd then aperRead s r 0 else aperWrote s r

def serveAper (s : State) (r : Req) : State :=
  match aperNak s r with
  | some k => nakReq s r k none
  | none => aperServe s r

end Sys2Proof.Machine
end

