-- ==== Sys2Proof/Machine/PortOps.lean ====
section
/-!
DEFINITION. What a port does with a delivered message before its class is served: assignment and epoch
checks (03 R80, R82, R84), consent (10 R300), messages for another hub (09 R265 to R272).
-/
namespace Sys2Proof.Machine

/-- Messages of a domain that is not here, or is down and not restarting, or of another epoch, are
discarded (R82, R199). -/
def discards (s : State) (h : Hdr) : Bool :=
  let q := s.dom h.dom.toNat
  q.st == .none || (q.st == .down && q.start.isNone) || h.epoch != q.epoch

/-- A REQ or WB of a consenting agent withdraws the consent and is reported (R300). -/
def dropConsent (s : State) (p : Nat) (m : Msg) (l : LAddr) : State :=
  if (s.port p).mem.consent then
    raiseProtocol (s.updMem p fun k => { k with consent := false }) p (s.port p).mem.dom m l
  else s

/-- The DAN of a message names its sender (R80). -/
def namesSender : Msg → Bool
  | .req .. | .pmk .. | .wb .. | .ans .. => true
  | _ => false

/-! ## The order in which messages are taken (R61, R89, R202, R221) -/

/-- Requests to an aperture: they are served where they arrive (R381). -/
def toAper (p : Nat) (f : ReqF) : Bool := decide (p < 16) && inAperture (lineAddr f.laddr f.ofs.toNat)

/-- Where a request of port p goes: the slice of this hub that looks it up, or the next port; 64 for one
that is served where it arrives, as a CURE and a request to an aperture are (R226, R381). -/
def reqLane (s : State) (p : Nat) (op : ReqOp) (h : Hdr) (f : ReqF) : Nat :=
  if op = .cure ∨ toAper p f then 64
  else if s.homeHub f.laddr = s.hubId then
    (s.physSlice f.laddr).getD (sliceHash (lineAddr f.laddr 0))
  else 32 + routePort s (s.homeHub f.laddr) h.dom.toNat h.dan.toNat (decide (p < 16))

/-- The PMK and the WRP of one partial write (R89). -/
def pmkFits (ph : Hdr) (st : BitVec 6) (h : Hdr) (f : ReqF) : Bool :=
  ph.tid == h.tid && ph.dan == h.dan && ph.dom == h.dom && st == f.stream

/-- REQ messages of the same port and credit that stand in the inbox ahead of m; all of them where m
stands there not. -/
def reqsAhead (s : State) (p : Nat) (m : Msg) : List Msg :=
  (((s.port p).rx.msgs.filter fun n => n.cls == .req && msgKey p n == msgKey p m)).takeWhile
    fun n => n != m

/-- A request waits for an earlier one of its port that goes to the same slice or the same next port
(R221), on an agent port also for one of its stream (R226, R230), and a WRP for its PMK (R89). -/
def reqWaits (s : State) (p : Nat) (op : ReqOp) (h : Hdr) (f : ReqF) (n : Msg) : Bool :=
  match n with
  | .req nop nh nf _ =>
    let k := reqLane s p op h f
    (k != 64 && reqLane s p nop nh nf == k) || (decide (p < 16) && nf.stream == f.stream)
  | .pmk ph st _ => op == .wrp && pmkFits ph st h f
  | _ => false

/-- Nothing that must be taken first stands ahead of a message. -/
def inOrder (s : State) (p : Nat) (m : Msg) : Bool :=
  match m with
  | .req op h f _ => !((reqsAhead s p m).any (reqWaits s p op h f))
  | .pmk .. => (reqsAhead s p m).isEmpty
  | .snp f => !(((s.port p).rx.msgs.takeWhile fun n => n != m).any (barsSnoop f))
  | _ => true

/-! ## Switch windows (R348) -/

/-- The sender or the receiver that a message names is a mirrored agent of this hub. -/
def namesMirrored (s : State) (m : Msg) : Bool := (s.mirrored m.hdr.dom.toNat m.hdr.dan.toNat).isSome

/-- An answer of a tracker of this hub would reach the slice of the window in progress. -/
def reachesSlice (s : State) (htag : BitVec 14) : Bool :=
  htagHub htag == s.hubId && switchHits s (htagSlice htag)

/-- A message whose service would reach the array or the slice of a switch window in progress waits until
it ends (R348). REQs are answered; a WB stands in the writeback store, but for one that clears a Strainer
entry. -/
def barred (s : State) (m : Msg) : Bool :=
  let strainer := s.home.switching == some 16 && namesMirrored s m
  match m with
  | .ans _ f _ => strainer || reachesSlice s f.htag
  | .dat .dmm f _ => reachesSlice s f.htag
  | .mcp _ _ t => reachesSlice s t
  | .dat _ f _ => strainer || reachesSlice s f.htag
  | .cmp .. | .wb .. => strainer
  | .snp f => f.proxy && s.home.switching == some 16
  | _ => false

/-! ## The turn of a port at a slice (R151) -/

/-- A request of a port waits for a lookup of slice sl. -/
def waitsLookup (s : State) (sl q : Nat) : Bool :=
  (s.port q).rx.msgs.any fun m => match m with
    | .req op h f _ => reqLane s q op h f == sl && inOrder s q m
    | _ => false

/-- How far port q stands behind the port whose request slice sl looked up last. The spec names no port
that is first: port 0 (DESIGN CHOICE, log 43). -/
def turnDist (s : State) (sl q : Nat) : Nat := (q + 39 - tget 19 s.home.turn sl) % 20

/-- Of the ports with a request for a slice, port p is the next in round-robin order; a request that goes
elsewhere has its turn at once. -/
def hasTurn (s : State) (p : Nat) (op : ReqOp) (h : Hdr) (f : ReqF) : Bool :=
  let sl := reqLane s p op h f
  decide (17 ≤ sl) || !(allPorts.any fun q => waitsLookup s sl q && turnDist s sl q < turnDist s sl p)

/-- A message row acts on a message that stands at its port and whose turn it is. -/
def mayTake (s : State) (p : Nat) (m : Msg) : Bool :=
  stands s p m && inOrder s p m && !barred s m && (match m with
    | .req op h f _ => hasTurn s p op h f
    | _ => true)

/-- What a port makes of a delivered message other than a REQ. -/
inductive Entry where
  | drop (s : State)
  | take (s : State)

/-- What a released agent had sent is discarded; the credit of a message of its domain is returned until the
domain restarts (R199). -/
def releasedDrop (s : State) (p d : Nat) (m : Msg) : State :=
  if m.hdr.dom.toNat = d ∧ discards s m.hdr then returnCredit s p m.cls d else s

/-- The checks of R84 rows 5 and 6 on a message other than a REQ; the message leaves the inbox. A
dropped one returns its credit, a misaddressed one is reported. -/
def enter (s : State) (p : Nat) (m : Msg) (l : LAddr) : Entry :=
  let d := m.hdr.dom.toNat
  if p < 16 then
    let q := (s.port p).mem
    let s := takeMsg s p m
    match q.dom, q.sent with
    | some d', some _ =>
      if d ≠ d' ∨ (namesSender m ∧ m.hdr.dan.toNat ≠ q.dan) then
        .drop (raiseProtocol (returnCredit s p m.cls d') p (some d') m l)
      else if discards s m.hdr then .drop (returnCredit s p m.cls d)
      else .take s
    | some d', none => .drop (releasedDrop s p d' m)
    | none, _ => .drop s
  else
    let s := takeMsg s p m
    if discards s m.hdr then .drop (returnCredit s p m.cls d) else .take s

/-! ## Messages for another hub -/

/-- A message goes on toward hub t with a route key (R267, R272). From an agent port it is placed onto
the span network at once. From a span port it waits for a credit of the next port (log 17). -/
def forward (s : State) (p : Nat) (m : Msg) (t key : Nat) : State :=
  let d := m.hdr.dom.toNat
  if p < 16 then placeSpan (returnCredit s p m.cls d) t key true m
  else
    let o := routePort s t d key false
    if creditFree s o m.cls d || !s.up o then placeSpan (returnCredit s p m.cls d) t key false m
    else putBack s p m

/-- The agent that serves a line as memory: DIR_TGT for a directory word, else the region's target. -/
def memTarget (s : State) (d : Nat) (l : LAddr) : Option Nat :=
  let q := (s.dom d).par
  let a := lineAddr l 0
  if q.twSize ≠ 0 ∧ q.dirBase.toNat ≤ a ∧ a < q.dirBase.toNat + q.twSize / 8 then some q.dirTgt
  else (s.region d a).map Prod.snd

def agentHub (s : State) (d dan : Nat) : Option Nat := (s.agent d dan).map Agent.hub

/-- The hubs on the default route from a to b, a first. -/
def defaultRoute (a b : Nat) : List Nat :=
  (upto 3).foldl (fun l k =>
    let cur := (l.getLast?).getD a
    if (cur ^^^ b).testBit k then l ++ [cur ^^^ 2 ^ k] else l) [a]

/-- The hubs on the way of a message that hub a places toward hub b, a first (R265, R268). -/
def wayOf (s : State) (a b : Nat) : List Nat :=
  let detour := s.home.s3 == 2 && (match s.home.s3edge with
    | some (e, k) => crosses a b e k
    | none => false)
  if detour then a :: defaultRoute (a ^^^ (s.hubs - 1)) b else defaultRoute a b

/-- The hub at the far end of a span port. -/
def farHub (s : State) (p : Nat) : Nat :=
  if p < 19 then s.hubId ^^^ 2 ^ (p - 16)
  else if s.home.s3 = 1 then s.hubId ^^^ 2 ^ s.home.s3dim
  else s.hubId ^^^ (s.hubs - 1)

/-- The way from hub a to hub b reaches this hub by port p. -/
def reachedBy (s : State) (p a b : Nat) : Bool :=
  let l := wayOf s a b
  (l.zip l.tail).contains (farHub s p, s.hubId)

/-- A DFW on span port p may have been placed by its home, on its way to the requester's hub. -/
def mayBeFromHome (s : State) (p home req : Nat) : Bool := home != req && reachedBy s p home req

/-- A DFW on span port p may still be on its way to its home, from the hub of some forwarder. -/
def mayBeToHome (s : State) (p home : Nat) : Bool :=
  (upto s.hubs).any fun a => a != home && reachedBy s p a home

/-- A DFW comes from its home, as far as the routes tell. Where the port lies both on the way from the home
and on a forwarder's way to it, which mode SPARE alone brings about, the spec does not say how a hub tells:
`v` decides, a free value (log 18). -/
def fromHome (s : State) (p home req : Nat) (v : Bool) : Bool :=
  mayBeFromHome s p home req && (!mayBeToHome s p home || v)

/-- Destination hub and route key of a message (Table 09-2, R267), where the message and this hub's
tables tell them. `p` is the port it came in by, `v` a free bit for a DFW whose leg nothing tells. -/
def destOf (s : State) (p : Nat) (m : Msg) (v : Bool) : Option (Nat × Nat) :=
  let d := m.hdr.dom.toNat
  let dan := m.hdr.dan.toNat
  match m with
  | .req _ _ f _ => some (s.homeHub f.laddr, dan)
  | .wb _ _ l _ => some (s.homeHub l, dan)
  | .mrq f _ => (memTarget s d f.laddr).bind fun t => (agentHub s d t).map fun h => (h, t)
  | .cmp .. | .nak .. | .dat .dsh .. | .dat .dow .. => (agentHub s d dan).map fun h => (h, dan)
  | .dat .dfw f _ =>
    match agentHub s d dan with
    | some h => some (if fromHome s p (htagHub f.htag) h v then h else htagHub f.htag, dan)
    | none => none
  | .ans _ f _ => some (htagHub f.htag, dan)
  | .mcp _ l t => some (htagHub t, (memTarget s d l).getD 0)
  | .dat .dmm f _ => some (htagHub f.htag, (memTarget s d f.laddr).getD 0)
  | .snp .. | .pmk .. | .hnt .. => none

end Sys2Proof.Machine
end

