-- ==== Sys2Proof/Machine/ReqCmds.lean ====
section
/-!
DEFINITION. Meanings of the REQ rows (03 R85 to R89, 05, 07 R226, R230).
-/
namespace Sys2Proof.Machine

/-! ## PMK and WRP (R89, R107) -/

/-- The mask with which a PMK meets a message: that of its WRP. -/
def maskFor (e : Hdr × BitVec 6 × BitVec 64) (m : Msg) : Option (BitVec 64) :=
  match m with
  | .req .wrp h f _ => if pmkFits e.1 e.2.1 h f then some e.2.2 else none
  | _ => none

/-- The pending PMK of a port, on a span port of the message's domain, meets the REQ message m, which is
about to be taken: answers the mask where m is the WRP that directly follows it. The PMK is then gone and
its credit returned, as it is where the next REQ message is no matching WRP. Where its WRP still stands
and m is a later message, the PMK waits on. -/
def matchPmk (s : State) (p : Nat) (m : Msg) : Option (BitVec 64) × State :=
  match (s.port p).rx.pmk.find? fun e => p < 16 || e.1.dom == m.hdr.dom with
  | none => (none, s)
  | some e =>
    let n := (reqsAhead s p m).headD m
    if n ≠ m ∧ (maskFor e n).isSome then (none, s)
    else
      let s := s.updRx p fun r => { r with pmk := r.pmk.erase e }
      (if n = m then maskFor e m else none, returnCredit s p .req e.1.dom.toNat)

/-! ## The DS order gate (R230) -/

/-- Requests the gate acts on: RNC and WNC to a DS region or an aperture. -/
def gated (s : State) (r : Req) : Bool :=
  isDev r && (inAperture (reqAddr r) || (match s.region r.h.dom.toNat (reqAddr r) with
    | some (.ds, _) => true
    | _ => false))

/-- A request that is free to go: to its aperture, its home here, or its home hub. -/
def route (s : State) (r : Req) : State :=
  if inAperture (reqAddr r) then serveAper s r
  else
    let t := s.homeHub r.f.laddr
    if t = s.hubId then homeReq s r
    else
      let k := r.h.dan.toNat
      let s := if r.op = .wrp then placeSpan s t k true (.pmk r.h r.f.stream r.mask) else s
      placeSpan s t k true (.req r.op r.h r.f r.data)

def gateOf (q : Port) (stream : Nat) : Gate := tget .idle q.gates stream

def setGate (s : State) (p stream : Nat) (g : Gate) : State :=
  s.updPort p fun q => { q with gates := tset q.gates stream g, gateEnd := tset q.gateEnd stream none }

/-- A request passes the gate. -/
def gatePass (s : State) (r : Req) : State :=
  route (setGate s r.port r.f.stream.toNat (.busy r.h.tid)) r

def gateArrive (s : State) (r : Req) : State :=
  match gateOf (s.port r.port) r.f.stream.toNat with
  | .idle => gatePass s r
  | .busy _ =>
    if 8 ≤ (s.port r.port).gateBuf.length then nakReq s r 5 none
    else s.updPort r.port fun q => { q with gateBuf := q.gateBuf ++ [r] }
  | .broken t => if r.h.tid = t then gatePass s r else nakReq s r 2 none

/-! ## CURE (R226, R227, R255) -/

/-- CUREs of a domain on this hub that hold a watch entry. -/
def watches (s : State) (d : Nat) : Nat :=
  (agentPorts.map fun p => ((s.port p).cures.filter fun c => c.h.dom.toNat == d).length).sum

/-- An unguaranteed watch entry is free: of the 32, those guaranteed to every domain apart. -/
def spareWatch (s : State) : Bool :=
  let above := fun d => watches s d - (s.dom d).par.cq
  decide ((allDoms.map fun d => (s.dom d).par.cq).sum + (allDoms.map above).sum < 32)

def cureReq (s : State) (r : Req) : State :=
  let p := r.port
  let d := r.h.dom.toNat
  let cq := (s.dom d).par.cq
  let s := statAdd s d 22
  if badFields r then nakReq s r 8 none
  else if (s.dom d).st ≠ .started then nakReq s r 7 none
  else
    let writes := ((s.port p).opens.filter fun e => e.1 == r.f.stream).map Prod.snd
    let ents := s.home.merges.filter fun m => m.dom == d && m.who.contains (r.h.dan.toNat, r.f.stream)
    let full := decide (4 ≤ (s.port p).cures.length)
    if writes.isEmpty && ents.isEmpty then
      if full then nakReq s r 5 none else answerReq s r (.cmp (reqHdr s r) 0)
    else
      let u := watches s d
      if cq ≤ u ∧ 2 * cq ≤ u then nakReq s r 4 none
      else if cq ≤ u ∧ !spareWatch s then nakReq s r 3 none
      else if full then nakReq s r 5 none
      else
        let c : Cure := { h := r.h, stream := r.f.stream, writes,
                          drains := ents.map fun m => (m.id, m.laddr) }
        let s := s.updPort p fun q => { q with cures := q.cures ++ [c] }
        ents.foldl (fun s m => startDrain s m.id) s

/-! ## A REQ of an agent -/

/-- The first reason of R179 for a request that this hub does not look up: its domain is not in service
here. -/
def lateReason (s : State) (r : Req) : Nat :=
  if inAperture (reqAddr r) then (aperNak s r).getD 7
  else if badFields r then 8
  else match s.region r.h.dom.toNat (reqAddr r) with
    | none => 0xA
    | some (rt, _) => if !opAllowed s r rt then 0xA else if misaligned r then 9 else 7

def isWrite : ReqOp → Bool
  | .wrl | .wrp | .wnc | .atm => true
  | _ => false

/-- A well-addressed REQ of an agent, its PMK matched where it has one. -/
def agentServe (s : State) (r : Req) : State :=
  let p := r.port
  let d := r.h.dom.toNat
  let s := if isWrite r.op then s.updPort p fun q =>
      { q with opens := q.opens ++ [(r.f.stream, r.h.tid)] } else s
  let s := if r.op = .upg then s.updPort p fun q =>
      { q with upgs := q.upgs ++ [(r.h.tid, r.f.laddr)] } else s
  let here := s.homeHub r.f.laddr == s.hubId && !inAperture (reqAddr r)
  if r.op = .cure then cureReq s r
  else if (s.dom d).st ≠ .started then
    if here then homeReq s r else nakReq s r (lateReason s r) none
  else if gated s r then gateArrive s r
  else route s r

/-- A REQ delivered on an agent port (R80, R84, R89). -/
def agentReq (s : State) (p : Nat) (op : ReqOp) (h : Hdr) (f : ReqF) (data : Line) : State :=
  let m : Msg := .req op h f data
  let q := (s.port p).mem
  let (mask, s) := matchPmk s p m
  let s := takeMsg s p m
  match q.dom, q.sent with
  | some d, some _ =>
    let s := if foreRuns s p then reqDelivered s p else s
    let s := dropConsent (returnCredit s p .req d) p m f.laddr
    let s := statAdd s d 0
    let own : Hdr := { tid := h.tid, dan := BitVec.ofNat 7 q.dan, epoch := (s.dom d).epoch,
                       dom := BitVec.ofNat 3 d }
    let r : Req := { op, port := p, h := own, f, data, mask := mask.getD 0 }
    if h.dom ≠ own.dom ∨ h.dan ≠ own.dan then nakReq s r 8 none
    else if discards s h then s
    else if op = .wrp ∧ mask.isNone then nakReq s r 8 none
    else agentServe s r
  | some d, none => releasedDrop s p d m
  | none, _ => s

/-! ## A REQ from another hub -/

/-- A REQ on a span port: looked up here where this is its home, held between stage R and the start of
its domain (R281), passed on otherwise. A CURE never crosses a span port (R226). -/
def spanReq (s : State) (p : Nat) (op : ReqOp) (h : Hdr) (f : ReqF) (data : Line) : State :=
  let m : Msg := .req op h f data
  let d := h.dom.toNat
  let t := s.homeHub f.laddr
  if discards s h ∨ op = .cure then returnCredit (takeMsg (matchPmk s p m).2 p m) p .req d
  else if t ≠ s.hubId then
    let o := routePort s t d h.dan.toNat false
    let (mask, s') := matchPmk s p m
    if creditsFree s o .req d (if mask.isSome then 2 else 1) || !s.up o then
      let s := takeMsg s' p m
      let s := match mask with
        | some k => placeSpan s t h.dan.toNat false (.pmk h f.stream k)
        | none => s
      placeSpan (returnCredit s p .req d) t h.dan.toNat false m
    else putBack (takeMsg s p m) p m
  else
    let (mask, s) := matchPmk s p m
    let s := takeMsg s p m
    let r : Req := { op, port := p, h, f, data, mask := mask.getD 0 }
    let held : Bool := match (s.dom d).start with
      | some j => j.stage == Stage.waitR
      | none => false
    if op = .wrp ∧ mask.isNone then nakReq (returnCredit s p .req d) r 8 none
    else if held then
      s.updDom d fun q => { q with heldReqs := q.heldReqs ++ [(s.uptime, r)] }
    else homeReq (returnCredit s p .req d) r

/-- The port takes its turn at the slice that looks its request up (R151). -/
def noteTurn (s : State) (p : Nat) (op : ReqOp) (h : Hdr) (f : ReqF) : State :=
  let sl := reqLane s p op h f
  if sl < 17 then s.updHome fun k => { k with turn := tset k.turn sl p } else s

/-- A REQ row. The slice serves the writeback store first (R151), and a WB that waited for a tracker may
find one freed afterwards (R150). -/
def reqRow (s : State) (p : Nat) (op : ReqOp) (h : Hdr) (f : ReqF) (data : Line) : State :=
  if !mayTake s p (.req op h f data) then s
  else
    let s := serveStore (noteTurn s p op h f)
    serveStore (if p < 16 then agentReq s p op h f data else spanReq s p op h f data)

/-! ## The rows -/

def execRds (p : Fin 20) (h : Hdr) (f : ReqF) (s : State) : Out := .next (reqRow s p .rds h f 0)
def execRdo (p : Fin 20) (h : Hdr) (f : ReqF) (s : State) : Out := .next (reqRow s p .rdo h f 0)
def execRdc (p : Fin 20) (h : Hdr) (f : ReqF) (s : State) : Out := .next (reqRow s p .rdc h f 0)
def execUpg (p : Fin 20) (h : Hdr) (f : ReqF) (s : State) : Out := .next (reqRow s p .upg h f 0)

def execWrl (p : Fin 20) (h : Hdr) (f : ReqF) (data : Line) (s : State) : Out :=
  .next (reqRow s p .wrl h f data)

/-- A PMK waits for its WRP; a PMK still waiting is unmatched (R89, R107). One that names another domain or
DAN than the port's ASSIGN fits no WRP that may be served, so its pair is NAKed at the WRP (row 5 of
Table 03-3). -/
def execPmk (p : Fin 20) (h : Hdr) (stream : BitVec 6) (mask : BitVec 64) (s : State) : Out :=
  let m : Msg := .pmk h stream mask
  if !mayTake s p m then .next s
  else
    let q := (s.port p).mem
    let s := takeMsg (matchPmk s p m).2 p m
    if p.val < 16 ∧ (q.dom.isNone ∨ q.sent.isNone) then
      .next (match q.dom with
        | some d => releasedDrop s p d m
        | none => s)
    else
      let s := if p.val < 16 ∧ foreRuns s p then reqDelivered s p else s
      let s := if p.val < 16 then statAdd (dropConsent s p m 0) (q.dom.getD 0) 0 else s
      let d := if p.val < 16 then q.dom.getD 0 else h.dom.toNat
      if discards s h ∧ h.dom.toNat = d ∧ (16 ≤ p.val ∨ h.dan.toNat = q.dan) then .next (returnCredit s p .req d)
      else .next (s.updRx p fun r => { r with pmk := r.pmk ++ [(h, stream, mask)] })

def execWrp (p : Fin 20) (h : Hdr) (f : ReqF) (data : Line) (s : State) : Out :=
  .next (reqRow s p .wrp h f data)
def execAtm (p : Fin 20) (h : Hdr) (f : ReqF) (data : Line) (s : State) : Out :=
  .next (reqRow s p .atm h f data)
def execRnc (p : Fin 20) (h : Hdr) (f : ReqF) (s : State) : Out := .next (reqRow s p .rnc h f 0)
def execWnc (p : Fin 20) (h : Hdr) (f : ReqF) (data : Line) (s : State) : Out :=
  .next (reqRow s p .wnc h f data)
def execCure (p : Fin 20) (h : Hdr) (f : ReqF) (s : State) : Out := .next (reqRow s p .cure h f 0)

/-! ## Gates and CUREs that go on -/

def retryable (reason : BitVec 4) : Bool := decide (1 ≤ reason.toNat ∧ reason.toNat ≤ 7)

/-- The request that passed last has its final answer: the next passes, or the gate is IDLE or BROKEN
(R230). -/
def execDsGatePass (a : Fin 16) (stream : BitVec 6) (s : State) : Out :=
  let q := s.port a
  let k := stream.toNat
  match gateOf q k, tget none q.gateEnd k with
  | .busy t, some reason =>
    if !s.clocked then .next s
    else
      let mine := q.gateBuf.filter fun r => r.f.stream == stream
      if retryable reason then
        let s := setGate s a k (.broken t)
        let s := s.updPort a fun q => { q with gateBuf := q.gateBuf.filter fun r => r.f.stream != stream }
        .next (mine.foldl (fun s r => nakReq s r 2 none) s)
      else match mine with
        | [] => .next (setGate s a k .idle)
        | r :: _ =>
          .next (gatePass (s.updPort a fun q => { q with gateBuf := q.gateBuf.erase r }) r)
  | _, _ => .next s

/-- The CMP of a CURE that awaits nothing any more (R227). -/
def execCureComplete (a : Fin 16) (tid : BitVec 12) (s : State) : Out :=
  match (s.port a).cures.find? fun c => c.h.tid == tid && c.writes.isEmpty && c.drains.isEmpty with
  | some c =>
    if !s.clocked then .next s
    else
      let s := s.updPort a fun q => { q with cures := q.cures.erase c }
      .next (placeAgent s a (.cmp { c.h with epoch := (s.dom c.h.dom.toNat).epoch } 0))
  | none => .next s

end Sys2Proof.Machine
end

