-- ==== Sys2Proof/Machine/SweepOps.lean ====
section
/-!
DEFINITION. Directory sweeps, the stages of a DOMAIN_START and span notices (08 R261, R262, 09 R277 to
R282).
-/
namespace Sys2Proof.Machine

/-! ## Stage notices (R278, R280) -/

/-- The notice that this hub has reached a stage: DAN 40 + h for P, 48 + h for R; MIR = 0. -/
def stageNotice (s : State) (d base : Nat) : AssignF := assignFields s d (base + s.hubId) false

/-- EPOCH, VAR, TANS and TSNP agree with this hub's own. -/
def sameStage (a own : AssignF) : Bool :=
  a.epoch == own.epoch && a.var == own.var && a.tans == own.tans && a.tsnp == own.tsnp

/-- CONFIG_MISMATCH (source 15, Table 13-5). -/
def raiseMismatch (s : State) (d h : Nat) (a : AssignF) : State :=
  raise s 15 (some d) (h % 8 + 256 * a.epoch.toNat)

/-- The notices that came before this hub reached stage P are compared now: those that differ are not
counted (R280). -/
def sortNotices (s : State) (d : Nat) : State :=
  let own := stageNotice s d 40
  let q := s.dom d
  let bad := (q.stageP ++ q.stageR).filter fun e => !sameStage e.2 own
  let s := s.updDom d fun q => { q with stageP := q.stageP.filter fun e => sameStage e.2 own,
                                        stageR := q.stageR.filter fun e => sameStage e.2 own }
  bad.foldl (fun s e => raiseMismatch s d e.1 e.2) s

/-- A stage notice of another hub: recorded or not counted, and relayed the first time (R278, R280).
It is relayed though it is not counted (DEDUCED, log 29). -/
def takeNotice (s : State) (p h : Nat) (n : AssignF) (stageR : Bool) : State :=
  let d := n.dom.toNat
  let q := s.dom d
  let put := fun (l : List (Nat × AssignF)) => l.filter (fun e => e.1 != h) ++ [(h, n)]
  let s := if q.start.isSome && !sameStage n (stageNotice s d 40) then raiseMismatch s d h n
    else if stageR then s.updDom d fun q => { q with stageR := put q.stageR }
    else s.updDom d fun q => { q with stageP := put q.stageP }
  let key := (n.dan.toNat, n.epoch.toNat)
  if q.relayed.contains key then s
  else spanNotice (s.updDom d fun q => { q with relayed := q.relayed ++ [key] }) (some p) (.assign n)

/-- Every other hub of the system is among the hubs recorded. -/
def allHubs (s : State) (l : List (Nat × AssignF)) : Bool :=
  (upto s.hubs).all fun h => h == s.hubId || l.any fun e => e.1 == h

/-- The records of a domain are cleared (R280); what has been relayed is forgotten with them
(DEDUCED, log 29). -/
def clearRecords (q : Dom) : Dom := { q with stageP := [], stageR := [], relayed := [] }

/-! ## The end of a DOMAIN_START (R281, R282) -/

def finishMbx (s : State) (m : Option Nat) (status detail : Nat) : State :=
  match m with
  | some m => mbFinish s m status detail []
  | none => s

/-- DETAIL of a late answer or a deadline: port, DAN, slice, tracker (Table 13-5). -/
def waitDetail (port dan sl t : Nat) : Nat := port + 2 ^ 16 * dan + 2 ^ 23 * sl + 2 ^ 28 * t

/-- A held span REQ is looked up. Its T_answer has run since its delivery: one that is over is counted and
reported now, since a held REQ has no tracker that a T_ANSWER_EXPIRY could name (R205, R281, log 29). -/
def lookupHeld (s : State) (d : Nat) (e : Nat × Req) : State :=
  let r := e.2
  let late := decide (e.1 + 8 * (s.dom d).par.tans < s.uptime)
  let s := if late then raise (statAdd s d 7) 10 (some d) (waitDetail r.port r.h.dan.toNat 0 0) else s
  let s := homeReq (returnCredit s r.port .req d) r
  let note := fun (x : Tracker) => if x.req = some r then { x with late := late } else x
  serveStore (s.updHome fun h => { h with trackers := h.trackers.map note })

/-- The domain enters STARTED: repeated ASSIGNs, then the held span REQs are looked up. -/
def enterStarted (s : State) (d : Nat) : State :=
  let q := s.dom d
  let s := s.updDom d fun q =>
    { clearRecords q with st := .started, zeroFlag := false, start := none, heldReqs := [],
                          sweep := q.sweep.filter fun w => !w.outst.isEmpty }
  let s := (s.portsOf d).foldl (fun s p => placeAssign s p false) s
  let s := q.heldReqs.foldl (fun s e => lookupHeld s d e) s
  finishMbx s (q.start.bind fun j => j.mbx) 0 0

/-- A DOMAIN_START that fails: its domain is back where it came from, an agent assigned anew from DOWN is
released; held REQs of a domain that stays DOWN are discarded, others are answered as R179 says
(DEDUCED, log 29). -/
def failStart (s : State) (d detail : Nat) : State :=
  let q := s.dom d
  match q.start with
  | none => s
  | some j =>
    let s := s.updDom d fun q => { clearRecords q with start := none, sweep := none, heldReqs := [] }
    let s := if j.origin = .down then (s.portsOf d).foldl (fun s p => placeRelease s p d) s else s
    let s := q.heldReqs.foldl (fun s e =>
      let s := returnCredit s e.2.port .req d
      if j.origin = .down then s else homeReq s e.2) s
    finishMbx s j.mbx 8 detail

/-- Stage P: the notice, and the comparison of what came before it. -/
def reachP (s : State) (d : Nat) : State :=
  sortNotices (spanNotice s none (.assign (stageNotice s d 40))) d

def setStage (s : State) (d : Nat) (g : Stage) : State :=
  s.updDom d fun q => { q with start := q.start.map fun j => { j with stage := g } }

/-- Stage R, or with one hub the start itself. -/
def afterSweep (s : State) (d : Nat) : State :=
  if s.hubs = 1 then enterStarted s d
  else spanNotice (setStage s d .waitR) none (.assign (stageNotice s d 48))

/-! ## Zero sweeps (R262) -/

/-- 64-byte blocks of the directory region. -/
def dirBlocks (p : Params) : Nat := p.twSize / 512

/-- The index of the n-th block of this hub's share. -/
def shareBlock (s : State) (n : Nat) : Nat := s.hubId + n * s.hubs

/-- A zero sweep has ended well: flag set, stale DANs cleared; the start or the command goes on. -/
def zeroDone (s : State) (d : Nat) : State :=
  let q := s.dom d
  let s := s.updDom d fun q => { q with zeroFlag := true, stale := 0, sweep := none }
  let s := finishMbx s (q.sweep.bind fun w => w.mbx) 0 0
  if q.start.isSome then afterSweep s d else s

/-- A zero sweep begins; a domain without a directory region has nothing to sweep. -/
def beginZero (s : State) (d : Nat) (mbx : Option Nat) : State :=
  let s := s.updDom d fun q =>
    { q with sweep := some { zero := true, flush := false, next := 0, outst := [], mbx } }
  if (s.dom d).par.twSize = 0 then zeroDone s d else s

/-- The next zero MWR. The spec names no slice for its HTAG: a free value (log 15). -/
def zeroMwr (s : State) (d : Nat) (w : Sweep) : State :=
  let par := (s.dom d).par
  let i := shareBlock s w.next
  if dirBlocks par ≤ i then s
  else
    let a := par.dirBase + BitVec.ofNat 52 (64 * i)
    let (v, s) := s.nextFree
    let s := s.updDom d fun q =>
      { q with sweep := some { w with next := w.next + 1, outst := w.outst ++ [a] } }
    hubMrq s d par.dirTgt .mwr 6 0 (BitVec.ofNat 46 (a.toNat / 64)) (v.toNat % 17) false 0

/-! ## Writeback sweeps (R262, R244) -/

/-- A way of the domain that a writeback sweep stops at: its tag, as its check reads it, has D = 1, or the
check fails. The spare way-slice holds nothing. -/
def sweepsWay (s : State) (d k : Nat) (t : BitVec 47) : Bool :=
  wayOwner t (tget 0 s.arr.owner k) == some d && k % 32 != (s.rotOf 32).sp
    && (match chk47 t with
        | .clean => tagD (t.setWidth 40)
        | .corrected x _ => nbit x 38
        | .bad _ => true)

/-- Ways to write back that no live tracker holds, from key n upward: the least first. -/
def nextDirty (s : State) (d n : Nat) : Option Nat :=
  s.arr.tag.foldl (fun (best : Option Nat) e =>
    if !(decide (n ≤ e.1) && sweepsWay s d e.1 e.2 && !wayHeld s (e.1 / 32) (s.logElem 32 (e.1 % 32))) then
      best
    else match best with
      | some b => some (min b e.1)
      | none => some e.1) none

/-- A way of the domain has D = 1. -/
def anyDirty (s : State) (d : Nat) : Bool := s.arr.tag.any fun e => sweepsWay s d e.1 e.2

/-- The next word written back, its way's D cleared; its tag and its word are checked first. -/
def dirtyMwr (s : State) (d : Nat) (w : Sweep) : State :=
  match nextDirty s d w.next with
  | none => s
  | some k =>
    let (t, _, _, s) := readTag s k false .demand
    if stopped s d then s
    else
      let l := wayLine (k / 32) t
      let (v, _, bad, s) := readWord s k d .demand
      if bad then s
      else
        let s := writeTag s k (mkTag false d (tagAtag t))
        let a := BitVec.ofNat 52 (dirAddr (s.dom d).par l)
        let s := s.updDom d fun q =>
          { q with sweep := some { w with next := if w.flush then 0 else k + 1, outst := w.outst ++ [a] } }
        dirMwr s d ((s.physSlice l).getD 0) l v

/-- The hub's own write-back goes on only while the domain is quiescing or quiesced (R244). -/
def flushing (s : State) (d : Nat) : Bool :=
  (s.dom d).st == .quiescing || (s.dom d).st == .quiesced

/-- A writeback sweep with nothing left to write and no MCP outstanding has ended. -/
def sweepEnd (s : State) (d : Nat) : State :=
  match (s.dom d).sweep with
  | some w =>
    if !w.zero && w.outst.isEmpty && ((w.flush && !flushing s d) || (nextDirty s d w.next).isNone) then
      finishMbx (s.updDom d fun q => { q with sweep := none }) w.mbx 0 0
    else s
  | none => s

/-- The sweep in progress; a quiescing or quiesced domain writes its dirty words of its own (R244). -/
def sweepNow (s : State) (d : Nat) : Option Sweep :=
  match (s.dom d).sweep with
  | some w => some w
  | none =>
    if flushing s d ∧ (nextDirty s d 0).isSome then
      some { zero := false, flush := true, next := 0, outst := [], mbx := none }
    else none

end Sys2Proof.Machine
end

