-- ==== Sys2Proof/Machine/AnswerCmds.lean ====
section
/-!
DEFINITION. Meanings of the rows of writebacks, snoop answers, memory answers, forwarded data, proxy snoops
and messages passed on (05, 06, 09 R271, R272).
-/
namespace Sys2Proof.Machine

/-! ## Writebacks (R150, R189 to R192) -/

/-- What the Strainer holds of a line for the mirrored agent of a port: 0 nothing, 1 S, 2 F, 3 M; the
entry is cleared (R133). -/
def takeEntry (s : State) (d dan : Nat) (l : LAddr) : Nat × State :=
  match s.mirrored d dan with
  | none => (0, s)
  | some a =>
    let (r, s) := strFind s a l
    match r.hits.head? with
    | some (_, st) => (1 + st.code, strClear s a l)
    | none => (0, s)

/-- The lowest-numbered free entry of the writeback store. -/
def freeWb (s : State) : Nat :=
  ((upto 384).find? fun n => !(s.home.wbs.any fun w => w.num == n)).getD 0

/-- A WB row: into the writeback store of its home, which is served oldest first. A WB that is discarded
ends quiet time all the same (R316). -/
def wbRow (s : State) (p : Nat) (op : WbOp) (h : Hdr) (l : LAddr) (data : Line) : State :=
  let m : Msg := .wb op h l data
  if !mayTake s p m then s
  else
    let s := if p < 16 ∧ foreRuns s p then wbDelivered s p else s
    match enter s p m l with
    | .drop s => s
    | .take s =>
      let d := h.dom.toNat
      let s := if p < 16 then dropConsent s p m l else s
      let (had, s) := if p < 16 then takeEntry s d h.dan.toNat l else (0, s)
      if discards s h then returnCredit s p .wb d
      else if s.homeHub l ≠ s.hubId then forward s p m (s.homeHub l) h.dan.toNat
      else
        let w : WbEntry := { num := freeWb s, owed := true, port := p, op, h, laddr := l, data, had }
        let s := statAdd s d 21
        let s := s.updHome fun k => { k with wbs := k.wbs ++ [w] }
        let s := if op = .wbm then storeLine s 4 ((s.physSlice l).getD 0) (wbLine w.num) (some d) else s
        serveStore s

def execWbm (p : Fin 20) (h : Hdr) (laddr : LAddr) (data : Line) (s : State) : Out :=
  .next (wbRow s p .wbm h laddr data)
def execEvc (p : Fin 20) (h : Hdr) (laddr : LAddr) (s : State) : Out :=
  .next (wbRow s p .evc h laddr 0)

/-! ## Snoop answers (R95, R102, R160, R165) -/

/-- The Strainer entry of a mirrored agent after its answer (R133). -/
def noteEntry (s : State) (d dan : Nat) (op : AnsOp) (f : AnsF) : State :=
  match s.mirrored d dan with
  | none => s
  | some a =>
    match op, f.nst.toNat with
    | .sri, _ | .srm, _ | .srf, 0 | .srd, 0 => strClear s a f.laddr
    | .srs, 1 | .srf, 1 | .srd, 1 => strMark s a f.laddr .s
    | .srs, 2 | .srf, 2 | .srd, 2 => strMark s a f.laddr .f
    | _, _ => s

/-- An answer at its home: the tracker that snooped the answerer takes it, any other is discarded. -/
def answerHome (s : State) (op : AnsOp) (f : AnsF) (data : Line) : State :=
  let d := f.h.dom.toNat
  let cand := f.h.dan.toNat
  match s.trk (htagSlice f.htag) (htagTracker f.htag) with
  | some x => match x.req with
    | some r =>
      let asked := x.awaits.any fun a => match a with
        | .snoop c _ => c == cand
        | _ => false
      if x.dom = d ∧ x.laddr = f.laddr ∧ asked then
        serveStore (retryAllHeld (homeAnswer s x r op cand f.nst f.poi data))
      else s
    | none => s
  | none => s

/-- A snoop-answer row. -/
def ansRow (s : State) (p : Nat) (op : AnsOp) (f : AnsF) (data : Line) : State :=
  let m : Msg := .ans op f data
  if !mayTake s p m then s
  else match enter s p m f.laddr with
    | .drop s => s
    | .take s =>
      let d := f.h.dom.toNat
      let dan := f.h.dan.toNat
      let s := if p < 16 then noteEntry s d dan op f else s
      let proxy := if p < 16 then s.home.proxies.find? fun x =>
          x.f.htag == f.htag && x.f.laddr == f.laddr && x.f.h.dom == f.h.dom && x.wait.contains dan
        else none
      if discards s f.h then returnCredit s p m.cls d
      else match proxy with
        | some x => proxyAnswer (returnCredit s p m.cls d) x op dan f.poi data
        | none =>
          if htagHub f.htag ≠ s.hubId then forward s p m (htagHub f.htag) dan
          else answerHome (returnCredit s p m.cls d) op f data

def execSri (p : Fin 20) (f : AnsF) (s : State) : Out := .next (ansRow s p .sri f 0)
def execSrs (p : Fin 20) (f : AnsF) (s : State) : Out := .next (ansRow s p .srs f 0)
def execSrf (p : Fin 20) (f : AnsF) (s : State) : Out := .next (ansRow s p .srf f 0)
def execSrm (p : Fin 20) (f : AnsF) (s : State) : Out := .next (ansRow s p .srm f 0)
def execSrd (p : Fin 20) (f : AnsF) (data : Line) (s : State) : Out := .next (ansRow s p .srd f data)

/-! ## Memory completions (R149, R175, R237, R262) -/

/-- A merge-buffer entry is freed: the CUREs and trackers that waited for its drain wait no more. -/
def mergeDone (s : State) (m : Merge) : State :=
  let s := s.updHome fun h =>
    { h with merges := h.merges.filter fun y => y.id != m.id,
             trackers := h.trackers.map fun x =>
               { x with awaits := x.awaits.filter fun a => a != .drain m.id } }
  let note := fun (c : Cure) => { c with drains := c.drains.filter fun e => e != (m.id, m.laddr) }
  { s with ports := tmap s.ports fun _ q => { q with cures := q.cures.map note } }

/-- The victim whose MWR an MCP completes: the one that named this tracker, requester and directory line.
MWRs of one line complete in order, so it is the oldest (R175). -/
def victimDone (s : State) (h : Hdr) (l : LAddr) (htag : BitVec 14) : Option Victim :=
  s.home.victims.find? fun v => v.sl == htagSlice htag && v.trk == htagTracker htag
    && v.dom == h.dom.toNat && v.h.tid == h.tid && v.h.dan == h.dan && (dirLine s v.dom v.laddr).1 == l

/-- The MCP of an MRQ of this hub (R83): a tracker's, else a victim's, a sweep's or a drain's. A freed
victim entry lets a fill that waits for one go on (R175). -/
def mcpHome (s : State) (h : Hdr) (l : LAddr) (htag : BitVec 14) : State :=
  let d := h.dom.toNat
  match answerTrk s h l htag fun x => x.awaits.contains .mcp && x.laddr == l with
  | some x => onMcp s x
  | none =>
    match victimDone s h l htag with
    | some v => s.updHome fun k => { k with victims := k.victims.erase v }
    | none =>
      match (s.dom d).sweep, s.home.merges.find? fun m => m.dom == d && m.laddr == l && m.drain == 2 with
      | _, some m => mergeDone s m
      | some w, none =>
        match w.outst.find? fun a => a.toNat / 64 == l.toNat with
        | some a => sweepEnd (s.updDom d fun q => { q with sweep := some { w with outst := w.outst.erase a } }) d
        | none => s
      | none, none => s

def execMcp (p : Fin 20) (h : Hdr) (laddr : LAddr) (htag : BitVec 14) (s : State) : Out :=
  let m : Msg := .mcp h laddr htag
  if !mayTake s p m then .next s
  else match enter s p m laddr with
    | .drop s => .next s
    | .take s =>
      if htagHub htag ≠ s.hubId then
        .next (forward s p m (htagHub htag) ((memTarget s h.dom.toNat laddr).getD 0))
      else .next (mcpHome (returnCredit s p .rsp h.dom.toNat) h laddr htag)

/-! ## Memory data (R157, R169, R237) -/

/-- The drain read of an entry: the valid bytes merged into the line, which is written back (R237,
R239). -/
def mergeData (s : State) (m : Merge) (poi : Bool) (data : Line) : State :=
  let (bad, m, s) := useMerge s m
  if bad then s
  else
    let m := { m with data := mergeLine m.valid m.data data, poison := m.poison || poi, drain := 2 }
    let s := putMerge s m
    match s.region m.dom (lineAddr m.laddr 0) with
    | some (_, tgt) => hubMrq s m.dom tgt .mwr 6 0 m.laddr m.sl m.poison m.data
    | none => s

/-- The tracker whose directory word a DMM brings. -/
def wordTrk (s : State) (f : DatF) : Option Tracker :=
  answerTrk s f.h f.laddr f.htag fun x =>
    x.awaits.contains .word && (dirLine s x.dom x.laddr).1 == f.laddr

/-- Line data at the home: a tracker's read, a memory-side atomic's result, or a drain's read. -/
def dmmHome (s : State) (f : DatF) (data : Line) : State :=
  match answerTrk s f.h f.laddr f.htag fun x =>
      x.laddr == f.laddr && (x.awaits.contains .line || x.awaits.contains .mat) with
  | some x =>
    serveStore (if x.awaits.contains .mat then onMat s x f.poi data else onLine s x f.poi data)
  | none =>
    match s.home.merges.find? fun m => m.dom == f.h.dom.toNat && m.laddr == f.laddr && m.drain == 1 with
    | some m => mergeData s m f.poi data
    | none => s

def execDmm (p : Fin 20) (f : DatF) (data : Line) (s : State) : Out :=
  let m : Msg := .dat .dmm f data
  let d := f.h.dom.toNat
  if !mayTake s p m ∨ (htagHub f.htag = s.hubId ∧ (wordTrk s f).isSome) then .next s
  else match enter s p m f.laddr with
    | .drop s => .next s
    | .take s =>
      if htagHub f.htag ≠ s.hubId then
        .next (forward s p m (htagHub f.htag) ((memTarget s d f.laddr).getD 0))
      else .next (dmmHome (returnCredit s p .dat d) f data)

def execDirectoryWordDmm (p : Fin 20) (f : DatF) (data : Line) (s : State) : Out :=
  let m : Msg := .dat .dmm f data
  if !mayTake s p m ∨ htagHub f.htag ≠ s.hubId ∨ (wordTrk s f).isNone then .next s
  else match enter s p m f.laddr with
    | .drop s => .next s
    | .take s =>
      let s := returnCredit s p .dat f.h.dom.toNat
      match wordTrk s f with
      | some x => .next (serveStore (onWord s x f.poi data))
      | none => .next s

/-! ## Messages passed on (R271, R272) -/

/-- A message of a span port delivered to an agent of this hub, once the credit is held. -/
def deliverAgent (s : State) (p : Nat) (m : Msg) (dan : Nat) : State :=
  let d := m.hdr.dom.toNat
  match s.agentPort d dan with
  | some a =>
    if creditFree s a m.cls d || !s.up a then placeAgent (returnCredit s p m.cls d) a m
    else putBack s p m
  | none => returnCredit s p m.cls d

/-- The destination of a message; for a DFW on a span port whose leg nothing tells, with a free value
(log 18). -/
def destNow (s : State) (p : Nat) (m : Msg) : Option (Nat × Nat) × State :=
  match m with
  | .dat .dfw _ _ =>
    let (v, s) := s.nextFree
    (destOf s p m (v.getLsbD 0), s)
  | _ => (destOf s p m false, s)

/-- A message goes to the agent of this hub that it is for, or on toward its hub. An agent port's DFW goes to
its home first (R201, R271). -/
def goOn (s : State) (p : Nat) (m : Msg) (t key : Nat) : State :=
  if t = s.hubId then deliverAgent s p m key else forward s p m t key

/-! ## Forwarded data (R201, R271) -/

def execDfw (p : Fin 20) (f : DatF) (data : Line) (s : State) : Out :=
  let m : Msg := .dat .dfw f data
  if !mayTake s p m then .next s
  else match enter s p m f.laddr with
    | .drop s => .next s
    | .take s =>
      if htagHub f.htag = s.hubId then .next (homeDfw s p f data)
      else if p.val < 16 then .next (forward s p m (htagHub f.htag) f.h.dan.toNat)
      else match destNow s p m with
        | (some (t, k), s) => .next (goOn s p m t k)
        | (none, s) => .next (returnCredit s p .dat f.h.dom.toNat)

/-! ## Proxy snoops (R165) -/

def execProxySnoop (p : Fin 20) (f : SnpF) (s : State) : Out :=
  let m : Msg := .snp f
  if !mayTake s p m ∨ p.val < 16 ∨ !f.proxy then .next s
  else match enter s p m f.laddr with
    | .drop s => .next s
    | .take s => .next (proxySnoop s p f)

/-! ## Messages that pass through (R271, R272) -/

/-- A REQ, a WB or an answer whose destination is this hub is taken by its own row. -/
def hubTakes : Msg → Bool
  | .req .. | .pmk .. | .wb .. | .ans .. | .mcp .. | .dat .dmm _ _ => true
  | _ => false

/-- A message on a span port for another hub or for an agent here. A snoop's slot names neither its
agent nor, as a proxy snoop, its hub: both are free values (log 19). A WRP takes its PMK along. -/
def passOn (s : State) (p : Nat) (m : Msg) : State :=
  let d := m.hdr.dom.toNat
  match m with
  | .req op h f data => spanReq s p op h f data
  | .pmk .. | .hnt .. => s
  | .snp f =>
    match enter s p m f.laddr with
    | .drop s => s
    | .take s =>
      let (v, s) := s.nextFree
      if f.proxy then
        let t := (v.extractLsb' 0 3).toNat % s.hubs
        if t = s.hubId then returnCredit s p .snp d else forward s p m t (40 + t)
      else
        let c := (v.extractLsb' 0 7).toNat
        match agentHub s d c with
        | some t => if t = s.hubId then deliverAgent s p m c else forward s p m t c
        | none => returnCredit s p .snp d
  | .dat .dfw f data =>
    match enter s p m f.laddr with
    | .drop s => s
    | .take s =>
      if htagHub f.htag = s.hubId then homeDfw s p f data
      else match destNow s p m with
        | (some (t, k), s) => goOn s p m t k
        | (none, s) => returnCredit s p m.cls d
  | m =>
    match destOf s p m false with
    | none => match enter s p m 0 with
      | .drop s => s
      | .take s => returnCredit s p m.cls d
    | some (t, k) =>
      if t = s.hubId ∧ hubTakes m then s
      else match enter s p m 0 with
        | .drop s => s
        | .take s => goOn s p m t k

/-- A span REQ whose home is this hub has a row of its own. -/
def execPassOn (p : Fin 20) (m : Msg) (s : State) : Out :=
  let mine : Bool := match m with
    | .req _ _ f _ => s.homeHub f.laddr == s.hubId
    | .snp f => f.proxy && s.hubs == 2
    | _ => false
  if !mayTake s p m ∨ p.val < 16 ∨ mine then .next s else .next (passOn s p m)

/-! ## PWI (R99, R100, R299, R318) -/

def execPwi (a : Fin 16) (f : PwiF) (s : State) : Out :=
  let s := takeCtl s a (.pwi f)
  let q := s.port a
  let pwic : Bool := match q.link.farCap with
    | some c => c.pwic
    | none => false
  if !s.clocked ∨ !s.up a then .next s
  else if !pwic ∨ q.mem.sent.isNone ∨ f.int = 0 ∨ 4 < f.int.toNat then
    .next (s.updFore a fun k => { k with pwiIgnored := bump k.pwiIgnored })
  else
    let s := s.updFore a fun k => { k with lastLead := f.lead, lastLvl := f.lvl }
    let s := if f.int = 4 ∧ f.lead = 0xFFF then s.updMem a fun k => { k with consent := true } else s
    if !foreRuns s a then .next s
    else if f.int.toNat ≤ 2 then
      .next (trigger s a (decide (7 ≤ f.lvl.toNat)) fun k => { k with trigPwi := bump k.trigPwi })
    else .next (s.updFore a fallHint)

end Sys2Proof.Machine
end

