-- ==== Sys2Proof/Machine/TestOps.lean ====
section
/-!
DEFINITION. The Trowel, the rotation of spare elements and its tests, slice failure (12_integrity.md R339 to
R356).
-/
namespace Sys2Proof.Machine

/-! ## Scrubbing (R339, R341) -/

/-- An entry of a spare element holds nothing; so does the group beside it. -/
def scrubSpareGroup (s : State) (a : StrAt) : State :=
  let v := tget 0 s.arr.valid a.grpKey
  let (m, s) := injTake s 1 (s.shelfDom a.bank)
  if evenOk 17 (v.toNat ^^^ (2 ^ 16 * (m % 2))) then s
  else ceEvent (s.updArr fun r => { r with valid := tset r.valid a.grpKey 0 }) 1 (m % 2 == 1)

/-- Sixteen rows of a sub-array with their group; behind a bad group every row is read all the same, and
holds nothing any more. -/
def scrubRows (s : State) (bank sub g : Nat) (by_ : Finder) : State :=
  let a : StrAt := ⟨bank, sub, 16 * g⟩
  let spare := sub == (s.rotOf bank).sp
  let (v, _, s) := if spare then ((0 : BitVec 16), false, scrubSpareGroup s a) else readGroup s a by_
  (upto 16).foldl (fun s i =>
    (readEnt s { a with row := 16 * g + i } (v.getLsbD i) by_).2.2.2) s

/-- The word of a way that holds nothing: anything uncorrectable is rewritten as zero and counted. -/
def scrubDeadWord (s : State) (k : Nat) : State :=
  let w := tget 0 s.arr.word k
  let (m, s) := injTake s 3 none
  let put := fun (s : State) (x : BitVec 64) =>
    ceEvent (s.updArr fun r => { r with word := tset r.word k x }) 3 (m ≠ 0)
  match check masks64 56 (fld w.toNat 55 0) (fld w.toNat 63 56 ^^^ m) with
  | .clean => s
  | .corrected x _ => put s (enc64 (BitVec.ofNat 56 x))
  | .bad _ => put s 0

/-- One physical way of a set: tag, owner copy and word; the word is read behind a bad tag, too. -/
def scrubWay (s : State) (set i : Nat) (by_ : Finder) : State :=
  let k := wayKey set i
  let spare := i == (s.rotOf 32).sp
  let (t, _, bad, s) := readTag s k spare by_
  if bad || spare || !tagV t then scrubDeadWord s k
  else (readWord s k (tagDom t) by_).2.2.2

/-- Steps of the Strainer in a pass, and of the whole pass. -/
def strSteps : Nat := 135168
def passSteps : Nat := 167936

def trowelScrub (s : State) (n : Nat) : State :=
  if n < strSteps then scrubRows s (n / 4224) (n / 128 % 33) (n % 128) .scrub
  else (upto 17).foldl (fun s i => scrubWay s (n - strSteps) i .scrub) s

/-! ## Rotation (R346, R347) -/

/-- The top position of a unit's spare. -/
def unitTop (u : Nat) : Nat := if u < 32 then 32 else 16

/-- Rotation is enabled for a unit (R351). -/
def unitEnabled (s : State) (u : Nat) : Bool :=
  s.integ.enable.getLsbD (if u < 32 then 0 else u - 31)

/-- The spare of a unit has passed its last test. -/
def sparePassed (s : State) (u : Nat) : Bool :=
  let r := s.rotOf u
  !r.noSpare && nbit r.passed r.sp

def setPassed (r : Rot) (i : Nat) (ok : Bool) : Rot := { r with passed := setFld r.passed i i (if ok then 1 else 0) }

/-- The logical slice at a physical one. -/
def logicalOf (s : State) (p : Nat) : Option Nat := (upto 16).find? fun k => s.sliceMap k == some p

/-- The next unit in round robin that takes steps. -/
def nextTestUnit (s : State) : Option Nat :=
  ((upto 34).map fun i => (s.integ.nextUnit + i) % 34).find? fun u => unitEnabled s u && sparePassed s u

/-- The contention predictor of a physical slice at 0b01 throughout (R349, R354). -/
def predReset (s : State) (p : Nat) : State :=
  s.updHome fun h => { h with pred := tdrop h.pred fun k _ => k / 4096 == p }

/-- Held lines of the slices that `f` names are released (R218). -/
def releaseHeld (s : State) (f : Nat → Bool) : State :=
  (s.home.trackers.filter fun x => f x.sl && x.phase == .hold).foldl releaseHold s

/-- The start of a slice's switch window: the held lines of p are released, its reserved trackers freed
(R349). -/
def sliceWindow (s : State) (p : Nat) : State :=
  let s := s.updHome fun h => { h with trackers := h.trackers.filter fun x =>
    !(x.sl == p && x.phase == .reserved) }
  let s := s.updHome fun h => { h with trackers := h.trackers.map fun x =>
    if x.sl == p then { x with tq := none } else x }
  releaseHeld s fun q => q == p

/-- Logical slice k is served by physical slice p from now on: a write of the slice map (MEM 0x9). -/
def mapSlice (s : State) (k p : Nat) : State :=
  storeMem (s.updHome fun h => { h with smap := tset h.smap k (some p) }) 9 0 (keySmap k) none

/-- A rotation step of a unit begins. -/
def startStep (s : State) (u : Nat) : State :=
  let r := s.rotOf u
  let up := if r.sp = 0 then true else if r.sp = unitTop u then false else r.up
  let src := if up then r.sp + 1 else r.sp - 1
  let s := s.setRot u { r with up }
  if u = 33 then
    match logicalOf s src with
    | none => s
    | some k =>
      let s := s.updInteg fun i => { i with test := some ⟨u, .window, src⟩, nextUnit := 0 }
      predReset (sliceWindow (s.updHome fun h => { h with switching := some k }) src) r.sp
  else s.updInteg fun i => { i with test := some ⟨u, .copy, src⟩, nextUnit := (u + 1) % 34 }

/-- The checked reads of a copy phase over the source element. -/
def copyReads (s : State) (u src : Nat) : State :=
  if u < 32 then (upto 128).foldl (fun s g => scrubRows s u src g .selftest) s
  else (upto 32768).foldl (fun s set => scrubWay s set src .selftest) s

/-- A table in which the keys that `at_` places in element dst are those of element src, moved by
`move`. -/
def moveKeys {α : Type} (t : Tbl α) (at_ : Nat → Option Nat) (src dst : Nat) (move : Nat → Nat) : Tbl α :=
  let keep := t.filter fun e => at_ e.1 != some dst
  keep ++ (keep.filter fun e => at_ e.1 == some src).map fun e => (move e.1, e.2)

/-- The words of element src, as they stand, in element dst. -/
def copyElem (s : State) (u src dst : Nat) : State :=
  if u < 32 then
    s.updArr fun a => { a with
      ent := moveKeys a.ent (fun k => if k / 2048 / 33 = u then some (k / 2048 % 33) else none) src dst
        fun k => (u * 33 + dst) * 2048 + k % 2048,
      valid := moveKeys a.valid (fun k => if k / 128 / 33 = u then some (k / 128 % 33) else none) src dst
        fun k => (u * 33 + dst) * 128 + k % 128 }
  else
    let e := fun (k : Nat) => some (k % 32)
    let m := fun (k : Nat) => k / 32 * 32 + dst
    s.updArr fun a => { a with tag := moveKeys a.tag e src dst m, owner := moveKeys a.owner e src dst m,
                               word := moveKeys a.word e src dst m }

/-- What March C− leaves in a tested element: its last write is all zero. -/
def wipeElem (s : State) (u x : Nat) : State :=
  if u < 32 then
    s.updArr fun a => { a with ent := tdrop a.ent fun k _ => k / 2048 == u * 33 + x,
                               valid := tdrop a.valid fun k _ => k / 128 == u * 33 + x }
  else if u = 32 then
    s.updArr fun a => { a with tag := tdrop a.tag fun k _ => k % 32 == x,
                               owner := tdrop a.owner fun k _ => k % 32 == x,
                               word := tdrop a.word fun k _ => k % 32 == x }
  else s

def setRole (s : State) (p : Nat) (r : Option Role) : State :=
  s.updHome fun h => { h with roles := tset h.roles p r }

/-- The result of one element's test (R350). -/
def testResult (s : State) (u x : Nat) (ok : Bool) : State :=
  let r := s.rotOf u
  let s := wipeElem s u x
  if ok then
    let s := s.setRot u (setPassed r x true)
    if u = 33 then setRole s x none else s
  else
    let s := s.setRot u { setPassed r x false with noSpare := true, fails := satAdd 8 r.fails 1 }
    let s := if u = 33 then setRole s x (some .failed) else s
    raise s 29 none (u + 64 * x)

/-! ## Slice failure (R352 to R356) -/

/-- Domains with any state in a physical slice. -/
def domsIn (s : State) (p : Nat) : List Nat :=
  allDoms.filter fun d => (s.home.trackers.any fun x => x.sl == p && x.dom == d)
    || (s.home.fwds.any fun f => f.sl == p && f.dom == d)
    || (s.home.victims.any fun v => v.sl == p && v.dom == d)

/-- A spare slice other than p that has passed its last test. While a slice drains, the spare of before
serves its lines already. -/
def usableSpare (s : State) (p : Nat) : Option Nat :=
  let r := s.rotOf 33
  if !r.noSpare && r.sp != p && nbit r.passed r.sp && (logicalOf s r.sp).isNone then some r.sp else none

/-- A rotation step of the slices ends unfinished. -/
def dropSliceTest (s : State) : State :=
  match s.integ.test with
  | some t =>
    if t.unit = 33 then
      (s.updInteg fun i => { i with test := none }).updHome fun h => { h with switching := none }
    else s
  | none => s

/-- The outcome of a failure: 0 spare, 1 spread, 2 chip reset (Table 15-16). -/
def failOutcome (s : State) (p : Nat) : Nat :=
  if (usableSpare s p).isSome then 0
  else if s.mapped.any fun k => s.sliceMap k != some p then 1 else 2

/-- The rotation step in progress ends with the failure of slice p: of the element it frees or moves to, but
not of the one that has taken its logical slice and serves while the other drains. -/
def endsStep (s : State) (p : Nat) : Bool :=
  match s.integ.test with
  | some t => t.unit == 33 && (t.src == p || (t.phase != .drain && (s.rotOf 33).sp == p))
  | none => false

/-- The spare that the slices have after the failure of slice p: none where p was the spare, or drained to
become it; then it stands in the spare position. -/
def spareAfter (s : State) (p : Nat) : Rot :=
  let r := s.rotOf 33
  let drained := drains s p
  if drained || (r.sp == p && (logicalOf s p).isNone) then { r with sp := p, noSpare := true } else r

/-- A slice is fenced: every domain with state in it goes down, its logical slice has no physical one.
A slice without a logical slice (the spare) has none to report: a free value. -/
def fenceSlice (s : State) (p cause : Nat) : State :=
  let (v, s) := s.nextFree
  let ds := domsIn s p
  let (k, out) := match s.home.drainOf, logicalOf s p with
    | some (q, t), none => if q = p then ((logicalOf s t).getD 0, 0) else (v.toNat % 16, v.toNat / 16 % 3)
    | _, some k => (k, failOutcome s p)
    | none, none => (v.toNat % 16, v.toNat / 16 % 3)
  let bits := (ds.map fun d => 2 ^ d).sum
  let mine := endsStep s p
  let r := spareAfter s p
  let s := s.updHome fun h =>
    { h with smap := (upto 16).foldl (fun t k =>
               if s.sliceMap k = some p then tset t k none else t) h.smap,
             drainOf := match h.drainOf with
               | some (q, t) => if q = p then none else some (q, t)
               | none => none,
             recs := if h.recs.length < 8 then
                 h.recs ++ [⟨p, k, cause, s.uptime, BitVec.ofNat 8 bits, out⟩] else h.recs }
  let s := if mine then dropSliceTest s else s
  let s := setRole (s.setRot 33 r) p (some .fenced)
  let s := raise s 30 none (p + 2 ^ 5 * k + 2 ^ 16 * bits + flag (out = 1) 24)
  ds.foldl (fun s d => domainDown s d 30 [] none) s

/-- The logical slice that a failed physical slice served and that nothing serves now. -/
def orphan (s : State) (p : Nat) : Option Nat :=
  match s.home.recs.reverse.find? fun r => r.phys == p with
  | some r => if (s.sliceMap r.logical).isNone && !s.home.spread.contains r.logical then some r.logical
    else none
  | none => none

end Sys2Proof.Machine
end

