-- ==== Sys2Proof/Machine/NvmOps.lean ====
section
/-!
DEFINITION. The NVM: rows, header copies, image slots and containers, stored configuration, log rows
(16_firmware_crc.md R430 to R440).
-/
namespace Sys2Proof.Machine

/-! ## Rows (R431) -/

/-- What 64-bit word k of the NVM reads otherwise than intended, after the (72,64) code of Table 12-2 has
corrected it; none where it is uncorrectable (R431). -/
def nvmDiff (s : State) (k : Nat) : Option Nat :=
  match s.nvmErr.find? fun e => e.1 == k with
  | none => some 0
  | some e => match check masks72 64 e.2.1.toNat e.2.2.toNat with
    | .clean => some e.2.1.toNat
    | .corrected x _ => some x
    | .bad _ => none

/-- Byte a of the NVM. A word that its check bits correct is not rewritten (R431). -/
def nvmByte (s : State) (a : Nat) : Byte :=
  ramGet s.nvm a ^^^ BitVec.ofNat 8 ((nvmDiff s (a / 8)).getD 0 >>> (8 * (a % 8)))

def nvmRead (s : State) (a n : Nat) : List Byte :=
  if s.nvmErr.isEmpty then ramRead s.nvm a n else (upto n).map fun i => nvmByte s (a + i)

/-- A row of the n bytes from address a has an uncorrectable word. -/
def nvmBadAt (s : State) (a n : Nat) : Bool :=
  s.nvmErr.any fun e => decide (a / 32 ≤ e.1 / 4 ∧ e.1 / 4 * 32 < a + n) && (nvmDiff s e.1).isNone

/-- The n bytes from address a, those of an uncorrectable word at free values. -/
def nvmBytes (s : State) (a n : Nat) : List Byte × State :=
  if !nvmBadAt s a n then (nvmRead s a n, s)
  else (upto n).foldl (fun (bs, s) k =>
    if (nvmDiff s ((a + k) / 8)).isNone then
      let (v, s) := s.nextFree
      (bs ++ [v.setWidth 8], s)
    else (bs ++ [nvmByte s (a + k)], s)) (([] : List Byte), s)

/-- The differences of the words of a row whose write has failed: free values, data and check bits
alike. -/
def freeRow (s : State) (row : Nat) : List (Nat × BitVec 64 × BitVec 8) × State :=
  (upto 4).foldl (fun (es, s) i =>
    let (x, s) := s.nextFree
    let (c, s) := s.nextFree
    (es ++ [(4 * row + i, x, c.setWidth 8)], s)) (([] : List (Nat × BitVec 64 × BitVec 8)), s)

/-- One row written and read back, a mismatch written once more (R431). False: the write has failed. -/
def writeRow (s : State) (row : Nat) (bs : List Byte) : Bool × State :=
  let s := { s with nvm := ramSetMany s.nvm (row * 32) bs, nvmErr := s.nvmErr.filter fun e => e.1 / 4 != row }
  if s.nvmFail.contains row then
    let (es, s) := freeRow s row
    (false, raise { s with nvmErr := es ++ s.nvmErr } 44 none row)
  else (true, s)

/-- Bytes written from a row boundary in whole rows; a last row written in part keeps its other bytes.
Stops at a row that fails. -/
def writeRows (s : State) (row : Nat) : Nat → List Byte → Bool × State
  | 0, _ => (true, s)
  | n + 1, bs =>
    if bs.isEmpty then (true, s)
    else
      let (old, s) := if bs.length < 32 then nvmBytes s (row * 32) 32 else ([], s)
      let (ok, s) := writeRow s row (bs.take 32 ++ old.drop bs.length)
      if ok then writeRows s (row + 1) n (bs.drop 32) else (false, s)

/-- Bytes written at an address on a row boundary. -/
def nvmWrite (s : State) (a : Nat) (bs : List Byte) : Bool × State :=
  writeRows s (a / 32) ((bs.length + 31) / 32) bs

/-- Row writes that bytes take. -/
def rowsOf (n : Nat) : Nat := (n + 31) / 32

/-! ## The header (R432) -/

structure NvmHdr where
  gen    : Nat := 0
  slots  : Nat := 0
  minSvn : Nat := 0
  verA   : Nat := 0
  verB   : Nat := 0
  wrA    : Nat := 0
  wrB    : Nat := 0
  wrCfg  : Nat := 0
  wrHdr  : Nat := 0
deriving DecidableEq, Repr

def hdrAddr (c : Nat) : Nat := 0x30000 + 0x80 * c

/-- A header copy, where it is valid. -/
def readHdr (s : State) (c : Nat) : Option NvmHdr :=
  let bs := nvmRead s (hdrAddr c) 128
  if numAt bs 0 4 = 0x4E564844 ∧ numAt bs 10 2 = 1 ∧ numAt bs 124 4 = (crc32c (bs.take 124)).toNat
      ∧ !nvmBadAt s (hdrAddr c) 128 then
    some { gen := numAt bs 4 4, slots := numAt bs 8 1, minSvn := numAt bs 12 4, verA := numAt bs 16 4,
           verB := numAt bs 20 4, wrA := numAt bs 24 4, wrB := numAt bs 28 4, wrCfg := numAt bs 32 4,
           wrHdr := numAt bs 36 4 }
  else none

/-- The header copy in effect and its number. -/
def header (s : State) : Option (Nat × NvmHdr) :=
  match readHdr s 0, readHdr s 1 with
  | some a, some b => if a.gen < b.gen then some (1, b) else some (0, a)
  | some a, none => some (0, a)
  | none, some b => some (1, b)
  | none, none => none

def hdrNow (s : State) : NvmHdr := ((header s).map Prod.snd).getD {}

def hdrBytes (h : NvmHdr) : List Byte :=
  let bs := toBytes 4 0x4E564844 ++ toBytes 4 h.gen ++ toBytes 1 h.slots ++ [0] ++ toBytes 2 1
    ++ toBytes 4 h.minSvn ++ toBytes 4 h.verA ++ toBytes 4 h.verB ++ toBytes 4 h.wrA ++ toBytes 4 h.wrB
    ++ toBytes 4 h.wrCfg ++ toBytes 4 h.wrHdr ++ List.replicate 84 0
  bs ++ toBytes 4 (crc32c bs).toNat

/-- The header written to the copy not in effect, one generation higher, with the row counts held since
the last header write. -/
def writeHdr (s : State) (f : NvmHdr → NvmHdr) : Bool × State :=
  let c := match header s with
    | some (c, _) => 1 - c
    | none => 0
  let h := f (hdrNow s)
  let h := { h with gen := h.gen + 1, wrA := satAdd 32 h.wrA s.fw.rowsA, wrB := satAdd 32 h.wrB s.fw.rowsB,
                    wrHdr := satAdd 32 h.wrHdr 1 }
  nvmWrite (s.updFw fun w => { w with rowsA := 0, rowsB := 0 }) (hdrAddr c) (hdrBytes h)

/-- SLOTS fields of a slot: valid and verified. -/
def slotValid (h : NvmHdr) (sl : Nat) : Bool := nbit h.slots (1 + sl)
def slotVerified (h : NvmHdr) (sl : Nat) : Bool := nbit h.slots (3 + sl)
def hdrSelect (h : NvmHdr) : Nat := h.slots % 2
def hdrVer (h : NvmHdr) (sl : Nat) : Nat := if sl = 0 then h.verA else h.verB

/-- The marks of a slot after a verification: valid as it ended, verified where it passed (DEDUCED, log 28), with
its image's version. A slot marked verified stays so (R439). -/
def markSlot (sl : Nat) (ok : Bool) (ver : Nat) (h : NvmHdr) : NvmHdr :=
  let v := setFld h.slots (1 + sl) (1 + sl) (if ok then 1 else 0)
  if !ok then { h with slots := v }
  else
    let h := { h with slots := setFld v (3 + sl) (3 + sl) 1 }
    if sl = 0 then { h with verA := ver } else { h with verB := ver }

/-- A slot marked unverified. -/
def unmarkSlot (sl : Nat) (h : NvmHdr) : NvmHdr := { h with slots := setFld h.slots (3 + sl) (3 + sl) 0 }

/-! ## Image slots (R435, R436) -/

def slotAddr (sl : Nat) : Nat := 0x18000 * sl
def slotSize : Nat := 98304

/-- What a slot's verification answers. -/
inductive Verdict where
  | valid | badContainer | badSignature
deriving DecidableEq, Repr

def allZero (bs : List Byte) : Bool := bs.all fun b => b == 0

/-- Check 1 of R436 over the first 0x100 bytes: Table 16-5. -/
def containerOk (h : List Byte) : Bool :=
  let body := numAt h 0x10 4
  let entry := numAt h 0x14 4
  h.take 4 == [0x53, 0x4C, 0x58, 0x41] && numAt h 4 2 == 1 && numAt h 6 2 == 0x100
    && body % 32 == 0 && decide (32 ≤ body ∧ body ≤ 97952) && decide (entry < body) && entry % 2 == 0
    && allZero (bytesAt h 0x1C 4) && allZero (bytesAt h 0xB1 0x4F)

def slotHead (s : State) (sl : Nat) : List Byte := nvmRead s (slotAddr sl) 0x100
def slotField (s : State) (sl o : Nat) : Nat := numAt (slotHead s sl) o 4

/-- The body of a slot's container. -/
def slotBody (s : State) (sl : Nat) : List Byte := nvmRead s (slotAddr sl + 0x100) (slotField s sl 0x10)

/-- Checks 3 to 5 of R436: the digest of PUBKEY, SIG over the header, the digest of the body. -/
def signedOk (s : State) (sl : Nat) : Bool :=
  let h := slotHead s sl
  let key := bytesAt h 0x50 97
  let sig := nvmRead s (slotAddr sl + 0x100 + slotField s sl 0x10) 96
  Config.sha384 key == Config.keyDigest && Config.ecdsaP384 key h sig
    && Config.sha384 (slotBody s sl) == bytesAt h 0x20 48

/-- The checks of R436, in order. A row with an uncorrectable word fails the slot, as a bad container
(DEDUCED, log 28). -/
def verifySlot (s : State) (sl : Nat) : Verdict :=
  if nvmBadAt s (slotAddr sl) slotSize then .badContainer
  else if !containerOk (slotHead s sl) || decide (slotField s sl 0xC < (hdrNow s).minSvn) then .badContainer
  else if signedOk s sl then .valid
  else .badSignature

def slotVersion (s : State) (sl : Nat) : Nat := slotField s sl 8
def slotSvn (s : State) (sl : Nat) : Nat := slotField s sl 0xC
def slotXabi (s : State) (sl : Nat) : Nat := slotField s sl 0x18

/-! ## The stored configuration (R433) -/

def cfgAddr (c : Nat) : Nat := 0x30100 + 0x5F80 * c
def cfgMax : Nat := 24432

/-- A stored-configuration copy, where it is valid: its generation and its records' bytes. -/
def readCfg (s : State) (c : Nat) : Option (Nat × List Byte) :=
  let h := nvmRead s (cfgAddr c) 16
  let len := numAt h 4 4
  if cfgMax < len ∨ nvmBadAt s (cfgAddr c) (16 + len) then none
  else
    let bs := nvmRead s (cfgAddr c + 16) len
    if (crc32c bs).toNat = numAt h 8 4 then some (numAt h 0 4, bs) else none

/-- The copy in effect: the higher valid GEN. -/
def storedCfg (s : State) : Option (Nat × List Byte) :=
  match readCfg s 0, readCfg s 1 with
  | some a, some b => if a.1 < b.1 then some b else some a
  | some a, none => some a
  | none, b => b

/-- The copy a SAVE writes: an invalid one, else the one of lower GEN. -/
def cfgTarget (s : State) : Nat :=
  match readCfg s 0, readCfg s 1 with
  | some a, some b => if a.1 < b.1 then 0 else 1
  | some _, none => 1
  | _, _ => 0

/-- A record: opcode, length, payload, padded to a multiple of four bytes. -/
def cfgRecord (op : Nat) (pl : List Byte) : List Byte :=
  toBytes 2 op ++ toBytes 2 pl.length ++ pl ++ List.replicate ((4 - pl.length % 4) % 4) 0

/-- Records of a copy, at most n: opcode and payload. -/
def cfgRecords : Nat → List Byte → List (Nat × List Byte)
  | 0, _ => []
  | n + 1, bs =>
    if bs.length < 4 then []
    else
      let len := numAt bs 2 2
      (numAt bs 0 2, bytesAt bs 4 len) :: cfgRecords n (bs.drop (4 + (len + 3) / 4 * 4))

/-- The n-th record of the copy in effect. -/
def storedRecord (s : State) (i : Nat) : Option (Nat × List Byte) :=
  match storedCfg s with
  | some (_, bs) => (cfgRecords (bs.length / 4) bs)[i]?
  | none => none

/-- The two stored-configuration copies as another state holds them (R406: a SAVE that fails leaves the
stored configuration its previous content; DEDUCED for how, log 28). -/
def restoreCfg (s old : State) : State :=
  let a := cfgAddr 0
  let n := 2 * 0x5F80
  { s with nvm := ramSetMany s.nvm a (ramRead old.nvm a n),
           nvmErr := (old.nvmErr.filter fun e => decide (a ≤ 8 * e.1 ∧ 8 * e.1 < a + n))
             ++ s.nvmErr.filter fun e => !decide (a ≤ 8 * e.1 ∧ 8 * e.1 < a + n) }

/-- A SAVE: the records, then the header; records that are too long fail and nothing is written. -/
def saveCfg (s : State) (bs : List Byte) : Bool × State :=
  if cfgMax < bs.length then (false, s)
  else
    let gen := ((storedCfg s).map Prod.fst).getD 0 + 1
    let all := toBytes 4 gen ++ toBytes 4 bs.length ++ toBytes 4 (crc32c bs).toNat
      ++ List.replicate 4 0 ++ bs
    let (ok, t) := nvmWrite s (cfgAddr (cfgTarget s)) all
    let (ok, t) := if ok then writeHdr t fun h => { h with wrCfg := satAdd 32 h.wrCfg 1 } else (false, t)
    if ok then (true, t) else (false, restoreCfg t s)

/-! ## The fault log (R375 to R377) -/

def logAddr : Nat := 0x3C000

/-- The 32 bytes of a log record (Table 13-4). -/
def logBytes (s : State) (r : LogRec) : List Byte :=
  let bs := toBytes 4 r.seq ++ toBytes 6 r.time
    ++ toBytes 1 (r.src + flag r.first 6 + flag r.inj 7)
    ++ toBytes 1 (r.cls + flag r.esc 2 + flag r.missed 3 + flag r.dom.isSome 4 + 2 ^ 5 * r.dom.getD 0)
    ++ toBytes 1 (r.react.toNat + flag r.grave 5) ++ toBytes 1 s.hubId
    ++ toBytes 1 r.escc ++ [0] ++ toBytes 8 r.detail.toNat ++ toBytes 4 r.events
  bs ++ toBytes 4 (crc32c bs).toNat

/-- A log row whose CRC passes. -/
def logRow (s : State) (i : Nat) : Option (List Byte) :=
  let bs := nvmRead s (logAddr + 32 * i) 32
  if numAt bs 28 4 = (crc32c (bs.take 28)).toNat ∧ !nvmBadAt s (logAddr + 32 * i) 32 then some bs
  else none

/-- One more than the highest SEQ of the log, 0 for an empty one (R377). -/
def scanSeq (s : State) : Nat :=
  (upto 512).foldl (fun n i => match logRow s i with
    | some bs => max n (numAt bs 0 4 + 1)
    | none => n) 0

end Sys2Proof.Machine
end

