-- ==== Sys2Proof/Machine/FaultOps.lean ====
section
/-!
DEFINITION. The fault collector: configuration, escalation, reactions, the Grave state, notices and log
records (13_fault_collector.md).
-/
namespace Sys2Proof.Machine

/-! ## Sources (Tables 13-1, 13-3) -/

/-- Reserved sources, which are never raised. -/
def srcReserved (n : Nat) : Bool :=
  ([5, 6, 7, 31, 36, 37, 38, 39]).contains n || decide (47 ≤ n ∧ n ≤ 55) || decide (58 ≤ n ∧ n ≤ 62)

/-- Sources with domain attribution. -/
def srcDom (n : Nat) : Bool := ([2, 8, 9, 10, 11, 12, 13, 14, 15, 28]).contains n

def srcGrave (n : Nat) : Bool := n == 56 || n == 57

def srcClass (n : Nat) : FClass :=
  if srcGrave n then .grave
  else if n = 30 ∨ n = 40 then .severe
  else if ([2, 3, 4, 11, 12, 13, 14, 15, 28, 29, 32, 35, 41, 42, 44]).contains n then .serious
  else .notice

def FClass.code : FClass → Nat
  | .notice => 0 | .serious => 1 | .severe => 2 | .grave => 3

/-- The default set of a class: INT; ERR_PIN; NMI; and BLOCK_RST on a source that carries domains. -/
def classSet (n : Nat) : FClass → BitVec 5
  | .notice => 0b00001
  | .serious => 0b10001
  | .severe => if srcDom n then 0b10111 else 0b10011
  | .grave => 0b10000

def defaultSrc (n : Nat) : SrcCfg :=
  { cls := srcClass n, base := classSet n (srcClass n), severe := classSet n .severe }

def State.srcCfg (s : State) (n : Nat) : SrcCfg := (tget none s.flt.src n).getD (defaultSrc n)

/-! ## Log records (R375, R377) -/

/-- The last sixteen records queued. -/
def keep16 (l : List LogRec) : List LogRec := l.drop (l.length - 16)

/-- A record queued, or dropped where the queue is full. Its SEQ is given now, or at the end of the
power-on scan (DEDUCED, log 32). -/
def queueRec (s : State) (r : LogRec) : State :=
  let f := s.flt
  if r.src = 46 then s
  else if 16 ≤ f.queue.length then
    raise (s.updFlt fun f => { f with recDrop := satAdd 8 f.recDrop 1 }) 46 none 0
  else
    let r := { r with seq := f.nextSeq }
    s.updFlt fun f => { f with queue := f.queue ++ [r], copy := keep16 (f.copy ++ [r]),
                               nextSeq := (f.nextSeq + 1) % 2 ^ 32 }

/-- The Grave record goes ahead of every other (R372). -/
def queueGrave (s : State) (r : LogRec) : State :=
  s.updFlt fun f =>
    let r := { r with seq := f.nextSeq }
    { f with queue := r :: f.queue, copy := keep16 (f.copy ++ [r]), nextSeq := (f.nextSeq + 1) % 2 ^ 32 }

/-! ## Notices (R374) -/

/-- One notice for a port: queued, or dropped where its queue of eight is full. -/
def queueHnt (s : State) (p src : Nat) : State :=
  if 8 ≤ (s.port p).hntQ.length then
    let s := s.updFlt fun f => { f with hntDrop := satAdd 8 f.hntDrop 1 }
    if src = 46 then s else raise s 46 none 0
  else s.updPort p fun q => { q with hntQ := q.hntQ ++ [BitVec.ofNat 6 src] }

/-- The ports to notify (R374): PNP where its agent belongs to a domain, and the port of the domain's
notify agent. An agent that RELEASE has gone to is told no more. -/
def notifyPorts (s : State) (dom : Option Nat) : List Nat :=
  let a := s.flt.pnp.toList.filter fun p => (s.port p).mem.dom.isSome
  let b := (dom.bind fun d => (tget none s.flt.dna d).bind fun n => s.agentPort d n).toList
  a ++ b.filter fun p => !a.contains p && (s.port p).mem.sent.isSome

/-! ## The Grave state (R372) -/

/-- Entry: commands stopped without completion, the core held, every port Down, the clocks stopped, the
wake net pulled low. -/
def enterGrave (s : State) (src : Nat) : State :=
  let dormant := s.kt.st == .dormant
  let s := { s with mbs := tmap s.mbs fun _ b => if b.st = .busy then
      { b with st := .idle, checked := false, waiting := false, running := false } else b }
  let s := if dormant then s
    else allPorts.foldl (fun s p => if s.up p then sendLinkDown s p 7
      else holdPort s p (s.port p).link.lastDown) s
  let s := s.updKt fun k => { k with pllOn := false, pllLock := false, netPull := true, net := false }
  let s := s.updFw fun w => { w with isOpen := false, exch := none, timers := [], replay := none }
  s.updFlt fun f => { f with grave := true, graveSrc := src, lines := [], int := false, nmi := false }

/-! ## Latching and handling (R365 to R368) -/

/-- What escalation makes of an event: the unit after it, and whether this event escalated it. -/
def escalate (c : SrcCfg) (u : EscUnit) (t : Nat) : Bool × EscUnit :=
  let u := if u.c = 0 ∨ u.ts + 2 ^ c.escW * 8000 ≤ t then { u with ts := t, c := 1 }
    else { u with c := u.c + 1 }
  if 0 < c.escN ∧ c.escN ≤ u.c ∧ !u.esc ∧ c.cls ≠ .severe then (true, { u with esc := true, c := 0 })
  else (false, u)

/-- The reactions of a latched event, in the order records, notices, wake, block reset, core, chip
reset. -/
def react (s : State) (src : Nat) (dom : Option Nat) (set : BitVec 5) : State :=
  let int := set.getLsbD 0
  let ports := if int then notifyPorts s dom else []
  let s := ports.foldl (fun s p => queueHnt s p src) s
  let live := s.fw.exch.any fun e => e.begun
  let s := if int then
      (if live then s.updFw fun w => { w with heldInt := true }
       else s.updFlt fun f => { f with int := true }) else s
  let s := if set.getLsbD 1 then
      (if live then s.updFw fun w => { w with heldNmi := true }
       else s.updFlt fun f => { f with nmi := true }) else s
  let block := set.getLsbD 2 && dom.isSome
  let s := if !ports.isEmpty || block || set.getLsbD 3 then wake s causeFault else s
  let s := match block, dom with
    | true, some d => domainDown s d src [] none
    | _, _ => s
  if set.getLsbD 3 then chipReset s else s

/-- An event of a source is latched, or lost while the source is being handled (R365, R366). The source's
configuration word is checked first; where it is uncorrectable, the event meets the reset values. -/
def latch (s : State) (src : Nat) (dom : Option Nat) (detail : BitVec 64) (inj : Bool) : State :=
  if s.flt.status.getLsbD src then
    s.updFlt fun f => { f with missed := f.missed ||| (1#64 <<< src) }
  else
    let s := if srcGrave src then s else (useCfg s 0xA src none).2
    let c := s.srcCfg src
    let n := bump (tget 0 s.flt.events src)
    let key := unitKey src (match srcDom src, dom with
      | true, some d => d
      | _, _ => 8)
    let u := tget {} s.flt.units key
    let grave := c.cls == .grave
    let (esc, u') := if grave then (false, u) else escalate c u s.uptime
    let set := if u'.esc then c.severe else c.base
    let set := if dom.isSome then set else set &&& 0b11011
    let held := set &&& 0b11011 != 0
    let r : LogRec :=
      { seq := 0, time := s.uptime, src, first := false, inj,
        cls := if u'.esc then 2 else c.cls.code, esc, missed := s.flt.missed.getLsbD src, dom,
        react := set, grave, escc := u.c % 256, detail, events := n }
    let s := s.updFlt fun f =>
      { f with events := tset f.events src n, units := tset f.units key u',
               status := if held then f.status ||| (1#64 <<< src) else f.status,
               errPin := if set.getLsbD 4 then f.errPin ||| (1#64 <<< src) else f.errPin }
    if grave then enterGrave (queueGrave s r) src else react (queueRec s r) src dom set

/-- An error line is latched before another: it rose in an earlier ac, or in the same one with a lower
source number (R365). -/
def ErrLine.before (a b : ErrLine) : Bool :=
  decide (a.time < b.time) || (a.time == b.time && decide (a.src < b.src))

/-- An error line falls back and its event is handled: lost, with MISSED, where an event of its source
that rose in the same ac has been latched (R366). -/
def takeLine (s : State) (l : ErrLine) : State :=
  let s := s.updFlt fun f => { f with lines := f.lines.erase l }
  if tget none s.flt.latchedAt l.src = some l.time then
    s.updFlt fun f => { f with missed := f.missed ||| (1#64 <<< l.src) }
  else
    let s := s.updFlt fun f => { f with latchedAt := tset f.latchedAt l.src (some l.time) }
    latch s l.src (if srcDom l.src || l.inj then l.dom else none) l.detail l.inj

/-- The row of an event. It names an error line that has risen, or one that rises now; the line stands
while another is to be latched before it. Nothing is latched in the Grave state. -/
def takeEvent (s : State) (src : Nat) (dom : Option Nat) (detail : BitVec 64) : State :=
  if s.flt.grave || srcReserved src then s
  else
    let named := s.flt.lines.find? fun l => l.src == src && l.dom == dom && l.detail == detail
    let l := named.getD ⟨src, dom, detail, false, s.uptime⟩
    let s := if named.isSome then s else s.updFlt fun f => { f with lines := f.lines ++ [l] }
    if s.flt.lines.any fun x => x.before l then s else takeLine s l

/-- A unit of a source back at its base class (R367). -/
def reclass (s : State) (src : Nat) : State :=
  s.updFlt fun f => { f with units := tdrop f.units fun k _ => k / 9 == src }

end Sys2Proof.Machine
end

