-- ==== Sys2Proof/Machine/FaultCmds.lean ====
section
/-!
DEFINITION. Meanings of the rows of the fault collector, the log writer and the junction sensor
(13_fault_collector.md, 12 R358, 19 R508).
-/
namespace Sys2Proof.Machine

/-- An event reaches the collector, which runs in every hub state. -/
def execFaultEvent (src : Fin 64) (dom : Option (Fin 8)) (detail : BitVec 64) (s : State) : Out :=
  if s.board.held = .none then .next (takeEvent s src (dom.map fun d => d.val) detail) else .next s

/-- One word of MEM 0xB read and checked, in ascending order (R358). -/
def execCosyConfigCheck (s : State) : Out :=
  if s.alive then
    let i := s.integ.checkAt
    let s := s.updInteg fun k => { k with checkAt := (i + 1) % 1024 }
    .next (useMem s 0xB 0 i none 4).2.2
  else .next s

/-- A hub notice for the agent of a port (R96). -/
def hubNotice (s : State) (p : Nat) (kind mbx : BitVec 4) (status : BitVec 8) (fsrc : BitVec 6) : Msg :=
  let d := ((s.port p).mem.dom).getD 0
  .hnt { tid := 0, dan := BitVec.ofNat 7 (s.port p).mem.dan, epoch := (s.dom d).epoch,
         dom := BitVec.ofNat 3 d } kind mbx status fsrc

/-- A notice may be placed on the port now: its agent holds ASSIGN and an RSP credit is free. -/
def noticeFree (s : State) (p : Nat) : Bool :=
  s.clocked && s.up p && (s.port p).mem.sent.isSome
    && creditFree s p .rsp (((s.port p).mem.dom).getD 0)

def execFaultNoticePlacement (a : Fin 16) (s : State) : Out :=
  match (s.port a).hntQ with
  | src :: rest =>
    if noticeFree s a then
      .next (placeAgent (s.updPort a fun q => { q with hntQ := rest }) a (hubNotice s a 2 0 0 src))
    else .next s
  | [] => .next s

/-! ## The log writer (R375 to R377) -/

/-- The head of the queue written to its row; only a Grave record needs no token. A row that fails
its write keeps its record out of the log. -/
def execLogWrite (s : State) : Out :=
  let f := s.flt
  match f.queue with
  | r :: rest =>
    if s.board.held ≠ .none ∨ f.scanning ∨ (f.tokens = 0 ∧ !r.grave) then .next s
    else
      let r := { r with first := !f.firstDone }
      let bs := logBytes s r
      let s := s.updFlt fun f => { f with queue := rest, firstDone := true,
                                          tokens := if r.grave then f.tokens else f.tokens - 1,
                                          copy := f.copy.map fun x => if x.seq = r.seq then r else x }
      .next (nvmWrite s (logAddr + 32 * (r.seq % 512)) bs).2
  | [] => .next s

def execTokenGain (s : State) : Out :=
  if s.board.held ≠ .powerOn then
    .next (s.updFlt fun f => { f with tokens := min 16 (f.tokens + 1) })
  else .next s

/-- The scan ends: records queued meanwhile take their numbers from the first free one. -/
def execLogScan (s : State) : Out :=
  if s.board.held = .none ∧ s.flt.scanning then
    let base := scanSeq s
    let fix := fun (r : LogRec) => { r with seq := (base + r.seq) % 2 ^ 32 }
    .next (s.updFlt fun f =>
      { f with scanning := false, nextSeq := (base + f.nextSeq) % 2 ^ 32,
               queue := f.queue.map fix, copy := f.copy.map fix })
  else .next s

/-- A write of FC_STATUS (R369). -/
def execFcStatus (part : Part) (v : BitVec 64) (s : State) : Out :=
  if s.clocked then .next (statusClear s (partVal part v)) else .next s

/-! ## The junction sensor (R508, Table 13-1 source 35) -/

/-- The maximum junction temperature of the ordered code in 1/8 °C (Table 19-13). -/
def tjMax : Nat := if Config.variantX then 1000 else 840

/-- A reading: THERMAL at the maximum, again only after one at least 5 °C below it. -/
def execSensorReading (v : BitVec 16) (s : State) : Out :=
  if s.board.held ≠ .none then .next s
  else
    let k := s.sens
    let t := v.toInt
    let hot := decide ((tjMax : Int) ≤ t)
    let cool := decide (t ≤ (tjMax : Int) - 40)
    let s := { s with sens :=
      { now := v, max := if k.max.toInt < t then v else k.max,
        armed := if hot then false else k.armed || cool } }
    if hot ∧ k.armed then .next (raise s 35 none ((v.sshiftRight 3).toNat % 256)) else .next s

end Sys2Proof.Machine
end

