-- ==== Sys2Proof/Machine/CmdOps.lean ====
section
/-!
DEFINITION. How a mailbox command that has passed its checks is executed: answers, resources, the release of
the ports (14 R389 to R396, 15 R402, 18 R491).
-/
namespace Sys2Proof.Machine

/-! ## Answers -/

/-- What the execution of a command answers: a status, a DETAIL code and a response payload, or that it
ends with a later step. -/
inductive CmdRes where
  | done (status detail : Nat) (resp : List Byte) (s : State)
  | later (s : State)

def cmdOk (s : State) (resp : List Byte) : CmdRes := .done 0 0 resp s
def cmdFail (s : State) (code : Nat) : CmdRes := .done 8 code [] s
def cmdState (s : State) (code : Nat) : CmdRes := .done 6 code [] s
def badValue (s : State) : CmdRes := cmdFail s 1

/-! ## Resources (R402) -/

/-- The resources of a command: configuration engine, NVM writer, domain, port. -/
structure Need where
  e    : Bool := false
  n    : Bool := false
  dom  : Option Nat := none
  port : Option Nat := none
deriving DecidableEq, Repr

/-- The ports that an E command would change: their caps, roles, members, credits or pacing. A commit that
changes N changes the span ports that N uses (R264). -/
def changesPorts (s : State) (op : Nat) (pl : List Byte) : List Nat :=
  let b := byteAt pl
  match op with
  | 0x102 => if !nbit (b 0) 2 && s.cfg.staged.n != s.cfg.eff.n then [16, 17, 18] else []
  | 0x107 => [b 0]
  | 0x200 | 0x201 | 0x203 => s.portsOf (b 0 % 8)
  | 0x207 => if b 0 = 1 then [] else [b 3]
  | 0x208 => if b 0 = 1 then [] else (s.agentPort (b 1 % 8) (b 2)).toList
  | 0x304 => [19]
  | 0x401 => if b 0 % 2 = 1 ∧ b 0 < 0x80 then [b 1] else []
  | _ => []

/-- What a command needs (Table 15-1, column Excl). -/
def cmdNeeds (op : Nat) (pl : List Byte) : Need :=
  let b := byteAt pl
  match op with
  | 0x101 | 0x103 | 0x104 | 0x106 | 0x107 | 0x304 | 0x401 | 0x502 | 0x600 | 0x601 => { e := true }
  | 0x102 => { e := true, n := nbit (b 0) 1 }
  | 0x200 | 0x201 | 0x202 | 0x203 | 0x206 => { e := true, dom := some (b 0 % 8) }
  | 0x205 => { dom := some (b 0 % 8) }
  | 0x207 | 0x208 => { e := true, dom := some (b 1 % 8) }
  | 0x301 | 0x302 => { port := some (b 0) }
  | 0x700 | 0x701 | 0x703 => { n := true }
  | 0x702 => { e := true, n := true }
  | _ => {}

/-- What the command in progress on a mailbox still holds: a DOMAIN_START that goes on is in its sweep or
its stage waits, where it holds only its domain. -/
def heldBy (s : State) (j : Nat) : Need :=
  let b := s.mb j
  if b.st = .busy ∧ b.running then
    let op := mbOpcode s j
    let n := cmdNeeds op (mbPayload s j (mbLen s j))
    if op = 0x201 then { n with e := false } else n
  else {}

/-- The ports that a command with this request excludes others from (R402). -/
def needPorts (s : State) (op : Nat) (pl : List Byte) : List Nat :=
  (cmdNeeds op pl).port.toList ++ changesPorts s op pl

/-- The ports that the command in progress on a mailbox excludes others from. -/
def heldPorts (s : State) (j : Nat) : List Nat :=
  let b := s.mb j
  let op := mbOpcode s j
  if b.st = .busy ∧ b.running ∧ op ≠ 0x201 then needPorts s op (mbPayload s j (mbLen s j)) else []

/-- A need meets what another mailbox, replay, or a start whose mailbox is gone holds. -/
def resourceHeld (s : State) (m op : Nat) (pl : List Byte) : Bool :=
  let n := cmdNeeds op pl
  let js := (upto 10).filter fun j => j != m
  let others := js.map (heldBy s)
  (n.e && (others.any Need.e || s.fw.replay.isSome)) || (n.n && others.any Need.n)
    || (n.dom.isSome && others.any fun h => h.dom == n.dom)
    || ((needPorts s op pl).any fun p => js.any fun j => (heldPorts s j).contains p)
    || (match n.dom with
        | some d => (match (s.dom d).start with
          | some j => j.mbx.isNone
          | none => false)
        | none => false)

/-! ## Execution -/

/-- A command stands in mailbox m, checked and not yet taken up; a "W" command needs the hub clock. -/
def mbStands (s : State) (m : Nat) : Bool :=
  let b := s.mb m
  b.st == .busy && b.checked && !b.running
    && (!mbWakes (mbOpcode s m) (mbPayload s m (mbLen s m)) || s.clocked)

/-- The mailbox served next, in round robin by MBX (R395). -/
def mbNext (s : State) : Option Nat :=
  ((upto 10).map fun i => (s.fw.mbTurn + i) % 10).find? (mbStands s)

/-- The command of mailbox m, with this opcode and form, may be executed now: it is its turn, or it has begun
and goes on. -/
def mbReady (s : State) (m op : Nat) (form : List Byte → Bool) : Bool :=
  let b := s.mb m
  let pl := mbPayload s m (mbLen s m)
  s.board.held == .none && b.st == .busy && b.checked && mbOpcode s m == op && form pl
    && (if b.running then !mbWakes op pl || s.clocked else mbNext s == some m)

/-- The execution of a command; `busy` is the response that goes with BUSY. A command in progress ends
with a later step of its own; only a DOMAIN_STOP that waits for directory words is taken again. -/
def mbRun (s : State) (m op : Nat) (form : List Byte → Bool) (busy : State → List Byte → List Byte × State)
    (body : State → Option Nat → List Byte → CmdRes) : State :=
  if !mbReady s m op form || ((s.mb m).running && op != 0x203) then s
  else
    let pl := mbPayload s m (mbLen s m)
    let s := if (s.mb m).running then s else s.updFw fun w => { w with mbTurn := (m + 1) % 10 }
    if !(s.mb m).running && resourceHeld s m op pl then
      let (resp, s) := busy s pl
      mbFinish s m 1 0 resp
    else match body s (some m) pl with
      | .done st de resp s => mbFinish s m st de resp
      | .later s => s.updMb m fun b => { b with running := b.st == .busy }

def anyForm : List Byte → Bool := fun _ => true
def noBusy : State → List Byte → List Byte × State := fun s _ => ([], s)

/-- A command with one form and no response to BUSY. -/
def mbRun1 (s : State) (m op : Nat) (body : State → Option Nat → List Byte → CmdRes) : State :=
  mbRun s m op anyForm noBusy body

/-! ## Ports released for Detect (R264, R487, R491) -/

/-- Every agent port and S3, and Sk with 2^k below N. -/
def releasable (s : State) (p : Nat) : Bool :=
  decide (p < 16) || p == 19 || decide (2 ^ (p - 16) < s.hubs)

/-- The ports leave the hold of a reset: Detect runs on each one used. -/
def releasePorts (s : State) : State :=
  let s := allPorts.foldl (fun s p => s.updLink p fun l =>
    if l.st = .held ∧ releasable s p then { l with st := .noReceiver } else l) s
  s.updFw fun w => { w with released := true }

end Sys2Proof.Machine
end

