-- ==== Sys2Proof/Machine/MailCmds.lean ====
section
/-!
DEFINITION. Meanings of the rows of the mailbox windows, locks, notices and the opening of the mailboxes
(14_mailboxes.md, 18 R489, R491).
-/
namespace Sys2Proof.Machine

/-- An agent of domain d attached to this hub, which holds its ASSIGN. -/
def attached (s : State) (d : Nat) (who : BitVec 7) : Bool :=
  match s.agentPort d who.toNat with
  | some p => s.up p && (s.port p).mem.sent.isSome && (s.port p).mem.dom == some d
  | none => false

/-- The platform agent: the one admitted on PPORT (R382). -/
def platformAgent (s : State) (who : BitVec 7) : Bool :=
  match s.cfg.eff.pport with
  | some p => s.up p && (s.port p).mem.sent.isSome && (s.port p).mem.dan == who.toNat
  | none => false

/-- The path of Table 14-1 by which `who` reaches mailbox m: SMB0 in every state but reset, an aperture only
after the wake of its port (R380, R396). -/
def mbReached (s : State) (m : Nat) (who : BitVec 7) : Bool :=
  if m = 9 then s.board.held == .none
  else s.clocked && if m = 8 then platformAgent s who else attached s m who

def execMbDoorbell (m : Fin 10) (who : BitVec 7) (v : BitVec 32) (s : State) : Out :=
  if mbReached s m who then .next (mbRing s m who v.toNat) else .next s

/-- Bytes that do not lie within the header or the payload are no write of this kind (R383). -/
def execMailboxWindowWrite (m : Fin 10) (who : BitVec 7) (off : Fin 320) (bytes : List Byte) (s : State) :
    Out :=
  if mbReached s m who ∧ bytes ≠ [] ∧ inArea off bytes.length then
    .next (windowWrite s m who off bytes)
  else .next s

def execMbLockClaim (d : Fin 8) (who : BitVec 7) (s : State) : Out :=
  if mbReached s d who then .next (lockClaim s d who).2 else .next s

def execMbLockRelease (d : Fin 8) (who : BitVec 7) (s : State) : Out :=
  if mbReached s d who then .next (lockRelease s d who) else .next s

/-- The holder has made no access for 1 s while no command is in progress. -/
def execLockIdleTimeout (d : Fin 8) (s : State) : Out :=
  if s.alive ∧ (s.mb d).st ≠ .busy then .next (s.updMb d fun b => { b with holder := none })
  else .next s

def execMailboxNoticePlacement (m : Fin 10) (s : State) : Out :=
  match (s.mb m).notify with
  | some (p, st) =>
    if noticeFree s p then
      .next (placeAgent (s.updMb m fun b => { b with notify := none }) p
        (hubNotice s p 1 (BitVec.ofNat 4 m) st 0))
    else .next s
  | none => .next s

/-- Every field of the collector configuration holds its reset value (R364). -/
def collectorFresh (s : State) : Bool :=
  s.flt.pnp.isNone && (allDoms.all fun d => (tget none s.flt.dna d).isNone)
    && (upto 64).all fun n => s.srcCfg n == defaultSrc n

/-- The mailboxes open: rings that waited are served in the order of MBX; replay begins, or the ports
are released (R489, R491). -/
def openMailboxes (s : State) : State :=
  let s := s.updFw fun w => { w with isOpen := true }
  let s := (upto 10).foldl (fun s m => if (s.mb m).waiting then mbCheckTail s m else s) s
  match storedCfg s with
  | some _ => s.updFw fun w => { w with replay := some 0, replayFc := collectorFresh s }
  | none => releasePorts s

def execMailboxOpen (s : State) : Out :=
  if s.alive ∧ s.fw.boot = .running ∧ !s.fw.isOpen ∧ s.fw.exch.isNone then .next (openMailboxes s)
  else .next s

end Sys2Proof.Machine
end

