-- ==== Sys2Proof/Machine/ConfigOps.lean ====
section
/-!
DEFINITION. Configuration items, the region table's staging and commit, the configuration digest and the
records of a SAVE (15_commands.md R404 to R408, 09 R263, R277, 18 R490).
-/
namespace Sys2Proof.Machine

/-! ## Items (Table 15-5) -/

def itemGet (c : Items) (i : Nat) : Nat :=
  match i with
  | 1 => c.n
  | 2 => c.pport.getD 0xFF
  | 3 => c.crcu.toNat
  | 4 => c.smb0.toNat
  | 5 => c.smb1.toNat
  | _ => c.speed

/-- The bits of an item that are not reserved (Tables 15-5, 17-3). -/
def itemMask (i : Nat) : Nat :=
  match i with
  | 3 => 0x8787
  | 4 => 0x07FEFFFFFFFF
  | 5 => 0x03FEFFFFFFFF
  | _ => 0xFF

def itemSet (c : Items) (i v : Nat) : Items :=
  match i with
  | 1 => { c with n := v }
  | 2 => { c with pport := if v = 0xFF then none else some v }
  | 3 => { c with crcu := BitVec.ofNat 16 v }
  | 4 => { c with smb0 := BitVec.ofNat 64 v }
  | 5 => { c with smb1 := BitVec.ofNat 64 v }
  | _ => { c with speed := v }

/-- A target that has this value in effect matches address a (R453). -/
def smbMatches (v : BitVec 64) (a : Nat) : Bool :=
  let adr := fun i => fld v.toNat (8 * i + 7) (8 * i + 1)
  if v.getLsbD 40 then
    let mask := fld v.toNat 39 33
    v.getLsbD 0 && (a ^^^ adr 0) &&& (127 - mask) == 0
  else (upto 4).any fun i => v.getLsbD (8 * i) && adr i == a

/-- The reserved target addresses of R453. -/
def smbReserved (a : Nat) : Bool :=
  decide (a ≤ 8) || a == 0x0C || a == 0x28 || a == 0x37 || a == 0x61 || decide (0x78 ≤ a)

/-- An item's value is in its range (R263, R382, R453, Table 17-10). -/
def itemValid (i v : Nat) : Bool :=
  match i with
  | 1 => v == 1 || v == 2 || v == 4 || v == 8
  | 2 => decide (v < 16) || v == 0xFF
  | 4 | 5 => (upto 128).all fun a => !(smbMatches (BitVec.ofNat 64 v) a && smbReserved a)
  | 6 => decide (v ≤ 2)
  | _ => true

def itemsDiffer (a b : Items) : Bool := [1, 2, 3, 4, 5, 6].any fun i => itemGet a i != itemGet b i

/-! ## The region table (R136 to R138) -/

def regionAt (c : Items) (i : Nat) : BitVec 128 := tget 0 c.region i

/-- The bits of an entry that are not reserved (Table 04-7). -/
def rgMask : BitVec 128 := 0xFFFFFFFFF0000000FFFFFFFFF0007F7F#128

/-- Indices of the valid entries of a table, ascending. -/
def validEntries (c : Items) : List Nat := (upto 64).filter fun i => rgValid (regionAt c i)

def regionsDiffer (a b : Items) : Bool := (upto 64).any fun i => regionAt a i != regionAt b i

/-- The entry is valid and belongs to a started domain. -/
def inStarted (s : State) (e : BitVec 128) : Bool := rgValid e && (s.dom (rgDom e)).st.inService

/-- An agent of a domain has the memory role. -/
def hasMem (s : State) (d dan : Nat) : Bool :=
  match s.agent d dan with
  | some a => a.mem
  | none => false

def badTarget (s : State) (e : BitVec 128) : Bool :=
  if rgTgt e = 0x7F then rgType e != 4 else !hasMem s (rgDom e) (rgTgt e)

/-- Two entries of one domain overlap. -/
def rgOverlap (a b : BitVec 128) : Bool :=
  rgDom a == rgDom b && decide (rgBase a ≤ rgLimit b) && decide (rgBase b ≤ rgLimit a)

/-- The directory window of these parameters and an entry break R122. -/
def windowBad (p : Params) (e : BitVec 128) : Bool :=
  let lo := rgBase e * 2 ^ 16
  let hi := (rgLimit e + 1) * 2 ^ 16
  let outside := decide (lo < p.twBase.toNat) || decide (p.twBase.toNat + p.twSize < hi)
  let dlo := p.dirBase.toNat
  let dhi := dlo + p.twSize / 8
  (rgType e == 0 && outside) || decide (lo < dhi ∧ dlo < hi)

/-- The first overlap of valid entries: its two indices. -/
def firstOverlap (c : Items) : Option (Nat × Nat) :=
  let v := validEntries c
  (v.flatMap fun i => v.map fun j => (i, j)).find? fun e =>
    decide (e.1 < e.2) && rgOverlap (regionAt c e.1) (regionAt c e.2)

/-- N would change while a domain is not NONE, or to a value not above HUB_ID (R263). -/
def sizeBad (s : State) : Bool :=
  s.cfg.staged.n != s.cfg.eff.n
    && (decide (s.cfg.staged.n ≤ s.hubId) || allDoms.any fun d => (s.dom d).st != .none)

/-- The checks of R406: status, DETAIL, INDEX and INDEX2 of the first that fails. -/
def commitCheck (s : State) (force : Bool) : Option (Nat × Nat × Nat × Nat) :=
  let c := s.cfg.staged
  let e := s.cfg.eff
  let v := validEntries c
  let changed := (upto 64).find? fun i => regionAt c i != regionAt e i
    && (inStarted s (regionAt c i) || inStarted s (regionAt e i))
  let bad := v.find? fun i => decide (4 < rgType (regionAt c i))
    || decide (rgLimit (regionAt c i) < rgBase (regionAt c i))
  let tgt := v.find? fun i => badTarget s (regionAt c i)
  let win := v.find? fun i => windowBad (s.dom (rgDom (regionAt c i))).par (regionAt c i)
  match changed, bad with
  | some i, _ => some (6, 0x115, i, 0xFF)
  | none, some i => some (8, 0x112, i, 0xFF)
  | none, none =>
    if sizeBad s then some (8, 0x114, 0xFF, 0xFF)
    else match tgt, if force then none else firstOverlap c, win with
      | some i, _, _ => some (8, 0x111, i, 0xFF)
      | none, some (i, j), _ => some (8, 0x110, i, j)
      | none, none, some i => some (8, 0x113, i, 0xFF)
      | none, none, none => none

/-- The span ports after a change of N (R264): one that N now uses is released for Detect with the
others, one that it no longer uses is kept Down, with LINK_DOWN where it was up (DEDUCED, log 29). -/
def resizePorts (s : State) (old : Nat) : State :=
  ([16, 17, 18]).foldl (fun s p =>
    let st := (s.port p).link.st
    if 2 ^ (p - 16) < s.hubs then
      if s.fw.released ∧ st = .held ∧ old ≤ 2 ^ (p - 16) then
        s.updLink p fun l => { l with st := .noReceiver } else s
    else if s.up p then fatal s p 7
    else holdPort s p (s.port p).link.lastDown) s

/-- The staging area applied whole (R405); a CRC unit whose assignment changes returns to its reset
values (R446). The regulators are probed again after a change of SMBC_SPEED by the rows of R470. -/
def commitApply (s : State) : State :=
  let old := s.cfg.eff
  let new := s.cfg.staged
  let s := { s with cfg := { s.cfg with eff := new } }
  let s := ((upto 64).filter fun i => regionAt old i != regionAt new i).foldl (fun s i =>
    storeRegion s i (rgDom (regionAt new i))) s
  let s := ([0, 1]).foldl (fun s u => if crcOwnerOf old u != crcOwnerOf new u then s.setCrc u {} else s) s
  if new.n = old.n then s else resizePorts s old.n

/-! ## The digest (R277) -/

def modeByte (p : Params) : Nat := flag p.var 0 + flag p.fmig 1 + 4 * p.atmp.toNat

/-- The agent-map byte of Table 09-3, order 8. -/
def agentByte (a : Agent) : Nat :=
  2 ^ 7 + 2 ^ 4 * (a.hub % 8)
    + 4 * (match a.kind with | .caching => 0 | .mirrored => 1 | .io => 2 | .memory => 3)
    + flag a.mem 1 + flag a.matc 0

def mapBytes (s : State) (d : Nat) : List Byte :=
  (upto 128).map fun n => match s.agent d n with
    | some a => BitVec.ofNat 8 (agentByte a)
    | none => 0

def digest (s : State) (d : Nat) : Nat :=
  let p := (s.dom d).par
  let rg := (validEntries s.cfg.eff).map (regionAt s.cfg.eff)
  let rg := (rg.filter fun e => rgDom e == d).flatMap fun e => toBytes 16 e.toNat
  (crc32c (toBytes 1 s.hubs ++ toBytes 1 (modeByte p) ++ toBytes 8 p.twBase.toNat ++ toBytes 8 p.twSize
    ++ toBytes 8 p.dirBase.toNat ++ toBytes 1 p.dirTgt ++ rg ++ mapBytes s d)).toNat

/-! ## Proximity rows (R143, R408) -/

/-- The row of a requesting DAN: 48 costs of three bits. -/
def proxRow (s : State) (d dan : Nat) : Nat :=
  ((upto 48).map fun c => (tget 3 (s.dom d).prox (48 * dan + c)).toNat * 8 ^ c).sum

def proxSetRow (s : State) (d dan row : Nat) : State :=
  let put := fun (t : Tbl (BitVec 3)) => (upto 48).foldl
    (fun t c => tset t (48 * dan + c) (BitVec.ofNat 3 (row / 8 ^ c))) t
  storeMem (s.updDom d fun q => { q with prox := put q.prox }) 9 0 (keyProx d dan) (some d)

/-- A row of reset costs. -/
def resetRow : Nat := ((upto 48).map fun c => 3 * 8 ^ c).sum

/-! ## The records of a SAVE (R490, Table 18-5) -/

def hubPolicyBytes (k : Kettle) (form : Nat) : List Byte :=
  toBytes 1 form ++ toBytes 1 (flag k.run 0 + flag k.steepEn 1 + flag k.dormantEn 2)
    ++ toBytes 1 k.portIdle ++ [0] ++ toBytes 2 k.steepIdle ++ [0, 0]

def portPolicyBytes (f : FParams) (form p : Nat) : List Byte :=
  (([form, p, flag f.paceEn 0 + flag f.strict 1, f.floor, f.ceil, f.step, f.leadMin, f.leadMax, f.quietT,
     f.burstN, f.ovrK, f.ovrW, f.ovrLim]).map fun v => BitVec.ofNat 8 v) ++ [0, 0, 0]

/-- The parameters a port will run with: those not yet in effect first (R325). -/
def foreParams (f : Forecast) : FParams := f.parNext.getD f.par

def recordsA (s : State) : List Byte :=
  let reset := freshItems s.board.straps
  let items := ([1, 2, 3, 4, 5, 6]).filter fun i => itemGet s.cfg.eff i != itemGet reset i
  let ws := items.flatMap fun i =>
    let n := (itemSize i).getD 1
    cfgRecord 0x101 (toBytes 2 i ++ toBytes 1 n ++ [0] ++ toBytes n (itemGet s.cfg.eff i))
  let commit := if items.isEmpty then [] else cfgRecord 0x102 [0, 0, 0, 0]
  let caps := allPorts.flatMap fun p =>
    let c := (s.port p).link.rateCap
    if c = 0 then [] else cfgRecord 0x107 (toBytes 1 p ++ toBytes 1 c.toNat ++ [0, 0])
  let pol := if hubPolicyBytes s.kt 0 = hubPolicyBytes {} 0 then [] else cfgRecord 0x401 (hubPolicyBytes s.kt 0)
  let ports := agentPorts.flatMap fun p =>
    let f := foreParams (s.port p).fore
    if f = {} then [] else cfgRecord 0x401 (portPolicyBytes f 1 p)
  let srcs := (upto 64).flatMap fun n =>
    let c := s.srcCfg n
    if srcReserved n || srcGrave n || c == defaultSrc n then []
    else cfgRecord 0x502 (toBytes 1 0 ++ toBytes 1 n ++ toBytes 1 c.cls.code ++ toBytes 1 c.base.toNat
      ++ toBytes 1 c.severe.toNat ++ toBytes 1 c.escN ++ toBytes 1 c.escW ++ [0])
  let dnas := allDoms.map fun d => tget none s.flt.dna d
  let notify := if s.flt.pnp.isNone && dnas.all Option.isNone then []
    else cfgRecord 0x502 (toBytes 1 1 ++ toBytes 1 (s.flt.pnp.getD 0xFF)
      ++ (dnas.map fun x => BitVec.ofNat 8 (x.getD 0xFF)) ++ [0, 0])
  let scrub := if s.integ.pass = 600 then [] else cfgRecord 0x600 (toBytes 2 s.integ.pass ++ [0, 0])
  let test := if s.integ.enable = 7 ∧ s.integ.interval = 100 then []
    else cfgRecord 0x601 (toBytes 1 s.integ.enable.toNat ++ [0] ++ toBytes 2 s.integ.interval)
  let spare := if s.home.s3 = 1 then cfgRecord 0x304 (toBytes 1 1 ++ toBytes 1 s.home.s3dim ++ [0, 0]) else []
  ws ++ commit ++ caps ++ pol ++ ports ++ srcs ++ notify ++ scrub ++ test ++ spare

/-- The request of DOMAIN_CREATE that gives these parameters (Table 15-8). -/
def createBytes (p : Params) (d : Nat) : List Byte :=
  toBytes 1 d ++ toBytes 1 (modeByte p) ++ toBytes 1 (p.tans - 1 + 16 * (p.tsnp - 1)) ++ [0]
    ++ toBytes 8 p.twBase.toNat ++ toBytes 1 p.twLog ++ toBytes 1 p.dirTgt ++ [0, 0]
    ++ toBytes 8 p.dirBase.toNat ++ toBytes 1 p.q ++ toBytes 1 p.b ++ toBytes 1 p.cq ++ toBytes 1 p.mbq
    ++ [0, 0, 0, 0]

/-- MODE of AGENT_ADMIT for a kind (Table 15-10). -/
def modeCode : Kind → Nat
  | .caching => 1 | .mirrored => 2 | .io | .memory => 3

def admitBytes (s : State) (d dan : Nat) (a : Agent) : List Byte :=
  if a.hub = s.hubId then
    ([0, d, dan, a.port.getD 0, modeCode a.kind, 0, 0, 0]).map fun v => BitVec.ofNat 8 v
  else ([1, d, dan, 0, 0, agentByte a % 128, 0, 0]).map fun v => BitVec.ofNat 8 v

def recordsB (s : State) : List Byte :=
  allDoms.flatMap fun d =>
    if (s.dom d).st = .none then []
    else
      cfgRecord 0x200 (createBytes (s.dom d).par d)
        ++ ((upto 128).flatMap fun n =>
            let r := proxRow s d n
            if r = resetRow then []
            else cfgRecord 0x106 (toBytes 1 d ++ toBytes 1 n ++ [1, 0] ++ toBytes 18 r ++ [0, 0]))
        ++ ((upto 128).flatMap fun n => match s.agent d n with
            | some a => cfgRecord 0x207 (admitBytes s d n a)
            | none => [])

def recordsC (s : State) : List Byte :=
  let v := validEntries s.cfg.eff
  if v.isEmpty then []
  else (v.flatMap fun i =>
      cfgRecord 0x104 (toBytes 1 i ++ [0, 0, 0] ++ toBytes 16 (regionAt s.cfg.eff i).toNat))
    ++ cfgRecord 0x102 (toBytes 1 (flag (firstOverlap s.cfg.eff).isSome 0) ++ [0, 0, 0])

def recordsD (s : State) : List Byte :=
  (if s.hubs = 1 then (allDoms.filter fun d => (s.dom d).st.inService).flatMap fun d =>
      cfgRecord 0x201 (toBytes 1 d ++ List.replicate 7 0)
    else [])
    ++ if s.cfg.lock = 0 then [] else cfgRecord 0x103 (toBytes 1 s.cfg.lock.toNat ++ [0, 0, 0])

/-- The configuration in effect as records. -/
def saveRecords (s : State) : List Byte := recordsA s ++ recordsB s ++ recordsC s ++ recordsD s

end Sys2Proof.Machine
end

