-- ==== Sys2Proof/Machine/ConfigCmds.lean ====
section
/-!
DEFINITION. Meanings of the Info and Config commands (15_commands.md R398 to R408).
-/
namespace Sys2Proof.Machine

/-! ## Info (Tables 15-3, 15-4) -/

/-- The domain state byte (Table 15-2). -/
def domByte (q : Dom) : Nat := q.st.code + flag q.start.isSome 3 + flag q.zeroFlag 4

def strapsByte (t : Straps) : Nat :=
  t.hubId.toNat + 8 * t.smbA.toNat + flag t.slotB 5 + flag t.strict 6

/-- HUB_INFO's response. -/
def hubInfoBytes (s : State) : List Byte :=
  let grave := s.flt.grave
  toBytes 2 0x1C7E ++ toBytes 2 0x0120
    ++ (([0xB0, flag Config.variantX 0, s.hubId, s.hubs, strapsByte s.board.straps, s.kt.st.code,
          flag grave 0 + 2 * s.cfg.lock.toNat, s.cfg.eff.pport.getD 0xFF]).map fun v => BitVec.ofNat 8 v)
    ++ toBytes 4 (if grave then 0 else s.fw.version) ++ toBytes 6 s.uptime ++ [0, 0]
    ++ toBytes 8 Config.uid.toNat
    ++ (allDoms.map fun d => if grave then 0 else BitVec.ofNat 8 (domByte (s.dom d)))
    ++ toBytes 8 s.flt.status.toNat ++ List.replicate 16 0

/-- The straps are read from MEM 0xB (R358); where they are uncorrectable the Grave state stops the command
without completion (R372), and its service reads none of MEM 0xB (R373). -/
def doHubInfo (s : State) (_ : Option Nat) (_ : List Byte) : CmdRes :=
  let (bad, t) := if s.flt.grave then (false, s) else useCosy s .straps
  if bad then .later t else cmdOk t (hubInfoBytes t)

/-- The slot that SELECT names is the boot-selected one (Table 16-4). -/
def doFwInfo (s : State) (_ : Option Nat) (_ : List Byte) : CmdRes :=
  let h := hdrNow s
  cmdOk s (toBytes 1 s.fw.slot ++ toBytes 1 (hdrSelect h)
    ++ toBytes 1 (fld h.slots 4 1 + flag s.fw.fellBack 4) ++ [0]
    ++ toBytes 4 s.fw.version ++ toBytes 4 h.verA ++ toBytes 4 h.verB ++ toBytes 4 s.fw.exchanges
    ++ List.replicate 12 0)

def freeShelves (s : State) : List Nat := (upto 32).filter fun b => (tget none s.arr.shelf b).isNone

/-- A spare slice that serves nothing and has passed its last test. -/
def spareUsable (s : State) : Bool := (usableSpare s 17).isSome

def doCaps (s : State) (_ : Option Nat) (_ : List Byte) : CmdRes :=
  cmdOk s ([16, 4, 8, 16] ++ toBytes 1 (flag (spareUsable s) 0) ++ [56, 8, 32]
    ++ toBytes 1 (freeShelves s).length ++ [16, 64, 16] ++ [64, 10, 1, 7]
    ++ toBytes 2 256 ++ toBytes 2 512 ++ List.replicate 12 0)

def execHubInfo (m : Fin 10) (s : State) : Out := .next (mbRun1 s m 0 doHubInfo)
def execFwInfo (m : Fin 10) (s : State) : Out := .next (mbRun1 s m 1 doFwInfo)
def execCaps (m : Fin 10) (s : State) : Out := .next (mbRun1 s m 2 doCaps)

/-! ## Items (R404 to R407) -/

def itemsLocked (s : State) : Bool := s.cfg.lock.getLsbD 0
def regionsLocked (s : State) : Bool := s.cfg.lock.getLsbD 1

def doConfigRead (s : State) (_ : Option Nat) (pl : List Byte) : CmdRes :=
  let i := numAt pl 0 2
  let sel := byteAt pl 2
  match itemSize i with
  | none => cmdFail s 0x101
  | some n =>
    if 1 < sel then badValue s
    else
      let e := itemGet s.cfg.eff i
      let t := itemGet s.cfg.staged i
      cmdOk s (toBytes 2 i ++ toBytes 1 n ++ toBytes 1 (flag (itemsLocked s) 0 + flag (t != e) 1)
        ++ toBytes n (if sel = 0 then e else t))

def doConfigWrite (s : State) (_ : Option Nat) (pl : List Byte) : CmdRes :=
  let i := numAt pl 0 2
  match itemSize i with
  | none => cmdFail s 0x101
  | some n =>
    let v := numAt pl 4 n &&& (2 ^ 64 - 1 &&& itemMask i)
    if itemsLocked s then cmdState s 0x102
    else if !itemValid i v then badValue s
    else cmdOk { s with cfg := { s.cfg with staged := itemSet s.cfg.staged i v } } []

/-- INDEX and INDEX2 with nothing to name. -/
def commitNone : List Byte := [0xFF, 0xFF, 0, 0]

/-- CONFIG_COMMIT (R405 to R407). Staged items that would change locked state are refused as staged
regions are (DEDUCED, log 29). A commit with SAVE whose row write fails stands (R406). -/
def doConfigCommit (s : State) (_ : Option Nat) (pl : List Byte) : CmdRes :=
  let f := byteAt pl 0
  if nbit f 2 then cmdOk { s with cfg := { s.cfg with staged := s.cfg.eff } } commitNone
  else if (regionsLocked s && regionsDiffer s.cfg.staged s.cfg.eff)
      || (itemsLocked s && itemsDiffer s.cfg.staged s.cfg.eff) then .done 6 0x102 commitNone s
  else match commitCheck s (nbit f 0) with
    | some (st, de, i, j) => .done st de (toBytes 1 i ++ toBytes 1 j ++ [0, 0]) s
    | none =>
      let s := commitApply s
      if nbit f 1 then
        let (ok, s) := saveCfg s (saveRecords s)
        if ok then cmdOk s commitNone else .done 8 0x116 commitNone s
      else cmdOk s commitNone

def doConfigLock (s : State) (_ : Option Nat) (pl : List Byte) : CmdRes :=
  let l := s.cfg.lock ||| BitVec.ofNat 2 (byteAt pl 0)
  cmdOk { s with cfg := { s.cfg with lock := l } } (toBytes 1 l.toNat ++ [0, 0, 0])

def execConfigRead (m : Fin 10) (s : State) : Out := .next (mbRun1 s m 0x100 doConfigRead)
def execConfigWrite (m : Fin 10) (s : State) : Out := .next (mbRun1 s m 0x101 doConfigWrite)
def execConfigCommit (m : Fin 10) (s : State) : Out :=
  .next (mbRun s m 0x102 anyForm (fun s _ => (commitNone, s)) doConfigCommit)
def execConfigLock (m : Fin 10) (s : State) : Out := .next (mbRun1 s m 0x103 doConfigLock)

/-! ## Regions, proximity, port caps (R405, R408) -/

def doRegionSet (s : State) (_ : Option Nat) (pl : List Byte) : CmdRes :=
  let i := byteAt pl 0
  if 63 < i then badValue s
  else if regionsLocked s then cmdState s 0x102
  else
    let e := BitVec.ofNat 128 (numAt pl 4 16) &&& rgMask
    cmdOk { s with cfg := { s.cfg with
      staged := { s.cfg.staged with region := tset s.cfg.staged.region i e } } } []

def doRegionGet (s : State) (_ : Option Nat) (pl : List Byte) : CmdRes :=
  let i := byteAt pl 0
  let sel := byteAt pl 1
  if 63 < i ∨ 1 < sel then badValue s
  else
    let e := regionAt s.cfg.eff i
    let t := regionAt s.cfg.staged i
    cmdOk s (toBytes 1 i ++ toBytes 1 (flag (t != e) 0) ++ [0, 0]
      ++ toBytes 16 (if sel = 0 then e else t).toNat)

/-- A domain in NONE has no status of its own for PROXIMITY_SET: BAD_VALUE (DEDUCED, log 29). -/
def doProximitySet (s : State) (_ : Option Nat) (pl : List Byte) : CmdRes :=
  let d := byteAt pl 0 % 8
  let first := byteAt pl 1
  let count := byteAt pl 2
  if 127 < first ∨ count = 0 ∨ 128 < first + count ∨ (s.dom d).st = .none then badValue s
  else if nbit (byteAt pl 3) 0 then cmdOk s (toBytes 18 (proxRow s d first))
  else if regionsLocked s then cmdState s 0x102
  else cmdOk ((upto count).foldl (fun s k => proxSetRow s d (first + k) (numAt pl 4 18)) s) []

def doPortConfig (s : State) (_ : Option Nat) (pl : List Byte) : CmdRes :=
  let p := byteAt pl 0
  let c := byteAt pl 1
  if 19 < p ∨ 2 < c then badValue s
  else if itemsLocked s then cmdState s 0x102
  else cmdOk (s.updLink p fun l => { l with rateCap := BitVec.ofNat 2 c }) []

def execRegionSet (m : Fin 10) (s : State) : Out := .next (mbRun1 s m 0x104 doRegionSet)
def execRegionGet (m : Fin 10) (s : State) : Out := .next (mbRun1 s m 0x105 doRegionGet)
def execProximitySet (m : Fin 10) (s : State) : Out := .next (mbRun1 s m 0x106 doProximitySet)
def execPortConfig (m : Fin 10) (s : State) : Out := .next (mbRun1 s m 0x107 doPortConfig)

end Sys2Proof.Machine
end

