-- ==== Sys2Proof/Machine/TrackerCmds.lean ====
section
/-!
DEFINITION. Meanings of the rows of waiting trackers, deadlines, the merge buffer and quiescing (05, 06, 07,
08 R244).
-/
namespace Sys2Proof.Machine

/-! ## Grants, MRQs and fills that waited (R157, R173, R175) -/

/-- A delayed grant: on an agent port the one that ready order and pacing allow, once its credit is held. -/
def execGrantPlacement (sl : Fin 17) (t : Fin 64) (s : State) : Out :=
  match s.clocked && !switchHits s sl, s.trk sl t with
  | true, some x =>
    match x.phase, x.req with
    | .grant, some r =>
      if 16 ≤ r.port then
        .next (if grantCredit s x r then serveStore (placeGrant s x r) else s)
      else if nextReady s r.port = some x then .next (serveStore (placeReady s r.port x))
      else .next (markPaced s r.port)
    | _, _ => .next s
  | _, _ => .next s

def execMrqPlacement (sl : Fin 17) (t : Fin 64) (s : State) : Out :=
  match s.clocked, s.trk sl t with
  | true, some x =>
    match x.mrqs with
    | w :: rest =>
      let free := match outPort s x.dom w.dan with
        | some p => creditFree s p .mrq x.dom || !s.up p
        | none => true
      if free then .next (sendMrq (putTrk s { x with mrqs := rest }) x.dom w.dan w.f w.data)
      else .next s
    | [] => .next s
  | _, _ => .next s

def execDirectoryFillResume (sl : Fin 17) (t : Fin 64) (s : State) : Out :=
  match s.clocked && !switchHits s sl, s.trk sl t with
  | true, some x =>
    match x.fillWait with
    | some (w, dirty) =>
      let (done, x, s) := dirFill s x w dirty
      if done then .next (serveStore (wordReady s x w)) else .next s
    | none => .next s
  | _, _ => .next s

/-! ## Deadlines (R184, R185, R205, R207) -/

/-- A writeback tracker holds the line of a reserved tracker, which pauses its window (R185). A quota
reservation is for no line (R251). -/
def windowPaused (s : State) (x : Tracker) : Bool :=
  (match x.tq with
   | some q => !q.quota
   | none => true)
  && s.home.trackers.any fun y => y.live && y.flow == .writeback && y.dom == x.dom && y.laddr == x.laddr
    && !(y.sl == x.sl && y.num == x.num)

def execTicketWindowExpiry (sl : Fin 17) (t : Fin 64) (s : State) : Out :=
  match s.clocked, s.trk sl t with
  | true, some x =>
    match x.phase, x.tq.bind fun q => q.places.head? with
    | .reserved, some k =>
      if windowPaused s x then .next s else .next (serveStore (passReserved s x k))
    | _, _ => .next s
  | _, _ => .next s

/-- The final answer of a tracker's request has not been placed. -/
def unanswered (x : Tracker) : Bool :=
  x.req.isSome && (match x.phase with
    | .lookup | .dirread | .collect | .grant => true
    | _ => false)

def execTAnswerExpiry (sl : Fin 17) (t : Fin 64) (s : State) : Out :=
  match s.clocked, s.trk sl t with
  | true, some x =>
    match x.req with
    | some r =>
      if unanswered x && !x.late then
        let s := statAdd (putTrk s { x with late := true }) x.dom 7
        .next (raise s 10 (some x.dom) (waitDetail r.port r.h.dan.toNat sl t))
      else .next s
    | none => .next s
  | _, _ => .next s

/-- Who an awaited answer comes from. -/
inductive Awaited where
  | agent (dan : Nat)
  | hub (h : Nat)
deriving DecidableEq, Repr

/-- A candidate of R143: a DAN below 40, else the hub of mirrored agents. -/
def Awaited.ofCand (c : Nat) : Awaited := if c < 40 then .agent c else .hub (c - 40)

/-- The DAN field of a report: 40 + h for the combined answer of hub h. -/
def Awaited.dan : Awaited → Nat
  | .agent d => d
  | .hub h => 40 + h

/-- Who an awaited answer of a tracker comes from, once its message has been placed. -/
def awaitedFrom (s : State) (x : Tracker) (a : Await) : Option Awaited :=
  let waiting := fun (op : MrqOp) (l : LAddr) => x.mrqs.any fun w => w.f.op == op && w.f.laddr == l
  match a with
  | .snoop c _ => if x.heldSnoops.any fun e => e.1 == c then none else some (.ofCand c)
  | .wbm c => some (.ofCand c)
  | .word =>
    if waiting .mrd (dirLine s x.dom x.laddr).1 then none else some (.agent (s.dom x.dom).par.dirTgt)
  | .line => if waiting .mrd x.laddr then none else some (.agent (lineTgt s x))
  | .mat => if waiting .mat x.laddr then none else some (.agent (lineTgt s x))
  | .mcp => if waiting .mwr x.laddr then none else some (.agent (lineTgt s x))
  | .drain _ => none

/-- The port toward an agent, or toward the hub of a combined answer. -/
def portToward (s : State) (d : Nat) : Awaited → Nat
  | .agent c => (outPort s d c).getD 0
  | .hub h => routePort s h d (40 + h) true

/-- An answer has not come in time: the domain goes down. The agent waited on is dead (R199, R207); behind
the combined answer of a hub stands no agent of this hub (Table 06-5, R274). -/
def answerDead (s : State) (d : Nat) (c : Awaited) (sl t : Nat) : State :=
  let s := raise s 11 (some d) (waitDetail (portToward s d c) c.dan sl t)
  domainDown s d 11 (match c with
    | .agent n => [n]
    | .hub _ => []) none

def execTSnoopExpiry (w : AnswerWait) (s : State) : Out :=
  if !s.clocked then .next s
  else match w with
    | .tracker sl t i => match s.trk sl t with
      | some x => match x.awaits[i]?.bind fun a => awaitedFrom s x a with
        | some c => .next (answerDead s x.dom c sl t)
        | none => .next s
      | none => .next s
    | .merge i => match s.merge i with
      | some m =>
        if m.drain = 0 then .next s
        else match s.region m.dom (lineAddr m.laddr 0) with
          | some (_, c) => .next (answerDead s m.dom (.agent c) m.sl 0)
          | none => .next s
      | none => .next s
    | .victim sl i => match (s.home.victims.filter fun v => v.sl == sl.val)[i]? with
      | some v => .next (answerDead s v.dom (.agent (s.dom v.dom).par.dirTgt) sl 0)
      | none => .next s

/-- T_tracker does not run on a reserved tracker (R184). -/
def execTTrackerExpiry (sl : Fin 17) (t : Fin 64) (s : State) : Out :=
  match s.clocked, s.trk sl t with
  | true, some x =>
    if !x.live then .next s
    else
      let c := ((x.awaits.filterMap fun a => awaitedFrom s x a).head?).getD
        (.agent ((x.req.map fun r => r.h.dan.toNat).getD 0))
      let s := raise s 12 (some x.dom) (waitDetail (portToward s x.dom c) c.dan sl t)
      .next (domainDown s x.dom 12 [] none)
  | _, _ => .next s

/-! ## Quiescing (R244) -/

/-- The conditions of R244. -/
def drained (s : State) (d : Nat) : Bool :=
  !(s.home.trackers.any fun x => x.dom == d) && !(s.home.merges.any fun m => m.dom == d)
    && !(s.home.victims.any fun v => v.dom == d) && !anyDirty s d
    && ((s.portsOf d).all fun p => (s.port p).gateBuf.isEmpty
          && (s.port p).gates.all fun e => e.2 == .idle)
    && (match (s.dom d).sweep with
        | some w => w.outst.isEmpty
        | none => true)

def execQuiesced (d : Fin 8) (s : State) : Out :=
  if s.clocked ∧ (s.dom d).st = .quiescing ∧ drained s d then
    let m := (s.dom d).quiesceMbx
    let s := s.updDom d fun q => { q with st := .quiesced, quiesceMbx := none }
    .next (finishMbx (sweepEnd s d) m 0 0)
  else .next s

/-! ## The atomic buffer (R218) -/

def holdLimit (sl t : Nat) (s : State) : State :=
  match s.clocked, s.trk sl t with
  | true, some x => if x.phase = .hold then serveStore (releaseHold s x) else s
  | _, _ => s

def execHoldIdleLimit (sl : Fin 17) (t : Fin 64) (s : State) : Out := .next (holdLimit sl t s)
def execHoldTimeLimit (sl : Fin 17) (t : Fin 64) (s : State) : Out := .next (holdLimit sl t s)

/-! ## The merge buffer (R235, R236) -/

def execMergeEntryAge (i : Fin 64) (s : State) : Out :=
  if s.clocked then .next (startDrain s i) else .next s

def execMergePressureDrain (s : State) : Out :=
  let idle := idleEntries s fun _ => true
  match s.clocked, idle.head? with
  | true, some m => if 56 ≤ idle.length then .next (startDrain s m.id) else .next s
  | _, _ => .next s

/-- A tracker whose drain has completed goes on as if its request were looked up now; the placement of an
ATM stands (R200, R212). Writes enter new entries in the order of their lookups (R234). -/
def execDrainWaiterResume (sl : Fin 17) (t : Fin 64) (s : State) : Out :=
  match s.clocked && !switchHits s sl, s.trk sl t with
  | true, some x =>
    match x.phase, x.req with
    | .collect, some r =>
      let waited := x.flow == .ncMerge || x.flow == .undecided || r.op == .atm
      let first := x.flow != .ncMerge || ((s.home.trackers.takeWhile fun y => y != x).filter fun y =>
        y.flow == .ncMerge && y.phase == .collect && y.awaits.isEmpty).isEmpty
      if waited && first && x.awaits.isEmpty && x.mrqs.isEmpty then
        if r.op = .atm then .next (serveStore (progress x s))
        else .next (serveStore (ncLookup s { x with phase := .lookup, flow := .undecided } r .nc))
      else .next s
    | _, _ => .next s
  | _, _ => .next s

/-! ## Sweeps (R262) -/

def execSweepMwr (d : Fin 8) (s : State) : Out :=
  match s.clocked && s.home.switching != some 16, sweepNow s d with
  | true, some w =>
    if 64 ≤ w.outst.length ∨ (w.flush ∧ !flushing s d) then .next s
    else if w.zero then .next (zeroMwr s d w) else .next (sweepEnd (dirtyMwr s d w) d)
  | _, _ => .next s

def execZeroSweepComplete (d : Fin 8) (s : State) : Out :=
  match s.clocked, (s.dom d).sweep with
  | true, some w =>
    if w.zero ∧ w.outst.isEmpty ∧ dirBlocks (s.dom d).par ≤ shareBlock s w.next then
      .next (zeroDone s d)
    else .next s
  | _, _ => .next s

/-- An MCP of a sweep exceeds T_snoop. The write-back of a quiesce is an MRQ of the domain like any other:
the domain goes down (R244). -/
def execSweepTimeout (d : Fin 8) (s : State) : Out :=
  match s.clocked, (s.dom d).sweep with
  | true, some w =>
    if w.outst.isEmpty then .next s
    else if w.flush ∨ (s.dom d).st = .quiescing then
      .next (answerDead s d (.agent (s.dom d).par.dirTgt) 0 0)
    else
      let s := finishMbx (s.updDom d fun q => { q with sweep := none }) w.mbx 8 0x205
      .next (failStart s d 0x205)
  | _, _ => .next s

/-! ## Stages and span notices (R278 to R282) -/

def noticeRow (p : Nat) (n : AssignF) (base : Nat) (stageR : Bool) (s : State) : State :=
  let s := takeCtl s p (.assign n)
  let h := n.dan.toNat - base
  if s.clocked && s.up p && decide (16 ≤ p) && decide (base ≤ n.dan.toNat) && decide (h < 8)
      && h != s.hubId then takeNotice s p h n stageR
  else s

def execStagePNotice (p : Fin 20) (n : AssignF) (s : State) : Out := .next (noticeRow p n 40 false s)
def execStageRNotice (p : Fin 20) (n : AssignF) (s : State) : Out := .next (noticeRow p n 48 true s)

/-- A span RELEASE: a domain in service goes down, unless a start is in progress (R279). -/
def execSpanRelease (p : Fin 20) (d : Fin 8) (s : State) : Out :=
  let s := takeCtl s p (.release (BitVec.ofNat 3 d))
  if s.clocked ∧ s.up p ∧ 16 ≤ p.val ∧ (s.dom d).start.isNone then
    .next (domainDown s d 0xFF [] (some p))
  else .next s

/-- A start waits at a stage. -/
def atStage (s : State) (d : Nat) (g : Stage) : Bool :=
  match (s.dom d).start with
  | some j => j.stage == g
  | none => false

def execStagePComplete (d : Fin 8) (s : State) : Out :=
  let q := s.dom d
  match s.clocked && atStage s d .waitP && allHubs s q.stageP, q.start with
  | true, some j =>
    if j.origin = .down ∨ (j.origin = .created ∧ !q.zeroFlag) then
      .next (beginZero (setStage s d .sweep) d none)
    else .next (afterSweep s d)
  | _, _ => .next s

def execStageRComplete (d : Fin 8) (s : State) : Out :=
  if s.clocked && atStage s d .waitR && allHubs s (s.dom d).stageR then .next (enterStarted s d)
  else .next s

def execStageTimeout (d : Fin 8) (s : State) : Out :=
  if s.clocked && (atStage s d .waitP || atStage s d .waitR) then .next (failStart s d 0x204)
  else .next s

end Sys2Proof.Machine
end

