-- ==== Sys2Proof/Machine/DomainCmds.lean ====
section
/-!
DEFINITION. Meanings of the Domain commands (15_commands.md R409 to R413, 08_domains.md, 09_multi_hub.md
R275 to R282).
-/
namespace Sys2Proof.Machine

def wrongState (s : State) : CmdRes := cmdState s 0x207

/-! ## DOMAIN_CREATE (R245, R409) -/

/-- The parameters of a DOMAIN_CREATE request. -/
def createParams (pl : List Byte) : Params :=
  let b := byteAt pl
  { var := nbit (b 1) 0, fmig := nbit (b 1) 1, atmp := BitVec.ofNat 2 (b 1 / 4),
    tans := b 2 % 8 + 1, tsnp := b 2 / 16 % 4 + 1,
    twBase := BitVec.ofNat 52 (numAt pl 4 8), twLog := b 12, dirTgt := b 13,
    dirBase := BitVec.ofNat 52 (numAt pl 16 8), q := b 24, b := b 25, cq := b 26, mbq := b 27 }

/-- The ranges of Q, B, CQ and MBQ (Table 08-3). -/
def quotaOk (q b cq mbq : Nat) : Bool :=
  decide (q + b ≤ 56) && decide (1 ≤ cq ∧ cq ≤ 32) && decide (mbq ≤ 64)

/-- The ranges of a DOMAIN_CREATE request (Tables 04-4, 08-3, R409). -/
def createOk (pl : List Byte) : Bool :=
  let p := createParams pl
  let tw := numAt pl 4 8
  let dir := numAt pl 16 8
  quotaOk p.q p.b p.cq p.mbq && p.atmp != 3 && decide (tw < 2 ^ 52 ∧ dir < 2 ^ 52)
    && (if p.twLog = 0 then tw == 0 && dir == 0
        else decide (16 ≤ p.twLog ∧ p.twLog ≤ 52) && tw % 2 ^ p.twLog == 0
          && dir % 2 ^ (p.twLog - 3) == 0 && decide (p.dirTgt < 128))

/-- The sum limits of Table 08-3 with these quotas for domain d. -/
def sumsOk (s : State) (d q cq mbq : Nat) : Bool :=
  let others := allDoms.filter fun e => e != d && (s.dom e).st != .none
  let sum := fun (f : Params → Nat) => (others.map fun e => f (s.dom e).par).sum
  decide (sum Params.q + q ≤ 56) && decide (sum Params.cq + cq ≤ 32) && decide (sum Params.mbq + mbq ≤ 64)

/-- A committed entry of the domain that these parameters' window breaks (R122). -/
def windowClash (s : State) (d : Nat) (p : Params) : Bool :=
  (validEntries s.cfg.eff).any fun i =>
    let e := regionAt s.cfg.eff i
    rgDom e == d && windowBad p e

/-- The parameters set. From NONE the epoch is 0 (R494) and the statistics clear (R426); in CREATED, an
ASSIGN goes out where a field it carries changes (R241). -/
def createDom (s : State) (d : Nat) (p : Params) : State :=
  let q := s.dom d
  let old := q.par
  let dir := fun (x : Params) => (x.twBase, x.twLog, x.dirBase, x.dirTgt)
  let sent := fun (x : Params) => (x.var, x.tans, x.tsnp)
  let s := s.updDom d fun q =>
    if q.st = .none then
      { q with st := .created, par := p, epoch := 0, cause := 0xFE, zeroFlag := false, stats := [] }
    else { q with par := p, zeroFlag := q.zeroFlag && dir p == dir old }
  let s := storeMem s 9 0 (keyPar d) (some d)
  if q.st ≠ .none ∧ sent p ≠ sent old then (s.portsOf d).foldl (fun s p => placeAssign s p false) s else s

def doDomainCreate (s : State) (_ : Option Nat) (pl : List Byte) : CmdRes :=
  let d := byteAt pl 0 % 8
  let p := createParams pl
  if (s.dom d).st ≠ .none ∧ (s.dom d).st ≠ .created then wrongState s
  else if !createOk pl then badValue s
  else if windowClash s d p then cmdFail s 0x113
  else if !sumsOk s d p.q p.cq p.mbq then cmdFail s 0x201
  else cmdOk (createDom s d p) []

/-! ## DOMAIN_START (R242, R261, R281, R413) -/

/-- Every target of the domain is an admitted agent with the memory role (R242). -/
def targetsOk (s : State) (d : Nat) : Bool :=
  let p := (s.dom d).par
  (p.twLog == 0 || hasMem s d p.dirTgt)
    && (validEntries s.cfg.eff).all fun i =>
      let e := regionAt s.cfg.eff i
      rgDom e != d || rgTgt e == 0x7F || hasMem s d (rgTgt e)

/-- Steps 1 and 2 of R261. -/
def restartDom (s : State) (d : Nat) : State :=
  let s := s.updDom d fun q => { q with epoch := q.epoch + 1 }
  (s.portsOf d).foldl (fun s p => placeAssign s p true) s

/-- A start begins: with one hub the sweep, if one is due, else stage P. -/
def beginStart (s : State) (d : Nat) (mbx : Option Nat) : State :=
  let st := (s.dom d).st
  let s := if st = .down then restartDom s d else s
  let s := s.updDom d fun q => { q with start := some ⟨st, .waitP, mbx⟩ }
  if s.hubs ≠ 1 then reachP s d
  else if st = .down ∨ (st = .created ∧ !(s.dom d).zeroFlag) then beginZero (setStage s d .sweep) d none
  else enterStarted s d

def doDomainStart (s : State) (mbx : Option Nat) (pl : List Byte) : CmdRes :=
  let d := byteAt pl 0 % 8
  let q := s.dom d
  let from_ := q.st == .created || q.st == .quiesced || (q.st == .down && !q.downing)
  if !from_ || q.start.isSome then wrongState s
  else if s.hubs ≠ 1 ∧ numAt pl 4 4 ≠ digest s d then cmdFail s 0x203
  else if q.st ≠ .quiesced ∧ !targetsOk s d then cmdState s 0x202
  else .later (beginStart s d mbx)

/-! ## DOMAIN_QUIESCE (R197, R244) -/

/-- Tickets of a domain become void: its queues go, its reserved trackers are freed. -/
def voidTickets (s : State) (d : Nat) (f : TQueue → Bool) : State :=
  let hit := fun (x : Tracker) => x.dom == d && (match x.tq with
    | some q => f q
    | none => false)
  s.updHome fun h => { h with
    trackers := (h.trackers.filter fun x => !(hit x && x.phase == .reserved)).map fun x =>
      if hit x then { x with tq := none } else x }

/-- The start of a quiesce returns every DS gate of a port to IDLE; its buffered requests are answered NAK
DOMAIN_QUIESCE in buffer order (R230). -/
def quiesceGates (s : State) (p : Nat) : State :=
  let rs := (s.port p).gateBuf
  let s := s.updPort p fun q => { q with gates := [], gateBuf := [], gateEnd := [] }
  rs.foldl (fun s r => nakReq s r 7 none) s

/-- The quiesce begins: HNT 0x3 to every agent, DS gates idle, tickets void, held lines released, drains
started. -/
def beginQuiesce (s : State) (d : Nat) (mbx : Option Nat) : State :=
  let s := s.updDom d fun q => { q with st := .quiescing, quiesceMbx := mbx }
  let s := (s.portsOf d).foldl (fun s p => placeAgent s p (hubNotice s p 3 0 0 0)) s
  let s := (s.portsOf d).foldl quiesceGates s
  let s := voidTickets s d fun _ => true
  let s := (s.home.trackers.filter fun x => x.dom == d && x.phase == .hold).foldl releaseHold s
  serveStore ((idleEntries s fun m => m.dom == d).foldl (fun s m => startDrain s m.id) s)

def doDomainQuiesce (s : State) (mbx : Option Nat) (pl : List Byte) : CmdRes :=
  let d := byteAt pl 0 % 8
  if (s.dom d).st ≠ .started then wrongState s else .later (beginQuiesce s d mbx)

/-! ## DOMAIN_STOP (R241, R243, R244) -/

/-- A quiesced domain still has a writeback in service or a directory word to write. -/
def stopWaits (s : State) (d : Nat) : Bool :=
  (s.dom d).st == .quiesced && ((s.home.trackers.any fun x => x.dom == d)
    || (s.home.wbs.any fun w => w.h.dom.toNat == d) || anyDirty s d || (s.dom d).sweep.isSome)

/-- Every agent released and expelled; with FREE the domain is NONE and its parameters read 0. -/
def stopDom (s : State) (d : Nat) (free : Bool) : State :=
  let s := expelAll s d (s.dans d fun _ => true)
  let s := crcRelease s d
  s.updDom d fun q =>
    if free then { q with st := .none, par := {}, zeroFlag := false } else { q with st := .created }

def doDomainStop (s : State) (_ : Option Nat) (pl : List Byte) : CmdRes :=
  let d := byteAt pl 0 % 8
  let q := s.dom d
  let from_ := q.st == .created || q.st == .quiesced || (q.st == .down && !q.downing)
  if !from_ || q.start.isSome then wrongState s
  else if stopWaits s d then .later s
  else cmdOk (stopDom s d (nbit (byteAt pl 1) 0)) []

/-! ## DOMAIN_STATUS (R412) -/

def localBits (s : State) (d : Nat) : Nat :=
  ((s.dans d fun a => a.hub == s.hubId).map fun n => 2 ^ n).sum

def statusPage (s : State) (d page : Nat) : List Byte :=
  let q := s.dom d
  let p := q.par
  if q.st = .none then
    if page = 0 then toBytes 1 d ++ List.replicate 63 0
    else List.replicate (if page = 1 then 128 else 32) 0
  else match page with
    | 0 => (([d, domByte q, q.epoch.toNat, modeByte p, p.tans - 1 + 16 * (p.tsnp - 1), q.cause, p.q, p.b,
              p.cq, p.mbq, 0, 0]).map fun v => BitVec.ofNat 8 v)
        ++ toBytes 4 (digest s d) ++ toBytes 16 q.stale.toNat ++ toBytes 16 (localBits s d)
        ++ List.replicate 16 0
    | 1 => mapBytes s d
    | _ => ((upto 17).map fun sl => BitVec.ofNat 8 (usedTrk s sl d)) ++ [0, 0, 0]
        ++ (upto 3).flatMap fun i => toBytes 4 (tget 0 q.naks i)

def doDomainStatus (s : State) (_ : Option Nat) (pl : List Byte) : CmdRes :=
  let d := byteAt pl 0 % 8
  let page := byteAt pl 1
  if 2 < page then badValue s
  else
    let r := statusPage s d page
    cmdOk (if nbit (byteAt pl 2) 0 then s.updDom d fun q => { q with naks := [] } else s) r

/-! ## DIR_SWEEP (R262, Table 08-8) -/

def doSweepWriteback (s : State) (mbx : Option Nat) (pl : List Byte) : CmdRes :=
  let d := byteAt pl 0 % 8
  let q := s.dom d
  if 1 < byteAt pl 1 then badValue s
  else if (q.st ≠ .started ∧ q.st ≠ .quiesced) ∨ q.start.isSome then wrongState s
  else
    let outst := ((q.sweep.map fun w => w.outst)).getD []
    let s := s.updDom d fun q =>
      { q with sweep := some { zero := false, flush := false, next := 0, outst, mbx } }
    .later (sweepEnd s d)

def doSweepZero (s : State) (mbx : Option Nat) (pl : List Byte) : CmdRes :=
  let d := byteAt pl 0 % 8
  if (s.dom d).st ≠ .created ∨ (s.dom d).start.isSome then wrongState s else .later (beginZero s d mbx)

/-! ## QUOTA_SET (R245, R254) -/

def doQuotaSet (s : State) (_ : Option Nat) (pl : List Byte) : CmdRes :=
  let b := byteAt pl
  let d := b 0 % 8
  if (s.dom d).st = .none then wrongState s
  else if !quotaOk (b 1) (b 2) (b 3) (b 4) then badValue s
  else if !sumsOk s d (b 1) (b 3) (b 4) then cmdFail s 0x201
  else
    let s := s.updDom d fun q => { q with par := { q.par with q := b 1, b := b 2, cq := b 3, mbq := b 4 } }
    cmdOk (voidTickets (storeMem s 9 0 (keyPar d) (some d)) d TQueue.quota) []

/-! ## AGENT_ADMIT (R17 to R20, R246, R275, R411) -/

def admitState (s : State) (d : Nat) : Bool :=
  let st := (s.dom d).st
  (st == .created || st == .started || st == .quiesced) && (s.dom d).start.isNone

def capSets (c : CapF) : Nat := 2 ^ (8 + c.sets.toNat)
def capWays (c : CapF) : Nat := c.ways.toNat + 1

/-- Shelves an agent's entries take, and whether its geometry keeps R19. -/
def shelvesFor (c : CapF) : Nat := (capSets c * capWays c + 65535) / 65536
def geometryOk (c : CapF) : Bool :=
  decide (c.sets.toNat ≤ 8 ∧ capWays c ≤ 32 ∧ capSets c * capWays c ≤ 524288)

/-- The kind an agent is admitted as: what R19 and R20 give; none where it cannot be mirrored and has no
directory to fall back on. -/
def kindFor (s : State) (d : Nat) (c : CapF) : Option Kind :=
  if c.role = 0 then some .caching
  else if c.role = 2 then some .io
  else if c.role = 3 then some .memory
  else if geometryOk c ∧ shelvesFor c ≤ (freeShelves s).length then some .mirrored
  else if (s.dom d).par.twLog ≠ 0 then some .caching else none

/-- An agent-map entry written. -/
def putAgent (s : State) (d dan : Nat) (a : Agent) : State := putMap s d dan (some a) Dom.stale

/-- The agent enters the map; its shelves are the lowest free banks, cleared; ASSIGN and credits follow
(R131, R246). A memory agent has the memory role whatever MEM says (DEDUCED, log 29). -/
def admitPort (s : State) (d dan p : Nat) (c : CapF) (k : Kind) : List Nat × State :=
  let shelves := if k = .mirrored then (freeShelves s).take (shelvesFor c) else []
  let s := clearShelves s shelves
  let s := shelves.foldl (fun s b => setShelf s b (some (d, dan))) s
  let a : Agent := { hub := s.hubId, kind := k, mem := c.mem || k == .memory, matc := c.matc,
                     port := some p, shelves, sets := capSets c, ways := capWays c }
  let s := putAgent s d dan a
  let s := s.updMem p fun m => { m with dom := some d, dan }
  (shelves, placeAssign s p true)

/-- The port form, its checks in the order of R411. -/
def doAdmitPort (s : State) (_ : Option Nat) (pl : List Byte) : CmdRes :=
  let b := byteAt pl
  let d := b 1 % 8
  let dan := b 2
  let p := b 3
  let mode := b 4
  let q := s.port p
  let stale := (s.dom d).stale.getLsbD dan
  if !admitState s d then wrongState s
  else if 1 < b 0 ∨ 15 < p ∨ 3 < mode ∨ (mode = 0 ∧ s.hubs ≠ 1) then badValue s
  else match s.up p && q.link.capAcked, q.link.farCap with
    | true, some c =>
      let caching := decide (c.role.toNat ≤ 1)
      if q.mem.dom.isSome then cmdFail s 0x221
      else if 127 < dan ∨ (caching ∧ 39 < dan) then cmdFail s 0x224
      else if (s.agent d dan).isSome then cmdFail s 0x222
      else if stale then cmdFail s 0x223
      else if caching ∧ (s.dom d).par.var ∧ !c.fcap then cmdFail s 0x226
      else match kindFor s d c with
        | none => cmdFail s 0x225
        | some k =>
          if mode ≠ 0 ∧ mode ≠ modeCode k then cmdFail s 0x227
          else
            let (bs, s) := admitPort s d dan p c k
            cmdOk s (toBytes 1 (modeCode k) ++ toBytes 1 ((bs.head?).getD 0xFF) ++ toBytes 1 bs.length ++ [0])
    | _, _ => cmdFail s 0x220

def recordAgent (r : Nat) : Agent :=
  { hub := fld r 6 4, kind := match fld r 3 2 with | 0 => .caching | 1 => .mirrored | 2 => .io | _ => .memory,
    mem := nbit r 1, matc := nbit r 0, port := none, shelves := [], sets := 0, ways := 0 }

/-- The record form. -/
def doAdmitRecord (s : State) (_ : Option Nat) (pl : List Byte) : CmdRes :=
  let b := byteAt pl
  let d := b 1 % 8
  let dan := b 2
  let a := recordAgent (b 5)
  let caching := a.kind == .caching || a.kind == .mirrored
  if !admitState s d then wrongState s
  else if a.hub = s.hubId ∨ s.hubs ≤ a.hub then badValue s
  else if 127 < dan ∨ (caching ∧ 39 < dan) then cmdFail s 0x224
  else if (s.agent d dan).isSome then cmdFail s 0x222
  else if (s.dom d).stale.getLsbD dan then cmdFail s 0x223
  else cmdOk (putAgent s d dan a) []

/-! ## AGENT_EXPEL (R247, R410) -/

/-- The agent is DIR_TGT of a directory region, or a region's target. -/
def isTarget (s : State) (d dan : Nat) : Bool :=
  let p := (s.dom d).par
  (p.twLog != 0 && p.dirTgt == dan)
    || (validEntries s.cfg.eff).any fun i =>
      let e := regionAt s.cfg.eff i
      rgDom e == d && rgTgt e == dan

/-- One form of AGENT_EXPEL: `here` for an agent that attaches to this hub. -/
def doExpel (here : Bool) (s : State) (_ : Option Nat) (pl : List Byte) : CmdRes :=
  let b := byteAt pl
  let d := b 1 % 8
  let q := s.dom d
  let from_ := q.st == .created || q.st == .quiesced || (q.st == .down && !q.downing)
  if !from_ || q.start.isSome then wrongState s
  else if 1 < b 0 then badValue s
  else match s.agent d (b 2) with
    | some a =>
      if (a.hub == s.hubId) != here then cmdFail s 0x229
      else if q.st ≠ .down ∧ isTarget s d (b 2) then cmdState s 0x228
      else cmdOk (expel s d (b 2)) []
    | none => cmdFail s 0x229

/-! ## The rows -/

/-- A request's byte 0, or byte i, tells its form; the first form's row also answers a reserved one. -/
def formIs (i v : Nat) (pl : List Byte) : Bool := byteAt pl i == v
def formNot (i v : Nat) (pl : List Byte) : Bool := byteAt pl i != v

def execDomainCreate (m : Fin 10) (s : State) : Out := .next (mbRun1 s m 0x200 doDomainCreate)
def execDomainStart (m : Fin 10) (s : State) : Out := .next (mbRun1 s m 0x201 doDomainStart)
def execDomainQuiesce (m : Fin 10) (s : State) : Out := .next (mbRun1 s m 0x202 doDomainQuiesce)
def execDomainStop (m : Fin 10) (s : State) : Out := .next (mbRun1 s m 0x203 doDomainStop)
def execDomainStatus (m : Fin 10) (s : State) : Out := .next (mbRun1 s m 0x204 doDomainStatus)
def execDirSweepWriteback (m : Fin 10) (s : State) : Out :=
  .next (mbRun s m 0x205 (formNot 1 1) noBusy doSweepWriteback)
def execDirSweepZero (m : Fin 10) (s : State) : Out :=
  .next (mbRun s m 0x205 (formIs 1 1) noBusy doSweepZero)
def execQuotaSet (m : Fin 10) (s : State) : Out := .next (mbRun1 s m 0x206 doQuotaSet)
def execAgentAdmitPort (m : Fin 10) (s : State) : Out :=
  .next (mbRun s m 0x207 (formNot 0 1) noBusy doAdmitPort)
def execAgentAdmitRecord (m : Fin 10) (s : State) : Out :=
  .next (mbRun s m 0x207 (formIs 0 1) noBusy doAdmitRecord)
def execAgentExpelPort (m : Fin 10) (s : State) : Out :=
  .next (mbRun s m 0x208 (formNot 0 1) noBusy (doExpel true))
def execAgentExpelRecord (m : Fin 10) (s : State) : Out :=
  .next (mbRun s m 0x208 (formIs 0 1) noBusy (doExpel false))

end Sys2Proof.Machine
end

