-- ==== Sys2Proof/Machine/ForecastCmds.lean ====
section
/-!
DEFINITION. Meanings of the forecaster and pacing rows (11_load_forecast.md).
-/
namespace Sys2Proof.Machine

/-- Edges in Steep and Dormant are latched and counted apart (R315). -/
def execDroopNEdge (a : Fin 16) (s : State) : Out :=
  if s.clocked then .next (droopEdge s a)
  else if s.alive then .next (s.updFore a fun f => { f with droopLatched := bump f.droopLatched })
  else .next s

/-- A window boundary that lies `since` ns after the trigger of the event in progress (R322). -/
def execPacingWindow (a : Fin 16) (sinceTrigger : Nat) (s : State) : Out :=
  if s.clocked then
    let s := s.updFore a fun f => windowStep f sinceTrigger
    .next (serveStore (drainReady s a (s.port a).ready.length))
  else .next s

/-- The hold of a code has long ended when a phase of 1 µs or more ends. -/
def holdOver (f : Forecast) : Forecast := { ldhRelease f with ldhHold := false }

def execWatchEnd (a : Fin 16) (s : State) : Out :=
  if foreRuns s a ∧ (s.port a).fore.phase = .watch then
    .next (s.updFore a fun f =>
      { holdOver (watchAdapt f) with phase := .none, large := false, imminent := false })
  else .next s

def execFallHintEnd (a : Fin 16) (s : State) : Out :=
  if foreRuns s a ∧ (s.port a).fore.hint then
    .next (s.updFore a fun f => ldhSet { holdOver f with hint := false } 0)
  else .next s

/-- Eight busy windows and then none for 1 µs (R318). -/
def execFallSignature (a : Fin 16) (s : State) : Out :=
  let f := (s.port a).fore
  if foreRuns s a ∧ 8 ≤ f.busy ∧ f.windowReqs = 0 then
    .next (s.updFore a fun f => fallHint { f with busy := 0 })
  else .next s

def execLdhDeferredChange (a : Fin 16) (s : State) : Out :=
  if s.alive ∧ (s.port a).fore.ldhHold then .next (s.updFore a ldhRelease) else .next s

/-- A grant that has waited 6 µs for pacing is placed with the next credit (R324). -/
def execPaceForced (sl : Fin 17) (t : Fin 64) (s : State) : Out :=
  match s.clocked, s.trk sl t with
  | true, some x =>
    match x.phase, x.req with
    | .grant, some r =>
      if r.port < 16 ∧ x.pacedAt.isSome ∧ grantCredit s x r ∧ !switchHits s sl
          ∧ !paceOpen (s.port r.port).fore then
        let s := s.updFore r.port fun f => { f with paceForced := bump f.paceForced }
        .next (serveStore (placeReady s r.port x))
      else .next s
    | _, _ => .next s
  | _, _ => .next s

/-- The 0b10 point of a large rise, 250 ns before its ramp start (Table 11-2). -/
def execLargeRiseImminent (a : Fin 16) (s : State) : Out :=
  let f := (s.port a).fore
  if foreRuns s a ∧ f.phase = .lead ∧ f.large ∧ !f.imminent then
    .next (s.updFore a fun f => ldhSet { f with imminent := true } 2)
  else .next s

end Sys2Proof.Machine
end

