-- ==== Sys2Proof/Machine/LinkCmds.lean ====
section
/-!
DEFINITION. Meanings of the link rows: Detect and training, replay and Recovery, the capability
exchange, Simmer, the ASSIGN after a RELEASE (02_tlanyx_link.md, 10 R296).
-/
namespace Sys2Proof.Machine

/-! ## Training (R38 to R43) -/

/-- A port that the board may use: every agent port and S3, and Sk with 2^k below N (R264). -/
def portUsed (s : State) (p : Nat) : Bool :=
  decide (p < 16) || p == 19 || decide (2 ^ (p - 16) < s.hubs)

def Rate.gts : Rate → Nat
  | .low => 0 | .g16 => 16 | .g32 => 32 | .g64 => 64

/-- The rate PORT_CONFIG caps a port at (Table 15-7). -/
def capRate (l : Link) : Nat := if l.rateCap = 0 then 64 else if l.rateCap = 1 then 32 else 16

/-- The wirings whose lanes may be reversed (R41): an x8 port, and an agent port wired x4. -/
def reversible (p wired : Nat) : Bool := wired == 8 || (wired == 4 && decide (p < 16))

/-- The lanes of `phys` by their logical numbers: with reversal, physical lane k is logical lane
7 - k of eight, 3 - k of four (R41). -/
def logicalLanes (wired : Nat) (rev : Bool) (phys : BitVec 8) : BitVec 8 :=
  if rev then
    BitVec.ofNat 8 ((upto wired).map fun k => flag (phys.getLsbD (wired - 1 - k)) k).sum
  else phys

/-- The formed width (R40): the widest of 8, 4 and 2 within the wired width whose lanes all trained. -/
def widthOf (wired : Nat) (ok : BitVec 8) : Nat :=
  if 8 ≤ wired ∧ ok = 0xFF then 8
  else if 4 ≤ wired ∧ ok &&& 0x0F = 0x0F then 4
  else if 2 ≤ wired ∧ ok &&& 0x03 = 0x03 then 2 else 0

/-- The formed width of a training; a reversal that R41 does not accept forms none. -/
def formedWidth (p : Nat) (r : Trained) : Nat :=
  if r.reversed && !reversible p r.wired then 0
  else widthOf r.wired (logicalLanes r.wired r.reversed r.lanesOk)

/-- What the hub declares of itself (R67). -/
def hubCap (s : State) (p : Nat) : CapF :=
  { ver := 1, role := if p < 16 then 5 else 4, mem := false, matc := false, fcap := false,
    pwic := false, sets := 0, ways := 0, hubn := s.board.straps.hubId,
    sport := if p < 16 then 0 else BitVec.ofNat 2 (p - 16) }

/-- A training that fails after a receiver was detected: the port is held, LINK_TRAIN reported with a
code of Table 13-5. A port that trains for a wake keeps waiting for R306. -/
def trainFail (s : State) (p code : Nat) : State :=
  let l := (s.port p).link
  let s := raise s 0 none (p + 256 * code)
  let s := holdPort s p l.lastDown
  s.updLink p fun k => { k with wakeTrain := l.wakeTrain }

/-- A training that reaches L0: SEQ, replay buffer and credits start at 0 (R50, R56), the port's CAP is
queued (R71), a degradation is counted and reported (R39). -/
def trainUp (s : State) (p rate width wired : Nat) (r : Trained) : State :=
  let low : Bool := decide (rate < capRate (s.port p).link) || decide (width < wired)
  let s := s.updPort p fun q =>
    { q with tx := { wire := q.tx.wire }, rx := { inbox := q.rx.inbox },
             link := { q.link with st := .l0, rate, width, reversed := r.reversed, degraded := low,
                                   polarity := r.polarity, farCap := none, capAcked := false,
                                   peerAck := false, coeff := none, hs := .idle, refused := false,
                                   exiting := false, exitDue := false,
                                   wakeTrain := q.link.wakeTrain && decide (p < 16) } }
  let s := placeCtl s p (.cap (hubCap s p))
  if low then raise (cntAdd s p 10 1) 1 none (p + 2 ^ 16 * rate + 2 ^ 24 * width) else s

/-- The highest rate advertised: PORT_CONFIG's cap, and in a wake from Dormant the retained rate
(R43). -/
def advRate (l : Link) : Nat :=
  match l.wakeTrain, l.coeff with
  | true, some (r, _) => min r (capRate l)
  | _, _ => capRate l

/-- Whether the hub advertises "equalization bypass to highest rate" and "no equalization needed": in a
wake from Dormant alone, with the coefficients it has kept (Table 02-1, R43). -/
def advOptions (l : Link) : Bool := l.wakeTrain && l.coeff.isSome

/-- The final rate of a training (R38, R43). Where both ends advertise the options and the retained
width forms again, no equalization phase is needed and the rate is the retained one. For another width
there are no coefficients, so the full procedure decides (log 42). -/
def trainedRate (l : Link) (r : Trained) (width : Nat) : Nat :=
  if advOptions l && r.farOpts && decide (l.coeff.map Prod.snd = some width) then advRate l
  else min (Rate.gts r.rate) (advRate l)

/-- A port that Detect may go on with: Down without a receiver, training, or in a state for validation,
which ends in Detect (Table 02-1). -/
def LinkSt.detects : LinkSt → Bool
  | .noReceiver | .training | .loopback | .compliance => true
  | _ => false

def execPortDetect (p : Fin 20) (found : Bool) (s : State) : Out :=
  let l := (s.port p).link
  if s.clocked ∧ portUsed s p ∧ l.st.detects then
    if found then .next (s.updLink p fun l => { l with st := .training })
    else
      let s := match l.retrain with
        | some m => mbFinish s m 8 0x301 []
        | none => s
      .next (s.updLink p fun l => { l with st := .noReceiver, retrain := none })
  else .next s

def execTrainingComplete (p : Fin 20) (r : Trained) (s : State) : Out :=
  let l := (s.port p).link
  if s.clocked ∧ portUsed s p ∧ l.st = .training then
    let width := formedWidth p r
    let rate := trainedRate l r width
    if r.ending = .loopback then .next (s.updLink p fun l => { l with st := .loopback })
    else if r.ending = .compliance then .next (s.updLink p fun l => { l with st := .compliance })
    else if rate = 0 then .next (trainFail s p 1)
    else if width = 0 then .next (trainFail s p 2)
    else .next (trainUp s p rate width r.wired r)
  else .next s

/-! ## Replay and Recovery (R42, R53, R54) -/

/-- The port enters Recovery, other than by a Simmer exit: counted. -/
def enterRecovery (s : State) (p : Nat) : State :=
  cntAdd (s.updLink p fun l => { l with st := .recovery, exiting := false }) p 7 1

/-- A replay from the oldest held flit; the fifth without progress is a Recovery instead (R54). -/
def startReplay (s : State) (p : Nat) (timer : Bool) : State :=
  match (s.port p).tx.replay with
  | [] => s
  | f :: _ =>
    if (s.port p).tx.replays ≥ 4 then enterRecovery s p
    else
      let s := s.updTx p fun t => { t with replayAt := some f.seq, serving := some (f.seq - 1),
                                           replays := t.replays + 1 }
      let s := cntAdd s p 5 1
      if timer then cntAdd s p 6 1 else s

def execReplayTimeout (p : Fin 20) (s : State) : Out :=
  if s.clocked ∧ (s.port p).link.st = .l0 then .next (startReplay s p true) else .next s

/-- The conditions of R72: nothing open, nothing queued, everything acknowledged. -/
def simmerReady (q : Port) : Bool := q.tx.opens.isEmpty && q.tx.q.isEmpty && q.tx.lcq.isEmpty && q.tx.replay.isEmpty

/-- The hub requests Simmer on a port (R72). -/
def requestSimmer (s : State) (p : Nat) : State :=
  let q := s.port p
  if q.link.st = .l0 ∧ q.link.hs = .idle ∧ simmerReady q then
    (s.updTx p fun t => { t with pm := 1, pmSeq := none }).updLink p fun l =>
      { l with hs := .requested false, refused := false }
  else s

/-- A port that comes back to L0 during an entry into Steep is asked for Simmer as the others were (R292). -/
def steepRequest (s : State) (p : Nat) : State :=
  if s.kt.st = .enterSteep then requestSimmer s p else s

/-- After a Recovery every held flit is replayed from the oldest, and the replay count restarts; a
Simmer exit that became a Recovery replays nothing (R54, R74). That replay serves no RPQ, so an RPQ that
names the ACK before the oldest held flit starts a counted replay anew: the model's choice (log 42). A
Simmer request that is outstanding stays so (R50, R72). -/
def execRecoveryExit (p : Fin 20) (s : State) : Out :=
  let l := (s.port p).link
  if l.st ≠ .recovery then .next s
  else
    let s := s.updLink p fun l => { l with st := .l0, exiting := false, exitDue := false, netHigh := false }
    if l.exiting then .next s
    else
      let s := s.updTx p fun t =>
        { t with replayAt := (t.replay.head?).map TxFlit.seq, serving := none, replays := 0 }
      .next (steepRequest s p)

/-- A failed Recovery takes the port Down (R42). LINK_FATAL's DETAIL then carries reason 0, since Table
13-5 names LINK_DOWN reasons alone: the model's choice (log 42). A span port whose Simmer exit began while
the wake net read high, and whose far end is gone, keeps its coefficients and waits for training instead
(R303). -/
def execRecoveryTimeout (p : Fin 20) (s : State) : Out :=
  let q := s.port p
  if q.link.st ≠ .recovery then .next s
  else if q.link.exiting ∧ 16 ≤ p.val ∧ q.link.netHigh then
    .next ((holdPort s p q.link.lastDown).updLink p fun l =>
      { l with st := .noReceiver, coeff := some (q.link.rate, q.link.width), wakeTrain := true })
  else
    let s := raiseFatal s p 0
    .next (downConsequences (holdPort s p q.link.lastDown) p q)

/-- A received LINK_DOWN (R66). -/
def recvDown (s : State) (p : Nat) (reason : BitVec 8) : State :=
  portFault (cntAdd s p 12 1) p reason

def execLinkDown (p : Fin 20) (reason : BitVec 8) (s : State) : Out :=
  if s.up p then .next (recvDown s p reason) else .next s

/-- The far end is idle from L0 without a handshake: Recovery (R66). -/
def execFarEndIdle (p : Fin 20) (s : State) : Out :=
  let l := (s.port p).link
  if l.st = .l0 ∧ l.hs ≠ .entering then .next (enterRecovery s p) else .next s

/-- The far end takes the port into Recovery, and the hub follows (R54). -/
def execFarEndRecovery (p : Fin 20) (s : State) : Out :=
  if (s.port p).link.st = .l0 then .next (enterRecovery s p) else .next s

/-! ## The capability exchange (R67 to R71) -/

/-- CAP_ACK's result: the first check of R68 that fails. -/
def capResult (s : State) (p : Nat) (c : CapF) : BitVec 8 :=
  if c.ver ≠ 1 then 2
  else if p < 16 then (if c.role.toNat ≤ 3 then 0 else 1)
  else if c.role ≠ 4 then 1
  else if p = 19 then (if c.sport = 3 then 0 else 3)
  else if c.hubn.toNat = s.hubId ^^^ 2 ^ (p - 16) ∧ c.sport.toNat = p - 16 then 0 else 3

/-- Both CAP_ACKs of a span port are done: the initial credits of every domain (R71 step 7, R106). -/
def spanGrant (s : State) (p : Nat) : State :=
  let l := (s.port p).link
  if 16 ≤ p ∧ l.capAcked ∧ l.peerAck then s.updRx p fun r => { r with returns := spanCredits } else s

/-- The RELEASEs that follow the first CAP_ACK after a reset (R485). On an agent port they bar credit
returns and the next ASSIGN as every RELEASE does (R70). -/
def resetReleases (s : State) (p : Nat) : State :=
  if (s.port p).mem.released ∨ (16 ≤ p ∧ s.hubs = 1) then s
  else
    let s := allDoms.foldl (fun s d => placeCtl s p (.release (BitVec.ofNat 3 d))) s
    s.updMem p fun m =>
      if p < 16 then { m with released := true, relWait := true, relSeq := none, ignoreCr := true }
      else { m with released := true }

/-- The flit that carries a failing CAP_ACK, before the LINK_DOWN (R68). -/
def ackFlit (q : Port) (result : BitVec 8) (p : Nat) : TxFlit :=
  { idle := false, seq := q.tx.seq, ack := q.rx.seq - 1, ackv := q.rx.any, rpq := q.rx.rpq, pm := 0,
    crs := [], slots := .ctl (.capAck result (BitVec.ofNat 5 p)) :: List.replicate 13 .empty }

/-- The response of LINK_RETRAIN: STATE, RATE, WIDTH (Table 15-13). The states for validation are shown
as training, since the table has no code for them (log 42). -/
def linkBytes (l : Link) : List Byte :=
  let st := match l.st with
    | .noReceiver => 0 | .held => 1 | .training | .loopback | .compliance => 2
    | .l0 => 3 | .simmer => 4 | .recovery => 5
  [BitVec.ofNat 8 st, BitVec.ofNat 8 l.rate,
   BitVec.ofNat 8 (l.width % 16 + flag l.reversed 4 + flag l.degraded 5)]

/-- An accepted CAP: CAP_ACK, after a reset the RELEASEs, on a span port perhaps its credits; a
LINK_RETRAIN completes. -/
def capAccept (s : State) (p : Nat) (c : CapF) : State :=
  let s := s.updLink p fun l => { l with farCap := some c, capAcked := true }
  let s := placeCtl s p (.capAck 0 (BitVec.ofNat 5 p))
  let s := spanGrant (resetReleases s p) p
  match (s.port p).link.retrain with
  | some m => mbFinish (s.updLink p fun l => { l with retrain := none }) m 0 0
      (linkBytes (s.port p).link ++ [0])
  | none => s

/-- A CAP that fails a check: CAP_ACK with the result, PORT_ROLE, LINK_DOWN. -/
def capRefuse (s : State) (p : Nat) (result : BitVec 8) : State :=
  let q := s.port p
  let s := raise s 3 none (p + 256 * result.toNat)
  let reason : BitVec 8 := if result = 2 then 9 else 5
  let s := raiseFatal s p reason
  let f := ackFlit q result p
  let s := s.updTx p fun t => { t with seq := t.seq + 1 }
  downConsequences (sendDownAfter s p [f] reason) p q

def execCap (p : Fin 20) (c : CapF) (s : State) : Out :=
  let s := takeCtl s p (.cap c)
  if !s.up p ∨ !s.clocked then .next s
  else if (s.port p).link.farCap.isSome then .next (fatal s p 1)
  else
    let result := capResult s p c
    if result = 0 then .next (capAccept s p c) else .next (capRefuse s p result)

def execCapAck (p : Fin 20) (result : BitVec 8) (port : BitVec 5) (s : State) : Out :=
  let s := takeCtl s p (.capAck result port)
  if 16 ≤ p.val ∧ s.up p ∧ result = 0 ∧ !(s.port p).link.peerAck then
    .next (spanGrant (s.updLink p fun l => { l with peerAck := true }) p)
  else .next s

/-- A CAP has been received, whether or not its row has run (R71). -/
def capSeen (q : Port) : Bool :=
  q.link.farCap.isSome || q.rx.inbox.any fun x => match x with
    | .ctl (.cap _) => true
    | _ => false

def execCapTimeout (p : Fin 20) (s : State) : Out :=
  if s.clocked ∧ s.up p ∧ !capSeen (s.port p) then .next (fatal (raise s 0 none (p + 256 * 6)) p 6)
  else .next s

/-! ## Simmer (R72 to R74, R296) -/

/-- Entry into Simmer goes on; what waits for the port already is sent after the exit it causes. `req`:
the hub is the requester, and owes the flit that acknowledges the accept (R73). -/
def enterSimmer (s : State) (p : Nat) (req : Bool) : State :=
  let q := s.port p
  s.updLink p fun l =>
    { l with hs := .entering, ackDue := req,
             exitDue := l.exitDue || !q.tx.q.isEmpty || !q.tx.lcq.isEmpty }

/-- An entry into Steep that meets a refusal or a port that leaves Simmer is abandoned (R292). -/
def abandonSteep (s : State) : State :=
  if s.kt.st = .enterSteep then s.updKt fun k => { k with st := runState k } else s

/-- A received request: taken as an accept while the hub's own is outstanding, which it is once its flit
has been sent; else answered under the conditions of R72 and R296. -/
def execSimmerRequest (p : Fin 20) (s : State) : Out :=
  let s := takePm s p 1
  let q := s.port p
  if !s.clocked ∨ q.link.st ≠ .l0 then .next s
  else if q.link.hs = .entering then .next s
  else if q.link.hs ≠ .idle ∧ q.tx.pm ≠ 1 then .next (enterSimmer s p true)
  else if simmerReady q && !hubBusy s then
    .next (enterSimmer (s.updTx p fun t => { t with pm := 2, pmSeq := none }) p false)
  else
    .next ((s.updTx p fun t => { t with pm := 3, pmSeq := none }).updLink p fun l =>
      { l with hs := .idle, refused := true })

def execSimmerAccept (p : Fin 20) (s : State) : Out :=
  let s := takePm s p 2
  if (s.port p).link.st = .l0 ∧ (s.port p).link.hs ≠ .entering then .next (enterSimmer s p true)
  else .next s

/-- The port's request ends as refused. -/
def simmerRefused (s : State) (p : Nat) : State :=
  abandonSteep (s.updLink p fun l => { l with hs := .idle, refused := true })

def execSimmerRefuse (p : Fin 20) (s : State) : Out :=
  let s := takePm s p 3
  match (s.port p).link.hs with
  | .requested _ => .next (simmerRefused s p)
  | _ => .next s

def execSimmerRequestTimeout (p : Fin 20) (s : State) : Out :=
  match (s.port p).link.hs with
  | .requested true => .next (simmerRefused s p)
  | _ => .next s

/-- Nothing of the handshake of R73 is left to send or to be acknowledged: the accept flit of an accepter
has been sent and acknowledged, the requester's acknowledging flit has gone, no data message is open. -/
def handshakeDone (q : Port) : Bool :=
  q.tx.pm == 0 && q.tx.pmSeq.isNone && !q.link.ackDue && q.tx.opens.isEmpty

/-- Both ends are idle: the port is in Simmer; a message that arose meanwhile, or a busy hub, makes the
hub begin the exit (R73, R296). -/
def execSimmerEntryComplete (p : Fin 20) (s : State) : Out :=
  let l := (s.port p).link
  if l.st = .l0 ∧ l.hs = .entering ∧ handshakeDone (s.port p) then
    let due := l.exitDue || hubBusy s
    .next (cntAdd (s.updLink p fun l => { l with st := .simmer, hs := .idle, exitDue := false,
                                                 exiting := due }) p 8 1)
  else .next s

def execPortIdleTimeout (p : Fin 20) (s : State) : Out :=
  if s.clocked ∧ s.kt.portIdle ≠ 0 ∧ !hubBusy s then .next (requestSimmer s p) else .next s

/-- The port is back at L0 (R74). -/
def simmerUp (s : State) (p : Nat) : State :=
  s.updLink p fun l => { l with st := .l0, hs := .idle, exiting := false, exitDue := false, netHigh := false }

/-- The agent of a port has begun a Simmer exit: after quiet time, a trigger (R316). `own` tells that the hub's
exit came first. -/
def exitTrigger (s : State) (p : Nat) (own : Bool) : State :=
  if p < 16 ∧ !own ∧ foreRuns s p ∧ quiet s (s.port p).fore then
    trigger s p false fun f => { f with trigExit := bump f.trigExit }
  else s

/-- The far end leaves electrical idle. Unless it follows the hub's own exit, that wakes the hub and may
start a forecast (R293, R316). -/
def execSimmerExit (p : Fin 20) (s : State) : Out :=
  let own := (s.port p).link.exiting
  if (s.port p).link.st ≠ .simmer ∨ !s.alive then .next s
  else .next (exitTrigger (simmerUp (if own then abandonSteep s else wake s (causePort p)) p) p own)

def execSimmerExitStart (p : Fin 20) (s : State) : Out :=
  let l := (s.port p).link
  if s.clocked ∧ l.st = .simmer ∧ !l.exiting ∧ (l.exitDue ∨ hubBusy s) then
    .next (beginExit s p)
  else .next s

/-- An exit that has not completed within 350 ns continues as Recovery (R74); one that the agent began is a
trigger all the same (R316). -/
def execSimmerExitSlow (p : Fin 20) (s : State) : Out :=
  let own := (s.port p).link.exiting
  if (s.port p).link.st = .simmer ∧ s.alive then
    let s := if own then abandonSteep s else wake s (causePort p)
    let s := s.updLink p fun l => { l with st := .recovery, exiting := true, netHigh := own && l.netHigh }
    .next (exitTrigger (cntAdd s p 9 1) p own)
  else .next s

/-! ## ASSIGN after RELEASE (R70) -/

/-- The flit that carried a port's RELEASE, the last where several wait, has been acknowledged. -/
def releaseAcked (q : Port) : Bool :=
  q.mem.relWait && !(q.tx.lcq.any fun c => match c with
    | .release _ => true
    | _ => false) && (match q.mem.relSeq with
    | some n => !(q.tx.replay.any fun f => f.seq == n)
    | none => false)

def execAssignAfterRelease (a : Fin 16) (s : State) : Out :=
  let q := s.port a
  if releaseAcked q then
    let s := s.updMem a fun m => { m with relWait := false, relSeq := none }
    if q.mem.assignQ.isSome then .next (placeAssign s a true) else .next s
  else .next s

end Sys2Proof.Machine
end

