-- ==== Sys2Proof/Machine/KettleCmds.lean ====
section
/-!
DEFINITION. Meanings of the Kettle rows (10_kettle.md).
-/
namespace Sys2Proof.Machine

/-! ## The PLL (R285, R290) -/

def execPllLock (s : State) : Out :=
  let k := s.kt
  if s.alive ∧ k.pllOn ∧ !k.pllLock then
    let t := s.uptime - k.pllFrom
    .next (s.updKt fun k =>
      { k with pllLock := true, attempts := 0, lastAc := min t 255, maxAc := max k.maxAc (min t 255),
               st := if k.st = .warm ∧ !k.run then .boil else k.st })
  else .next s

/-- An attempt that passes 100 ac is restarted; the fourth in a row is the last (R285). -/
def execPllLockTimeout (s : State) : Out :=
  let k := s.kt
  if s.alive ∧ k.pllOn ∧ !k.pllLock then
    let s := s.updKt fun k => { k with fails := satAdd 8 k.fails 1 }
    if k.attempts ≥ 4 then
      .next (raise (s.updKt fun k => { k with pllOn := false, gaveUp := true }) 32 none k.attempts)
    else .next (s.updKt fun k => { k with attempts := k.attempts + 1, pllFrom := s.uptime })
  else .next s

def execPllLockLoss (s : State) : Out :=
  if s.alive ∧ s.kt.pllLock then
    .next (pllStart (s.updKt fun k =>
      { k with pllLock := false, pllOn := false, st := if k.st = .boil then .warm else k.st }))
  else .next s

/-! ## Steep (R291, R292) -/

def execSteepIdleElapsed (s : State) : Out :=
  if s.alive ∧ (s.kt.st = .boil ∨ s.kt.st = .warm) ∧ steepConds s then
    .next (allPorts.foldl (fun s p => requestSimmer s p) (s.updKt fun k => { k with st := .enterSteep }))
  else .next s

/-- The stop step: clocks, Trowel, ring oscillator and PLL stop; the forecasters' events end (R314). -/
def execStopStep (s : State) : Out :=
  let still := allPorts.all fun p => !s.up p
    || ((s.port p).link.st == .simmer && !(s.port p).link.exiting)
  if s.alive ∧ s.kt.st = .enterSteep ∧ still then
    let s := s.updKt fun k =>
      { k with st := .steep, pllOn := false, pllLock := false, steepIn := satAdd 32 k.steepIn 1 }
    .next (netUpdate (agentPorts.foldl (fun s p => s.updFore p foreEnd) s))
  else .next s

/-! ## Wake triggers (R300, R301, R307) -/

/-- A latched edge of A<n>_WAKE_N: a wake trigger; a consenting agent, which a memory agent always is, has
its ASSIGN repeated (R299, R300), after a wake from Dormant only with DORMANT_ASSIGN (R305). -/
def execWakeNEdge (a : Fin 16) (s : State) : Out :=
  if !s.alive then .next s
  else
    let s := wake s (causePin a)
    let m := (s.port a).mem
    if s.clocked ∧ s.kt.st ≠ .leaveDormant ∧ !(s.port a).link.wakeTrain ∧ s.up a ∧ m.sent.isSome
        ∧ (m.consent ∨ memoryPort s a) then
      .next (placeAssign s a false)
    else .next s

/-- The net has read high up to the fall that wakes the hub. -/
def execWakeNetFall (s : State) : Out :=
  if s.alive ∧ !s.kt.netPull then .next ((wake s causeNet).updKt fun k => { k with net := false })
  else .next s

/-! ## Dormant (R302, R305, R306) -/

/-- One port at Dormant entry: Down without LINK_DOWN, the coefficients kept, the agent's ASSIGN
standing. A port that was training, or in a state for validation, is Down as well and is detected anew after
the wake; a LINK_RETRAIN in progress on it has failed. -/
def dormantPort (s : State) (p : Nat) : State :=
  if s.up p then
    (dropNotices s p).updPort p fun q =>
      let q := clearLink q
      { q with link := { q.link with st := .held, coeff := some (q.link.rate, q.link.width),
                                     upAtDormant := true, farCap := none, capAcked := false,
                                     peerAck := false, hs := .idle, exiting := false, exitDue := false } }
  else
    let s := match (s.port p).link.retrain with
      | some m => mbFinish s m 8 0x301 []
      | none => s
    s.updLink p fun l => { l with st := if l.st.detects then .noReceiver else l.st, upAtDormant := false,
                                  wakeTrain := false, retrain := none }

def execDormantEntry (s : State) : Out :=
  if s.alive ∧ s.kt.st = .steep ∧ !s.kt.netPull then
    let s := allPorts.foldl dormantPort s
    let s := s.updSmb fun b => { b with gated0 := true, gated1 := true }
    .next (s.updKt fun k =>
      { k with st := .dormant, net := true, dormantIn := satAdd 16 k.dormantIn 1 })
  else .next s

/-- The ASSIGN of one agent port after a Dormant wake, once its training and CAP are done. -/
def dormantAssignPort (s : State) (p : Nat) : State :=
  let q := s.port p
  if q.link.wakeTrain ∧ s.up p ∧ q.link.farCap.isSome then
    let s := s.updLink p fun l => { l with wakeTrain := false }
    if q.mem.sent.isSome then placeAssign s p true else s
  else s

/-- Every span port is ready, or the wait has ended: the ASSIGNs go out. The row serves an agent port
that trains later as well. -/
def execDormantAssign (s : State) : Out :=
  if !s.clocked then .next s
  else
    let s := if s.kt.st = .leaveDormant then s.updKt fun k => { k with st := runState k } else s
    .next (agentPorts.foldl dormantAssignPort s)

def execWakeTrainingTimeout (p : Fin 20) (s : State) : Out :=
  if s.alive ∧ (s.port p).link.wakeTrain ∧ !s.up p then
    let s := (s.updKt fun k => { k with wakeFail := satAdd 16 k.wakeFail 1 }).updLink p fun l =>
      { l with wakeTrain := false }
    if p.val < 16 then .next (agentGone (holdPort s p (s.port p).link.lastDown) p)
    else .next (raise s 4 none (p + 2 ^ 28))
  else .next s

/-! ## Droop stretch (R308, R309) -/

/-- One step up, at most to 1.50 times; the first of an episode is counted. -/
def execDroopStretch (s : State) : Out :=
  let k := s.kt
  if s.clocked ∧ k.stretch < 2 then
    if k.stretch = 0 then
      .next (s.updKt fun k =>
        { k with stretch := 1, episode := s.uptime, episodes := satAdd 16 k.episodes 1 })
    else .next (s.updKt fun k => { k with stretch := 2 })
  else .next s

def execDroopEase (s : State) : Out :=
  let k := s.kt
  if s.clocked ∧ k.stretch ≠ 0 then
    if k.stretch = 1 then
      .next (s.updKt fun k =>
        { k with stretch := 0, longest := max k.longest (min (s.uptime - k.episode) 0xFFFF) })
    else .next (s.updKt fun k => { k with stretch := 1 })
  else .next s

/-- The episode's length is more than 800 ac, whatever time the model has counted. -/
def execStretchEpisodeLong (s : State) : Out :=
  if s.clocked ∧ s.kt.stretch ≠ 0 then
    .next (raise s 33 none (min (max 801 (s.uptime - s.kt.episode)) 0xFFFF))
  else .next s

end Sys2Proof.Machine
end

