-- ==== Sys2Proof/Machine/LinkPower.lean ====
section
/-!
DEFINITION. Meanings of the Link and Power commands (15_commands.md R414 to R416, 09 R269, 10 R289, R311,
11 R325, R328).
-/
namespace Sys2Proof.Machine

/-! ## LINK_STATUS (Table 15-12) -/

def portBytes (s : State) (p : Nat) : List Byte :=
  let q := s.port p
  let l := q.link
  linkBytes l ++ (([(match l.farCap with | some c => c.role.toNat | none => 0xFF),
    (match q.mem.dom with | some d => d + 2 ^ 7 | none => 0),
    (if q.mem.dom.isSome then q.mem.dan else 0xFF),
    (match decide (p < 16), l.farCap with | false, some c => c.hubn.toNat + 8 * c.sport.toNat | _, _ => 0),
    l.lastDown.toNat]).map fun v => BitVec.ofNat 8 v)

def doLinkStatus (s : State) (_ : Option Nat) (_ : List Byte) : CmdRes :=
  cmdOk s (allPorts.flatMap (portBytes s))

/-! ## LINK_RETRAIN (R414) -/

/-- The port needs FORCE: its agent is in a started domain, or it is a span port that is up. -/
def retrainRefused (s : State) (p : Nat) : Bool :=
  if p < 16 then (match (s.port p).mem.dom with
    | some d => (s.dom d).st.inService
    | none => false)
  else s.up p

/-- FORCE on the port of an agent in a started domain is a domain-down event, also where the port is not up
or its loss alone would only expel the agent. -/
def retrainDown (s : State) (p : Nat) : State :=
  let refused := decide (p < 16) && retrainRefused s p
  let m := (s.port p).mem
  let s := if s.up p then fatal s p 7 else s
  match refused, m.dom with
  | true, some d => if (s.dom d).st.inService then domainDown s d 2 [m.dan] none else s
  | _, _ => s

/-- The port is taken Down and trains from Detect. A span port that N does not use is not trained
(R264): it ends Down (DEDUCED, log 30). -/
def doLinkRetrain (s : State) (mbx : Option Nat) (pl : List Byte) : CmdRes :=
  let p := byteAt pl 0
  if 19 < p then badValue s
  else if !nbit (byteAt pl 1) 0 && retrainRefused s p then cmdState s 0x302
  else
    let s := retrainDown s p
    if !portUsed s p then cmdFail s 0x301
    else .later (s.updLink p fun l =>
      { l with st := .training, retrain := mbx, coeff := none, wakeTrain := false })

/-! ## LINK_MARGIN (R415) -/

/-- The margins of a receiver are open: either STEPS is reached with fewer errors than ERRLIM, or the
limit is met at a step on the way. -/
def doLinkMargin (s : State) (_ : Option Nat) (pl : List Byte) : CmdRes :=
  let b := byteAt pl
  let p := b 0
  if 19 < p ∨ 7 < b 1 ∨ b 3 = 0 ∨ 127 < b 3 ∨ b 4 = 0 ∨ 63 < b 4 then badValue s
  else if (s.port p).link.st ≠ .l0 ∨ (s.port p).link.rate < 16 then cmdState s 0x303
  else
    let (v, s) := s.nextFree
    let n := v.toNat / 2
    if v.getLsbD 0 then
      cmdOk s (toBytes 1 (1 + n % b 3) ++ toBytes 1 (b 4 + n / 128 % (256 - b 4)) ++ [1, 0])
    else cmdOk s (toBytes 1 (b 3) ++ toBytes 1 (n % b 4) ++ [0, 0])

/-! ## LINK_COUNTERS (R76) -/

def doLinkCounters (s : State) (_ : Option Nat) (pl : List Byte) : CmdRes :=
  let p := byteAt pl 0
  if 19 < p then badValue s
  else
    let r := (upto 16).flatMap fun i => toBytes 4 (tget 0 (s.port p).cnt i)
    cmdOk (if nbit (byteAt pl 1) 0 then s.updPort p fun q => { q with cnt := [] } else s) r

/-! ## SPAN_SPARE (R266, R269) -/

/-- No domain of this hub is in service or on its way out. -/
def calm (s : State) : Bool := allDoms.all fun d => (s.dom d).st != .started && (s.dom d).st != .quiescing

/-- The clause on the domains is read as covering both halves of the first case (DEDUCED, log 30). An edge is kept
by its lower hub. -/
def doSpanSpare (s : State) (_ : Option Nat) (pl : List Byte) : CmdRes :=
  let mode := byteAt pl 0
  let k := byteAt pl 1
  let e := byteAt pl 2
  if 2 < mode ∨ 2 < k ∨ 7 < e then badValue s
  else
    let f := e ^^^ 2 ^ k
    let h := s.home
    let edge := (min e f, k)
    let names := decide (mode = 2) && (s.hubId == e || s.hubId == f) && s.up (16 + k)
    let undoes := decide (h.s3 = 1 ∧ ¬(mode = 1 ∧ h.s3dim = k)) && s.up (16 + h.s3dim) && s.up 19
    if (names || undoes) && !calm s then cmdState s 0x304
    else if mode = 2 ∧ h.s3 = 2 ∧ h.s3edge ≠ some edge then cmdState s 0x305
    else cmdOk (s.updHome fun h => { h with s3 := mode, s3dim := k,
                                            s3edge := if mode = 2 then some edge else none }) []

def execLinkStatus (m : Fin 10) (s : State) : Out := .next (mbRun1 s m 0x300 doLinkStatus)
def execLinkRetrain (m : Fin 10) (s : State) : Out := .next (mbRun1 s m 0x301 doLinkRetrain)
def execLinkMargin (m : Fin 10) (s : State) : Out := .next (mbRun1 s m 0x302 doLinkMargin)
def execLinkCounters (m : Fin 10) (s : State) : Out := .next (mbRun1 s m 0x303 doLinkCounters)
def execSpanSpare (m : Fin 10) (s : State) : Out := .next (mbRun1 s m 0x304 doSpanSpare)

/-! ## POWER_STATE (R311, R416) -/

def ktBytes (s : State) : List Byte :=
  toBytes 4 (ktState s) ++ toBytes 4 s.kt.cause.toNat ++ toBytes 4 (ktRelock s.kt)
    ++ toBytes 4 (ktStretch s.kt) ++ toBytes 8 (ktCnt s.kt) ++ List.replicate 8 0

/-- KT_RELOCK, KT_STRETCH and KT_CNT read 0. -/
def ktClear (k : Kettle) : Kettle :=
  { k with maxAc := 0, fails := 0, lastAc := 0, episodes := 0, longest := 0, steepIn := 0,
           dormantIn := 0, wakeFail := 0 }

/-- OP 0, and an OP out of range. -/
def doPowerRead (s : State) (_ : Option Nat) (pl : List Byte) : CmdRes :=
  if 2 < byteAt pl 0 then badValue s else cmdOk s (ktBytes s)

def doPowerClear (s : State) (_ : Option Nat) (_ : List Byte) : CmdRes :=
  cmdOk (s.updKt ktClear) (ktBytes s)

/-- OP 2: the wake came with the command's acceptance (R293). -/
def doPowerWake (s : State) (_ : Option Nat) (_ : List Byte) : CmdRes := cmdOk s (ktBytes s)

def opOther (pl : List Byte) : Bool := byteAt pl 0 != 1 && byteAt pl 0 != 2

def execPowerStateRead (m : Fin 10) (s : State) : Out := .next (mbRun s m 0x400 opOther noBusy doPowerRead)
def execPowerStateClear (m : Fin 10) (s : State) : Out :=
  .next (mbRun s m 0x400 (formIs 0 1) noBusy doPowerClear)
def execPowerStateWake (m : Fin 10) (s : State) : Out :=
  .next (mbRun s m 0x400 (formIs 0 2) noBusy doPowerWake)

/-! ## POWER_POLICY (R285, R289, R325) -/

/-- The FORM byte of an echo. -/
def echoForm (pl : List Byte) : Nat := byteAt pl 0 &&& 0x81

def hubEcho (s : State) (pl : List Byte) : List Byte := hubPolicyBytes s.kt (echoForm pl)

/-- The hub's policy written. The Kettle tries the PLL again; RUN = 1 stops it (R285, R289, R290). -/
def setHubPolicy (s : State) (pl : List Byte) : State :=
  let f := byteAt pl 1
  let run := nbit f 0
  let s := s.updKt fun k =>
    let k := { k with run, steepEn := nbit f 1, dormantEn := nbit f 2, portIdle := byteAt pl 2,
                      steepIdle := numAt pl 4 2, gaveUp := false }
    if run then { k with pllOn := false, pllLock := false, st := if k.st = .boil then .warm else k.st }
    else k
  netUpdate (if s.kt.pllOn then s else pllStart s)

def doPolicyHub (s : State) (_ : Option Nat) (pl : List Byte) : CmdRes :=
  let idle := numAt pl 4 2
  if nbit (byteAt pl 0) 7 then cmdOk s (hubEcho s pl)
  else if idle = 0 ∨ 4095 < idle then .done 8 1 (hubEcho s pl) s
  else
    let s := setHubPolicy s pl
    cmdOk s (hubEcho s pl)

def portEcho (s : State) (pl : List Byte) : List Byte :=
  let p := byteAt pl 1
  if 15 < p then [] else portPolicyBytes (foreParams (s.port p).fore) (echoForm pl) p

def policyParams (pl : List Byte) : FParams :=
  let b := byteAt pl
  { paceEn := nbit (b 2) 0, strict := nbit (b 2) 1, floor := b 3, ceil := b 4, step := b 5,
    leadMin := b 6, leadMax := b 7, quietT := b 8, burstN := b 9, ovrK := b 10, ovrW := b 11,
    ovrLim := b 12 }

/-- The ranges of Table 11-4. -/
def paramsOk (f : FParams) : Bool :=
  decide (1 ≤ f.floor ∧ f.floor ≤ 126 ∧ f.floor ≤ f.ceil ∧ f.ceil ≤ 127 ∧ 1 ≤ f.step ∧ f.step ≤ 32)
    && decide (1 ≤ f.leadMin ∧ f.leadMin ≤ f.leadMax ∧ f.leadMax ≤ 16 ∧ 1 ≤ f.quietT)
    && decide (1 ≤ f.burstN ∧ f.burstN ≤ 63 ∧ 1 ≤ f.ovrK ∧ f.ovrK ≤ 15 ∧ 1 ≤ f.ovrW ∧ f.ovrW ≤ 64)
    && decide (1 ≤ f.ovrLim ∧ f.ovrLim ≤ f.floor)

/-- L and S come within the new bounds at once; the rest waits for the next window. -/
def setParams (f : Forecast) (x : FParams) : Forecast :=
  { f with parNext := some x, lead := max x.leadMin (min x.leadMax f.lead),
           start := max x.floor (min x.ceil f.start) }

/-- Form 1. The echo shows parameters that wait for the window boundary as in effect (DEDUCED, log 36). -/
def doPolicyPort (s : State) (_ : Option Nat) (pl : List Byte) : CmdRes :=
  let p := byteAt pl 1
  let x := policyParams pl
  if 15 < p then badValue s
  else if nbit (byteAt pl 0) 7 then cmdOk s (portEcho s pl)
  else if !paramsOk x then .done 8 1 (portEcho s pl) s
  else
    let s := s.updFore p fun f => setParams f x
    cmdOk s (portEcho s pl)

def formEven (pl : List Byte) : Bool := byteAt pl 0 % 2 == 0
def formOdd (pl : List Byte) : Bool := byteAt pl 0 % 2 == 1

def execPowerPolicyHub (m : Fin 10) (s : State) : Out :=
  .next (mbRun s m 0x401 formEven (fun s pl => (hubEcho s pl, s)) doPolicyHub)
def execPowerPolicyPort (m : Fin 10) (s : State) : Out :=
  .next (mbRun s m 0x401 formOdd (fun s pl => (portEcho s pl, s)) doPolicyPort)

/-! ## FORECAST_STATUS (R328) -/

/-- PHASE of Table 15-14. -/
def phaseCode (f : Forecast) : Nat :=
  if f.ovr && !f.par.strict then 5 else if f.hint then 4 else f.phase.code

def foreBytes (s : State) (p : Nat) : List Byte :=
  let f := (s.port p).fore
  portPolicyBytes (foreParams f) 1 p
    ++ toBytes 1 (phaseCode f) ++ toBytes 1 f.lead ++ toBytes 1 f.start
    ++ toBytes 1 ((paceLimit f).getD 127)
    ++ (([f.trigExit, f.trigBurst, f.trigPwi, f.droopCnt, f.droopLatched, f.stepsUp, f.stepsDown, f.ovrCount,
          f.ovrBlocked, f.paceForced, f.delayed, f.longest, f.pwiIgnored]).flatMap fun n => toBytes 4 n)
    ++ toBytes 2 f.lastLead.toNat ++ toBytes 1 f.lastLvl.toNat ++ [0]

def foreClear (f : Forecast) : Forecast :=
  { f with trigExit := 0, trigBurst := 0, trigPwi := 0, droopCnt := 0, droopLatched := 0, stepsUp := 0,
           stepsDown := 0, ovrCount := 0, ovrBlocked := 0, paceForced := 0, delayed := 0, longest := 0,
           pwiIgnored := 0 }

def doForecastStatus (s : State) (_ : Option Nat) (pl : List Byte) : CmdRes :=
  let p := byteAt pl 0
  if 15 < p then badValue s
  else cmdOk (if nbit (byteAt pl 1) 0 then s.updFore p foreClear else s) (foreBytes s p)

def execForecastStatus (m : Fin 10) (s : State) : Out := .next (mbRun1 s m 0x402 doForecastStatus)

end Sys2Proof.Machine
end

