-- ==== Sys2Proof/Machine/FaultIntegCmds.lean ====
section
/-!
DEFINITION. Meanings of the Fault, Integrity and Telemetry commands (15_commands.md R417 to R420, R426, Tables
15-15, 15-16 and 15-18).
-/
namespace Sys2Proof.Machine

/-! ## FAULT_READ, FAULT_CLEAR (R417, R418) -/

/-- The domain whose DNA is reported: on a domain mailbox its own, else the one named. -/
def dnaOf (s : State) (m : Option Nat) (dom : Nat) : Nat :=
  let d := match m with
    | some k => if k < 8 then k else dom
    | none => dom
  if d < 8 then (tget none s.flt.dna d).getD 0xFF else 0xFF

/-- The bytes that concern one source and its unit; a reserved source has none (DEDUCED, log 32). -/
def srcBytes (s : State) (src dom : Nat) : List Byte :=
  if srcReserved src then List.replicate 19 0
  else
    let c := s.srcCfg src
    let u := s.unit src (if srcDom src && decide (dom < 8) then dom else 8)
    toBytes 1 (c.cls.code + flag u.esc 2) ++ toBytes 1 c.base.toNat ++ toBytes 1 c.severe.toNat
      ++ toBytes 1 c.escN ++ toBytes 1 c.escW ++ toBytes 1 u.c ++ [0] ++ toBytes 6 u.ts ++ [0, 0]
      ++ toBytes 4 (tget 0 s.flt.events src)

def faultBytes (s : State) (m : Option Nat) (src dom : Nat) : List Byte :=
  toBytes 8 s.flt.status.toNat ++ toBytes 8 s.flt.missed.toNat ++ toBytes 8 (fcSevere s)
    ++ toBytes 4 (fcPins s) ++ [0, 0, 0, 0] ++ toBytes 8 (fcLog s)
    ++ toBytes 1 src ++ srcBytes s src dom
    ++ toBytes 1 (s.flt.pnp.getD 0xFF) ++ toBytes 1 (dnaOf s m dom) ++ [0, 0]

def doFaultRead (s : State) (m : Option Nat) (pl : List Byte) : CmdRes :=
  let src := byteAt pl 0
  let dom := byteAt pl 1
  if 63 < src ∨ (7 < dom ∧ dom ≠ 0xFF) then badValue s else cmdOk s (faultBytes s m src dom)

def doFaultClear (s : State) (_ : Option Nat) (pl : List Byte) : CmdRes :=
  let mask := numAt pl 0 8
  let s := missedClear (statusClear s mask) (numAt pl 8 8)
  if nbit (byteAt pl 16) 0 then
    cmdOk ((upto 64).foldl (fun s i => if nbit mask i then reclass s i else s) s) []
  else cmdOk s []

def execFaultRead (m : Fin 10) (s : State) : Out := .next (mbRun1 s m 0x500 doFaultRead)
def execFaultClear (m : Fin 10) (s : State) : Out := .next (mbRun1 s m 0x501 doFaultClear)

/-! ## FAULT_CONFIG (R362, R363) -/

def classOf (n : Nat) : FClass :=
  match n with
  | 0 => .notice
  | 1 => .serious
  | 2 => .severe
  | _ => .grave

/-- Form 0. A reserved FORM fails with BAD_VALUE; so does class Grave (DEDUCED, log 32). -/
def doFaultSource (s : State) (_ : Option Nat) (pl : List Byte) : CmdRes :=
  let b := byteAt pl
  let src := b 1
  let base := BitVec.ofNat 5 (b 3)
  let sev := BitVec.ofNat 5 (b 4)
  if b 0 ≠ 0 ∨ 63 < src then badValue s
  else if srcReserved src then cmdFail s 0x502
  else if srcGrave src then cmdFail s 0x501
  else if 2 < b 2 ∨ 14 < b 6 then badValue s
  else if (base ||| sev).getLsbD 2 && !srcDom src then cmdFail s 0x503
  else
    let c : SrcCfg := { cls := classOf (b 2), base, severe := sev, escN := b 5, escW := b 6 }
    let s := storeMem s 0xA 0 src none
    cmdOk (reclass (s.updFlt fun f => { f with src := tset f.src src (some c) }) src) []

/-- Form 1: PNP, and one DNA for each domain. -/
def doFaultNotify (s : State) (_ : Option Nat) (pl : List Byte) : CmdRes :=
  let b := byteAt pl
  let none? := fun (v : Nat) => if v = 0xFF then none else some v
  if (15 < b 1 ∧ b 1 ≠ 0xFF) ∨ (allDoms.any fun d => decide (127 < b (2 + d) ∧ b (2 + d) ≠ 0xFF)) then
    badValue s
  else
    cmdOk (s.updFlt fun f => { f with
      pnp := none? (b 1), dna := allDoms.foldl (fun t d => tset t d (none? (b (2 + d)))) f.dna }) []

def execFaultConfigSource (m : Fin 10) (s : State) : Out :=
  .next (mbRun s m 0x502 (formNot 0 1) noBusy doFaultSource)
def execFaultConfigNotify (m : Fin 10) (s : State) : Out :=
  .next (mbRun s m 0x502 (formIs 0 1) noBusy doFaultNotify)

/-! ## ERRLOG_READ (R419) -/

/-- The records of a place: NVM rows whose CRC passes, or the Cosy copy. -/
def logRecords (s : State) (src : Nat) : List (List Byte) :=
  if src = 0 then (upto 512).filterMap (logRow s) else s.flt.copy.map (logBytes s)

/-- On a domain mailbox only records with DOMV and its own domain. -/
def recVisible (m : Option Nat) (r : List Byte) : Bool :=
  match m with
  | some d => decide (8 ≤ d) || (nbit (byteAt r 11) 4 && byteAt r 11 / 32 == d)
  | none => true

def doErrlogRead (s : State) (m : Option Nat) (pl : List Byte) : CmdRes :=
  let start := numAt pl 0 4
  let count := byteAt pl 4
  if count = 0 ∨ 7 < count ∨ 1 < byteAt pl 5 then badValue s
  else
    let rs := (logRecords s (byteAt pl 5)).filter fun r =>
      decide (start ≤ numAt r 0 4) && recVisible m r
    let rs := (rs.insertionSort fun a b => numAt a 0 4 ≤ numAt b 0 4).take count
    cmdOk s (toBytes 1 rs.length ++ [0, 0, 0] ++ toBytes 4 s.flt.nextSeq ++ rs.flatten)

def execErrlogRead (m : Fin 10) (s : State) : Out := .next (mbRun1 s m 0x503 doErrlogRead)

/-! ## INJECT (R420, R378, R345, R343) -/

/-- The collector form. A reaction that resets the chip or enters the Grave state leaves the mailbox
without a completion, since it is no longer BUSY. -/
def doInjectCollector (s : State) (_ : Option Nat) (pl : List Byte) : CmdRes :=
  let b := byteAt pl
  let src := b 1
  if b 0 ≠ 0 ∨ 63 < src then badValue s
  else if srcReserved src then cmdFail s 0x502
  else
    let dom := if nbit (b 2) 7 then some (b 2 % 8) else none
    cmdOk (takeLine s ⟨src, dom, BitVec.ofNat 64 (numAt pl 4 8), true, s.uptime⟩) []

def doInjectChecker (s : State) (_ : Option Nat) (pl : List Byte) : CmdRes :=
  let b := byteAt pl
  if 0xB < b 3 then badValue s
  else cmdOk (injWrite s (BitVec.ofNat 32
    (2 ^ 24 * b 1 + 2 ^ 16 * b 2 + 2 ^ 12 * b 3 + flag (nbit (b 4) 3) 11 + 2 ^ 8 * (b 4 % 8)))) []

/-- The flip form. IT_FLIP_CTL ignores an ARM that names a memory without flip-mask (R343). -/
def doInjectFlip (s : State) (_ : Option Nat) (pl : List Byte) : CmdRes :=
  let b := byteAt pl
  if 0xF < b 1 ∨ 31 < b 3 then badValue s
  else
    let s := s.updInteg fun i => { i with flipData := BitVec.ofNat 64 (numAt pl 8 8),
                                          flipChk := BitVec.ofNat 32 (b 4) }
    cmdOk (flipWrite s (BitVec.ofNat 32
      (2 ^ 31 + 2 ^ 24 * b 1 + flag (nbit (b 2) 7) 23 + 2 ^ 20 * fld (b 2) 6 4
        + flag (nbit (b 2) 3) 19 + 2 ^ 14 * b 3))) []

/-- A form that is neither 1 nor 2. -/
def formNot12 (pl : List Byte) : Bool := byteAt pl 0 != 1 && byteAt pl 0 != 2

def execInjectCollector (m : Fin 10) (s : State) : Out :=
  .next (mbRun s m 0x504 formNot12 noBusy doInjectCollector)
def execInjectChecker (m : Fin 10) (s : State) : Out :=
  .next (mbRun s m 0x504 (formIs 0 1) noBusy doInjectChecker)
def execInjectFlip (m : Fin 10) (s : State) : Out :=
  .next (mbRun s m 0x504 (formIs 0 2) noBusy doInjectFlip)

/-! ## Integrity (R340, R351, R356, Table 15-16) -/

def doScrubConfig (s : State) (_ : Option Nat) (pl : List Byte) : CmdRes :=
  let s := if nbit (byteAt pl 2) 0 then s else s.updInteg fun i => { i with pass := numAt pl 0 2 }
  cmdOk s (toBytes 2 s.integ.pass ++ [0, 0] ++ toBytes 8 (trowelReg s))

/-- ENABLE's reserved bits are ignored; INTERVAL 0 is out of range. -/
def doSelftestStart (s : State) (_ : Option Nat) (pl : List Byte) : CmdRes :=
  let n := numAt pl 2 2
  if n = 0 then badValue s
  else cmdOk (s.updInteg fun i => { i with enable := BitVec.ofNat 3 (byteAt pl 0), interval := n }) []

/-- SP, FLAGS, STEPS and FAILS of a unit. -/
def unitBytes (s : State) (u : Nat) : List Byte :=
  let r := s.rotOf u
  let busy := s.integ.test.any fun t => t.unit == u
  toBytes 1 r.sp ++ toBytes 1 (flag r.up 0 + flag r.noSpare 1 + flag busy 2) ++ toBytes 2 r.steps
    ++ toBytes 1 r.fails ++ [0]

def doSelftestStatus (s : State) (_ : Option Nat) (_ : List Byte) : CmdRes :=
  cmdOk s (toBytes 1 s.integ.enable.toNat ++ [0] ++ toBytes 2 s.integ.interval
    ++ (upto 34).flatMap (unitBytes s))

def Role.code : Role → Nat
  | .inService => 0 | .spare => 1 | .draining => 2 | .testing => 3 | .fenced => 4 | .failed => 5

/-- The role of a physical slice. -/
def roleOf (s : State) (p : Nat) : Role :=
  match tget none s.home.roles p with
  | some r => r
  | none => if (logicalOf s p).isSome then .inService else .spare

/-- ROLE bytes; the logical slice of one that serves none is not stated: a free value (log 32). -/
def roleBytes (s : State) : List Byte × State :=
  (upto 17).foldl (fun (bs, s) p =>
    match logicalOf s p with
    | some k => (bs ++ toBytes 1 ((roleOf s p).code + 16 * k), s)
    | none =>
      let (v, s) := s.nextFree
      (bs ++ toBytes 1 ((roleOf s p).code + 16 * (v.toNat % 16)), s)) (([] : List Byte), s)

def recBytes (r : SliceRec) : List Byte :=
  ([r.phys, r.logical, r.cause, r.doms.toNat, r.outcome]).flatMap (toBytes 1) ++ [0, 0, 0]
    ++ toBytes 6 r.time ++ [0, 0]

def doSliceStatus (s : State) (_ : Option Nat) (_ : List Byte) : CmdRes :=
  let (roles, s) := roleBytes s
  let n := s.home.recs.length
  cmdOk s (roles ++ toBytes 1 n ++ List.replicate 14 0 ++ s.home.recs.flatMap recBytes
    ++ List.replicate (128 - 16 * n) 0)

def execScrubConfig (m : Fin 10) (s : State) : Out := .next (mbRun1 s m 0x600 doScrubConfig)
def execSelftestStart (m : Fin 10) (s : State) : Out := .next (mbRun1 s m 0x601 doSelftestStart)
def execSelftestStatus (m : Fin 10) (s : State) : Out := .next (mbRun1 s m 0x602 doSelftestStatus)
def execSliceStatus (m : Fin 10) (s : State) : Out := .next (mbRun1 s m 0x603 doSliceStatus)

/-! ## Telemetry (R426, R508, Table 15-18) -/

/-- After a clear the highest reading is the present one (DEDUCED, log 32). -/
def doTempRead (s : State) (_ : Option Nat) (pl : List Byte) : CmdRes :=
  let k := s.sens
  let resp := toBytes 2 k.now.toNat ++ toBytes 2 k.max.toNat ++ toBytes 2 tjMax ++ [0, 0]
  cmdOk (if nbit (byteAt pl 0) 0 then { s with sens := { k with max := k.now } } else s) resp

def doStatsRead (s : State) (_ : Option Nat) (pl : List Byte) : CmdRes :=
  let d := byteAt pl 0 % 8
  let resp := (upto 24).flatMap fun i => toBytes 8 (tget 0 (s.dom d).stats i)
  cmdOk (if nbit (byteAt pl 1) 0 then s.updDom d fun q => { q with stats := [] } else s) resp

def execTempRead (m : Fin 10) (s : State) : Out := .next (mbRun1 s m 0x800 doTempRead)
def execStatsRead (m : Fin 10) (s : State) : Out := .next (mbRun1 s m 0x801 doStatsRead)

end Sys2Proof.Machine
end

