-- ==== Sys2Proof/Machine/FwOps.lean ====
section
/-!
DEFINITION. Firmware life: slots, the boot ROM, the live exchange, the replay of the stored configuration
(16_firmware_crc.md R427 to R445, 18_bringup_reset.md R487 to R491).
-/
namespace Sys2Proof.Machine

/-! ## Slots (R421, R438, R439) -/

/-- The image slot that is not running; in the recovery service the one that SELECT does not name. -/
def inactiveSlot (s : State) : Nat :=
  if s.fw.boot = .recovery then 1 - hdrSelect (hdrNow s) else 1 - s.fw.slot % 2

def Verdict.code : Verdict → Nat
  | .valid => 0 | .badContainer => 1 | .badSignature => 2

/-- The base of an image bank in firmware RAM (Table 16-1). -/
def bankBase (b : Nat) : Nat := if b = 0 then 0 else 0x18000

def Firmware.bankOf (w : Firmware) (b : Nat) : Bank := if b = 0 then w.bank0 else w.bank1

def Firmware.setBank (w : Firmware) (b : Nat) (k : Bank) : Firmware :=
  if b = 0 then { w with bank0 := k } else { w with bank1 := k }

/-- The core sent to the ENTRY of a bank, which it runs from now on. -/
def Firmware.jump (w : Firmware) (b : Nat) : Firmware :=
  { w with bank := b, pc := bankBase b + (w.bankOf b).entry }

/-- The body of a slot copied into a bank. -/
def copyBody (s : State) (sl b : Nat) (prot : Bool) : State :=
  s.updFw fun w => w.setBank b ⟨slotBody s sl, slotField s sl 0x14, prot⟩

/-- Row writes of a slot, held until the next header write. -/
def countRows (s : State) (sl n : Nat) : State :=
  s.updFw fun w => if sl = 0 then { w with rowsA := w.rowsA + n } else { w with rowsB := w.rowsB + n }

/-- FW_STAGE's bytes in the slot: the protection of the free bank ends, a verified slot is marked
unverified by a header write first. -/
def stageBytes (s : State) (sl off : Nat) (bs : List Byte) : Bool × State :=
  let s := s.updFw fun w =>
    let free := 1 - w.bank
    { w.setBank free { w.bankOf free with prot := false } with loaded := false }
  let (ok, s) := if slotVerified (hdrNow s) sl then writeHdr s (unmarkSlot sl) else (true, s)
  if ok then nvmWrite (countRows s sl (rowsOf bs.length)) (slotAddr sl + off) bs else (false, s)

/-- FW_VERIFY's response. -/
def verifyBytes (s : State) (sl result : Nat) : List Byte :=
  toBytes 1 sl ++ toBytes 1 result ++ [0, 0] ++ toBytes 4 (slotVersion s sl) ++ toBytes 4 (slotField s sl 0x10)

/-! ## The boot ROM (R437, R438, R488) -/

/-- Table 18-4 step 4 and step 6: the body in bank 0, the slot marked verified, the jump. -/
def bootFrom (s : State) (sl : Nat) : State :=
  let ver := slotVersion s sl
  let s := if slotVerified (hdrNow s) sl then s else (writeHdr s (markSlot sl true ver)).2
  (copyBody s sl 0 false).updFw fun w => { w.jump 0 with boot := .running, slot := sl, version := ver }

def recovery (s : State) : State :=
  (upto 10).foldl (fun s m => if (s.mb m).waiting then mbCheckTail s m else s)
    (s.updFw fun w => { w with boot := .recovery })

/-- The steps of Table 18-4. The boot selection is read from MEM 0xB (R358). -/
def bootRom (s : State) : State :=
  match header s, useCosy s .boot with
  | none, _ => raise s 57 none 0
  | _, (true, s) => s
  | some (_, h), (false, s) =>
    let sl := (hdrSelect h + flag s.board.straps.slotB 0) % 2
    if verifySlot s sl = .valid then bootFrom s sl
    else if s.board.straps.strict ∨ verifySlot s (1 - sl) ≠ .valid then recovery s
    else
      let s := bootFrom s (1 - sl)
      raise (s.updFw fun w => { w with fellBack := true }) 43 none (1 - sl)

/-! ## Firmware timers (R443) -/

/-- A timer after it has fired at time t: a single shot is gone, a periodic one is due at the first time
of its own schedule after t. -/
def timerNext (t : Nat) (x : FwTimer) : Option FwTimer :=
  if x.period = 0 then none
  else if t < x.due then some { x with due := x.due + x.period }
  else some { x with due := x.due + ((t - x.due) / x.period + 1) * x.period }

/-- Timers re-armed: one whose due time has passed fires once. -/
def rearm (t : Nat) (l : List FwTimer) : List FwTimer :=
  l.filterMap fun x => if x.due ≤ t then timerNext t x else some x

/-! ## The end of an exchange (R441, R444, R445) -/

/-- What the image that goes on does: timers re-armed from the handover block, held interrupts taken, the
watchdog restarted. -/
def resume (s : State) : State :=
  let w := s.fw
  let s := s.updFlt fun f => { f with int := f.int || w.heldInt, nmi := f.nmi || w.heldNmi }
  s.updFw fun w => { w with exch := none, heldInt := false, heldNmi := false, wdog := none,
                            timers := rearm s.uptime w.handover, handover := [] }

/-! ## Replay (R491) -/

/-- Opcodes of the records of phase A (Table 18-5). -/
def phaseA (op : Nat) : Bool := ([0x101, 0x102, 0x107, 0x401, 0x502, 0x600, 0x601, 0x304]).contains op

/-- The body of a command that replay may apply: the commands of Table 18-5; any other is skipped. -/
def replayBody (op : Nat) (pl : List Byte) : Option (State → Option Nat → List Byte → CmdRes) :=
  let b := byteAt pl
  match op with
  | 0x101 => some doConfigWrite
  | 0x102 => some doConfigCommit
  | 0x103 => some doConfigLock
  | 0x104 => some doRegionSet
  | 0x106 => some doProximitySet
  | 0x107 => some doPortConfig
  | 0x200 => some doDomainCreate
  | 0x201 => some doDomainStart
  | 0x207 => some (if b 0 = 1 then doAdmitRecord else doAdmitPort)
  | 0x304 => some doSpanSpare
  | 0x401 => some (if b 0 % 2 = 1 then doPolicyPort else doPolicyHub)
  | 0x502 => some (if b 0 = 1 then doFaultNotify else doFaultSource)
  | 0x600 => some doScrubConfig
  | 0x601 => some doSelftestStart
  | _ => none

/-- Another mailbox holds what the record needs beyond the engine, which replay holds. -/
def replayBlocked (s : State) (op : Nat) (pl : List Byte) : Bool :=
  let n := cmdNeeds op pl
  let held := (upto 10).map (heldBy s)
  (n.n && held.any Need.n) || (n.e && held.any Need.e)
    || (n.dom.isSome && held.any fun h => h.dom == n.dom)
    || ((needPorts s op pl).any fun p => (upto 10).any fun j => (heldPorts s j).contains p)

/-- A record applied as a command from MBP; one that fails, or that other mailboxes keep from running,
is skipped. -/
def applyRecord (s : State) (op : Nat) (pl : List Byte) : State :=
  match replayBody op pl with
  | none => s
  | some body =>
    if !lenFits op pl.length pl || replayBlocked s op pl || (op = 0x502 ∧ !s.fw.replayFc) then s
    else
      let s := if mbWakes op pl then wake s causeFw else s
      match body s none pl with
      | .done _ _ _ s => s
      | .later s => s

/-- A replayed start goes on. -/
def replayStarting (s : State) : Bool :=
  allDoms.any fun d => match (s.dom d).start with
    | some j => j.mbx.isNone
    | none => false

/-- The record is a port-form admission whose port has not yet passed step 6 of Table 02-12. -/
def admitWaits (s : State) (op : Nat) (pl : List Byte) : Bool :=
  op == 0x207 && byteAt pl 0 != 1 && pl.length == 8 && decide (byteAt pl 3 < 16)
    && !(s.up (byteAt pl 3) && (s.port (byteAt pl 3)).link.capAcked
      && (s.port (byteAt pl 3)).link.farCap.isSome)

/-- The ports leave the hold at the end of phase A. -/
def endPhaseA (s : State) (op : Nat) : State :=
  if s.fw.released || phaseA op then s else releasePorts s

/-- Replay may take a step. -/
def replays (s : State) : Bool :=
  s.alive && s.fw.boot == .running && s.fw.exch.isNone && !replayStarting s

def replayNext (s : State) (i : Nat) : State := s.updFw fun w => { w with replay := some (i + 1) }

/-- The next record of replay. -/
def replayStep (s : State) (i : Nat) : State :=
  match storedRecord s i with
  | none =>
    let s := if s.fw.released then s else releasePorts s
    s.updFw fun w => { w with replay := none }
  | some (op, pl) =>
    let s := endPhaseA s op
    if admitWaits s op pl then s else replayNext (applyRecord s op pl) i

end Sys2Proof.Machine
end

