-- ==== Sys2Proof/Machine/FwCmds.lean ====
section
/-!
DEFINITION. Meanings of the Firmware commands and of the rows of firmware life (15_commands.md R421 to R425,
16_firmware_crc.md, 18 R491).
-/
namespace Sys2Proof.Machine

/-! ## FW_STAGE, FW_VERIFY, FW_COMMIT_SLOT, NVM_READ -/

def doFwStage (s : State) (_ : Option Nat) (pl : List Byte) : CmdRes :=
  let off := numAt pl 0 4
  let count := numAt pl 4 2
  let sl := inactiveSlot s
  if count = 0 ∨ 224 < count ∨ off % 32 ≠ 0 then badValue s
  else if slotSize < off + count then cmdFail s 0x706
  else if sl = hdrSelect (hdrNow s) then cmdState s 0x704
  else
    let (ok, s) := stageBytes s sl off (bytesAt pl 8 count)
    if ok then cmdOk s [] else cmdFail s 0x116

/-- Verification, the copy into the free bank where the hub runs an image, the header (R439, R432). A failure
leaves the free bank as it was. -/
def doFwVerify (s : State) (_ : Option Nat) (_ : List Byte) : CmdRes :=
  let sl := inactiveSlot s
  let v := verifySlot s sl
  let resp := verifyBytes s sl v.code
  let (ok, s) := writeHdr s (markSlot sl (v == .valid) (slotVersion s sl))
  let s := if v = .valid ∧ s.fw.boot = .running then
      (copyBody s sl (1 - s.fw.bank) true).updFw fun w => { w with loaded := true }
    else s
  match v with
  | .valid => if ok then .done 0 0 resp s else .done 8 0x116 resp s
  | .badContainer => .done 8 0x701 resp s
  | .badSignature => .done 8 0x702 resp s

/-- The response that goes with BUSY: the verification has not run, so RESULT is a free value. -/
def verifyBusy (s : State) (_ : List Byte) : List Byte × State :=
  let (v, s) := s.nextFree
  (verifyBytes s (inactiveSlot s) (v.toNat % 3), s)

/-- Accepted: the exchange waits for the commands BUSY on other mailboxes (R425). -/
def doFwActivate (s : State) (mbx : Option Nat) (_ : List Byte) : CmdRes :=
  let m := mbx.getD 9
  if !s.fw.loaded then cmdState s 0x703
  else if slotXabi s (inactiveSlot s) ≠ slotXabi s s.fw.slot then cmdFail s 0x705
  else
    let waits := (upto 10).filter fun j => j != m && (s.mb j).st == .busy
    .later (s.updFw fun w => { w with exch := some { mbx := m, waits, begun := false } })

def doFwCommit (s : State) (_ : Option Nat) (pl : List Byte) : CmdRes :=
  let sl := byteAt pl 0
  if 1 < sl then badValue s
  else if !slotVerified (hdrNow s) sl then cmdState s 0x703
  else
    let (ok, s) := writeHdr s fun h =>
      { h with slots := setFld h.slots 0 0 sl, minSvn := max h.minSvn (slotSvn s sl) }
    if ok then cmdOk s [] else cmdFail s 0x116

/-- Base and size of an NVM area (Table 16-3). -/
def nvmArea (a : Nat) : Nat × Nat :=
  match a with
  | 0 => (0, 0x18000)
  | 1 => (0x18000, 0x18000)
  | 2 => (0x30000, 0xC000)
  | _ => (0x3C000, 0x4000)

def doNvmRead (s : State) (_ : Option Nat) (pl : List Byte) : CmdRes :=
  let a := byteAt pl 0
  let off := numAt pl 4 4
  let n := numAt pl 8 2
  if 3 < a ∨ n = 0 ∨ 256 < n then badValue s
  else if (nvmArea a).2 < off + n then cmdFail s 0x706
  else
    let (bs, s) := nvmBytes s ((nvmArea a).1 + off) n
    cmdOk s bs

def execFwStage (m : Fin 10) (s : State) : Out := .next (mbRun1 s m 0x700 doFwStage)
def execFwVerify (m : Fin 10) (s : State) : Out := .next (mbRun s m 0x701 anyForm verifyBusy doFwVerify)
def execFwActivate (m : Fin 10) (s : State) : Out := .next (mbRun1 s m 0x702 doFwActivate)
def execFwCommitSlot (m : Fin 10) (s : State) : Out := .next (mbRun1 s m 0x703 doFwCommit)
def execNvmRead (m : Fin 10) (s : State) : Out := .next (mbRun1 s m 0x704 doNvmRead)

/-! ## The watchdog (R429) -/

/-- The watchdog's period in ac. -/
def wdogPeriod : Nat := 8000000

/-- An expiry at most one period after the last is the second consecutive one, and makes a chip reset; one
that comes later shows a restart between (DEDUCED, log 26). The program counter is a free value. -/
def execWatchdogExpiry (s : State) : Out :=
  if !s.alive then .next s
  else if s.fw.wdog.any fun t => decide (s.uptime ≤ t + wdogPeriod) then .next (chipReset s)
  else
    let (v, s) := s.nextFree
    .next (raise (s.updFw fun w => { w with wdog := some s.uptime }) 40 none (v.toNat % 2 ^ 32))

/-! ## The live exchange (R441 to R445) -/

/-- Every command BUSY at the acceptance has completed: steps 1 to 3, within 5,516 ac. An SMBC transaction
in progress is abandoned with a STOP, the timers go into the handover block, the core moves to the new
bank's ENTRY and the watchdog is restarted. -/
def execExchangeBegin (s : State) : Out :=
  match s.alive, s.fw.exch with
  | true, some e =>
    if !e.begun ∧ (e.waits.all fun j => (s.mb j).st != .busy) then
      let s := s.updSmb fun b => { b with polling := none, retries := 0 }
      .next (s.updFw fun w => { w.jump (1 - w.bank) with
        exch := some { e with begun := true }, handover := w.timers, timers := [], wdog := none })
    else .next s
  | _, _ => .next s

/-- The old image goes on; the new slot is marked unverified and its body serves no further
FW_ACTIVATE. -/
def execExchangeFallback (pc : BitVec 32) (trapCause : Option (BitVec 8)) (s : State) : Out :=
  match s.alive, s.fw.exch with
  | true, some e =>
    if e.begun then
      let s := match trapCause with
        | some c => raise s 41 none (pc.toNat + 2 ^ 32 * c.toNat)
        | none => s
      let s := resume s
      let s := raise s 42 none 3
      let s := (writeHdr s (unmarkSlot (inactiveSlot s))).2
      .next (mbFinish (s.updFw fun w => { w.jump (1 - w.bank) with loaded := false }) e.mbx 8 0x705 [])
    else .next s
  | _, _ => .next s

/-- Step 5 ends: the new image runs from the other bank. -/
def execExchangeComplete (s : State) : Out :=
  match s.alive, s.fw.exch with
  | true, some e =>
    if e.begun then
      let sl := inactiveSlot s
      let ver := slotVersion s sl
      let s := resume s
      let s := s.updFw fun w => { w with slot := sl, version := ver, loaded := false,
                                         exchanges := bump w.exchanges }
      .next (mbFinish s e.mbx 0 0 (toBytes 4 ver ++ toBytes 1 sl ++ [0, 0, 0]))
    else .next s
  | _, _ => .next s

/-- A firmware timer fires; none fires while an exchange runs (R443). -/
def execFirmwareTimer (id : Nat) (s : State) : Out :=
  if s.alive ∧ s.fw.boot = .running ∧ !(s.fw.exch.any fun e => e.begun) then
    .next (s.updFw fun w => { w with
      timers := w.timers.filterMap fun x => if x.id = id then timerNext s.uptime x else some x })
  else .next s

/-! ## Replay (R491) -/

def execReplayRecord (s : State) : Out :=
  match replays s, s.fw.replay with
  | true, some i => .next (replayStep s i)
  | _, _ => .next s

/-- The admission that has waited 150 ms for its port fails and is skipped. -/
def execReplayAdmitTimeout (s : State) : Out :=
  match replays s, s.fw.replay with
  | true, some i => match storedRecord s i with
    | some (op, pl) => if s.fw.released && admitWaits s op pl then .next (replayNext s i) else .next s
    | none => .next s
  | _, _ => .next s

/-! ## The end of down processing (R258) -/

/-- Agents whose ports are Down are expelled. -/
def execDownProcessingComplete (d : Fin 8) (s : State) : Out :=
  if s.alive ∧ (s.dom d).downing then
    let s := s.updDom d fun q => { q with downing := false }
    let gone := s.dans d fun a => match a.port with
      | some p => a.hub == s.hubId && !s.up p
      | none => false
    .next (expelAll s d gone)
  else .next s

end Sys2Proof.Machine
end

