-- ==== Sys2Proof/Machine/CrcCmds.lean ====
section
/-!
DEFINITION. Meanings of the rows of the CRC units (16_firmware_crc.md R446 to R449).
-/
namespace Sys2Proof.Machine

/-- The absorption in progress on a unit ends: the requester of its data write has its CMP. -/
def crcFinish (s : State) (u : Nat) : State :=
  let c := s.crcu u
  let s := s.setCrc u (crcAbsorb c)
  match c.answer with
  | some r => aperWrote s r
  | none => s

/-- A direct write of a unit's register: a unit that is absorbing takes no access (R449). -/
def crcDirect (s : State) (u o v : Nat) : State :=
  if s.alive && (s.crcu u).busy.isEmpty then s.setCrc u (crcWrite (s.crcu u) o v none) else s

def execCrcCtl (u : Fin 2) (v : BitVec 32) (s : State) : Out := .next (crcDirect s u 0 v.toNat)
def execCrcData8 (u : Fin 2) (v : BitVec 8) (s : State) : Out := .next (crcDirect s u 0x20 v.toNat)
def execCrcData16 (u : Fin 2) (v : BitVec 16) (s : State) : Out := .next (crcDirect s u 0x24 v.toNat)
def execCrcData32 (u : Fin 2) (v : BitVec 32) (s : State) : Out := .next (crcDirect s u 0x28 v.toNat)

def execCrcAbsorbDone (u : Fin 2) (s : State) : Out :=
  if s.alive && !(s.crcu u).busy.isEmpty then .next (crcFinish s u) else .next s

end Sys2Proof.Machine
end

