-- ==== Sys2Proof/Machine/FlitCmds.lean ====
section
/-!
DEFINITION. Meanings of FLIT_RECEIVE and FLIT_TRANSMIT (02_tlanyx_link.md R44 to R63, 03 R84).
-/
namespace Sys2Proof.Machine

/-! ## What a sender may send (R84, the "Sent by" columns of 03) -/

/-- The order of strength (R58): a larger number is stronger. Link control is above all. -/
def rankOf : Cls → Nat
  | .req => 0 | .wb => 1 | .mrq => 2 | .snp => 3 | .dat => 4 | .rsp => 5

/-- Whether the far end of a port may send a message. Before an agent's CAP its role is unknown. -/
def mayFar (span : Bool) (cap : Option CapF) (m : Msg) : Bool :=
  if span then (match m with | .hnt .. => false | _ => true)
  else
    let caching : Bool := match cap with | some c => c.role == 0 || c.role == 1 | none => true
    let io : Bool := match cap with | some c => c.role == 2 | none => true
    let memory : Bool := match cap with | some c => c.role == 3 || c.mem | none => true
    match m with
    | .req .rds _ _ _ | .req .rdo _ _ _ | .req .upg _ _ _ => caching
    | .req .. | .pmk .. => caching || io
    | .wb .. | .ans .. | .dat .dfw _ _ => caching
    | .mcp .. | .dat .dmm _ _ => memory
    | _ => false

/-! ## Acknowledgement and replay at the transmitter (R52 to R54, R72) -/

/-- Every held flit up to and including ACK is freed; an ACK that covers the flit of a Simmer request
starts its answer time. -/
def ackTo (s : State) (p : Nat) (ack : BitVec 10) : State :=
  let t := (s.port p).tx
  match t.replay.findIdx? fun f => f.seq == ack with
  | none => s
  | some i =>
    let gone := t.replay.take (i + 1)
    let held := t.replay.drop (i + 1)
    let at_ := match t.replayAt with
      | none => none
      | some n => if held.any fun f => f.seq == n then some n else (held.head?).map TxFlit.seq
    let req : Bool := match t.pmSeq with
      | some n => gone.any fun f => f.seq == n
      | none => false
    let s := s.updTx p fun t =>
      { t with replay := held, replayAt := at_, serving := if at_.isNone then none else t.serving,
               replays := 0, pmSeq := if req then none else t.pmSeq }
    s.updLink p fun l => match l.hs with
      | .requested _ => if req then { l with hs := .requested true } else l
      | _ => l

/-- A replay request: ignored while its ACK value is being served (R53). -/
def rpqIn (s : State) (p : Nat) (ack : BitVec 10) : State :=
  if (s.port p).tx.serving = some ack then s else startReplay s p false

/-- The receiver asks for a replay until the expected flit comes (R51); counted once. -/
def wantReplay (s : State) (p : Nat) : State :=
  if (s.port p).rx.rpq then s else cntAdd (s.updRx p fun r => { r with rpq := true }) p 4 1

/-! ## The slots of an accepted flit (R46, R58 to R64) -/

/-- What has been found while the slots are gone through: reasons of Table 02-9 that apply, open
messages (the one opened last in front), credits granted, messages delivered. -/
structure Walk where
  rx      : Rx
  bad     : List Nat
  opens   : List OpenMsg
  granted : Tbl Nat
  out     : List Delivered

def Walk.flaw (w : Walk) (r : Nat) : Walk := { w with bad := w.bad ++ [r] }

/-- Messages in slots before the first flaw are delivered, since what has been delivered stands (R66);
after a flaw, which may be one of the credit returns, none is: the model's choice (log 42). -/
def Walk.deliver (w : Walk) (d : Delivered) : Walk :=
  if w.bad.isEmpty then { w with out := w.out ++ [d] } else w

/-- The state a forward mode grants the requester (Table 03-8). -/
def modeGst (m : BitVec 2) : BitVec 2 := m + 1

/-- A DFW whose GST does not fit the mode of its SNF (R98), judged by the SNFs placed on an agent port. -/
def Rx.badGst (r : Rx) (m : Msg) : Bool :=
  match m with
  | .dat .dfw f _ => r.snfs.any fun x => x.htag == f.htag && x.laddr == f.laddr
      && modeGst x.fmode != f.gst
  | _ => false

/-- An atomic result with a nonzero byte outside its operand (R98), judged by the MATs placed on an
agent port. -/
def Rx.badResult (r : Rx) (m : Msg) : Bool :=
  match m with
  | .dat .dmm f d => f.res && r.mats.any fun x => x.htag == f.htag && x.laddr == f.laddr
      && (d &&& ~~~(maskBits (rangeMask x.ofs.toNat (aszBytes x.asz)) 64)) != 0
  | _ => false

/-- A slot that starts a message: a control slot, or a data header of tag `tag`. -/
def Walk.start (w : Walk) (p : Nat) (cap : Option CapF) (seq : BitVec 10) (tag : Option Nat)
    (bits : BitVec 128) : Walk :=
  match decodeSlot tag.isSome bits with
  | none => w.flaw 1
  | some m =>
    let k := msgKey p m
    let w := if mayFar (decide (16 ≤ p)) cap m && !m.reservedValue && !w.rx.badGst m then w
      else w.flaw 1
    let weak := w.opens.any fun o => decide (rankOf m.cls ≤ rankOf o.msg.cls)
    let dup := w.opens.any fun o => some o.tag == tag
    let w := if weak || dup then w.flaw 2 else w
    let w := if tget 0 w.granted k = 0 then w.flaw 4 else w
    let w := { w with granted := tset w.granted k (tget 0 w.granted k - 1) }
    match tag with
    | none => w.deliver (.msg m)
    | some t => { w with opens := ⟨t, seq, m, 0⟩ :: w.opens }

/-- A data slot (R59, R61). -/
def Walk.data (w : Walk) (tag : Nat) (bits : BitVec 128) : Walk :=
  match w.opens with
  | [] => w.flaw 2
  | o :: rest =>
    if o.tag ≠ tag then w.flaw 2
    else
      let m := o.msg.withData (setChunk o.msg.data o.done bits)
      if o.done = 3 then
        (if w.rx.badResult m then { w with opens := rest }.flaw 1 else { w with opens := rest }).deliver
          (.msg m)
      else { w with opens := { o with msg := m, done := o.done + 1 } :: rest }

/-- One slot by its kind (Table 02-4). -/
def Walk.slot (p : Nat) (cap : Option CapF) (seq : BitVec 10) (w : Walk) (kind : Nat)
    (bits : BitVec 128) : Walk :=
  if kind = 0 then (if bits = 0 then w else w.flaw 2)
  else if kind = 1 then
    match decodeCtl (decide (16 ≤ p)) bits with
    | some c => w.deliver (.ctl c)
    | none => w.flaw 1
  else if kind = 2 then w.start p cap seq none bits
  else if 3 ≤ kind ∧ kind ≤ 6 then w.start p cap seq (some (kind - 3)) bits
  else if 8 ≤ kind ∧ kind ≤ 11 then w.data (kind - 8) bits
  else w.flaw 1

def Walk.slots (p : Nat) (cap : Option CapF) (seq : BitVec 10) (f : RawFlit) (w : Walk) : Walk :=
  (upto 14).foldl (fun w i =>
    Walk.slot p cap seq w (f.kind i).toNat ((f.slots[i]?).getD 0)) w

/-- Messages still open past the limit of R60. -/
def Walk.late (w : Walk) (seq : BitVec 10) : Walk :=
  if w.opens.any fun o => decide (3 ≤ (seq - o.seq).toNat) then w.flaw 3 else w

/-- The lowest reason found, 0 for none. -/
def Walk.reason (w : Walk) : Nat := w.bad.foldl (fun a b => if a = 0 then b else min a b) 0

/-! ## Credit returns (R55, R56, R70) -/

/-- The counter a credit return raises. -/
def crSlot (p : Nat) (c : BitVec 16) : Nat := if p < 16 then crCls c else 8 * crDom c + crCls c

/-- The reasons of Table 02-9 that a credit return gives: a reserved class 0x01, a count of 0 or a
counter above 4,095 0x04. -/
def crFlaws (p : Nat) (t : Tbl Nat) (c : BitVec 16) : List Nat :=
  if !crValid c then []
  else (if 5 < crCls c then [1] else [])
    ++ (if crCnt c = 0 ∨ 4095 < tget 0 t (crSlot p c) + crCnt c then [4] else [])

/-- The counters after a credit return. -/
def creditIn (p : Nat) (t : Tbl Nat) (c : BitVec 16) : Tbl Nat :=
  if crValid c && (crFlaws p t c).isEmpty then tset t (crSlot p c) (tget 0 t (crSlot p c) + crCnt c)
  else t

/-! ## FLIT_RECEIVE -/

/-- The reason of a LINK_DOWN slot in a flit. -/
def downSlot (f : RawFlit) : Option (BitVec 8) :=
  (upto 14).findSome? fun i =>
    if f.kind i = 1 then match decodeCtl true ((f.slots[i]?).getD 0) with
      | some (.linkDown r) => some r
      | _ => none
    else none

/-- An accepted payload flit (R51): PM, credit returns, slots; then the checks of R63. -/
def acceptFlit (s : State) (p : Nat) (f : RawFlit) : State :=
  let q := s.port p
  let s := s.updRx p fun r => { r with seq := r.seq + 1, any := true, rpq := false }
  let s := if f.pm = 0 then s else s.updRx p fun r => { r with inbox := r.inbox ++ [.pm f.pm] }
  let c0 := q.tx.credits
  let c1 := creditIn p c0 (f.cr 0)
  let s := if q.mem.ignoreCr then s
    else s.updTx p fun x => { x with credits := creditIn p c1 (f.cr 1) }
  let w : Walk := { rx := q.rx, opens := q.rx.opens, granted := q.rx.granted, out := [],
                    bad := if q.mem.ignoreCr then []
                      else crFlaws p c0 (f.cr 0) ++ crFlaws p c1 (f.cr 1) }
  let w := (w.slots p q.link.farCap f.seq f).late f.seq
  let s := s.updRx p fun r =>
    { r with opens := w.opens, granted := w.granted, inbox := r.inbox ++ w.out }
  if w.reason = 0 then s else fatal s p (BitVec.ofNat 8 w.reason)

/-- ACK and RPQ of an idle flit or of an accepted one (R52, R53). -/
def dlfIn (s : State) (p : Nat) (f : RawFlit) : State :=
  let s := if f.ackv then ackTo s p f.ack else s
  if f.rpq then rpqIn s p f.ack else s

/-- A flit with a good CRC and a defined FK, without LINK_DOWN (R51). Nothing of a discarded payload flit
is applied, its ACK and RPQ included (log 42). -/
def goodFlit (s : State) (p : Nat) (f : RawFlit) : State :=
  let back := ((s.port p).rx.seq - f.seq).toNat
  if f.fk = 1 then dlfIn s p f
  else if back = 0 then
    let s := acceptFlit s p f
    if (s.port p).link.st = .l0 then dlfIn s p f else s
  else if back ≤ 64 then cntAdd s p 3 1
  else wantReplay (cntAdd s p 2 1) p

def execFlitReceive (p : Fin 20) (f : RawFlit) (s : State) : Out :=
  if f.slots.length ≠ 14 then .fault .illFormed
  else if !s.clocked ∨ (s.port p).link.st ≠ .l0 then .next s
  else
    let s := if f.fecCorr = 0 then s else cntAdd s p 0 f.fecCorr
    if !f.crcOk then
      let s := cntAdd s p 1 1
      .next (if f.fk = 1 then s else wantReplay s p)
    else if 2 ≤ f.fk.toNat then .next (fatal s p 1)
    else match (if f.fk = 0 then downSlot f else none) with
      | some r => .next (recvDown s p r)
      | none => .next (goodFlit s p f)

/-! ## FLIT_TRANSMIT (R52, R53, R58 to R62) -/

/-- The flit being filled: what is left of the transmitter's queues, and the slots so far. -/
structure Fill where
  lcq     : List LinkCtl
  q       : List Msg
  credits : Tbl Nat
  opens   : List OpenMsg
  slots   : List TxSlot

/-- A WRP in the queue whose PMK has been placed: no other REQ may stand between the two (R89). -/
def loneWrp (q : List Msg) : Option Msg :=
  q.find? fun m => match m with
    | .req .wrp h f _ => !(q.any fun n => match n with
        | .pmk h' st _ => h'.tid == h.tid && h'.dan == h.dan && h'.dom == h.dom && st == f.stream
        | _ => false)
    | _ => false

/-- The first message of a class that holds its credit; messages of one credit keep their order. -/
def pickMsg (p : Nat) (credits : Tbl Nat) (c : Cls) : List Nat → List Msg → Option Msg
  | _, [] => none
  | blocked, m :: rest =>
    if m.cls = c ∧ !blocked.contains (msgKey p m) then
      if 0 < tget 0 credits (msgKey p m) then some m
      else pickMsg p credits c (msgKey p m :: blocked) rest
    else pickMsg p credits c blocked rest

/-- A queue without the snoops that an RSP or DAT ahead of them bars (R202). -/
def unbarred : List Msg → List Msg → List Msg
  | _, [] => []
  | ahead, m :: rest =>
    let bar : Bool := match m with
      | .snp f => ahead.any (barsSnoop f)
      | _ => false
    if bar then unbarred ahead rest else m :: unbarred (m :: ahead) rest

def pickReq (p : Nat) (f : Fill) : Option Msg :=
  match loneWrp f.q with
  | some m => if tget 0 f.credits (msgKey p m) = 0 then none else some m
  | none => pickMsg p f.credits .req [] f.q

/-- A message placed in the next slot. -/
def Fill.place (f : Fill) (p : Nat) (seq : BitVec 10) (m : Msg) : Fill :=
  let k := msgKey p m
  let tag := ((upto 4).find? fun t => !(f.opens.any fun o => o.tag == t)).getD 0
  { f with q := f.q.erase m, credits := tset f.credits k (tget 0 f.credits k - 1),
           opens := if m.isData then ⟨tag, seq, m, 0⟩ :: f.opens else f.opens,
           slots := f.slots ++ [.start tag m] }

/-- The next data slot of the message opened last. -/
def Fill.goOn (f : Fill) : Fill :=
  match f.opens with
  | [] => { f with slots := f.slots ++ [.empty] }
  | o :: rest =>
    let x : TxSlot := .data o.tag o.msg.hdr.dom.toNat (lineChunk o.msg.data o.done)
    { f with slots := f.slots ++ [x],
             opens := if o.done = 3 then rest else { o with done := o.done + 1 } :: rest }

/-- A control or header slot may start: its class is stronger than every open message's, and a header
leaves three places of the replay buffer free (R58, R60). -/
def mayStart (f : Fill) (room : Bool) (m : Msg) : Bool :=
  (f.opens.all fun o => decide (rankOf o.msg.cls < rankOf m.cls))
    && (!m.isData || (room && decide (f.opens.length < 4)))

/-- One slot filled in the order of R62. `only` allows nothing but open data (R73). -/
def Fill.step (p : Nat) (seq : BitVec 10) (room only : Bool) (f : Fill) : Fill :=
  let last := f.opens.any fun o => decide (3 ≤ (seq - o.seq).toNat)
  if last || (only && !f.opens.isEmpty) then f.goOn
  else if only then { f with slots := f.slots ++ [.empty] }
  else match f.lcq with
    | c :: rest => { f with lcq := rest, slots := f.slots ++ [.ctl c] }
    | [] =>
      match (pickMsg p f.credits .rsp [] f.q).filter (mayStart f room) with
      | some m => f.place p seq m
      | none =>
        if !f.opens.isEmpty then f.goOn
        else
          let next := ([pickMsg p f.credits .dat [] f.q, pickMsg p f.credits .snp [] (unbarred [] f.q),
            pickMsg p f.credits .mrq [] f.q, pickMsg p f.credits .wb [] f.q, pickReq p f]).findSome?
            fun m => m.filter (mayStart f room)
          match next with
          | some m => f.place p seq m
          | none => { f with slots := f.slots ++ [.empty] }

def TxSlot.isEmpty : TxSlot → Bool
  | .empty => true
  | _ => false

/-- Up to two credit returns of at most 511 each, and what stays owed. Where more than two counters are
owed, the first nonzero ones in the order of the table go: the model's choice (log 42). -/
def takeReturns (p : Nat) : Nat → Tbl Nat → List CreditRet × Tbl Nat
  | 0, t => ([], t)
  | n + 1, t => match t.find? fun e => e.2 != 0 with
    | none => ([], t)
    | some (k, v) =>
      let c := min v 511
      let cr : CreditRet := if p < 16 then ⟨k, 0, c⟩ else ⟨k % 8, k / 8, c⟩
      let (rest, t) := takeReturns p n (tset t k (v - c))
      (cr :: rest, t)

def crKey (p : Nat) (c : CreditRet) : Nat := if p < 16 then c.cls else 8 * c.dom + c.cls

/-- An idle flit (R49). -/
def idleFlit (q : Port) : TxFlit :=
  { idle := true, seq := 0, ack := q.rx.seq - 1, ackv := q.rx.any, rpq := q.rx.rpq, pm := 0,
    crs := [], slots := List.replicate 14 .empty }

/-- A held flit sent again, with the acknowledgement of the moment (R52). -/
def resend (s : State) (p : Nat) (f : TxFlit) (rest : List TxFlit) : State :=
  let q := s.port p
  let next := (rest.head?).map TxFlit.seq
  s.updTx p fun t =>
    { t with wire := [{ f with ack := q.rx.seq - 1, ackv := q.rx.any, rpq := q.rx.rpq }],
             replayAt := next, serving := if next.isNone then none else t.serving }

/-- A Simmer request or accept that is about to be sent while R72 no longer allows it: the request is
not made, the accept becomes a refusal. -/
def settlePm (s : State) (p : Nat) : State :=
  let q := s.port p
  if simmerReady q then s
  else if q.tx.pm = 1 then
    (s.updTx p fun t => { t with pm := 0 }).updLink p fun l => { l with hs := .idle }
  else if q.tx.pm = 2 then
    (s.updTx p fun t => { t with pm := 3 }).updLink p fun l =>
      { l with hs := .idle, refused := true, exitDue := false }
  else s

/-- A new flit: filled, sequenced and held, or an idle flit where it would carry nothing (R49, R60). -/
def newFlit (s : State) (p : Nat) : State :=
  let s := settlePm s p
  let q := s.port p
  let t := q.tx
  let f0 : Fill := { lcq := t.lcq, q := t.q, credits := t.credits, opens := t.opens, slots := [] }
  let room := decide (t.replay.length ≤ 60)
  let f := (upto 14).foldl (fun f _ => Fill.step p t.seq room (q.link.hs == .entering) f) f0
  let held := f.lcq.any fun c => match c with
    | .assign _ => decide (p < 16)
    | _ => false
  let (crs, returns) := if held then ([], q.rx.returns) else takeReturns p 2 q.rx.returns
  if t.opens.isEmpty && t.pm == 0 && crs.isEmpty && f.slots.all TxSlot.isEmpty then
    s.updTx p fun t => { t with wire := [idleFlit q] }
  else
    let flit : TxFlit := { idle := false, seq := t.seq, ack := q.rx.seq - 1, ackv := q.rx.any,
                           rpq := q.rx.rpq, pm := t.pm, crs, slots := f.slots }
    let s := s.updTx p fun t =>
      { t with seq := t.seq + 1, replay := t.replay ++ [flit], opens := f.opens, lcq := f.lcq,
               q := f.q, pm := 0, pmSeq := if t.pm = 0 then t.pmSeq else some t.seq,
               credits := f.credits, wire := [flit] }
    let s := s.updRx p fun r =>
      { r with returns,
               granted := crs.foldl (fun g c => tset g (crKey p c) (tget 0 g (crKey p c) + c.cnt))
                 r.granted }
    let rel := f.slots.any fun x => match x with
      | .ctl (.release _) => true
      | _ => false
    s.updMem p fun m =>
      if rel && m.relWait then { m with relSeq := some t.seq } else m

/-- Every flit carries the latest ACK (R52), so each acknowledges an accept of Simmer (R73). -/
def execFlitTransmit (p : Fin 20) (s : State) : Out :=
  let q := s.port p
  if !s.clocked ∨ q.link.st ≠ .l0 then .next s
  else
    let s := s.updLink p fun l => { l with ackDue := false }
    let again := match q.tx.replayAt with
      | none => []
      | some n => q.tx.replay.dropWhile fun f => f.seq != n
    match again with
    | f :: rest => .next (resend s p f rest)
    | [] =>
      if 64 ≤ q.tx.replay.length then .next (s.updTx p fun t => { t with wire := [idleFlit q] })
      else .next (newFlit s p)

end Sys2Proof.Machine
end

