-- ==== Sys2Proof/Machine/IntegCmds.lean ====
section
/-!
DEFINITION. Meanings of the integrity rows (12_integrity.md).
-/
namespace Sys2Proof.Machine

/-! ## Buckets and the Trowel (R335, R339) -/

/-- Bucket timers run on the Cosy clock. -/
def execBucketLeak (m : Fin 12) (s : State) : Out :=
  let b := s.bkt m
  if s.alive ∧ 0 < b.level then .next (s.setBkt m { b with level := b.level - 1 }) else .next s

/-- The next step of the pass. -/
def trowelStep (s : State) : State :=
  let n := s.integ.step
  let last := decide (n + 1 = passSteps)
  let s := s.updInteg fun i => { i with step := if last then 0 else n + 1, stepDue := false,
                                        passes := if last then bump i.passes else i.passes }
  trowelScrub s n

/-- The array that the next Trowel step reads is in a switch window: the Strainer, or the directory cache. -/
def trowelBarred (s : State) : Bool :=
  match s.home.switching, s.integ.test with
  | some 16, some t => decide (t.unit < 32) == decide (s.integ.step < strSteps)
  | _, _ => false

/-- A step due in a switch window of its array is taken when the window ends (R340). -/
def execTrowelStep (s : State) : Out :=
  if s.clocked ∧ s.integ.pass ≠ 0 then
    if trowelBarred s then .next (s.updInteg fun i => { i with stepDue := true }) else .next (trowelStep s)
  else .next s

/-- The Trowel step that a window has held back. -/
def dueStep (s : State) : State :=
  if s.integ.stepDue ∧ s.integ.pass ≠ 0 then trowelStep s else s

/-! ## Self-test (R347 to R351) -/

def execSelftestStep (s : State) : Out :=
  if s.clocked ∧ s.integ.test.isNone then
    match nextTestUnit s with
    | some u => .next (startStep s u)
    | none => .next s
  else .next s

/-- The copy has been read; the step's switch window, which reaches every slice, begins, and every held line
is released (R218, R348). A chip reset that the copy has made ends the step. -/
def execSelftestCopyComplete (s : State) : Out :=
  match s.clocked, s.integ.test with
  | true, some t =>
    if t.phase = .copy then
      let s := copyReads s t.unit t.src
      if s.integ.test.isNone then .next s
      else
        let s := s.updInteg fun i => { i with test := some { t with phase := .window } }
        .next (serveStore (releaseHeld (s.updHome fun h => { h with switching := some 16 }) fun _ => true))
    else .next s
  | _, _ => .next s

/-- The new mapping serves. The source's words, those written meanwhile included, are in the old spare
by then (R347, R348). -/
def execSwitchWindowEnd (s : State) : Out :=
  match s.clocked, s.integ.test with
  | true, some t =>
    if t.phase ≠ .window then .next s
    else
      let r := s.rotOf t.unit
      let k := s.home.switching
      let s := s.updHome fun h => { h with switching := none }
      if t.unit = 33 then
        let s := (mapSlice s (k.getD 0) r.sp).updHome fun h => { h with drainOf := some (t.src, r.sp) }
        let s := setRole s t.src (some .draining)
        .next (serveStore (s.updInteg fun i => { i with test := some { t with phase := .drain } }))
      else
        let s := (copyElem s t.unit t.src r.sp).setRot t.unit { r with sp := t.src }
        let s := s.updInteg fun i => { i with test := some { t with phase := .test } }
        .next (serveStore (dueStep s))
  | _, _ => .next s

def execSliceDrainComplete (s : State) : Out :=
  match s.clocked, s.integ.test with
  | true, some t =>
    let empty := !(s.home.trackers.any fun x => x.sl == t.src)
      && !(s.home.fwds.any fun f => f.sl == t.src) && !(s.home.victims.any fun v => v.sl == t.src)
    if t.phase = .drain ∧ empty then
      let s := s.updHome fun h => { h with drainOf := none }
      let s := setRole (s.setRot 33 { s.rotOf 33 with sp := t.src }) t.src (some .testing)
      .next (serveStore (s.updInteg fun i => { i with test := some { t with phase := .test } }))
    else .next s
  | _, _ => .next s

def execSelftestTestComplete (pass : Bool) (s : State) : Out :=
  match s.clocked, s.integ.test with
  | true, some t =>
    if t.phase = .test then
      let r := s.rotOf t.unit
      let s := s.setRot t.unit { r with steps := satAdd 16 r.steps 1 }
      .next (testResult (s.updInteg fun i => { i with test := none }) t.unit t.src pass)
    else .next s
  | _, _ => .next s

/-- Every spare is tested once in place after a chip reset; bit u of `ok` is unit u's result. -/
def execSpareInitialTest (ok : BitVec 34) (s : State) : Out :=
  if s.clocked then
    .next ((upto 34).foldl (fun s u =>
      let r := s.rotOf u
      if r.noSpare || r.passed != 0 then s else testResult s u r.sp (ok.getLsbD u)) s)
  else .next s

/-! ## Slice failure (R353 to R355) -/

def fenced (s : State) (p : Nat) : Bool := tget none s.home.roles p == some .fenced

/-- A slice that has failed its test serves nothing and holds nothing. -/
def execSliceFail (phys : Fin 17) (cause : Fin 3) (s : State) : Out :=
  if s.clocked ∧ !fenced s phys ∧ tget none s.home.roles phys ≠ some .failed then
    .next (fenceSlice s phys cause)
  else .next s

/-- A spare under test stops its test. -/
def execSpareTakeover (phys : Fin 17) (s : State) : Out :=
  match s.clocked && fenced s phys, orphan s phys, usableSpare s phys with
  | true, some k, some p =>
    let s := dropSliceTest s
    let s := s.setRot 33 { s.rotOf 33 with noSpare := true }
    .next (serveStore (predReset (setRole (mapSlice s k p) p none) p))
  | _, _, _ => .next s

def execSliceSpread (phys : Fin 17) (s : State) : Out :=
  match s.clocked && fenced s phys, orphan s phys, usableSpare s phys with
  | true, some k, none =>
    if s.mapped.isEmpty then .next (chipReset s)
    else .next (serveStore (s.updHome fun h => { h with spread := h.spread ++ [k] }))
  | _, _, _ => .next s

/-! ## Registers (R335, R342 to R345) -/

def execItBkt (m : Fin 12) (part : Part) (v : BitVec 64) (s : State) : Out :=
  if s.clocked then .next (bktWrite s m part v) else .next s
def execItFlipCtl (v : BitVec 32) (s : State) : Out :=
  if s.clocked then .next (flipWrite s v) else .next s

/-- A write of IT_RAW_CTL with CHKRD = 1. -/
def execChkrd (v : BitVec 32) (s : State) : Out :=
  if s.clocked then .next (rawCtlWrite s (v ||| 0x04000000#32)) else .next s
def execItRawData (v : BitVec 32) (s : State) : Out :=
  if s.clocked then .next (rawDataWrite s v) else .next s
def execItRawChkb (v : BitVec 32) (s : State) : Out :=
  if s.clocked then .next (rawChkbWrite s v) else .next s
def execItInjCtl (v : BitVec 32) (s : State) : Out :=
  if s.clocked then .next (injWrite s v) else .next s

end Sys2Proof.Machine
end

