-- ==== Sys2Proof/Machine/SmbOps.lean ====
section
/-!
DEFINITION. The SMBus targets and the regulator controller: addresses, PEC, the pointer space, telemetry
(17_smbus.md).
-/
namespace Sys2Proof.Machine

/-! ## Addresses (R452, R453, R373) -/

/-- The target addresses of SMB0 in force: in the Grave state the strap address alone. -/
def smb0Match (s : State) (addr : BitVec 7) : Bool :=
  if s.flt.grave then addr == BitVec.ofNat 7 (0x58 + s.board.straps.smbA.toNat)
  else smbMatches s.cfg.eff.smb0 addr.toNat

/-- SMB1 answers no address in the Grave state. -/
def smb1Match (s : State) (addr : BitVec 7) : Bool :=
  !s.flt.grave && smbMatches s.cfg.eff.smb1 addr.toNat

/-- The address byte of a transaction on SMB0: MEM 0xB is read and checked but in the Grave state (R358,
R373). No address matches where its word is uncorrectable. -/
def smb0Start (s : State) (addr : BitVec 7) : Bool × State :=
  if s.flt.grave then (smb0Match s addr, s)
  else
    let (bad, s) := useCosy s .smb0
    (!bad && smb0Match s addr, s)

/-- The address byte of a transaction on SMB1. -/
def smb1Start (s : State) (addr : BitVec 7) : Bool × State :=
  if s.flt.grave then (false, s)
  else
    let (bad, s) := useCosy s .smb1
    (!bad && smb1Match s addr, s)

/-- The lowest address that SMB0 matches (R468): ADDR0 with its masked bits cleared, or the lowest
enabled ADDRi; the strap address in the Grave state. -/
def alertAddr (s : State) : Option Nat := ((upto 128).find? fun a => smb0Match s (BitVec.ofNat 7 a))

/-! ## PEC (R466) -/

def addrW (a : BitVec 7) : Byte := BitVec.ofNat 8 (2 * a.toNat)
def addrR (a : BitVec 7) : Byte := BitVec.ofNat 8 (2 * a.toNat + 1)

/-- A read's answer: its bytes and the PEC over the whole transaction. -/
def readAnswer (addr : BitVec 7) (cmd : Nat) (bs : List Byte) : List Byte :=
  bs ++ [pec ([addrW addr, BitVec.ofNat 8 cmd, addrR addr] ++ bs)]

/-- A block's count byte and its bytes. -/
def block (bs : List Byte) : List Byte := toBytes 1 bs.length ++ bs

def sent (s : State) (o : Option (List Byte)) : State := s.updSmb fun b => { b with out := o }

/-! ## Waking (R461, R462, R465) -/

/-- SMB0's address match: ACKed; a gated datapath is woken. -/
def smb0Wake (s : State) : State :=
  if s.kt.st = .dormant ∧ s.smb.gated0 then
    s.updSmb fun b => { b with gated0 := false, woke := true }
  else s

/-- A START on SMB1 while its datapath is gated: the address byte is not acknowledged. -/
def smb1Gated (s : State) : Bool := s.kt.st == .dormant && s.smb.gated1

/-! ## The pointer space (Table 17-5, R455, R456) -/

/-- The end of the area that holds offset p. -/
def ptrEnd (p : Nat) : Option Nat :=
  if p < 0x140 then some 0x140
  else if 0x200 ≤ p ∧ p < 0x22C then some 0x22C
  else if 0x300 ≤ p ∧ p < 0x32C then some 0x32C
  else if 0x400 ≤ p ∧ p < 0x500 then some 0x500
  else none

/-- The n-th offset of the pointer space. -/
def ptrNth (n : Nat) : Nat :=
  if n < 0x140 then n else if n < 0x16C then n - 0x140 + 0x200
  else if n < 0x198 then n - 0x16C + 0x300 else n - 0x198 + 0x400

/-- PTR advanced by n. Past the end of its area it lies somewhere within an area, a free value
(log 33). -/
def ptrAdvance (s : State) (n : Nat) : State :=
  let p := s.smb.ptr + n
  if (ptrEnd p).isSome then s.updSmb fun b => { b with ptr := p }
  else
    let (v, s) := s.nextFree
    s.updSmb fun b => { b with ptr := ptrNth (v.toNat % 0x298) }

/-- The CRC unit whose area holds p. -/
def ptrCrc (p : Nat) : Option Nat :=
  if 0x200 ≤ p ∧ p < 0x22C then some 0 else if 0x300 ≤ p ∧ p < 0x32C then some 1 else none

/-- The CRCU and telemetry areas are served. -/
def smbServes (s : State) : Bool := !s.flt.grave && s.fw.boot != .recovery

/-- The unit is reached through SMB0. -/
def crcReached (s : State) (u : Nat) : Bool := smbServes s && (s.crcOwner u).isNone

/-! ## Telemetry (Table 17-9) -/

def telemOf (s : State) (n : Nat) : Telem := tget {} s.smb.telem n

def telemBytes (s : State) (n : Nat) : List Byte :=
  let t := telemOf s n
  let age := match t.polled with
    | none => 0xFF
    | some p => min 0xFF ((s.uptime - p) / 8000)
  toBytes 2 t.vout.toNat ++ toBytes 2 t.iout.toNat ++ toBytes 2 t.temp.toNat ++ [t.rev, t.vmode]
    ++ toBytes 1 t.stat.toNat ++ toBytes 1 age ++ List.replicate 6 0

/-! ## READ (R458) -/

/-- A byte of MBB's window. -/
def mbbByte (s : State) (o : Nat) : Byte :=
  if inArea o 1 then BitVec.ofNat 8 (mbWord s (mbIdx 9 o) >>> (8 * (o % 4)))
  else if 0x20 ≤ o ∧ o < 0x24 then BitVec.ofNat 8 (mbStateReg s 9 >>> (8 * (o % 4)))
  else 0

/-- The words of MBB's RAM that offsets [p, p + n) cover are read with their checker. -/
def mbbCheck (s : State) (p n : Nat) : State :=
  let ws := ((upto n).map (fun k => p + k)).filter fun o => inArea o 1 && (o % 4 == 0 || o == p)
  ws.foldl (fun s o => (readMb s (mbIdx 9 o)).2.2) s

def ptrByte (s : State) (p : Nat) : Byte :=
  match ptrCrc p with
  | some u => if crcReached s u then BitVec.ofNat 8 (crcRead (s.crcu u) (p % 0x100 / 4 * 4) >>> (8 * (p % 4)))
    else 0
  | none =>
    if p < 0x140 then mbbByte s p
    else if smbServes s then ((telemBytes s ((p - 0x400) / 16))[p % 16]?).getD 0 else 0

/-- The bytes of a READ: a unit that absorbs a data write is read when the absorption has ended. -/
def ptrRead (s : State) (p n : Nat) : List Byte × State :=
  let s := match ptrCrc p with
    | some u => if !(s.crcu u).busy.isEmpty && crcReached s u then crcFinish s u else s
    | none => if p < 0x140 then mbbCheck s p n else s
  ((upto n).map fun k => ptrByte s (p + k), s)

/-! ## WRITE (R457) -/

/-- The bytes [p, p + n) lie within one unit that a WRITE may reach. The register words of MBB's window are
MB_STATE and MB_DOORBELL (DEDUCED, log 34). -/
def writable (s : State) (p n : Nat) : Bool :=
  match ptrCrc p with
  | some u => crcReached s u && p % 4 == 0 && n % 4 == 0 && decide (p % 0x100 + n ≤ 0x2C)
  | none => inArea p n || ((p == 0x20 || p == 0x24) && n == 4)

/-- The words of a WRITE to a CRC unit, each once the unit has absorbed the one before. -/
def crcWords (s : State) (u : Nat) : Nat → Nat → List Byte → State
  | 0, _, _ => s
  | n + 1, o, bs =>
    if bs.isEmpty then s
    else
      let s := if (s.crcu u).busy.isEmpty then s else crcFinish s u
      let s := s.setCrc u (crcWrite (s.crcu u) o (numAt bs 0 4) none)
      crcWords s u n (o + 4) (bs.drop 4)

def ptrWrite (s : State) (p : Nat) (bs : List Byte) : State :=
  match ptrCrc p with
  | some u => crcWords s u bs.length (p % 0x100) bs
  | none =>
    if inArea p bs.length then windowWrite s 9 0x7F p bs
    else mregWrite s 9 p 0x7F (ofBytes bs)

/-- A write transaction is discarded: DISCARD, and PEC where that was the cause. -/
def discard (s : State) (forPec : Bool) : State :=
  s.updSmb fun b => { b with discard := true, pec := b.pec || forPec }

/-- PEC_REQ of a target value. -/
def pecReq (v : BitVec 64) : Bool := v.getLsbD 41

/-- How the PEC of a block write stands: none fault, or whether it was present and wrong. -/
def pecBad (req : Bool) (expect : Byte) (p : Option Byte) : Bool :=
  match p with
  | some x => x != expect
  | none => req

/-- A block write of SMB0 up to its end: `use` applies its bytes when nothing discards it. -/
def blockWrite (s : State) (w : SmbWrite) (cmd : Nat) (fits : State → Bool) (use : State → State) : State :=
  if s.board.held ≠ .none then s
  else
    let (hit, s) := smb0Start s w.addr
    if !hit then sent s none else
    let s := smb0Wake s
    let x := pec ([addrW w.addr, BitVec.ofNat 8 cmd, w.count] ++ w.bytes)
    let bad := pecBad (pecReq s.cfg.eff.smb0) x w.pec
    let wrong := w.pec.isSome && bad
    if !w.stop then sent (discard s false) none
    else if bad then sent (discard s true) (if wrong then none else some [])
    else if w.count.toNat = 0 ∨ w.bytes.length ≠ w.count.toNat ∨ !fits s then sent (discard s false) (some [])
    else sent (use s) (some [])

/-! ## SMBC (R469 to R474) -/

/-- SMBC runs: firmware is up, and no live exchange has begun. -/
def smbcRuns (s : State) : Bool :=
  s.alive && s.fw.boot == .running && !(s.fw.exch.any fun e => e.begun)

def setTelem (s : State) (n : Nat) (f : Telem → Telem) : State :=
  s.updSmb fun b => { b with telem := tset b.telem n (f (tget {} b.telem n)) }

/-- STAT's bits for how the last poll ended: [1] failed, [2] PEC wrong, [3] arbitration lost. -/
def setPoll (t : Telem) (bits : BitVec 5) : Telem := { t with stat := (t.stat &&& 0b10001#5) ||| bits }

def present (s : State) (n : Nat) : Bool := (telemOf s n).stat.getLsbD 0

/-- The next present regulator in ascending port order. -/
def nextReg (s : State) : Option Nat :=
  ((upto 16).map fun i => (s.smb.pollAt + i) % 16).find? (present s)

/-- One attempt at the poll of regulator n ends; `tries` retries have gone before it. The third loss of
arbitration sets STAT; the third retry is the last (log 34). -/
def pollEnd (s : State) (n tries : Nat) (r : PollEnd) : State :=
  let done := fun (s : State) => s.updSmb fun b => { b with polling := none, retries := 0 }
  match r with
  | .ok vout iout temp =>
    done (setTelem s n fun t => { setPoll t 0 with vout, iout, temp, polled := some s.uptime })
  | .failed => done (setTelem s n fun t => setPoll t 0b00010)
  | .badPec => done (setTelem s n fun t => setPoll t 0b00100)
  | .lost =>
    let s := if 2 ≤ tries then setTelem s n fun t => setPoll t 0b01000 else s
    if 3 ≤ tries then done s else s.updSmb fun b => { b with polling := some n, retries := tries }

end Sys2Proof.Machine
end

