-- ==== Sys2Proof/Machine/SmbCmds.lean ====
section
/-!
DEFINITION. Meanings of the rows of the SMBus sideband (17_smbus.md).
-/
namespace Sys2Proof.Machine

/-! ## SMB0 (R454 to R463) -/

def execSmb0AddressMatch (addr : BitVec 7) (s : State) : Out :=
  if s.board.held ≠ .none then .next s
  else
    let (hit, s) := smb0Start s addr
    if hit then .next (sent (smb0Wake s) (some [])) else .next (sent s none)

/-- SET_PTR: PTR and RLEN. -/
def execSetPtr (w : SmbWrite) (s : State) : Out :=
  let p := numAt w.bytes 0 2
  let n := numAt w.bytes 2 1
  .next (blockWrite s w 0x10 (fun _ => w.count == 3 && (ptrEnd p).isSome && n != 0) fun s =>
    s.updSmb fun b => { b with ptr := p, rlen := n })

def execWrite (w : SmbWrite) (s : State) : Out :=
  let n := w.bytes.length
  .next (blockWrite s w 0x11 (fun s => writable s s.smb.ptr n) fun s =>
    ptrAdvance (ptrWrite s s.smb.ptr w.bytes) n)

/-- READ: min(RLEN, the bytes up to the end of the area) bytes; one that includes MB_STATE releases the
alert (R467). -/
def execRead (addr : BitVec 7) (stop : Bool) (s : State) : Out :=
  if s.board.held ≠ .none then .next s
  else
    let (hit, s) := smb0Start s addr
    if !hit then .next (sent s none) else
    let s := smb0Wake s
    let p := s.smb.ptr
    let n := min s.smb.rlen ((ptrEnd p).getD p - p)
    let (bs, s) := ptrRead s p n
    let s := if p ≤ 0x20 ∧ 0x20 < p + n then s.updSmb fun b => { b with alert := false } else s
    let s := sent s (some (readAnswer addr 0x12 (block bs)))
    .next (if stop then ptrAdvance s n else s)

/-- The STATUS byte (Table 17-6). -/
def smbStatus (s : State) : Byte :=
  let b := s.smb
  BitVec.ofNat 8 (flag b.woke 6 + flag (s.fw.boot = .recovery) 5 + flag s.flt.grave 4 + flag b.alert 3
    + flag b.tmo 2 + flag b.pec 1 + flag b.discard 0)

def execStatus (addr : BitVec 7) (s : State) : Out :=
  if s.board.held ≠ .none then .next s
  else
    let (hit, s) := smb0Start s addr
    if !hit then .next (sent s none) else
    let s := smb0Wake s
    let v := smbStatus s
    .next (sent (s.updSmb fun b => { b with woke := false, tmo := false, pec := false, discard := false })
      (some (readAnswer addr 0x13 [v])))

/-- A read of 0x0C; `others` is the lowest byte another device sends, 0xFF where none does. A hub that
sends all eight bits has won. -/
def execAlertResponse (others : Byte) (s : State) : Out :=
  if s.board.held ≠ .none then .next s
  else if !s.smb.alert then .next (sent s none)
  else
    let (v, s) := match alertAddr s with
      | some a => (a, s)
      | none =>
        let (x, s) := s.nextFree
        (x.toNat % 128, s)
    let b : Byte := BitVec.ofNat 8 (2 * v)
    if b.toNat ≤ others.toNat then
      .next (sent (s.updSmb fun b => { b with alert := false }) (some [b, pec [0x19, b]]))
    else .next (sent s (some []))

/-- A target releases the lines and discards its transaction. TMO and DISCARD are SMB0's. -/
def execSmbusTimeout (i : SmbIf) (s : State) : Out :=
  if s.board.held ≠ .none ∨ (i = .smb1 ∧ s.flt.grave) then .next s
  else if i = .smb0 then .next (sent (discard (s.updSmb fun b => { b with tmo := true }) false) none)
  else .next (sent s none)

def execDatapathRegate (i : SmbIf) (s : State) : Out :=
  if s.alive ∧ s.kt.st = .dormant then
    .next (s.updSmb fun b => if i = .smb0 then { b with gated0 := true } else { b with gated1 := true })
  else .next s

/-! ## SMB1 (R464, R465) -/

def execSmb1Wake (s : State) : Out :=
  if s.alive ∧ smb1Gated s then .next (sent (s.updSmb fun b => { b with gated1 := false }) none) else .next s

/-- A read of SMB1: no answer from a gated datapath, which wakes, nor to an address it does not match. -/
def smb1Read (s : State) (addr : BitVec 7) (cmd : Nat) (bs : List Byte) : State :=
  if !s.alive then s
  else if smb1Gated s then sent (s.updSmb fun b => { b with gated1 := false }) none
  else
    let (hit, s) := smb1Start s addr
    if hit then sent s (some (readAnswer addr cmd bs)) else sent s none

def execSmb1TempNow (addr : BitVec 7) (s : State) : Out :=
  .next (smb1Read s addr 1 (toBytes 2 s.sens.now.toNat))
def execSmb1TempMax (addr : BitVec 7) (s : State) : Out :=
  .next (smb1Read s addr 2 (toBytes 2 s.sens.max.toNat))
def execSmb1TempLimit (addr : BitVec 7) (s : State) : Out :=
  .next (smb1Read s addr 3 (toBytes 2 tjMax))
def execSmb1State (addr : BitVec 7) (s : State) : Out :=
  .next (smb1Read s addr 4 (toBytes 1 (s.kt.st.code + flag (errDriven s) 3
    + flag (errDriven s || s.flt.extErr) 4)))
def execSmb1HubInfo (addr : BitVec 7) (s : State) : Out :=
  if s.alive && !smb1Gated s && smb1Match s addr then
    let (bad, s) := useCosy s .straps
    if bad then .next (sent s none) else .next (smb1Read s addr 5 (block ((hubInfoBytes s).take 16)))
  else .next (smb1Read s addr 5 [])
def execSmb1FcStatus (addr : BitVec 7) (s : State) : Out :=
  .next (smb1Read s addr 6 (block (toBytes 8 s.flt.status.toNat)))
def execSmb1Telemetry (addr : BitVec 7) (s : State) : Out :=
  .next (smb1Read s addr 7 (block (telemBytes s s.smb.telPort)))

/-- The one write that SMB1 accepts. A port above 15 selects nothing (DEDUCED, log 34). -/
def execSmb1TelemetrySelect (addr : BitVec 7) (port : Byte) (p : Option Byte) (s : State) : Out :=
  if !s.alive then .next s
  else if smb1Gated s then .next (sent (s.updSmb fun b => { b with gated1 := false }) none)
  else
    let (hit, s) := smb1Start s addr
    if !hit then .next (sent s none)
    else if pecBad (pecReq s.cfg.eff.smb1) (pec [addrW addr, 7, port]) p then
      .next (sent s (if p.isSome then none else some []))
    else if 15 < port.toNat then .next (sent s none)
    else .next (sent (s.updSmb fun b => { b with telPort := port.toNat }) (some []))

/-! ## SMBC (R469 to R474) -/

def execSmbcPoll (r : PollEnd) (s : State) : Out :=
  match smbcRuns s && s.smb.polling.isNone, nextReg s with
  | true, some n => .next (pollEnd (s.updSmb fun b => { b with pollAt := (n + 1) % 16 }) n 0 r)
  | _, _ => .next s

/-- A regulator is present when it answered both reads (R470). -/
def execRegulatorProbe (n : Fin 16) (r : ProbeEnd) (s : State) : Out :=
  if !smbcRuns s then .next s
  else match r with
    | .absent => .next (setTelem s n fun t => { t with stat := t.stat &&& 0b01110#5 })
    | .found rev vmode ok =>
      .next (setTelem s n fun t =>
        { t with rev, vmode, stat := (t.stat &&& 0b01110#5) ||| 1#5 ||| (if ok then 0b10000#5 else 0) })

def execSmbcRetry (r : PollEnd) (s : State) : Out :=
  match smbcRuns s, s.smb.polling with
  | true, some n => .next (pollEnd s n (s.smb.retries + 1) r)
  | _, _ => .next s

def execBusRecovery (clocks : Fin 10) (sdaLow : Bool) (s : State) : Out :=
  if smbcRuns s then .next (raise s 45 none (flag sdaLow 0 + 16 * clocks)) else .next s

/-- The transaction is given up; the poll of its regulator fails. -/
def execSmbcAbandon (s : State) : Out :=
  match smbcRuns s, s.smb.polling, nextReg s with
  | true, some n, _ => .next (pollEnd s n 0 .failed)
  | true, none, some n => .next (pollEnd (s.updSmb fun b => { b with pollAt := (n + 1) % 16 }) n 0 .failed)
  | _, _, _ => .next s

end Sys2Proof.Machine
end

