-- ==== Sys2Proof/Machine/ResetCmds.lean ====
section
/-!
DEFINITION. Meanings of the rows of the resets, of the TAP and of the registers without a row of their own
(00 R14, 18_bringup_reset.md, 19 R506).
-/
namespace Sys2Proof.Machine

/-! ## Resets (R479 to R488) -/

def setBoard (s : State) (f : Board → Board) : State := { s with board := f s.board }

def execPowerOnReset (s : State) : Out := .next (clearPower s)

/-- The hub enters a SYS_RST_N reset: not in the Grave state, and a power-on reset stays one. -/
def enterSys (s : State) : State :=
  if s.flt.grave ∨ s.board.held ≠ .none then s
  else setBoard (clearSys s) fun b => { b with held := .sys }

def execPwrOk (level : Bool) (s : State) : Out :=
  let s := setBoard s fun b => { b with pwrOk := level }
  .next (if level then s else enterSys s)

/-- TAP instructions that leave the hub undisturbed (R506). -/
def tapSafe : TapOp → Bool
  | .bypass | .idcode | .samplePreload => true
  | _ => false

/-- The instruction in effect while SYS_RST_N is at this level. -/
def tapNow (level : Bool) (i : TapOp) : TapOp := if level && !tapSafe i then .bypass else i

/-- The value that IDCODE shifts out. -/
def tapIdcode : Nat := 0x101208FD

def execSysRstN (level : Bool) (s : State) : Out :=
  let s := setBoard s fun b => { b with sysRstN := level, tap := tapNow level b.tap }
  .next (if level then s else enterSys s)

/-- The end of every reset: the PLL starts, the core runs the boot ROM (R487, R488). -/
def startHub (s : State) : State := bootRom (s.updKt fun k => { k with pllFrom := s.uptime })

/-- Straps sampled, SMB0_TARGET's reset value with them. -/
def sampleStraps (s : State) : State :=
  let s := setBoard s fun b => { b with held := .none, straps := b.pins }
  let items := freshItems s.board.straps
  { s with cfg := { eff := items, staged := items } }

/-- The boot ROM has stopped at a header that is not valid: GRAVE_NVM is on its way. -/
def bootStopped (s : State) : Bool := s.flt.lines.any fun l => l.src == 57

def execResetRelease (s : State) : Out :=
  if s.board.held ≠ .none then
    if s.board.pwrOk && s.board.sysRstN then .next (startHub (sampleStraps s)) else .next s
  else if s.alive ∧ s.fw.boot = .rom ∧ !bootStopped s then .next (startHub s)
  else .next s

def execTapInstruction (i : TapOp) (s : State) : Out :=
  .next (setBoard s fun b => { b with tap := tapNow b.sysRstN i })

/-! ## Registers without a row of their own (R14) -/

/-- A write at an offset of the platform aperture. A 32-bit register has no upper half. -/
def regWrite (s : State) (o : Nat) (p : Part) (v : BitVec 64) : State :=
  if o = 0x20 then if p = .hi then s else mbStateWrite s 8 (v.toNat % 2 ^ 32)
  else if 0x27000 ≤ o ∧ o < 0x27200 then
    let u := (o - 0x27000) / 0x100
    if p ≠ .hi ∧ (s.crcOwner u).isNone then crcDirect s u (o % 0x100) (v.toNat % 2 ^ 32) else s
  else match platRegs.find? fun e => e.1 == o with
    | some (_, 8) => platWrite s o p v
    | some _ => if p = .hi then s else platWrite s o .full (v &&& 0xFFFFFFFF#64)
    | none => s

def execRegisterWrite (off : BitVec 18) (part : Part) (v : BitVec 64) (s : State) : Out :=
  if s.clocked then .next (regWrite s off.toNat part v) else .next s

end Sys2Proof.Machine
end

