-- ==== Sys2Proof/Machine/Dispatch.lean ====
section
/-!
DEFINITION. Which meaning runs for which command: one arm per row of spec/opcode_table.json.
-/
namespace Sys2Proof.Machine

/-- A command's effect on everything but the queue of waiting commands. -/
def exec (i : Instr) (s : State) : Host.Outcome State Fault Refusal :=
  match i with
  | .portDetect p found => Sys2Proof.Machine.execPortDetect p found s
  | .trainingComplete p r => Sys2Proof.Machine.execTrainingComplete p r s
  | .flitReceive p f => Sys2Proof.Machine.execFlitReceive p f s
  | .replayTimeout p => Sys2Proof.Machine.execReplayTimeout p s
  | .recoveryExit p => Sys2Proof.Machine.execRecoveryExit p s
  | .recoveryTimeout p => Sys2Proof.Machine.execRecoveryTimeout p s
  | .flitTransmit p => Sys2Proof.Machine.execFlitTransmit p s
  | .linkDown p reason => Sys2Proof.Machine.execLinkDown p reason s
  | .farEndIdle p => Sys2Proof.Machine.execFarEndIdle p s
  | .cap p c => Sys2Proof.Machine.execCap p c s
  | .capAck p result port => Sys2Proof.Machine.execCapAck p result port s
  | .capTimeout p => Sys2Proof.Machine.execCapTimeout p s
  | .simmerRequest p => Sys2Proof.Machine.execSimmerRequest p s
  | .simmerAccept p => Sys2Proof.Machine.execSimmerAccept p s
  | .simmerRefuse p => Sys2Proof.Machine.execSimmerRefuse p s
  | .simmerRequestTimeout p => Sys2Proof.Machine.execSimmerRequestTimeout p s
  | .simmerEntryComplete p => Sys2Proof.Machine.execSimmerEntryComplete p s
  | .portIdleTimeout p => Sys2Proof.Machine.execPortIdleTimeout p s
  | .simmerExit p => Sys2Proof.Machine.execSimmerExit p s
  | .simmerExitStart p => Sys2Proof.Machine.execSimmerExitStart p s
  | .simmerExitSlow p => Sys2Proof.Machine.execSimmerExitSlow p s
  | .assignAfterRelease a => Sys2Proof.Machine.execAssignAfterRelease a s
  | .rds p h f => Sys2Proof.Machine.execRds p h f s
  | .rdo p h f => Sys2Proof.Machine.execRdo p h f s
  | .rdc p h f => Sys2Proof.Machine.execRdc p h f s
  | .upg p h f => Sys2Proof.Machine.execUpg p h f s
  | .wrl p h f data => Sys2Proof.Machine.execWrl p h f data s
  | .pmk p h stream mask => Sys2Proof.Machine.execPmk p h stream mask s
  | .wrp p h f data => Sys2Proof.Machine.execWrp p h f data s
  | .atm p h f data => Sys2Proof.Machine.execAtm p h f data s
  | .rnc p h f => Sys2Proof.Machine.execRnc p h f s
  | .wnc p h f data => Sys2Proof.Machine.execWnc p h f data s
  | .cure p h f => Sys2Proof.Machine.execCure p h f s
  | .wbm p h laddr data => Sys2Proof.Machine.execWbm p h laddr data s
  | .evc p h laddr => Sys2Proof.Machine.execEvc p h laddr s
  | .sri p f => Sys2Proof.Machine.execSri p f s
  | .srs p f => Sys2Proof.Machine.execSrs p f s
  | .srf p f => Sys2Proof.Machine.execSrf p f s
  | .srm p f => Sys2Proof.Machine.execSrm p f s
  | .srd p f data => Sys2Proof.Machine.execSrd p f data s
  | .mcp p h laddr htag => Sys2Proof.Machine.execMcp p h laddr htag s
  | .dmm p f data => Sys2Proof.Machine.execDmm p f data s
  | .directoryWordDmm p f data => Sys2Proof.Machine.execDirectoryWordDmm p f data s
  | .dfw p f data => Sys2Proof.Machine.execDfw p f data s
  | .proxySnoop p f => Sys2Proof.Machine.execProxySnoop p f s
  | .passOn p m => Sys2Proof.Machine.execPassOn p m s
  | .pwi a f => Sys2Proof.Machine.execPwi a f s
  | .grantPlacement sl t => Sys2Proof.Machine.execGrantPlacement sl t s
  | .mrqPlacement sl t => Sys2Proof.Machine.execMrqPlacement sl t s
  | .directoryFillResume sl t => Sys2Proof.Machine.execDirectoryFillResume sl t s
  | .ticketWindowExpiry sl t => Sys2Proof.Machine.execTicketWindowExpiry sl t s
  | .tAnswerExpiry sl t => Sys2Proof.Machine.execTAnswerExpiry sl t s
  | .tSnoopExpiry w => Sys2Proof.Machine.execTSnoopExpiry w s
  | .tTrackerExpiry sl t => Sys2Proof.Machine.execTTrackerExpiry sl t s
  | .quiesced d => Sys2Proof.Machine.execQuiesced d s
  | .holdIdleLimit sl t => Sys2Proof.Machine.execHoldIdleLimit sl t s
  | .holdTimeLimit sl t => Sys2Proof.Machine.execHoldTimeLimit sl t s
  | .dsGatePass a stream => Sys2Proof.Machine.execDsGatePass a stream s
  | .cureComplete a tid => Sys2Proof.Machine.execCureComplete a tid s
  | .mergeEntryAge k => Sys2Proof.Machine.execMergeEntryAge k s
  | .mergePressureDrain => Sys2Proof.Machine.execMergePressureDrain s
  | .drainWaiterResume sl t => Sys2Proof.Machine.execDrainWaiterResume sl t s
  | .sweepMwr d => Sys2Proof.Machine.execSweepMwr d s
  | .zeroSweepComplete d => Sys2Proof.Machine.execZeroSweepComplete d s
  | .sweepTimeout d => Sys2Proof.Machine.execSweepTimeout d s
  | .stagePNotice p n => Sys2Proof.Machine.execStagePNotice p n s
  | .stageRNotice p n => Sys2Proof.Machine.execStageRNotice p n s
  | .spanRelease p d => Sys2Proof.Machine.execSpanRelease p d s
  | .stagePComplete d => Sys2Proof.Machine.execStagePComplete d s
  | .stageRComplete d => Sys2Proof.Machine.execStageRComplete d s
  | .stageTimeout d => Sys2Proof.Machine.execStageTimeout d s
  | .pllLock => Sys2Proof.Machine.execPllLock s
  | .pllLockTimeout => Sys2Proof.Machine.execPllLockTimeout s
  | .pllLockLoss => Sys2Proof.Machine.execPllLockLoss s
  | .steepIdleElapsed => Sys2Proof.Machine.execSteepIdleElapsed s
  | .stopStep => Sys2Proof.Machine.execStopStep s
  | .wakeNEdge a => Sys2Proof.Machine.execWakeNEdge a s
  | .wakeNetFall => Sys2Proof.Machine.execWakeNetFall s
  | .dormantEntry => Sys2Proof.Machine.execDormantEntry s
  | .dormantAssign => Sys2Proof.Machine.execDormantAssign s
  | .wakeTrainingTimeout p => Sys2Proof.Machine.execWakeTrainingTimeout p s
  | .droopStretch => Sys2Proof.Machine.execDroopStretch s
  | .droopEase => Sys2Proof.Machine.execDroopEase s
  | .stretchEpisodeLong => Sys2Proof.Machine.execStretchEpisodeLong s
  | .droopNEdge a => Sys2Proof.Machine.execDroopNEdge a s
  | .pacingWindow a sinceTrigger => Sys2Proof.Machine.execPacingWindow a sinceTrigger s
  | .watchEnd a => Sys2Proof.Machine.execWatchEnd a s
  | .fallHintEnd a => Sys2Proof.Machine.execFallHintEnd a s
  | .fallSignature a => Sys2Proof.Machine.execFallSignature a s
  | .ldhDeferredChange a => Sys2Proof.Machine.execLdhDeferredChange a s
  | .paceForced sl t => Sys2Proof.Machine.execPaceForced sl t s
  | .bucketLeak m => Sys2Proof.Machine.execBucketLeak m s
  | .trowelStep => Sys2Proof.Machine.execTrowelStep s
  | .selftestStep => Sys2Proof.Machine.execSelftestStep s
  | .selftestCopyComplete => Sys2Proof.Machine.execSelftestCopyComplete s
  | .switchWindowEnd => Sys2Proof.Machine.execSwitchWindowEnd s
  | .sliceDrainComplete => Sys2Proof.Machine.execSliceDrainComplete s
  | .selftestTestComplete pass => Sys2Proof.Machine.execSelftestTestComplete pass s
  | .spareInitialTest ok => Sys2Proof.Machine.execSpareInitialTest ok s
  | .sliceFail phys cause => Sys2Proof.Machine.execSliceFail phys cause s
  | .spareTakeover phys => Sys2Proof.Machine.execSpareTakeover phys s
  | .sliceSpread phys => Sys2Proof.Machine.execSliceSpread phys s
  | .itBkt m part v => Sys2Proof.Machine.execItBkt m part v s
  | .itFlipCtl v => Sys2Proof.Machine.execItFlipCtl v s
  | .chkrd v => Sys2Proof.Machine.execChkrd v s
  | .itRawData v => Sys2Proof.Machine.execItRawData v s
  | .itRawChkb v => Sys2Proof.Machine.execItRawChkb v s
  | .itInjCtl v => Sys2Proof.Machine.execItInjCtl v s
  | .faultEvent src dom detail => Sys2Proof.Machine.execFaultEvent src dom detail s
  | .cosyConfigCheck => Sys2Proof.Machine.execCosyConfigCheck s
  | .faultNoticePlacement a => Sys2Proof.Machine.execFaultNoticePlacement a s
  | .logWrite => Sys2Proof.Machine.execLogWrite s
  | .tokenGain => Sys2Proof.Machine.execTokenGain s
  | .logScan => Sys2Proof.Machine.execLogScan s
  | .fcStatus part v => Sys2Proof.Machine.execFcStatus part v s
  | .sensorReading v => Sys2Proof.Machine.execSensorReading v s
  | .mbDoorbell m who v => Sys2Proof.Machine.execMbDoorbell m who v s
  | .mailboxWindowWrite m who off bytes => Sys2Proof.Machine.execMailboxWindowWrite m who off bytes s
  | .mbLockClaim d who => Sys2Proof.Machine.execMbLockClaim d who s
  | .mbLockRelease d who => Sys2Proof.Machine.execMbLockRelease d who s
  | .lockIdleTimeout d => Sys2Proof.Machine.execLockIdleTimeout d s
  | .mailboxNoticePlacement m => Sys2Proof.Machine.execMailboxNoticePlacement m s
  | .mailboxOpen => Sys2Proof.Machine.execMailboxOpen s
  | .replayRecord => Sys2Proof.Machine.execReplayRecord s
  | .hubInfo m => Sys2Proof.Machine.execHubInfo m s
  | .fwInfo m => Sys2Proof.Machine.execFwInfo m s
  | .caps m => Sys2Proof.Machine.execCaps m s
  | .configRead m => Sys2Proof.Machine.execConfigRead m s
  | .configWrite m => Sys2Proof.Machine.execConfigWrite m s
  | .configCommit m => Sys2Proof.Machine.execConfigCommit m s
  | .configLock m => Sys2Proof.Machine.execConfigLock m s
  | .regionSet m => Sys2Proof.Machine.execRegionSet m s
  | .regionGet m => Sys2Proof.Machine.execRegionGet m s
  | .proximitySet m => Sys2Proof.Machine.execProximitySet m s
  | .portConfig m => Sys2Proof.Machine.execPortConfig m s
  | .domainCreate m => Sys2Proof.Machine.execDomainCreate m s
  | .domainStart m => Sys2Proof.Machine.execDomainStart m s
  | .domainQuiesce m => Sys2Proof.Machine.execDomainQuiesce m s
  | .domainStop m => Sys2Proof.Machine.execDomainStop m s
  | .domainStatus m => Sys2Proof.Machine.execDomainStatus m s
  | .dirSweepWriteback m => Sys2Proof.Machine.execDirSweepWriteback m s
  | .dirSweepZero m => Sys2Proof.Machine.execDirSweepZero m s
  | .quotaSet m => Sys2Proof.Machine.execQuotaSet m s
  | .agentAdmitPort m => Sys2Proof.Machine.execAgentAdmitPort m s
  | .agentAdmitRecord m => Sys2Proof.Machine.execAgentAdmitRecord m s
  | .agentExpelPort m => Sys2Proof.Machine.execAgentExpelPort m s
  | .agentExpelRecord m => Sys2Proof.Machine.execAgentExpelRecord m s
  | .linkStatus m => Sys2Proof.Machine.execLinkStatus m s
  | .linkRetrain m => Sys2Proof.Machine.execLinkRetrain m s
  | .linkMargin m => Sys2Proof.Machine.execLinkMargin m s
  | .linkCounters m => Sys2Proof.Machine.execLinkCounters m s
  | .spanSpare m => Sys2Proof.Machine.execSpanSpare m s
  | .powerStateRead m => Sys2Proof.Machine.execPowerStateRead m s
  | .powerStateClear m => Sys2Proof.Machine.execPowerStateClear m s
  | .powerStateWake m => Sys2Proof.Machine.execPowerStateWake m s
  | .powerPolicyHub m => Sys2Proof.Machine.execPowerPolicyHub m s
  | .powerPolicyPort m => Sys2Proof.Machine.execPowerPolicyPort m s
  | .forecastStatus m => Sys2Proof.Machine.execForecastStatus m s
  | .faultRead m => Sys2Proof.Machine.execFaultRead m s
  | .faultClear m => Sys2Proof.Machine.execFaultClear m s
  | .faultConfigSource m => Sys2Proof.Machine.execFaultConfigSource m s
  | .faultConfigNotify m => Sys2Proof.Machine.execFaultConfigNotify m s
  | .errlogRead m => Sys2Proof.Machine.execErrlogRead m s
  | .injectCollector m => Sys2Proof.Machine.execInjectCollector m s
  | .injectChecker m => Sys2Proof.Machine.execInjectChecker m s
  | .injectFlip m => Sys2Proof.Machine.execInjectFlip m s
  | .scrubConfig m => Sys2Proof.Machine.execScrubConfig m s
  | .selftestStart m => Sys2Proof.Machine.execSelftestStart m s
  | .selftestStatus m => Sys2Proof.Machine.execSelftestStatus m s
  | .sliceStatus m => Sys2Proof.Machine.execSliceStatus m s
  | .fwStage m => Sys2Proof.Machine.execFwStage m s
  | .fwVerify m => Sys2Proof.Machine.execFwVerify m s
  | .fwActivate m => Sys2Proof.Machine.execFwActivate m s
  | .fwCommitSlot m => Sys2Proof.Machine.execFwCommitSlot m s
  | .nvmRead m => Sys2Proof.Machine.execNvmRead m s
  | .tempRead m => Sys2Proof.Machine.execTempRead m s
  | .statsRead m => Sys2Proof.Machine.execStatsRead m s
  | .watchdogExpiry => Sys2Proof.Machine.execWatchdogExpiry s
  | .exchangeBegin => Sys2Proof.Machine.execExchangeBegin s
  | .exchangeFallback pc trapCause => Sys2Proof.Machine.execExchangeFallback pc trapCause s
  | .firmwareTimer id => Sys2Proof.Machine.execFirmwareTimer id s
  | .crcCtl u v => Sys2Proof.Machine.execCrcCtl u v s
  | .crcData8 u v => Sys2Proof.Machine.execCrcData8 u v s
  | .crcData16 u v => Sys2Proof.Machine.execCrcData16 u v s
  | .crcData32 u v => Sys2Proof.Machine.execCrcData32 u v s
  | .crcAbsorbDone u => Sys2Proof.Machine.execCrcAbsorbDone u s
  | .smb0AddressMatch addr => Sys2Proof.Machine.execSmb0AddressMatch addr s
  | .setPtr w => Sys2Proof.Machine.execSetPtr w s
  | .write w => Sys2Proof.Machine.execWrite w s
  | .read addr stop => Sys2Proof.Machine.execRead addr stop s
  | .status addr => Sys2Proof.Machine.execStatus addr s
  | .alertResponse others => Sys2Proof.Machine.execAlertResponse others s
  | .smbusTimeout k => Sys2Proof.Machine.execSmbusTimeout k s
  | .datapathRegate k => Sys2Proof.Machine.execDatapathRegate k s
  | .smb1Wake => Sys2Proof.Machine.execSmb1Wake s
  | .smb1TempNow addr => Sys2Proof.Machine.execSmb1TempNow addr s
  | .smb1TempMax addr => Sys2Proof.Machine.execSmb1TempMax addr s
  | .smb1TempLimit addr => Sys2Proof.Machine.execSmb1TempLimit addr s
  | .smb1State addr => Sys2Proof.Machine.execSmb1State addr s
  | .smb1HubInfo addr => Sys2Proof.Machine.execSmb1HubInfo addr s
  | .smb1FcStatus addr => Sys2Proof.Machine.execSmb1FcStatus addr s
  | .smb1TelemetrySelect addr port pec => Sys2Proof.Machine.execSmb1TelemetrySelect addr port pec s
  | .smb1Telemetry addr => Sys2Proof.Machine.execSmb1Telemetry addr s
  | .smbcPoll r => Sys2Proof.Machine.execSmbcPoll r s
  | .regulatorProbe n r => Sys2Proof.Machine.execRegulatorProbe n r s
  | .smbcRetry r => Sys2Proof.Machine.execSmbcRetry r s
  | .busRecovery clocks sdaLow => Sys2Proof.Machine.execBusRecovery clocks sdaLow s
  | .smbcAbandon => Sys2Proof.Machine.execSmbcAbandon s
  | .powerOnReset => Sys2Proof.Machine.execPowerOnReset s
  | .pwrOk level => Sys2Proof.Machine.execPwrOk level s
  | .sysRstN level => Sys2Proof.Machine.execSysRstN level s
  | .resetRelease => Sys2Proof.Machine.execResetRelease s
  | .tapInstruction k => Sys2Proof.Machine.execTapInstruction k s
  | .registerWrite off part v => Sys2Proof.Machine.execRegisterWrite off part v s
  | .largeRiseImminent a => Sys2Proof.Machine.execLargeRiseImminent a s
  | .exchangeComplete => Sys2Proof.Machine.execExchangeComplete s
  | .downProcessingComplete d => Sys2Proof.Machine.execDownProcessingComplete d s
  | .replayAdmitTimeout => Sys2Proof.Machine.execReplayAdmitTimeout s
  | .farEndRecovery p => Sys2Proof.Machine.execFarEndRecovery p s

end Sys2Proof.Machine
end

