-- ==== Sys2Proof/Machine/Step.lean ====
section
/-!
DEFINITION. One step: the command at the front of the queue, or an idle tick.
-/
namespace Sys2Proof.Machine

/-- What the hub does when no command waits: one ac passes and nothing else (log 1). -/
def idleTick (s : State) : State :=
  { s with uptime := s.uptime + 1 }

/-- One step. The front command leaves the queue, and its effect is `exec`'s on the rest. -/
def step (s : State) : Host.Outcome State Fault Refusal :=
  match s.pending with
  | [] => .next (idleTick s)
  | c :: rest => exec c { s with pending := rest }

/-- The state with the command that a table word spells at the front of its queue. The table gives no
row any bits, so no word spells a command and the state is unchanged. -/
def State.withFetchWord (s : State) (nbits w : Nat) : State :=
  match decodeTableWord nbits w with
  | none => s
  | some c => { s with pending := c :: s.pending }

end Sys2Proof.Machine
end

