-- ==== Sys2Proof/Safety.lean ====
section
/-!
DEFINITION. What the statements speak of: the answer of a mailbox, a port as it stands when it is Down, and
the invariants of the state.
-/
namespace Sys2Proof.Machine

/-! ## Ports -/

/-- The port is Down and held, and the reason on record is the one given (R42, R65, R66). -/
def State.isDown (s : State) (p : Nat) (reason : BitVec 8) : Prop :=
  (s.port p).link.st = .held ∧ (s.port p).link.lastDown = reason

/-- Every port but one is as it was. -/
def State.otherPorts (s t : State) (p : Nat) : Prop := ∀ j, j ≠ p → t.port j = s.port j

/-- Link error counter i of a port (Table 02-13). -/
def State.cnt (s : State) (p i : Nat) : Nat := tget 0 (s.port p).cnt i

/-- A message stands at the end of what a port still has to send. -/
def State.placed (s t : State) (p : Nat) (m : Msg) : Prop := (t.port p).tx.q = (s.port p).tx.q ++ [m]

/-- An agent of a domain attaches to this hub at an agent port that is up, and it holds the domain's ASSIGN. -/
def State.reaches (s : State) (d dan p : Nat) : Prop :=
  s.agentPort d dan = some p ∧ p < 16 ∧ s.up p = true ∧ (s.port p).mem.dom = some d ∧
    (s.port p).mem.dan = dan ∧ (s.port p).mem.sent.isSome = true

/-! ## Faults and stored data -/

/-- An error line of a source, with its domain, has risen and waits for the collector (R365). -/
def State.raised (t : State) (src : Nat) (dom : Option Nat) : Prop :=
  ∃ l ∈ t.flt.lines, l.src = src ∧ l.dom = dom

/-- No stored word of MEM 0x4 to 0xB differs from what was written, and neither the injection (R345) nor the
flip-mask (R343) is armed: a checked read finds nothing. -/
def State.inert (s : State) : Prop :=
  s.arr.err = [] ∧ fld s.integ.injCtl.toNat 31 24 = 0 ∧ nbit s.integ.flipCtl.toNat 31 = false

/-- A domain is down and being cleaned up, with this cause, and holds no tracker (R258). -/
def State.domDown (t : State) (d cause : Nat) : Prop :=
  (t.dom d).st = .down ∧ (t.dom d).downing = true ∧ (t.dom d).cause = cause ∧
    ∀ x ∈ t.home.trackers, x.dom ≠ d

/-! ## Messages at the hub -/

/-- A message of a domain may be taken from a port: the hub clock runs, the port is up, an agent port holds that
domain's ASSIGN, and the message's epoch and domain stand (R66, R80, R82, R84). -/
def State.delivers (s : State) (p : Nat) (h : Hdr) : Prop :=
  s.clocked = true ∧ s.up p = true ∧ discards s h = false ∧
    (p < 16 → (s.port p).mem.dom = some h.dom.toNat ∧ (s.port p).mem.sent.isSome = true)

/-- A request or a writeback of the agent of a port, as that agent may send it: the domain is STARTED, the header
names the sender, and nothing else of that agent is being dealt with (R80, R82, R89, R300). -/
def State.sender (s : State) (p : Nat) (h : Hdr) : Prop :=
  p < 16 ∧ s.delivers p h ∧ (s.port p).mem.dan = h.dan.toNat ∧ (s.dom h.dom.toNat).st = .started ∧
    (s.port p).mem.consent = false ∧ s.home.wbs = [] ∧ s.home.proxies = []

/-- The home of a line of a domain is this hub, slice sl serves it, and no tracker, victim or merge-buffer entry is
at work on it. -/
def State.homes (s : State) (d : Nat) (l : LAddr) (sl : Nat) : Prop :=
  s.homeHub l = s.hubId ∧ s.physSlice l = some sl ∧ s.home.switching = none ∧
    (∀ x ∈ s.home.trackers, ¬(x.dom = d ∧ x.laddr = l)) ∧ s.home.victims = [] ∧ s.home.merges = [] ∧
    (s.dom d).par.mbq = 0

/-- Nothing but ports, domains, the home, the stored arrays and their integrity, and the free values differs. -/
def State.homeOnly (s t : State) : Prop :=
  { t with ports := s.ports, doms := s.doms, home := s.home, arr := s.arr, integ := s.integ,
           free := s.free } = s

/-- The REQ row of an opcode; only a data message carries the line (Table 03-4). -/
def reqCmd (op : ReqOp) (p : Fin 20) (h : Hdr) (f : ReqF) (data : Line) : Instr :=
  match op with
  | .rds => .rds p h f
  | .rdo => .rdo p h f
  | .rdc => .rdc p h f
  | .upg => .upg p h f
  | .wrl => .wrl p h f data
  | .wrp => .wrp p h f data
  | .atm => .atm p h f data
  | .rnc => .rnc p h f
  | .wnc => .wnc p h f data
  | .cure => .cure p h f

/-- The line that a REQ carries. -/
def reqLine (op : ReqOp) (data : Line) : Line := if op.isData then data else 0

/-- The MRQ of a request to an NC line, and its data (R172, R233): a write sends its bytes, all else reads. -/
def ncMrq (s : State) (r : Req) (sl n : Nat) : MrqF × Line :=
  let m := fun op sz ofs => mkMrq s r.h op sz ofs r.f.laddr sl n false
  match r.op with
  | .wnc => (m .mwr r.f.sub.toNat r.f.ofs.toNat,
             mergeLine (rangeMask r.f.ofs.toNat (2 ^ r.f.sub.toNat)) r.data 0)
  | .wrl => (m .mwr 6 0, r.data)
  | .rnc => (m .mrd r.f.sub.toNat r.f.ofs.toNat, 0)
  | _ => (m .mrd 6 0, 0)

/-- The snoop-answer row of an opcode. -/
def ansCmd (op : AnsOp) (p : Fin 20) (f : AnsF) (data : Line) : Instr :=
  match op with
  | .sri => .sri p f
  | .srs => .srs p f
  | .srf => .srf p f
  | .srm => .srm p f
  | .srd => .srd p f data

/-- A tracker awaits a snoop answer of a candidate other than c. -/
def Tracker.otherSnoop (x : Tracker) (c : Nat) : Prop := ∃ k op, .snoop k op ∈ x.awaits ∧ k ≠ c

/-- A tracker whose freeing leaves nothing: it keeps no directory word, has no ticket queue and no MRQ waiting. -/
def Tracker.plain (x : Tracker) : Prop := x.wordAt ≠ .own ∧ x.tq = none ∧ x.mrqs = []

/-- No tracker holds a snoop back (R201). -/
def State.noHeld (s : State) : Prop := ∀ x ∈ s.home.trackers, x.heldSnoops = []

/-- The line's word stands in a way of the directory cache that its tag names (R124, R128). -/
def State.inWay (t : State) (y : Tracker) (dirty : Bool) : Prop :=
  ∃ i, y.wordAt = .way i ∧ (tget 0 t.arr.tag (wayKey (dirSet y.laddr) (t.physWay i))).setWidth 40
    = mkTag dirty y.dom (dirTag y.laddr)

/-- Every tracker but one is as it was. -/
def State.otherTrks (s t : State) (sl n : Nat) : Prop :=
  ∀ i k, ¬(i = sl ∧ k = n) → t.trk i k = s.trk i k

/-! ## Mailboxes -/

/-- The header words and the request payload of mailbox m pass their checks: nothing is injected, every word used
is clean, LEN is within the payload and PCRC is its CRC (R390 steps 1 to 3). -/
def State.sound (s : State) (m : Fin 10) : Prop :=
  fld s.integ.injCtl.toNat 31 24 = 0 ∧ mbLen s m ≤ 256 ∧
    (∀ k, k < 4 + (mbLen s m + 3) / 4 → chk39 (ramGet s.mbram (0x60 * m + k)) = .clean) ∧
    (crc32c (mbPayload s m (mbLen s m))).toNat = mbPcrc s m

/-- The byte at offset o of mailbox m's header or payload (R387). -/
def State.window (s : State) (m o : Nat) : Byte := BitVec.ofNat 8 (mbWord s (mbIdx m o) >>> (8 * (o % 4)))

/-- The answer that stands in a mailbox: STATUS, DETAIL and the response payload of RLEN bytes
(Tables 14-4 and 14-5). -/
def State.answer (s : State) (m : Nat) : Nat × Nat × List Byte :=
  (fld (mbWord s (0x60 * m + 2)) 7 0, fld (mbWord s (0x60 * m + 2)) 31 16,
   mbPayload s m (fld (mbWord s (0x60 * m + 1)) 31 16))

/-- Mailbox m holds a command with this opcode and request payload that has passed its checks and whose
execution has not begun; the hub is out of reset, a "W" command finds the hub clock running, it is the turn of
the mailbox, and no resource that the command needs is held (R390, R395, R402). -/
def State.holds (s : State) (m : Fin 10) (op : Nat) (pl : List Byte) : Prop :=
  s.board.held = .none ∧ (mbWakes op pl = true → s.clocked = true) ∧ (s.mb m).st = .busy ∧
    (s.mb m).checked = true ∧ (s.mb m).running = false ∧ mbNext s = some m.val ∧ mbOpcode s m = op ∧
    mbPayload s m (mbLen s m) = pl ∧ resourceHeld s m op pl = false ∧ ramWf s.mbram = true

/-- The command of mailbox m has ended: DONE, and the answer is the one given. -/
def State.ended (t : State) (m : Fin 10) (status detail : Nat) (resp : List Byte) : Prop :=
  (t.mb m).st = .done ∧ (t.mb m).status = BitVec.ofNat 8 status ∧ t.answer m = (status, detail, resp)

/-- Nothing but the mailboxes, their RAM, their turn and the alert line of SMB0 differs, and of those only what
belongs to mailbox m. -/
def State.onlyMail (s t : State) (m : Fin 10) : Prop :=
  { t with mbs := s.mbs, mbram := s.mbram, smb := { t.smb with alert := s.smb.alert },
           fw := { t.fw with mbTurn := s.fw.mbTurn } } = s ∧
    (∀ j : Fin 10, j ≠ m → t.mb j = s.mb j) ∧
    (∀ i, i < 0x60 * m.val ∨ 0x60 * m.val + 68 ≤ i → ramGet t.mbram i = ramGet s.mbram i)

/-! ## Memories -/

/-- The NVM, the mailbox RAM and the firmware RAM are in canonical form: keys strictly rising, nothing listed that
reads as an unlisted address does. -/
def State.canonical (s : State) : Bool := ramWf s.nvm && ramWf s.mbram && ramWf s.fwram

end Sys2Proof.Machine
end

