-- ==== Sys2Proof/Certificates/Slice0/Obligations.lean ====
section
/-!
DEFINITION. The statements for the provers. Each docstring names the rules of spec/ it rests on.
-/
open Sys2Proof Sys2Proof.Machine

/-! ## Info and configuration commands (15_commands.md) -/

/-- HUB_INFO, FW_INFO and CAPS answer OK with the identity, the firmware slots and the capacities, and change
nothing else (Tables 15-3 and 15-4). -/
def Obligations.InfoCommandsAnswerAndOnlyRead : Prop :=
  ∀ (s : State) (m : Fin 10) (pl : List Byte),
    (s.holds m 0 pl → s.inert → ∃ t r, exec (.hubInfo m) s = .next t ∧ t.ended m 0 0 r ∧ s.onlyMail t m ∧
      r.length = 64 ∧ numAt r 0 2 = 0x1C7E ∧ numAt r 2 2 = 0x0120 ∧ numAt r 4 1 = 0xB0 ∧
      numAt r 6 1 = s.hubId ∧ numAt r 7 1 = s.hubs % 256 ∧
      numAt r 16 6 = s.uptime % 2 ^ 48 ∧ numAt r 40 8 = s.flt.status.toNat) ∧
    (s.holds m 1 pl → ∃ t r, exec (.fwInfo m) s = .next t ∧ t.ended m 0 0 r ∧ s.onlyMail t m ∧
      r.length = 32 ∧ numAt r 0 1 = s.fw.slot % 256 ∧ numAt r 1 1 = hdrSelect (hdrNow s) % 256 ∧
      numAt r 4 4 = s.fw.version % 2 ^ 32 ∧ numAt r 16 4 = s.fw.exchanges % 2 ^ 32) ∧
    (s.holds m 2 pl → ∃ t r, exec (.caps m) s = .next t ∧ t.ended m 0 0 r ∧ s.onlyMail t m ∧
      r.length = 32 ∧ numAt r 0 4 = 0x10080410 ∧ numAt r 8 1 = (freeShelves s).length)

/-- CONFIG_READ answers with the item of the area that SEL names; CONFIG_WRITE stages a valid item; the
effective items and the lock stand (R404, R405).
CONFIG_LOCK sets the lock bits asked for and clears none. -/
def Obligations.ConfigItemsAndLocks : Prop :=
  (∀ (s : State) (m : Fin 10) (pl : List Byte) (n : Nat), itemSize (numAt pl 0 2) = some n →
     (s.holds m 0x100 pl → byteAt pl 2 ≤ 1 → ∃ t r, exec (.configRead m) s = .next t ∧
       t.ended m 0 0 r ∧ s.onlyMail t m ∧ r.length = 4 + n ∧ numAt r 2 1 = n ∧
       numAt r 4 n = itemGet (if byteAt pl 2 = 0 then s.cfg.eff else s.cfg.staged) (numAt pl 0 2) % 256 ^ n) ∧
     (s.holds m 0x101 pl → s.cfg.lock.getLsbD 0 = false →
       let v := numAt pl 4 n &&& itemMask (numAt pl 0 2)
       itemValid (numAt pl 0 2) v = true → ∃ t, exec (.configWrite m) s = .next t ∧ t.ended m 0 0 [] ∧
         t.cfg = { s.cfg with staged := itemSet s.cfg.staged (numAt pl 0 2) v } ∧
         itemGet t.cfg.staged (numAt pl 0 2) = v ∧ s.onlyMail { t with cfg := s.cfg } m) ∧
     (s.holds m 0x101 pl → s.cfg.lock.getLsbD 0 = true → ∃ t, exec (.configWrite m) s = .next t ∧
       t.ended m 6 0x102 [] ∧ s.onlyMail t m)) ∧
  (∀ (s : State) (m : Fin 10) (pl : List Byte), s.holds m 0x103 pl →
     ∃ t, exec (.configLock m) s = .next t ∧
       t.cfg = { s.cfg with lock := s.cfg.lock ||| BitVec.ofNat 2 (byteAt pl 0) } ∧
       t.ended m 0 0 [t.cfg.lock.setWidth 8, 0, 0, 0] ∧ s.onlyMail { t with cfg := s.cfg } m)

/-- CONFIG_COMMIT: with DISCARD the staging area returns to what is in effect; a commit that passes its checks
makes the staging area effective, whole; a staged region change under the region lock is refused and nothing
changes (R405, R406). -/
def Obligations.CommitMakesStagedEffective : Prop :=
  ∀ (s : State) (m : Fin 10) (pl : List Byte), s.holds m 0x102 pl →
    (nbit (byteAt pl 0) 2 = true → ∃ t, exec (.configCommit m) s = .next t ∧
      t.ended m 0 0 [0xFF, 0xFF, 0, 0] ∧ t.cfg = { s.cfg with staged := s.cfg.eff }) ∧
    (nbit (byteAt pl 0) 2 = false → nbit (byteAt pl 0) 1 = false → s.cfg.lock = 0 →
      s.cfg.staged.n = s.cfg.eff.n → commitCheck s (nbit (byteAt pl 0) 0) = none →
      ∃ t, exec (.configCommit m) s = .next t ∧ t.ended m 0 0 [0xFF, 0xFF, 0, 0] ∧
        t.cfg = { s.cfg with eff := s.cfg.staged } ∧ t.doms = s.doms ∧ t.ports = s.ports) ∧
    (nbit (byteAt pl 0) 2 = false → s.cfg.lock.getLsbD 1 = true →
      regionsDiffer s.cfg.staged s.cfg.eff = true → ∃ t, exec (.configCommit m) s = .next t ∧
        t.ended m 6 0x102 [0xFF, 0xFF, 0, 0] ∧ s.onlyMail t m)

/-- REGION_SET stages an entry without its reserved bits, REGION_GET reads the staged or the effective entry,
and neither changes what is in effect (R136, R405).
PROXIMITY_SET reads a row, or writes the cost row of its requesters; PORT_CONFIG caps the rate of one port
(R408). -/
def Obligations.RegionsCostsAndCaps : Prop :=
  (∀ (s : State) (m : Fin 10) (pl : List Byte), byteAt pl 0 ≤ 63 →
     (s.holds m 0x104 pl → s.cfg.lock.getLsbD 1 = false → ∃ t, exec (.regionSet m) s = .next t ∧
       t.ended m 0 0 [] ∧ t.cfg.eff = s.cfg.eff ∧ t.cfg.lock = s.cfg.lock ∧
       regionAt t.cfg.staged (byteAt pl 0) = BitVec.ofNat 128 (numAt pl 4 16) &&& rgMask ∧
       (∀ j, j ≠ byteAt pl 0 → regionAt t.cfg.staged j = regionAt s.cfg.staged j) ∧
       s.onlyMail { t with cfg := s.cfg } m) ∧
     (s.holds m 0x105 pl → byteAt pl 1 ≤ 1 → ∃ t r, exec (.regionGet m) s = .next t ∧
       t.ended m 0 0 r ∧ s.onlyMail t m ∧ r.length = 20 ∧
       numAt r 4 16
         = (regionAt (if byteAt pl 1 = 0 then s.cfg.eff else s.cfg.staged) (byteAt pl 0)).toNat)) ∧
  (∀ (s : State) (m : Fin 10) (pl : List Byte),
     (s.holds m 0x106 pl → byteAt pl 1 ≤ 127 → (s.dom (byteAt pl 0 % 8)).st ≠ .none →
       (nbit (byteAt pl 3) 0 = true → byteAt pl 2 ≠ 0 → byteAt pl 1 + byteAt pl 2 ≤ 128 →
         ∃ t, exec (.proximitySet m) s = .next t ∧
           t.ended m 0 0 (toBytes 18 (proxRow s (byteAt pl 0 % 8) (byteAt pl 1))) ∧ s.onlyMail t m) ∧
       (nbit (byteAt pl 3) 0 = false → s.cfg.lock.getLsbD 1 = false → byteAt pl 2 = 1 →
         ∃ t, exec (.proximitySet m) s = .next t ∧ t.ended m 0 0 [] ∧ t.ports = s.ports ∧ t.cfg = s.cfg ∧
           ∀ c, c < 48 → tget 3 (t.dom (byteAt pl 0 % 8)).prox (48 * byteAt pl 1 + c)
             = BitVec.ofNat 3 (numAt pl 4 18 / 8 ^ c))) ∧
     (s.holds m 0x107 pl → byteAt pl 0 ≤ 19 → byteAt pl 1 ≤ 2 → s.cfg.lock.getLsbD 0 = false →
       ∃ t, exec (.portConfig m) s = .next t ∧ t.ended m 0 0 [] ∧ s.otherPorts t (byteAt pl 0) ∧
         t.port (byteAt pl 0) = (let q := s.port (byteAt pl 0)
           { q with link := { q.link with rateCap := BitVec.ofNat 2 (byteAt pl 1) } }) ∧
         s.onlyMail { t with ports := s.ports } m))

/-! ## Link and power commands (15_commands.md, 10_kettle.md, 11_load_forecast.md) -/

/-- LINK_STATUS answers eight bytes a port; LINK_COUNTERS answers a port's sixteen counters and with CLR
zeroes them (R76, Table 15-12).
LINK_MARGIN on a port in L0 at 16 GT/s or more answers four bytes within the bounds of its request, and
SPAN_SPARE keeps the mode it is given (R266, R269, R415).
What a margin request measures is a free value within its bounds (log 30). -/
def Obligations.LinkCommandsReadAndSet : Prop :=
  (∀ (s : State) (m : Fin 10) (pl : List Byte),
     (s.holds m 0x300 pl → ∃ t, exec (.linkStatus m) s = .next t ∧
       t.ended m 0 0 (allPorts.flatMap (portBytes s)) ∧ s.onlyMail t m) ∧
     (s.holds m 0x303 pl → byteAt pl 0 ≤ 19 → ∃ t r, exec (.linkCounters m) s = .next t ∧ t.ended m 0 0 r ∧
       (∀ i, i < 16 → numAt r (4 * i) 4 = s.cnt (byteAt pl 0) i % 2 ^ 32) ∧
       (nbit (byteAt pl 1) 0 = false → s.onlyMail t m) ∧
       (nbit (byteAt pl 1) 0 = true → (∀ i, t.cnt (byteAt pl 0) i = 0) ∧ s.otherPorts t (byteAt pl 0) ∧
         (t.port (byteAt pl 0)).link = (s.port (byteAt pl 0)).link ∧
         s.onlyMail { t with ports := s.ports } m))) ∧
  (∀ (s : State) (m : Fin 10) (pl : List Byte),
     (s.holds m 0x302 pl → byteAt pl 0 ≤ 19 → byteAt pl 1 ≤ 7 → 1 ≤ byteAt pl 3 → byteAt pl 3 ≤ 127 →
       1 ≤ byteAt pl 4 → byteAt pl 4 ≤ 63 → (s.port (byteAt pl 0)).link.st = .l0 →
       16 ≤ (s.port (byteAt pl 0)).link.rate → ∃ t r, exec (.linkMargin m) s = .next t ∧ t.ended m 0 0 r ∧
         r.length = 4 ∧ 1 ≤ numAt r 0 1 ∧ numAt r 0 1 ≤ byteAt pl 3 ∧
         s.onlyMail { t with free := s.free } m) ∧
     (s.holds m 0x304 pl → byteAt pl 0 ≤ 2 → byteAt pl 1 ≤ 2 → byteAt pl 2 ≤ 7 → calm s = true →
       (byteAt pl 0 = 2 → s.home.s3 ≠ 2) →
       ∃ t, exec (.spanSpare m) s = .next t ∧ t.ended m 0 0 [] ∧ t.home.s3 = byteAt pl 0 ∧
         t.home.s3dim = byteAt pl 1 ∧ t.ports = s.ports ∧ t.doms = s.doms))

/-- LINK_RETRAIN of a port that is Down puts it into training and the command goes on until the training has
ended; an agent of a started domain is not retrained without FORCE, and with it the domain goes down (R414). -/
def Obligations.LinkRetrainStartsTraining : Prop :=
  ∀ (s : State) (m : Fin 10) (pl : List Byte), s.holds m 0x301 pl → byteAt pl 0 ≤ 19 →
    (retrainRefused s (byteAt pl 0) = false → s.up (byteAt pl 0) = false →
      portUsed s (byteAt pl 0) = true → ∃ t, exec (.linkRetrain m) s = .next t ∧
        (t.port (byteAt pl 0)).link
          = { (s.port (byteAt pl 0)).link with st := .training, retrain := some m, coeff := none,
                                               wakeTrain := false } ∧
        (t.mb m).st = .busy ∧ (t.mb m).running = true ∧ s.otherPorts t (byteAt pl 0)) ∧
    (∀ d, nbit (byteAt pl 1) 0 = true → byteAt pl 0 < 16 → (s.port (byteAt pl 0)).mem.dom = some d →
      (s.dom d).st.inService = true → ∃ t, exec (.linkRetrain m) s = .next t ∧ t.domDown d 2 ∧
        t.raised 14 (some d) ∧ (t.port (byteAt pl 0)).link.st = .training ∧
        (t.port (byteAt pl 0)).link.retrain = some m.val) ∧
    (nbit (byteAt pl 1) 0 = false → retrainRefused s (byteAt pl 0) = true →
      ∃ t, exec (.linkRetrain m) s = .next t ∧ t.ended m 6 0x302 [] ∧ s.onlyMail t m)

/-- POWER_STATE answers the Kettle's registers in its three forms; the form CLEAR zeroes the counters
(R311, R416).
POWER_POLICY writes the hub's policy, and the parameters of one agent port once they are in range;
FORECAST_STATUS answers a port's forecaster and with CLEAR zeroes its counters (R289, R325, R328). -/
def Obligations.PowerCommandsReadAndSet : Prop :=
  (∀ (s : State) (m : Fin 10) (pl : List Byte), s.holds m 0x400 pl →
     (byteAt pl 0 = 0 → ∃ t, exec (.powerStateRead m) s = .next t ∧ t.ended m 0 0 (ktBytes s) ∧
       s.onlyMail t m) ∧
     (byteAt pl 0 = 1 → ∃ t, exec (.powerStateClear m) s = .next t ∧ t.ended m 0 0 (ktBytes s) ∧
       t.kt = ktClear s.kt ∧ s.onlyMail { t with kt := s.kt } m) ∧
     (byteAt pl 0 = 2 → ∃ t, exec (.powerStateWake m) s = .next t ∧ t.ended m 0 0 (ktBytes s) ∧
       s.onlyMail t m)) ∧
  (∀ (s : State) (m : Fin 10) (pl : List Byte),
     (s.holds m 0x401 pl → byteAt pl 0 = 0 → 1 ≤ numAt pl 4 2 → numAt pl 4 2 ≤ 4095 →
       ∃ t r, exec (.powerPolicyHub m) s = .next t ∧ t.ended m 0 0 r ∧ t.kt.run = nbit (byteAt pl 1) 0 ∧
         t.kt.steepEn = nbit (byteAt pl 1) 1 ∧ t.kt.dormantEn = nbit (byteAt pl 1) 2 ∧
         t.kt.portIdle = byteAt pl 2 ∧ t.kt.steepIdle = numAt pl 4 2 ∧ t.ports = s.ports) ∧
     (s.holds m 0x401 pl → byteAt pl 0 = 1 → byteAt pl 1 ≤ 15 → paramsOk (policyParams pl) = true →
       ∃ t r, exec (.powerPolicyPort m) s = .next t ∧ t.ended m 0 0 r ∧
         (t.port (byteAt pl 1)).fore.parNext = some (policyParams pl) ∧
         (t.port (byteAt pl 1)).link = (s.port (byteAt pl 1)).link ∧ s.otherPorts t (byteAt pl 1) ∧
         s.onlyMail { t with ports := s.ports } m) ∧
     (s.holds m 0x402 pl → byteAt pl 0 ≤ 15 →
       ∃ t, exec (.forecastStatus m) s = .next t ∧ t.ended m 0 0 (foreBytes s (byteAt pl 0)) ∧
         (nbit (byteAt pl 1) 0 = false → s.onlyMail t m) ∧
         (nbit (byteAt pl 1) 0 = true → (t.port (byteAt pl 0)).fore = foreClear (s.port (byteAt pl 0)).fore ∧
           s.otherPorts t (byteAt pl 0) ∧ s.onlyMail { t with ports := s.ports } m)))

/-! ## Domain commands (08_domains.md, 15_commands.md) -/

/-- DOMAIN_CREATE of a domain in NONE or CREATED sets its parameters and leaves it in CREATED; QUOTA_SET changes
the quotas alone; other domains stand (R245, R409). -/
def Obligations.DomainParametersAreSet : Prop :=
  ∀ (s : State) (m : Fin 10) (pl : List Byte), let d := byteAt pl 0 % 8
    (s.holds m 0x200 pl → (s.dom d).st = .none ∨ (s.dom d).st = .created → createOk pl = true →
      windowClash s d (createParams pl) = false →
      sumsOk s d (createParams pl).q (createParams pl).cq (createParams pl).mbq = true →
      ∃ t, exec (.domainCreate m) s = .next t ∧ t.ended m 0 0 [] ∧ (t.dom d).st = .created ∧
        (t.dom d).par = createParams pl ∧ ((s.dom d).st = .none → (t.dom d).epoch = 0) ∧
        (∀ e, e ≠ d → t.dom e = s.dom e) ∧ t.cfg = s.cfg) ∧
    (s.holds m 0x206 pl → (s.dom d).st ≠ .none →
      quotaOk (byteAt pl 1) (byteAt pl 2) (byteAt pl 3) (byteAt pl 4) = true →
      sumsOk s d (byteAt pl 1) (byteAt pl 3) (byteAt pl 4) = true →
      ∃ t, exec (.quotaSet m) s = .next t ∧ t.ended m 0 0 [] ∧ (t.dom d).st = (s.dom d).st ∧
        (t.dom d).par = { (s.dom d).par with q := byteAt pl 1, b := byteAt pl 2, cq := byteAt pl 3,
                                             mbq := byteAt pl 4 } ∧
        (∀ e, e ≠ d → t.dom e = s.dom e) ∧ t.ports = s.ports)

/-- AGENT_ADMIT enters an agent of this hub with its port, or the record of another hub's agent;
AGENT_EXPEL takes either out of the map (R246, R247, R410, R411). -/
def Obligations.AgentsEnterAndLeaveTheMap : Prop :=
  ∀ (s : State) (m : Fin 10) (pl : List Byte),
    let d := byteAt pl 1 % 8
    let dan := byteAt pl 2
    let p := byteAt pl 3
    (∀ c k, s.holds m 0x207 pl → byteAt pl 0 = 0 → admitState s d = true → p ≤ 15 →
      byteAt pl 4 = modeCode k → s.up p = true → (s.port p).link.capAcked = true → (s.port p).link.farCap = some c →
      (s.port p).mem.dom = none → dan ≤ 127 → (c.role.toNat ≤ 1 → dan ≤ 39) → s.agent d dan = none →
      (s.dom d).stale.getLsbD dan = false → (c.role.toNat ≤ 1 → (s.dom d).par.var = true → c.fcap = true) →
      kindFor s d c = some k → ∃ t r, exec (.agentAdmitPort m) s = .next t ∧ t.ended m 0 0 r ∧
        (∃ a, t.agent d dan = some a ∧ a.hub = s.hubId ∧ a.kind = k ∧ a.port = some p) ∧
        (t.port p).mem.dom = some d ∧ (t.port p).mem.dan = dan ∧ s.otherPorts t p ∧
        (∀ n, n ≠ dan → t.agent d n = s.agent d n)) ∧
    (s.holds m 0x207 pl → byteAt pl 0 = 1 → admitState s d = true →
      (recordAgent (byteAt pl 5)).hub ≠ s.hubId → (recordAgent (byteAt pl 5)).hub < s.hubs → dan ≤ 127 →
      ((recordAgent (byteAt pl 5)).kind = .caching ∨ (recordAgent (byteAt pl 5)).kind = .mirrored → dan ≤ 39) →
      s.agent d dan = none → (s.dom d).stale.getLsbD dan = false →
      ∃ t, exec (.agentAdmitRecord m) s = .next t ∧ t.ended m 0 0 [] ∧
        t.agent d dan = some (recordAgent (byteAt pl 5)) ∧ t.ports = s.ports ∧
        (∀ n, n ≠ dan → t.agent d n = s.agent d n)) ∧
    (∀ a, s.holds m 0x208 pl → (s.dom d).st = .created ∨ (s.dom d).st = .quiesced → (s.dom d).start = none →
      s.agent d dan = some a → isTarget s d dan = false →
      (byteAt pl 0 = 0 → a.hub = s.hubId → ∃ t, exec (.agentExpelPort m) s = .next t ∧ t.ended m 0 0 [] ∧
        t.agent d dan = none ∧ (t.dom d).st = (s.dom d).st ∧ (∀ n, n ≠ dan → t.agent d n = s.agent d n)) ∧
      (byteAt pl 0 = 1 → a.hub ≠ s.hubId → ∃ t, exec (.agentExpelRecord m) s = .next t ∧ t.ended m 0 0 [] ∧
        t.agent d dan = none ∧ t.ports = s.ports ∧ (∀ n, n ≠ dan → t.agent d n = s.agent d n)))

/-- DOMAIN_START with one hub takes a quiesced domain, or a created one whose directory is zero, to STARTED, and
with more hubs opens stage P; DOMAIN_STOP expels every agent and leaves CREATED or, with FREE, NONE
(R242, R243, R281). -/
def Obligations.DomainStartAndStop : Prop :=
  ∀ (s : State) (m : Fin 10) (pl : List Byte), let d := byteAt pl 0 % 8
    (s.dom d).start = none →
    (s.holds m 0x201 pl → (s.dom d).st = .quiesced ∨ (s.dom d).st = .created ∧ targetsOk s d = true →
      (s.hubs = 1 → (s.dom d).heldReqs = [] → ((s.dom d).st = .created → (s.dom d).zeroFlag = true) →
        ∃ t, exec (.domainStart m) s = .next t ∧ t.ended m 0 0 [] ∧ (t.dom d).st = .started ∧
          (t.dom d).start = none ∧ (t.dom d).epoch = (s.dom d).epoch ∧ (t.dom d).map = (s.dom d).map) ∧
      (s.hubs ≠ 1 → numAt pl 4 4 = digest s d → ∃ t, exec (.domainStart m) s = .next t ∧
        (t.mb m).st = .busy ∧ (t.mb m).running = true ∧ (t.dom d).st = (s.dom d).st ∧
        (t.dom d).start = some ⟨(s.dom d).st, .waitP, some m⟩)) ∧
    (s.holds m 0x203 pl → (s.dom d).st = .created ∨ (s.dom d).st = .quiesced →
      stopWaits s d = false → ∃ t, exec (.domainStop m) s = .next t ∧ t.ended m 0 0 [] ∧
        (t.dom d).st = (if nbit (byteAt pl 1) 0 then .none else .created) ∧
        (∀ n, n < 128 → t.agent d n = none) ∧ t.cfg = s.cfg)

/-- DOMAIN_QUIESCE of a started domain with nothing in service begins the quiesce and goes on until it has
ended; DOMAIN_STATUS answers the page it is asked for (R244, R412).
DIR_SWEEP: a zero sweep of a created domain begins, and at once ends well where there is no directory
region; a writeback sweep with no dirty way has ended (R262). -/
def Obligations.QuiesceStatusAndSweeps : Prop :=
  (∀ (s : State) (m : Fin 10) (pl : List Byte), let d := byteAt pl 0 % 8
     (s.holds m 0x202 pl → (s.dom d).st = .started → s.home.trackers = [] → s.home.wbs = [] →
       s.home.merges = [] → (∀ p, (s.port p).gateBuf = []) → ∃ t, exec (.domainQuiesce m) s = .next t ∧
         (t.dom d).st = .quiescing ∧ (t.dom d).quiesceMbx = some m ∧ (t.mb m).st = .busy ∧
         (t.mb m).running = true ∧ (∀ e, e ≠ d → t.dom e = s.dom e)) ∧
     (s.holds m 0x204 pl → byteAt pl 1 ≤ 2 → ∃ t, exec (.domainStatus m) s = .next t ∧
       t.ended m 0 0 (statusPage s d (byteAt pl 1)) ∧ (t.dom d).st = (s.dom d).st ∧
       (t.dom d).naks = (if nbit (byteAt pl 2) 0 then [] else (s.dom d).naks) ∧ t.ports = s.ports)) ∧
  (∀ (s : State) (m : Fin 10) (pl : List Byte), let d := byteAt pl 0 % 8
     s.holds m 0x205 pl → (s.dom d).start = none →
     (byteAt pl 1 = 1 → (s.dom d).st = .created → ∃ t, exec (.dirSweepZero m) s = .next t ∧
       ((s.dom d).par.twSize ≠ 0 → (t.dom d).sweep = some ⟨true, false, 0, [], some m⟩ ∧
         (t.mb m).running = true) ∧
       ((s.dom d).par.twSize = 0 → (t.dom d).zeroFlag = true ∧ (t.dom d).stale = 0 ∧
         (t.dom d).sweep = none ∧ t.ended m 0 0 [])) ∧
     (byteAt pl 1 = 0 → (s.dom d).st = .started ∨ (s.dom d).st = .quiesced →
       ∃ t, exec (.dirSweepWriteback m) s = .next t ∧
         ((s.dom d).sweep = none → nextDirty s d 0 = none → (t.dom d).sweep = none ∧ t.ended m 0 0 []) ∧
         (nextDirty s d 0 ≠ none → (∃ o, (t.dom d).sweep = some ⟨false, false, 0, o, some m⟩) ∧
           (t.mb m).running = true)))

/-! ## The machine -/

/-- Step takes the command at the front of the queue and runs it on the state with the rest of the queue. An
empty queue idles: one ac passes and nothing else happens, which is the model's own choice (log 1). -/
def Obligations.StepTakesTheFrontCommand : Prop :=
  (∀ (s : State) (c : Instr) (rest : List Instr),
    step { s with pending := c :: rest } = exec c { s with pending := rest }) ∧
  ∀ s : State, step { s with pending := [] } = .next { s with pending := [], uptime := s.uptime + 1 }

/-- No command changes the queue of waiting commands: whatever a command does, the queue that the step
left stands. -/
def Obligations.EveryCommandLeavesTheQueue : Prop :=
  ∀ (c : Instr) (s t : State), exec c s = .next t → t.pending = s.pending

/-- The Grave state is left through a power-on reset alone (R371, R373): no other command, whatever its operands,
takes a hub out of it. -/
def Obligations.GraveIsLeftOnlyByPowerOn : Prop :=
  ∀ (s t : State), s.flt.grave = true → (∀ c rest, s.pending = c :: rest → c ≠ .powerOnReset) →
    step s = .next t → t.flt.grave = true

/-- The stored memories keep their canonical form (R387, R430): from every state in which they have it, every step
leaves them in it, so that equal memories are equal data. -/
def Obligations.MemoriesStayCanonical : Prop :=
  ∀ (s t : State), s.canonical = true → step s = .next t → t.canonical = true

/-- What the spec gives at reset: the hub is not in the Grave state and no port is up (R483, R487), every domain is
NONE, N is 1 and no configuration lock is set (Table 15-5), every mailbox is IDLE, the collector has sixteen tokens
and no pending status, IT_INJ_CTL reads 0x00FF0000 (R345), RUN = 0, the PLL is starting in Warm (R285, R289). -/
def Obligations.ResetStandsAsTheSpecSays : Prop :=
  State.reset.pending = [] ∧ State.reset.flt.grave = false ∧ (∀ p, State.reset.up p = false) ∧
    (∀ d, (State.reset.dom d).st = .none) ∧ State.reset.hubs = 1 ∧ State.reset.cfg.lock = 0 ∧
    (∀ m, (State.reset.mb m).st = .idle) ∧ State.reset.flt.tokens = 16 ∧ State.reset.flt.status = 0 ∧
    State.reset.integ.injCtl = 0x00FF0000 ∧ State.reset.kt.run = false ∧ State.reset.kt.st = .warm ∧
    State.reset.kt.pllOn = true ∧ State.reset.home.trackers = [] ∧ State.reset.fw.boot = .rom ∧
    ramWf State.reset.mbram = true ∧ ramWf State.reset.nvm = true ∧ ramWf State.reset.fwram = true

/-- A slot says what it was filled with: every message but for a snoop answer with an unused NST or a POI is read back
from its control or header slot (Tables 03-2 to 03-12), every link-control message that a kind of port may send is
read back from its slot (Table 02-8), and home tags and tickets keep hub, slice and tracker (R83). -/
def Obligations.SlotsReadBackAsWritten : Prop :=
  (∀ m : Msg, (∀ op f d, m = .ans op f d → (op.usesNst = true ∨ f.nst = 0) ∧ f.poi = false) →
    decodeSlot m.isData (encodeSlot m) = some (m.withData 0)) ∧
  (∀ (span : Bool) (c : LinkCtl), (match c with
      | .cap _ | .linkDown _ => True
      | .pwi _ => span = false
      | _ => span = true) → decodeCtl span (encodeCtl c) = some c) ∧
  ∀ hub sl t k : Nat, hub < 8 → sl < 17 → t < 64 → k < 4 →
    htagHub (mkHtag hub sl t) = hub ∧ htagSlice (mkHtag hub sl t) = sl ∧ htagTracker (mkHtag hub sl t) = t ∧
    ticketHub (mkTicket hub sl t k) = hub ∧ ticketSlice (mkTicket hub sl t k) = sl ∧
    ticketTracker (mkTicket hub sl t k) = t ∧ ticketPlace (mkTicket hub sl t k) = k

/-! ## The link (02_tlanyx_link.md) -/

/-- Detect and training (R38 to R41, R43, R50, R71): a receiver found puts the port into training, none found leaves
it waiting; a training that has formed a rate and a width reaches L0 with sequence numbers, replay buffer and
credits at their start, and CAP is the first thing the hub sends; one that forms no rate or no width leaves the
port Down and is reported, and one whose far end asks for Loopback or Compliance enters that state. -/
def Obligations.LinkTrainingReachesL0 : Prop :=
  ∀ (s : State) (p : Fin 20), s.clocked = true → portUsed s p = true →
    ((s.port p).link.st.detects = true →
      (∃ t, exec (.portDetect p true) s = .next t ∧ (t.port p).link.st = .training ∧ s.otherPorts t p) ∧
      (∃ t, exec (.portDetect p false) s = .next t ∧ (t.port p).link.st = .noReceiver ∧
        s.otherPorts t p)) ∧
    ((s.port p).link.st = .training → ∀ r : Trained,
      let width := formedWidth p r
      let rate := trainedRate (s.port p).link r width
      (r.ending = .loopback → exec (.trainingComplete p r) s
        = .next (s.updLink p fun l => { l with st := .loopback })) ∧
      (r.ending = .compliance → exec (.trainingComplete p r) s
        = .next (s.updLink p fun l => { l with st := .compliance })) ∧
      (r.ending = .link → rate = 0 ∨ width = 0 → ∃ t, exec (.trainingComplete p r) s = .next t ∧
        s.otherPorts t p ∧ t.raised 0 none ∧ t.isDown p (s.port p).link.lastDown) ∧
      (r.ending = .link → rate ≠ 0 → width ≠ 0 → ∃ t, exec (.trainingComplete p r) s = .next t ∧
        s.otherPorts t p ∧ (t.port p).link.st = .l0 ∧ (t.port p).link.rate = rate ∧
        (t.port p).link.width = width ∧
        (t.port p).link.reversed = r.reversed ∧ (t.port p).tx.seq = 0 ∧ (t.port p).rx.seq = 0 ∧
        (t.port p).tx.replay = [] ∧ (t.port p).tx.credits = [] ∧
        (t.port p).tx.lcq = [.cap (hubCap s p)]))

/-- Replay and Recovery (R53, R54, R66, R74): the replay timer starts a replay from the oldest held flit, and the
fifth without progress is a Recovery; a far end that goes idle or enters Recovery takes the port there; at its
end every held flit is due again, unless the Recovery was a Simmer exit. -/
def Obligations.ReplayAndRecovery : Prop :=
  ∀ (s : State) (p : Fin 20),
    (∀ f rest, s.clocked = true → (s.port p).link.st = .l0 → (s.port p).tx.replay = f :: rest →
      ∃ t, exec (.replayTimeout p) s = .next t ∧ s.otherPorts t p ∧
        ((s.port p).tx.replays < 4 → (t.port p).tx.replayAt = some f.seq ∧
          (t.port p).tx.replays = (s.port p).tx.replays + 1 ∧ t.cnt p 5 = satAdd 32 (s.cnt p 5) 1 ∧
          t.cnt p 6 = satAdd 32 (s.cnt p 6) 1 ∧ (t.port p).link = (s.port p).link) ∧
        (4 ≤ (s.port p).tx.replays → (t.port p).link.st = .recovery ∧
          t.cnt p 7 = satAdd 32 (s.cnt p 7) 1)) ∧
    ((s.port p).link.st = .l0 →
      ((s.port p).link.hs ≠ .entering → ∃ t, exec (.farEndIdle p) s = .next t ∧ s.otherPorts t p ∧
        (t.port p).link.st = .recovery ∧ t.cnt p 7 = satAdd 32 (s.cnt p 7) 1) ∧
      ∃ t, exec (.farEndRecovery p) s = .next t ∧ s.otherPorts t p ∧
        (t.port p).link.st = .recovery ∧ t.cnt p 7 = satAdd 32 (s.cnt p 7) 1) ∧
    ((s.port p).link.st = .recovery → ∃ t, exec (.recoveryExit p) s = .next t ∧ s.otherPorts t p ∧
      (t.port p).link.st = .l0 ∧ (t.port p).link.exiting = false ∧
      (t.port p).tx.replay = (s.port p).tx.replay ∧
      ((s.port p).link.exiting = false → (t.port p).tx.replays = 0 ∧
        (t.port p).tx.replayAt = ((s.port p).tx.replay.head?).map TxFlit.seq) ∧
      ((s.port p).link.exiting = true → (t.port p).tx = (s.port p).tx))

/-- Links end (R42, R65, R66, R69): a received LINK_DOWN, a Recovery that fails and a CAP that never comes take the
port Down, held, with its reason and its counter; a failed capability exchange sends LINK_DOWN with reason 0x06 in
four flits, behind everything the transmitter has numbered.
A span port whose Simmer exit began with the wake net high and goes on as a Recovery that fails keeps its
coefficients and waits for training (R303). -/
def Obligations.LinksEndHeld : Prop :=
  ∀ (s : State) (p : Fin 20),
    (∀ reason, s.up p = true → ∃ t, exec (.linkDown p reason) s = .next t ∧ t.isDown p reason ∧
      t.cnt p 12 = satAdd 32 (s.cnt p 12) 1 ∧ t.raised 2 (s.port p).mem.dom) ∧
    ((s.port p).link.st = .recovery →
      ¬((s.port p).link.exiting = true ∧ 16 ≤ p.val ∧ (s.port p).link.netHigh = true) →
      ∃ t, exec (.recoveryTimeout p) s = .next t ∧ t.isDown p (s.port p).link.lastDown ∧
        t.raised 2 (s.port p).mem.dom) ∧
    ((s.port p).link.st = .recovery → (s.port p).link.exiting = true → 16 ≤ p.val →
      (s.port p).link.netHigh = true →
      ∃ t, exec (.recoveryTimeout p) s = .next t ∧ s.otherPorts t p ∧ t.doms = s.doms ∧
        (t.port p).link.st = .noReceiver ∧ (t.port p).link.wakeTrain = true ∧
        (t.port p).link.coeff = some ((s.port p).link.rate, (s.port p).link.width)) ∧
    (s.clocked = true → s.up p = true → capSeen (s.port p) = false → ∃ t,
      exec (.capTimeout p) s = .next t ∧
      t.isDown p 6 ∧ t.cnt p 11 = satAdd 32 (s.cnt p 11) 1 ∧ t.raised 0 none ∧
      (t.port p).tx.wire
        = (upto 4).map (downFlit (s.port p).tx (s.port p).rx 6))

/-- The capability exchange (R67, R68, R70, R71): a CAP that passes the checks is recorded and acknowledged with
result 0; one that fails takes the port Down with PORT_ROLE; both acknowledgements of a span port done, its
credits are granted; an ASSIGN that waited for a RELEASE follows its acknowledgement. -/
def Obligations.CapabilitiesAreExchanged : Prop :=
  ∀ (s : State) (p : Fin 20),
    (∀ c, s.clocked = true → s.up p = true → (s.port p).link.farCap = none →
      (capResult s p c = 0 → ∃ t, exec (.cap p c) s = .next t ∧ s.otherPorts t p ∧
        (t.port p).link.farCap = some c ∧ (t.port p).link.capAcked = true ∧
        (t.port p).link.st = (s.port p).link.st ∧ .capAck 0 (BitVec.ofNat 5 p) ∈ (t.port p).tx.lcq) ∧
      (capResult s p c ≠ 0 → ∃ t, exec (.cap p c) s = .next t ∧ t.raised 3 none ∧
        t.isDown p (if capResult s p c = 2 then 9 else 5))) ∧
    (∀ port, 16 ≤ p.val → s.up p = true → (s.port p).link.peerAck = false →
      ∃ t, exec (.capAck p 0 port) s = .next t ∧ s.otherPorts t p ∧ (t.port p).link.peerAck = true ∧
        ((s.port p).link.capAcked = true → (t.port p).rx.returns = spanCredits)) ∧
    (∀ a : Fin 16, releaseAcked (s.port a) = true → ∃ t, exec (.assignAfterRelease a) s = .next t ∧
      s.otherPorts t a ∧ (t.port a).mem.relWait = false ∧
      (∀ d, (s.port a).mem.assignQ.isSome = true → (s.port a).mem.dom = some d → s.up a = true →
        (t.port a).rx.returns = agentCredits ∧ ∃ x, (t.port a).mem.sent = some x ∧
          x.dom = BitVec.ofNat 3 d ∧ x.dan = BitVec.ofNat 7 (s.port a).mem.dan ∧
          .assign x ∈ (t.port a).tx.lcq))

/-- Simmer entry (R72, R73): a request is accepted only by a port with nothing to send on a hub with nothing to do;
an acceptance lets the lanes go idle; a refusal, or no answer, ends the request; the entry complete, the port is
in Simmer and the entry is counted; an idle port asks for Simmer (R296).
Simmer exit (R74, R293, R296): the far end's exit brings the port to L0 and wakes a hub in Steep, with the port
as the cause; the hub begins an exit that is due; an exit that takes too long goes on as a Recovery. -/
def Obligations.SimmerIsEnteredAndLeft : Prop :=
  (∀ (s : State) (p : Fin 20),
     ((s.port p).link.st = .l0 →
       (s.clocked = true → (s.port p).link.hs = .idle → ∃ t, exec (.simmerRequest p) s = .next t ∧
         s.otherPorts t p ∧
         (simmerReady (s.port p) = true → hubBusy s = false → (t.port p).tx.pm = 2 ∧
           (t.port p).link.hs = .entering) ∧
         (simmerReady (s.port p) = false ∨ hubBusy s = true → (t.port p).tx.pm = 3 ∧
           (t.port p).link.hs = .idle ∧ (t.port p).link.refused = true)) ∧
       ((s.port p).link.hs ≠ .entering → ∃ t, exec (.simmerAccept p) s = .next t ∧ s.otherPorts t p ∧
         (t.port p).link.hs = .entering ∧ (t.port p).link.st = .l0) ∧
       ((s.port p).link.hs = .entering → handshakeDone (s.port p) = true →
         ∃ t, exec (.simmerEntryComplete p) s = .next t ∧ s.otherPorts t p ∧
         (t.port p).link.st = .simmer ∧ (t.port p).link.hs = .idle ∧
         t.cnt p 8 = satAdd 32 (s.cnt p 8) 1 ∧
         (t.port p).link.exiting = ((s.port p).link.exitDue || hubBusy s)) ∧
       (s.clocked = true → s.kt.portIdle ≠ 0 → hubBusy s = false → (s.port p).link.hs = .idle →
         simmerReady (s.port p) = true → ∃ t, exec (.portIdleTimeout p) s = .next t ∧ s.otherPorts t p ∧
           (t.port p).tx.pm = 1 ∧ (t.port p).link.hs = .requested false)) ∧
     (∀ b, (s.port p).link.hs = .requested b → ∃ t, exec (.simmerRefuse p) s = .next t ∧
       s.otherPorts t p ∧ (t.port p).link.hs = .idle ∧ (t.port p).link.refused = true) ∧
     ((s.port p).link.hs = .requested true → ∃ t, exec (.simmerRequestTimeout p) s = .next t ∧
       s.otherPorts t p ∧ (t.port p).link.hs = .idle ∧ (t.port p).link.refused = true)) ∧
  (∀ (s : State) (p : Fin 20), (s.port p).link.st = .simmer →
     (s.alive = true → ∃ t, exec (.simmerExit p) s = .next t ∧ (t.port p).link.st = .l0 ∧
       (t.port p).link.exiting = false ∧
       (s.kt.st = .steep → (s.port p).link.exiting = false → t.kt.st = .warm ∧
         t.kt.cause = s.kt.cause ||| BitVec.ofNat 32 (causePort p))) ∧
     (s.clocked = true → (s.port p).link.exiting = false →
       (s.port p).link.exitDue = true ∨ hubBusy s = true → ∃ t, exec (.simmerExitStart p) s = .next t ∧
         s.otherPorts t p ∧ (t.port p).link
           = { (s.port p).link with exiting := true, exitDue := false, netHigh := s.kt.net }) ∧
     (s.alive = true → ∃ t, exec (.simmerExitSlow p) s = .next t ∧ (t.port p).link.st = .recovery ∧
       (t.port p).link.exiting = true ∧ t.cnt p 9 = satAdd 32 (s.cnt p 9) 1))

/-- FLIT_RECEIVE on a port in L0 (R44, R49, R51, R52, R66): a flit that fails its CRC is counted and asked for again;
the expected flit moves the receiver on and its message is delivered at the cost of a credit; an old one is
counted and dropped; one out of order is asked for again; an ACK frees what it covers; a reserved FK and a
LINK_DOWN take the port Down.
That nothing of a dropped flit is applied, its ACK and RPQ included, is the reading of log 42. -/
def Obligations.FlitsAreReceived : Prop :=
  ∀ (s : State) (p : Fin 20) (f : RawFlit), f.slots.length = 14 → s.clocked = true →
    (s.port p).link.st = .l0 → f.fecCorr = 0 →
    (f.crcOk = false → f.fk ≠ 1 → ∃ t, exec (.flitReceive p f) s = .next t ∧ s.otherPorts t p ∧
      t.cnt p 1 = satAdd 32 (s.cnt p 1) 1 ∧ (t.port p).rx = { (s.port p).rx with rpq := true } ∧
      (t.port p).tx = (s.port p).tx) ∧
    (f.crcOk = true → 2 ≤ f.fk.toNat → ∃ t, exec (.flitReceive p f) s = .next t ∧ t.isDown p 1) ∧
    (∀ r, f.crcOk = true → f.fk = 0 → downSlot f = some r → ∃ t, exec (.flitReceive p f) s = .next t ∧
      t.isDown p r) ∧
    (∀ i, f.crcOk = true → f.fk = 1 → f.ackv = true → f.rpq = false →
      ((s.port p).tx.replay.findIdx? fun g => g.seq == f.ack) = some i →
      ∃ t, exec (.flitReceive p f) s = .next t ∧ s.otherPorts t p ∧
        (t.port p).tx.replay = (s.port p).tx.replay.drop (i + 1) ∧ (t.port p).tx.replays = 0 ∧
        (t.port p).rx = (s.port p).rx) ∧
    (f.crcOk = true → f.fk = 0 → downSlot f = none →
      (let back := ((s.port p).rx.seq - f.seq).toNat
       (1 ≤ back → back ≤ 64 → ∃ t, exec (.flitReceive p f) s = .next t ∧ s.otherPorts t p ∧
          t.cnt p 3 = satAdd 32 (s.cnt p 3) 1 ∧ (t.port p).rx = (s.port p).rx ∧
          (t.port p).tx = (s.port p).tx) ∧
       (64 < back → ∃ t, exec (.flitReceive p f) s = .next t ∧ s.otherPorts t p ∧
          t.cnt p 2 = satAdd 32 (s.cnt p 2) 1 ∧ (t.port p).rx = { (s.port p).rx with rpq := true } ∧
          (t.port p).tx = (s.port p).tx)) ∧
      (∀ m bits, f.ackv = false → f.rpq = false → f.seq = (s.port p).rx.seq → f.pm = 0 →
        crValid (f.cr 0) = false → crValid (f.cr 1) = false → f.kind 0 = 2 → f.slots[0]? = some bits →
        decodeSlot false bits = some m → m.reservedValue = false →
        mayFar (decide (16 ≤ p.val)) (s.port p).link.farCap m = true → (s.port p).rx.opens = [] →
        tget 0 (s.port p).rx.granted (msgKey p m) ≠ 0 →
        (∀ i, 1 ≤ i → i < 14 → f.kind i = 0 ∧ f.slots[i]? = some 0) →
        ∃ t, exec (.flitReceive p f) s = .next t ∧ s.otherPorts t p ∧
          (t.port p).rx.seq = (s.port p).rx.seq + 1 ∧ (t.port p).rx.any = true ∧
          (t.port p).rx.rpq = false ∧ (t.port p).rx.inbox = (s.port p).rx.inbox ++ [.msg m] ∧
          tget 0 (t.port p).rx.granted (msgKey p m) = tget 0 (s.port p).rx.granted (msgKey p m) - 1))

/-- FLIT_TRANSMIT on a port in L0 (R49, R50, R52, R53, R60, R62): a replay sends the held flit again, as it was,
with the acknowledgement of the moment; otherwise one flit of fourteen slots goes out, which is idle and leaves
the transmitter as it was, or takes the next sequence number and is held; link control comes first; with 64
flits held only idle flits go out. -/
def Obligations.FlitsAreTransmitted : Prop :=
  ∀ (s : State) (p : Fin 20), s.clocked = true → (s.port p).link.st = .l0 →
    (∀ n f rest, (s.port p).tx.replayAt = some n →
      ((s.port p).tx.replay.dropWhile fun g => g.seq != n) = f :: rest →
      ∃ t, exec (.flitTransmit p) s = .next t ∧ s.otherPorts t p ∧
        (t.port p).tx.wire = [{ f with ack := (s.port p).rx.seq - 1, ackv := (s.port p).rx.any,
                                       rpq := (s.port p).rx.rpq }] ∧
        (t.port p).tx.seq = (s.port p).tx.seq ∧ (t.port p).tx.replay = (s.port p).tx.replay ∧
        (t.port p).tx.replayAt = (rest.head?).map TxFlit.seq) ∧
    ((s.port p).tx.replayAt = none →
      (64 ≤ (s.port p).tx.replay.length → ∃ t, exec (.flitTransmit p) s = .next t ∧ s.otherPorts t p ∧
        (t.port p).tx = { (s.port p).tx with wire := [idleFlit (s.port p)] }) ∧
      ((s.port p).tx.replay.length < 64 → ∃ t f, exec (.flitTransmit p) s = .next t ∧ s.otherPorts t p ∧
        (t.port p).tx.wire = [f] ∧ f.slots.length = 14 ∧ f.ack = (s.port p).rx.seq - 1 ∧
        f.ackv = (s.port p).rx.any ∧ f.rpq = (s.port p).rx.rpq ∧ f.crs.length ≤ 2 ∧
        (f.idle = true → (t.port p).tx.seq = (s.port p).tx.seq ∧
          (t.port p).tx.replay = (s.port p).tx.replay) ∧
        (f.idle = false → f.seq = (s.port p).tx.seq ∧ (t.port p).tx.seq = (s.port p).tx.seq + 1 ∧
          (t.port p).tx.replay = (s.port p).tx.replay ++ [f]) ∧
        (∀ c rest, (s.port p).tx.lcq = c :: rest → (s.port p).tx.opens = [] →
          (s.port p).link.hs ≠ .entering → f.idle = false ∧ f.slots.head? = some (.ctl c))))

/-! ## The Kettle (10_kettle.md) -/

/-- The PLL (R285, R290): a lock brings a Warm hub without RUN to Boil; an attempt that takes too long is counted
and restarted, the fourth in a row gives up and is reported; a lost lock takes the hub to Warm and is tried again.
Droop stretch (R308, R309): it goes up in two steps and down again, an episode is counted when it begins and
measured when it ends, and one that lasts is reported.
How attempts are counted is the reading of log 36. -/
def Obligations.ClocksLockAndStretch : Prop :=
  (∀ s : State, s.alive = true →
     (s.kt.pllOn = true → s.kt.pllLock = false →
       (∃ t, exec .pllLock s = .next t ∧ t.kt.pllLock = true ∧ t.kt.attempts = 0 ∧
         t.kt.lastAc = min (s.uptime - s.kt.pllFrom) 255 ∧
         t.kt.st = (if s.kt.st = .warm ∧ s.kt.run = false then .boil else s.kt.st) ∧
         { t with kt := s.kt } = s) ∧
       ∃ t, exec .pllLockTimeout s = .next t ∧ t.kt.fails = satAdd 8 s.kt.fails 1 ∧
         (s.kt.attempts < 4 → t.kt.attempts = s.kt.attempts + 1 ∧ t.kt.pllOn = true ∧
           t.flt = s.flt) ∧
         (4 ≤ s.kt.attempts → t.kt.pllOn = false ∧ t.kt.gaveUp = true ∧ t.raised 32 none)) ∧
     (s.kt.pllLock = true → ∃ t, exec .pllLockLoss s = .next t ∧ t.kt.pllLock = false ∧
       t.kt.st = (if s.kt.st = .boil then .warm else s.kt.st) ∧
       (s.kt.run = false → s.kt.gaveUp = false → t.kt.pllOn = true ∧ t.kt.attempts = 1) ∧
       { t with kt := s.kt } = s)) ∧
  (∀ s : State, s.clocked = true →
     (s.kt.stretch < 2 → ∃ t, exec .droopStretch s = .next t ∧ t.kt.stretch = s.kt.stretch + 1 ∧
       t.kt.episodes = (if s.kt.stretch = 0 then satAdd 16 s.kt.episodes 1 else s.kt.episodes) ∧
       { t with kt := s.kt } = s) ∧
     (s.kt.stretch = 1 ∨ s.kt.stretch = 2 → ∃ t, exec .droopEase s = .next t ∧
       t.kt.stretch = s.kt.stretch - 1 ∧ s.kt.longest ≤ t.kt.longest ∧ { t with kt := s.kt } = s) ∧
     (s.kt.stretch ≠ 0 → ∃ t, exec .stretchEpisodeLong s = .next t ∧ t.raised 33 none ∧
       { t with flt := s.flt } = s))

/-- Steep (R291, R292, R293, R300, R301, R314): an idle hub asks every quiet port for Simmer and then stops its
clocks; an edge of a wake pin or a low wake net brings it back to Warm with its cause recorded.
Dormant (R302, R305, R306, R461): at its entry every port is Down without LINK_DOWN, the ports that were up are
remembered and both target datapaths are gated; the ASSIGNs go out again once a port has trained; a port that does
not train in time is counted and given up.
Which port a wake net cause names, and how the ASSIGNs wait, are readings of log 36. -/
def Obligations.SteepAndDormantComeAndGo : Prop :=
  (∀ s : State, s.alive = true →
     (s.kt.st = .boil ∨ s.kt.st = .warm → steepConds s = true → ∃ t, exec .steepIdleElapsed s = .next t ∧
       t.kt = { s.kt with st := .enterSteep } ∧
       ∀ p : Fin 20, (s.port p).link.st = .l0 → (s.port p).link.hs = .idle →
         simmerReady (s.port p) = true → (t.port p).link.hs = .requested false ∧ (t.port p).tx.pm = 1) ∧
     (s.kt.st = .enterSteep → (∀ p : Fin 20, s.up p = true → (s.port p).link.st = .simmer ∧
         (s.port p).link.exiting = false) → ∃ t, exec .stopStep s = .next t ∧ t.kt.st = .steep ∧
       t.kt.pllOn = false ∧ t.kt.pllLock = false ∧ t.kt.steepIn = satAdd 32 s.kt.steepIn 1 ∧
       ∀ a : Fin 16, (t.port a).fore.phase = .none ∧ (t.port a).fore.ldh = 0 ∧
         (t.port a).link = (s.port a).link) ∧
     (s.kt.st = .steep →
       (∀ a : Fin 16, ∃ t, exec (.wakeNEdge a) s = .next t ∧ t.kt.st = .warm ∧
         t.kt.cause = s.kt.cause ||| BitVec.ofNat 32 (causePin a) ∧ t.kt.netPull = true) ∧
       (s.kt.netPull = false → ∃ t, exec .wakeNetFall s = .next t ∧ t.kt.st = .warm ∧
         t.kt.cause = s.kt.cause ||| BitVec.ofNat 32 causeNet ∧ t.kt.netPull = true))) ∧
  (∀ s : State,
     (s.alive = true → s.kt.st = .steep → s.kt.netPull = false → ∃ t, exec .dormantEntry s = .next t ∧
       t.kt.st = .dormant ∧ t.kt.net = true ∧ t.kt.dormantIn = satAdd 16 s.kt.dormantIn 1 ∧
       t.smb.gated0 = true ∧ t.smb.gated1 = true ∧
       ∀ p : Fin 20, t.up p = false ∧ (t.port p).link.upAtDormant = s.up p ∧
         (t.port p).mem = (s.port p).mem) ∧
     (s.clocked = true → ∃ t, exec .dormantAssign s = .next t ∧
       t.kt = { s.kt with st := if s.kt.st = .leaveDormant then runState s.kt else s.kt.st } ∧
       ∀ (a : Fin 16) (d : Nat), (s.port a).link.wakeTrain = true → s.up a = true →
         (s.port a).link.farCap.isSome = true → (s.port a).mem.sent.isSome = true →
         (s.port a).mem.dom = some d → (s.port a).mem.relWait = false →
         (t.port a).link.wakeTrain = false ∧ (t.port a).rx.returns = agentCredits ∧
         ∃ x, .assign x ∈ (t.port a).tx.lcq ∧ x.dom = BitVec.ofNat 3 d) ∧
     (∀ p : Fin 20, s.alive = true → (s.port p).link.wakeTrain = true → s.up p = false →
       ∃ t, exec (.wakeTrainingTimeout p) s = .next t ∧ t.kt.wakeFail = satAdd 16 s.kt.wakeFail 1 ∧
         (t.port p).link.wakeTrain = false ∧ (p.val < 16 → (t.port p).link.st = .held) ∧
         (16 ≤ p.val → t.raised 4 none ∧ s.otherPorts t p)))

/-! ## The forecaster (11_load_forecast.md) -/

/-- The hints (R313, R317, R318, R320): a WATCH that ends leaves no event; a fall hint ends with code 0b00; eight busy
windows and then silence give the fall hint; a deferred code is driven when the hold of the last change ends; a
large rise drives 0b10 before its ramp.
Droop edges and windows (R315, R320, R322, R325): an edge is counted, or counted apart while the hub clock is
stopped; the first edge of an event raises L by two steps and halves S within their bounds; a window boundary
brings new parameters into effect. -/
def Obligations.HintsAndEdgesAdapt : Prop :=
  (∀ (s : State) (a : Fin 16),
     (foreRuns s a = true →
       ((s.port a).fore.phase = .watch → ∃ t, exec (.watchEnd a) s = .next t ∧ s.otherPorts t a ∧
         (t.port a).fore.phase = .none ∧ (t.port a).fore.large = false ∧
         (t.port a).link = (s.port a).link) ∧
       ((s.port a).fore.hint = true → ∃ t, exec (.fallHintEnd a) s = .next t ∧ s.otherPorts t a ∧
         (t.port a).fore.hint = false ∧ (t.port a).fore.ldh = 0) ∧
       (8 ≤ (s.port a).fore.busy → (s.port a).fore.windowReqs = 0 → ∃ t,
         exec (.fallSignature a) s = .next t ∧ s.otherPorts t a ∧ (t.port a).fore.busy = 0 ∧
         ((s.port a).fore.phase = .none → (t.port a).fore.hint = true ∧
           ((s.port a).fore.ldhHold = false → (t.port a).fore.ldh = 3))) ∧
       ((s.port a).fore.phase = .lead → (s.port a).fore.large = true → (s.port a).fore.imminent = false →
         ∃ t, exec (.largeRiseImminent a) s = .next t ∧ s.otherPorts t a ∧
           (t.port a).fore.imminent = true ∧
           ((s.port a).fore.ldhHold = false → (t.port a).fore.ldh = 2))) ∧
     (s.alive = true → (s.port a).fore.ldhHold = true → ∃ t, exec (.ldhDeferredChange a) s = .next t ∧
       s.otherPorts t a ∧ (t.port a).fore.ldhDue = none ∧
       (∀ c, (s.port a).fore.ldhDue = some c → (t.port a).fore.ldh = c) ∧
       ((s.port a).fore.ldhDue = none → (t.port a).fore.ldh = (s.port a).fore.ldh ∧
         (t.port a).fore.ldhHold = false))) ∧
  (∀ (s : State) (a : Fin 16), let f := (s.port a).fore
     (s.clocked = true → ∃ t, exec (.droopNEdge a) s = .next t ∧ s.otherPorts t a ∧
       (t.port a).fore.droopCnt = bump f.droopCnt ∧
       (f.phase ≠ .none → f.edgeInEvent = false → (t.port a).fore.lead = min (bounds f).leadMax (f.lead + 2) ∧
         (t.port a).fore.start = max (bounds f).floor (f.start / 2) ∧
         (t.port a).fore.stepsUp = bump f.stepsUp) ∧
       (f.phase = .none ∨ f.edgeInEvent = true → (t.port a).fore.lead = f.lead ∧
         (t.port a).fore.start = f.start)) ∧
     (s.clocked = false → s.alive = true → ∃ t, exec (.droopNEdge a) s = .next t ∧ s.otherPorts t a ∧
       (t.port a).fore = { f with droopLatched := bump f.droopLatched }) ∧
     (∀ n, s.clocked = true → (s.port a).ready = [] → s.home.wbs = [] →
       ∃ t, exec (.pacingWindow a n) s = .next t ∧ s.otherPorts t a ∧ (t.port a).fore.windowReqs = 0 ∧
         (t.port a).fore.par = f.parNext.getD f.par ∧ (t.port a).fore.parNext = none ∧
         (t.port a).link = (s.port a).link ∧ { t with ports := s.ports } = s))

/-- A PWI of an agent that declared it, holds ASSIGN and names a defined intent is recorded, and one that consents
to Dormant is kept as consent; any other PWI is counted as ignored (R99, R100, R299). -/
def Obligations.PwiIsRecordedOrIgnored : Prop :=
  ∀ (s : State) (a : Fin 16) (f : PwiF) (c : CapF), s.clocked = true → s.up a = true →
    (s.port a).link.farCap = some c →
    (c.pwic = true → (s.port a).mem.sent.isSome = true → 1 ≤ f.int.toNat → f.int.toNat ≤ 4 →
      ∃ t, exec (.pwi a f) s = .next t ∧ s.otherPorts t a ∧ (t.port a).fore.lastLead = f.lead ∧
        (t.port a).fore.lastLvl = f.lvl ∧ (t.port a).link = (s.port a).link ∧
        (t.port a).mem.consent = ((s.port a).mem.consent || decide (f.int = 4 ∧ f.lead = 0xFFF))) ∧
    (c.pwic = false ∨ (s.port a).mem.sent = none ∨ f.int = 0 ∨ 4 < f.int.toNat →
      ∃ t, exec (.pwi a f) s = .next t ∧ s.otherPorts t a ∧
        (t.port a).fore = { (s.port a).fore with pwiIgnored := bump (s.port a).fore.pwiIgnored } ∧
        (t.port a).mem = (s.port a).mem ∧ (t.port a).link = (s.port a).link ∧
        { t with ports := s.ports } = s)

/-! ## Integrity (12_integrity.md) -/

/-- The Trowel, the buckets and the configuration check (R335, R339, R358): a bucket leaks one level; a Trowel step
over arrays that hold nothing moves on by one and at the end of a pass counts it; the check goes through the
collector configuration word by word. -/
def Obligations.ScrubbingMovesOn : Prop :=
  ∀ s : State,
    (∀ m : Fin 12, s.alive = true → 0 < (s.bkt m).level → ∃ t, exec (.bucketLeak m) s = .next t ∧
      t.bkt m = { s.bkt m with level := (s.bkt m).level - 1 } ∧
      (∀ j, j ≠ m.val → t.bkt j = s.bkt j) ∧ { t with integ := s.integ } = s) ∧
    (s.clocked = true → s.integ.pass ≠ 0 → s.home.switching ≠ some 16 → s.arr = {} →
      fld s.integ.injCtl.toNat 31 24 = 0 → ∃ t, exec .trowelStep s = .next t ∧
      t.integ.step = (if s.integ.step + 1 = passSteps then 0 else s.integ.step + 1) ∧
      t.integ.passes = (if s.integ.step + 1 = passSteps then bump s.integ.passes else s.integ.passes) ∧
      { t with integ := s.integ } = s) ∧
    (s.alive = true → s.inert → ∃ t, exec .cosyConfigCheck s = .next t ∧
      t.integ = { s.integ with checkAt := (s.integ.checkAt + 1) % 1024 } ∧ { t with integ := s.integ } = s)

/-- Rotation (R346, R347, R348, R349, R350): a step takes the element next to the spare; its copy made, the switch
window opens; at the window's end the source is the new spare, or a slice drains first; a failed test takes the
spare out of use and is reported.
Slice failure (R353, R354, R355, R356): a failed slice is fenced, serves nothing, is recorded and reported; a spare
that passed its test takes its place; without one its lines spread over the slices that are left.
The moments of the copy and what the element freed holds are readings of log 37. -/
def Obligations.SparesRotateAndReplace : Prop :=
  (∀ s : State, s.clocked = true → s.home.wbs = [] →
     (∀ u, s.integ.test = none → nextTestUnit s = some u → u ≠ 33 →
       let r := s.rotOf u
       let up := if r.sp = 0 then true else if r.sp = unitTop u then false else r.up
       ∃ t, exec .selftestStep s = .next t ∧
         t.integ.test = some ⟨u, .copy, if up then r.sp + 1 else r.sp - 1⟩ ∧
         t.integ.nextUnit = (u + 1) % 34 ∧ (t.rotOf u).sp = r.sp) ∧
     (∀ x, s.integ.test = some x →
       (x.phase = .copy → s.arr = {} → fld s.integ.injCtl.toNat 31 24 = 0 →
         (∀ y ∈ s.home.trackers, y.phase ≠ .hold) → ∃ t, exec .selftestCopyComplete s = .next t ∧
           t.integ.test = some { x with phase := .window } ∧
           t.home = { s.home with switching := some 16 } ∧ t.arr = s.arr) ∧
       (x.phase = .window → (x.unit ≠ 33 → s.integ.stepDue = false) →
         ∃ t, exec .switchWindowEnd s = .next t ∧ t.home.switching = none ∧
         (x.unit ≠ 33 → (t.rotOf x.unit).sp = x.src ∧
           t.integ.test = some { x with phase := .test }) ∧
         (x.unit = 33 → tget none t.home.smap (s.home.switching.getD 0) = some (s.rotOf 33).sp ∧
           t.home.drainOf = some (x.src, (s.rotOf 33).sp) ∧
           t.integ.test = some { x with phase := .drain })) ∧
       (x.phase = .drain → (∀ y ∈ s.home.trackers, y.sl ≠ x.src) → (∀ y ∈ s.home.fwds, y.sl ≠ x.src) →
         (∀ y ∈ s.home.victims, y.sl ≠ x.src) → ∃ t, exec .sliceDrainComplete s = .next t ∧
         t.home.drainOf = none ∧ (t.rotOf 33).sp = x.src ∧
         tget none t.home.roles x.src = some .testing ∧
         t.integ.test = some { x with phase := .test }) ∧
       (x.phase = .test → ∀ pass, ∃ t, exec (.selftestTestComplete pass) s = .next t ∧
         t.integ.test = none ∧ (t.rotOf x.unit).steps = satAdd 16 (s.rotOf x.unit).steps 1 ∧
         (pass = true → (t.rotOf x.unit).noSpare = (s.rotOf x.unit).noSpare ∧ t.flt = s.flt) ∧
         (pass = false → (t.rotOf x.unit).noSpare = true ∧
           (t.rotOf x.unit).fails = satAdd 8 (s.rotOf x.unit).fails 1 ∧ t.raised 29 none))) ∧
     (∀ ok, ∃ t, exec (.spareInitialTest ok) s = .next t ∧
       ∀ u, u < 34 → (s.rotOf u).noSpare = false → (s.rotOf u).passed = 0 →
         (t.rotOf u).noSpare = !ok.getLsbD u ∧ (t.rotOf u).sp = (s.rotOf u).sp)) ∧
  (∀ (s : State) (phys : Fin 17), s.clocked = true →
     (∀ cause : Fin 3, fenced s phys = false → tget none s.home.roles phys ≠ some .failed →
       s.home.recs.length < 8 → ∃ t, exec (.sliceFail phys cause) s = .next t ∧ fenced t phys = true ∧
         (∀ k, k < 16 → t.sliceMap k ≠ some phys.val) ∧ t.raised 30 none ∧
         (∃ r, t.home.recs = s.home.recs ++ [r] ∧ r.phys = phys.val ∧ r.cause = cause.val ∧
           r.time = s.uptime) ∧
         ∀ d, (∃ x ∈ s.home.trackers, x.sl = phys.val ∧ x.dom = d ∧ d < 8) →
           (s.dom d).st.inService = true → (t.dom d).st = .down ∧ (t.dom d).cause = 30) ∧
     (∀ k, fenced s phys = true → orphan s phys = some k → s.home.wbs = [] →
       (∀ p, usableSpare s phys = some p → ∃ t, exec (.spareTakeover phys) s = .next t ∧
         t.sliceMap k = some p ∧ (t.rotOf 33).noSpare = true ∧ t.doms = s.doms) ∧
       (usableSpare s phys = none → s.mapped ≠ [] → ∃ t, exec (.sliceSpread phys) s = .next t ∧
         t = { s with home := { s.home with spread := s.home.spread ++ [k] } })))

/-- Registers (R14, R311, R335, R342, R343, R344, R345, R369): what a write of each leaves in its fields while the hub
clock runs; nothing else changes, and a write where no register stands changes nothing. -/
def Obligations.RegistersTakeTheirWrites : Prop :=
  ∀ s : State, s.clocked = true →
    (∀ (m : Fin 12) part v, part ≠ .hi → ∃ t, exec (.itBkt m part v) s = .next t ∧
      t.bkt m = { s.bkt m with cap := max 1 (fld v.toNat 15 8), per := fld v.toNat 3 0,
                               level := min (s.bkt m).level (max 1 (fld v.toNat 15 8)) } ∧
      (∀ j, j ≠ m.val → t.bkt j = s.bkt j) ∧ { t with integ := s.integ } = s) ∧
    (∀ v, ∃ t, exec (.itFlipCtl v) s = .next t ∧ { t with integ := s.integ } = s ∧
      (v.getLsbD 31 = true → flipMem (fld v.toNat 27 24) = false → t = s) ∧
      (v.getLsbD 31 = false ∨ flipMem (fld v.toNat 27 24) = true →
        t.integ = { s.integ with flipCtl := (v &&& 0x8FFFC000#32) |||
          (if s.integ.flipCtl.getLsbD 30 && !v.getLsbD 30 then 0x40000000#32 else 0) })) ∧
    (∀ v, ∃ t, exec (.itInjCtl v) s = .next t ∧
      t = { s with integ := { s.integ with injCtl := v &&& 0xFFFFFF00#32 } }) ∧
    (∀ v, rawEn v = true → rawMail v = false → ramGet s.fwram (rawIdx v) = 0 →
      fld s.integ.injCtl.toNat 31 24 = 0 → ∃ t, exec (.chkrd v) s = .next t ∧
      rawEn t.integ.rawCtl = true ∧ rawIdx t.integ.rawCtl = rawIdx v ∧
      fld t.integ.rawCtl.toNat 29 28 = 0 ∧ fld t.integ.rawCtl.toNat 25 19 = 0 ∧
      { t with integ := s.integ } = s) ∧
    (∀ v, rawEn s.integ.rawCtl = true → rawMail s.integ.rawCtl = false → ramWf s.fwram = true →
      let i := rawIdx s.integ.rawCtl
      (∃ t, exec (.itRawData v) s = .next t ∧
        ramGet t.fwram i = ((ramGet s.fwram i).extractLsb' 32 7 ++ v : BitVec 39) ∧
        (∀ j, j ≠ i → ramGet t.fwram j = ramGet s.fwram j) ∧ { t with fwram := s.fwram } = s) ∧
      ∃ t, exec (.itRawChkb v) s = .next t ∧
        ramGet t.fwram i = ((v.extractLsb' 0 7 : BitVec 7) ++ (ramGet s.fwram i).extractLsb' 0 32 : BitVec 39) ∧
        (∀ j, j ≠ i → ramGet t.fwram j = ramGet s.fwram j) ∧ { t with fwram := s.fwram } = s) ∧
    (∀ part v, ∃ t, exec (.fcStatus part v) s = .next t ∧ { t with flt := s.flt } = s ∧
      t.flt.status.getLsbD 56 = s.flt.status.getLsbD 56 ∧
      t.flt.status.getLsbD 57 = s.flt.status.getLsbD 57 ∧
      ∀ i, i < 56 ∨ 58 ≤ i → t.flt.status.getLsbD i
        = (s.flt.status.getLsbD i && !(partVal part v).testBit i)) ∧
    (∀ v : BitVec 64, ∃ t, exec (.registerWrite 0x24004 .full v) s = .next t ∧
      t = { s with kt := { s.kt with cause := s.kt.cause &&& ~~~(v.setWidth 32) } }) ∧
    (∀ v : BitVec 64, ∃ t, exec (.registerWrite 0x26018 .full v) s = .next t ∧
      t = { s with flt := { s.flt with testErr := v.getLsbD 28 } }) ∧
    (∀ v : BitVec 64, ∃ t, exec (.registerWrite 0x25088 .full v) s = .next t ∧
      t = { s with integ := { s.integ with flipData := v } }) ∧
    (∀ v : BitVec 64, ∃ t, exec (.registerWrite 0x25090 .full v) s = .next t ∧
      t = { s with integ := { s.integ with flipChk := v.setWidth 32 &&& 0xFF#32 } }) ∧
    (∀ v : BitVec 64, ∃ t, exec (.registerWrite 0x26008 .full v) s = .next t ∧ { t with flt := s.flt } = s ∧
      t.flt.missed.getLsbD 56 = s.flt.missed.getLsbD 56 ∧ t.flt.missed.getLsbD 57 = s.flt.missed.getLsbD 57 ∧
      ∀ i, i < 56 ∨ 58 ≤ i → t.flt.missed.getLsbD i = (s.flt.missed.getLsbD i && !v.getLsbD i)) ∧
    ∀ (off : BitVec 18) part v, off.toNat ≠ 0x20 → off.toNat < 0x27000 ∨ 0x27200 ≤ off.toNat →
      (∀ e ∈ platRegs, e.1 ≠ off.toNat) → exec (.registerWrite off part v) s = .next s

/-! ## The fault collector and the sensor (13_fault_collector.md, R508) -/

/-- FAULT_EVENT (R362 to R366): an event of a source with its reset configuration, of class Notice, is counted, holds
its source's status bit and raises the interrupt; one of a source that is being handled, or that has had an event
latched in the same ac, sets its missed bit and changes nothing else; a reserved source raises nothing; a line
waits while one that rose earlier, or in the same ac with a lower source number, stands. -/
def Obligations.EventsAreLatchedOrMissed : Prop :=
  ∀ (s : State) (src : Fin 64) (dom : Option (Fin 8)) (detail : BitVec 64), s.board.held = .none →
    s.flt.grave = false →
    (srcReserved src = true → ∃ t, exec (.faultEvent src dom detail) s = .next t ∧ t = s) ∧
    (s.flt.lines = [] → srcReserved src = false →
      (s.flt.status.getLsbD src = true ∨ tget none s.flt.latchedAt src = some s.uptime →
        ∃ t, exec (.faultEvent src dom detail) s = .next t ∧
          t = { s with flt := { s.flt with missed := s.flt.missed ||| (1#64 <<< src.val),
                                           latchedAt := t.flt.latchedAt } }) ∧
      (s.flt.status.getLsbD src = false → tget none s.flt.latchedAt src ≠ some s.uptime → s.inert →
        s.srcCfg src = defaultSrc src → srcClass src = .notice → s.fw.exch = none →
        ∃ t, exec (.faultEvent src dom detail) s = .next t ∧ t.flt.status.getLsbD src = true ∧
          tget 0 t.flt.events src = bump (tget 0 s.flt.events src) ∧ t.flt.int = true ∧
          t.flt.grave = false ∧ t.cfg = s.cfg)) ∧
    (∀ x ∈ s.flt.lines, srcReserved src = false →
      (∃ y ∈ s.flt.lines, y.src = src ∧ y.dom = dom.map Fin.val ∧ y.detail = detail) →
      (∀ y ∈ s.flt.lines, y.src = src → x.before y = true) →
      exec (.faultEvent src dom detail) s = .next s)

/-- Notices, the log and the sensor (R374 to R377, R508): a notice goes to its agent when a credit is free; the log
writer spends a token and writes the record's row; tokens grow to sixteen; the scan gives the next number; a
reading is kept, and one at the limit is reported once.
That SEQ is given when a record is queued is the reading of log 32. -/
def Obligations.LogAndNoticesAreServed : Prop :=
  ∀ s : State,
    (∀ (a : Fin 16) (d : Fin 8) src rest, (s.port a).hntQ = src :: rest → noticeFree s a = true →
      (s.port a).mem.dom = some d.val → ∃ t, exec (.faultNoticePlacement a) s = .next t ∧
        (t.port a).hntQ = rest ∧ s.placed t a (hubNotice s a 2 0 0 src) ∧ s.otherPorts t a) ∧
    (∀ r rest, s.flt.queue = r :: rest → s.board.held = .none → s.flt.scanning = false →
      0 < s.flt.tokens → ramWf s.nvm = true →
      s.nvmFail.contains ((logAddr + 32 * (r.seq % 512)) / 32) = false → ∃ t, exec .logWrite s = .next t ∧
        t.flt.queue = rest ∧ t.flt.tokens = (if r.grave then s.flt.tokens else s.flt.tokens - 1) ∧
        t.flt.firstDone = true ∧ nvmRead t (logAddr + 32 * (r.seq % 512)) 32
          = logBytes s { r with first := !s.flt.firstDone } ∧
        ∀ i, i < logAddr + 32 * (r.seq % 512) ∨ logAddr + 32 * (r.seq % 512) + 32 ≤ i →
          ramGet t.nvm i = ramGet s.nvm i) ∧
    (s.board.held ≠ .powerOn → ∃ t, exec .tokenGain s = .next t ∧
      t = { s with flt := { s.flt with tokens := min 16 (s.flt.tokens + 1) } }) ∧
    (s.board.held = .none → s.flt.scanning = true → ∃ t, exec .logScan s = .next t ∧
      t.flt.scanning = false ∧ t.flt.nextSeq = (scanSeq s + s.flt.nextSeq) % 2 ^ 32 ∧
      t.flt.queue.length = s.flt.queue.length ∧ t.nvm = s.nvm) ∧
    (∀ v : BitVec 16, s.board.held = .none → ∃ t, exec (.sensorReading v) s = .next t ∧ t.sens.now = v ∧
      t.sens.max = (if s.sens.max.toInt < v.toInt then v else s.sens.max) ∧
      ((tjMax : Int) ≤ v.toInt → t.sens.armed = false ∧ (s.sens.armed = true → t.raised 35 none)) ∧
      (v.toInt < (tjMax : Int) → t = { s with sens := t.sens }))

/-! ## Fault, integrity, telemetry and firmware commands (15_commands.md R417 to R426) -/

/-- FAULT_READ answers the collector's registers and one source; FAULT_CLEAR ends the handling of the sources it
names, Grave ones excepted; FAULT_CONFIG sets one source, or the notify port and agents (R362, R363, R369, R417,
R418). -/
def Obligations.FaultCommandsReadAndSet : Prop :=
  ∀ (s : State) (m : Fin 10) (pl : List Byte),
    (s.holds m 0x500 pl → byteAt pl 0 ≤ 63 → byteAt pl 1 ≤ 7 ∨ byteAt pl 1 = 0xFF →
      ∃ t r, exec (.faultRead m) s = .next t ∧ t.ended m 0 0 r ∧ s.onlyMail t m ∧ r.length = 64 ∧
        numAt r 0 8 = s.flt.status.toNat ∧ numAt r 8 8 = s.flt.missed.toNat ∧
        numAt r 40 1 = byteAt pl 0 ∧ numAt r 60 1 = s.flt.pnp.getD 0xFF % 256) ∧
    (s.holds m 0x501 pl → ∃ t, exec (.faultClear m) s = .next t ∧ t.ended m 0 0 [] ∧
      (∀ i, i < 64 → i ≠ 56 → i ≠ 57 →
        t.flt.status.getLsbD i = (s.flt.status.getLsbD i && !(numAt pl 0 8).testBit i) ∧
        t.flt.missed.getLsbD i = (s.flt.missed.getLsbD i && !(numAt pl 8 8).testBit i)) ∧
      t.flt.status.getLsbD 56 = s.flt.status.getLsbD 56 ∧
      t.flt.status.getLsbD 57 = s.flt.status.getLsbD 57 ∧
      s.onlyMail { t with flt := s.flt } m) ∧
    (s.holds m 0x502 pl → byteAt pl 0 = 0 → byteAt pl 1 ≤ 63 → srcReserved (byteAt pl 1) = false →
      srcGrave (byteAt pl 1) = false → byteAt pl 2 ≤ 2 → byteAt pl 6 ≤ 14 →
      (srcDom (byteAt pl 1) = true ∨ nbit (byteAt pl 3 ||| byteAt pl 4) 2 = false) →
      ∃ t, exec (.faultConfigSource m) s = .next t ∧ t.ended m 0 0 [] ∧
        t.srcCfg (byteAt pl 1) = { cls := classOf (byteAt pl 2), base := BitVec.ofNat 5 (byteAt pl 3),
                                   severe := BitVec.ofNat 5 (byteAt pl 4), escN := byteAt pl 5,
                                   escW := byteAt pl 6 } ∧
        (∀ n, n ≠ byteAt pl 1 → t.srcCfg n = s.srcCfg n) ∧ t.flt.status = s.flt.status) ∧
    (∀ d, State.reset.flt.pnp = none ∧ tget none State.reset.flt.dna d = none) ∧
    (s.holds m 0x502 pl → byteAt pl 0 = 1 → byteAt pl 1 ≤ 15 ∨ byteAt pl 1 = 0xFF →
      (∀ d, d < 8 → byteAt pl (2 + d) ≤ 127 ∨ byteAt pl (2 + d) = 0xFF) →
      ∃ t, exec (.faultConfigNotify m) s = .next t ∧ t.ended m 0 0 [] ∧
        t.flt.pnp = (if byteAt pl 1 = 0xFF then none else some (byteAt pl 1)) ∧
        (∀ d, d < 8 → tget none t.flt.dna d
          = if byteAt pl (2 + d) = 0xFF then none else some (byteAt pl (2 + d))) ∧
        s.onlyMail { t with flt := s.flt } m)

/-- ERRLOG_READ answers the first COUNT records from START on that its mailbox may see, in ascending SEQ, and
changes nothing; the checker and flip forms of INJECT arm what IT_INJ_CTL and IT_FLIP_CTL would; its collector form
raises an event with INJ set, which is latched, reacted to and logged like any other, and which a source that is
being handled counts as missed (R343, R345, R378, R419, R420). -/
def Obligations.LogIsReadAndErrorsInjected : Prop :=
  ∀ (s : State) (m : Fin 10) (pl : List Byte),
    (s.holds m 0x503 pl → 1 ≤ byteAt pl 4 → byteAt pl 4 ≤ 7 → byteAt pl 5 ≤ 1 →
      let seen := (logRecords s (byteAt pl 5)).filter fun x =>
        decide (numAt pl 0 4 ≤ numAt x 0 4) && recVisible (some m.val) x
      let recs := (seen.insertionSort fun a b => numAt a 0 4 ≤ numAt b 0 4).take (byteAt pl 4)
      ∃ t r, exec (.errlogRead m) s = .next t ∧ t.ended m 0 0 r ∧ s.onlyMail t m ∧
        r = toBytes 1 recs.length ++ [0, 0, 0] ++ toBytes 4 s.flt.nextSeq ++ recs.flatten ∧
        numAt r 0 1 ≤ byteAt pl 4 ∧ r.length = 8 + 32 * numAt r 0 1 ∧
        numAt r 4 4 = s.flt.nextSeq % 2 ^ 32) ∧
    (s.holds m 0x504 pl → byteAt pl 0 = 0 → byteAt pl 1 ≤ 63 → srcReserved (byteAt pl 1) = false →
      (s.flt.status.getLsbD (byteAt pl 1) = true → ∃ t, exec (.injectCollector m) s = .next t ∧
        t.ended m 0 0 [] ∧ t.flt.missed = s.flt.missed ||| (1#64 <<< byteAt pl 1) ∧
        t.flt = { s.flt with missed := t.flt.missed, lines := t.flt.lines,
                             latchedAt := t.flt.latchedAt } ∧
        s.onlyMail { t with flt := s.flt } m) ∧
      (s.flt.status.getLsbD (byteAt pl 1) = false → byteAt pl 1 ≠ 46 →
        tget none s.flt.latchedAt (byteAt pl 1) ≠ some s.uptime → s.inert →
        s.srcCfg (byteAt pl 1) = defaultSrc (byteAt pl 1) → srcClass (byteAt pl 1) = .notice →
        (∀ k, (tget {} s.flt.units k).esc = false) → s.fw.exch = none → s.flt.queue.length < 16 →
        ∃ t, exec (.injectCollector m) s = .next t ∧ t.ended m 0 0 [] ∧
          t.flt.status.getLsbD (byteAt pl 1) = true ∧ t.flt.int = true ∧
          tget 0 t.flt.events (byteAt pl 1) = bump (tget 0 s.flt.events (byteAt pl 1)) ∧
          (∃ x ∈ t.flt.queue, x.src = byteAt pl 1 ∧ x.inj = true ∧ x.time = s.uptime ∧
            x.dom = (if nbit (byteAt pl 2) 7 then some (byteAt pl 2 % 8) else none) ∧
            x.detail = BitVec.ofNat 64 (numAt pl 4 8)) ∧
          t.doms = s.doms ∧ t.home = s.home ∧ t.cfg = s.cfg)) ∧
    (s.holds m 0x504 pl → byteAt pl 0 = 1 → byteAt pl 3 ≤ 0xB → ∃ t,
      exec (.injectChecker m) s = .next t ∧ t.ended m 0 0 [] ∧
        fld t.integ.injCtl.toNat 31 24 = byteAt pl 1 ∧ fld t.integ.injCtl.toNat 23 16 = byteAt pl 2 ∧
        fld t.integ.injCtl.toNat 15 12 = byteAt pl 3 ∧ s.onlyMail { t with integ := s.integ } m) ∧
    (s.holds m 0x504 pl → byteAt pl 0 = 2 → byteAt pl 3 ≤ 31 → byteAt pl 1 ≤ 15 →
      flipMem (byteAt pl 1) = true → ∃ t, exec (.injectFlip m) s = .next t ∧ t.ended m 0 0 [] ∧
        t.integ.flipCtl.getLsbD 31 = true ∧ fld t.integ.flipCtl.toNat 27 24 = byteAt pl 1 ∧
        t.integ.flipData.toNat = numAt pl 8 8 ∧ t.integ.flipChk.toNat = byteAt pl 4 ∧
        s.onlyMail { t with integ := s.integ } m)

/-- SCRUB_CONFIG sets or reads the pass time, SELFTEST_START the units and the interval, SELFTEST_STATUS and
SLICE_STATUS report them, TEMP_READ and STATS_READ answer the sensor and the statistics and clear them when asked
(R340, R351, R356, R426, R508).
That a clear sets MAX to the present reading, and the free value in a role byte, are the model's (log 32). -/
def Obligations.IntegrityAndTelemetryCommands : Prop :=
  ∀ (s : State) (m : Fin 10) (pl : List Byte),
    (s.holds m 0x600 pl → ∃ t r, exec (.scrubConfig m) s = .next t ∧ t.ended m 0 0 r ∧
      t.integ.pass = (if nbit (byteAt pl 2) 0 then s.integ.pass else numAt pl 0 2) ∧
      numAt r 0 2 = t.integ.pass % 2 ^ 16 ∧ s.onlyMail { t with integ := s.integ } m) ∧
    (s.holds m 0x601 pl → numAt pl 2 2 ≠ 0 → ∃ t, exec (.selftestStart m) s = .next t ∧ t.ended m 0 0 [] ∧
      t.integ = { s.integ with enable := BitVec.ofNat 3 (byteAt pl 0), interval := numAt pl 2 2 } ∧
      s.onlyMail { t with integ := s.integ } m) ∧
    (s.holds m 0x602 pl → ∃ t r, exec (.selftestStatus m) s = .next t ∧ t.ended m 0 0 r ∧ s.onlyMail t m ∧
      r.length = 208 ∧ numAt r 0 1 = s.integ.enable.toNat ∧ numAt r 2 2 = s.integ.interval % 2 ^ 16 ∧
      ∀ u, u < 34 → numAt r (4 + 6 * u) 1 = (s.rotOf u).sp % 256) ∧
    (s.holds m 0x603 pl → s.home.recs.length ≤ 8 → ∃ t r, exec (.sliceStatus m) s = .next t ∧
      t.ended m 0 0 r ∧ s.onlyMail { t with free := s.free } m ∧ r.length = 160 ∧
      numAt r 17 1 = s.home.recs.length ∧ ∀ p, p < 17 → numAt r p 1 % 16 = (roleOf s p).code) ∧
    (s.holds m 0x800 pl → ∃ t r, exec (.tempRead m) s = .next t ∧ t.ended m 0 0 r ∧
      numAt r 0 2 = s.sens.now.toNat ∧ numAt r 2 2 = s.sens.max.toNat ∧ numAt r 4 2 = tjMax ∧
      t.sens = (if nbit (byteAt pl 0) 0 then { s.sens with max := s.sens.now } else s.sens) ∧
      s.onlyMail { t with sens := s.sens } m) ∧
    (s.holds m 0x801 pl → ∃ t r, exec (.statsRead m) s = .next t ∧ t.ended m 0 0 r ∧
      (∀ i, i < 24 → numAt r (8 * i) 8 = tget 0 (s.dom (byteAt pl 0 % 8)).stats i % 2 ^ 64) ∧
      (t.dom (byteAt pl 0 % 8)).stats
        = (if nbit (byteAt pl 1) 0 then [] else (s.dom (byteAt pl 0 % 8)).stats) ∧
      (∀ e, e ≠ byteAt pl 0 % 8 → t.dom e = s.dom e) ∧ s.onlyMail { t with doms := s.doms } m)

/-- The Firmware commands (R421 to R425, R432, R439, R440): FW_STAGE writes bytes into the inactive slot, and is
refused where that is the boot-selected one; FW_VERIFY marks a slot that passes its checks as verified, unmarks
none and copies the body into the free image bank, which it protects; FW_ACTIVATE begins
an exchange; FW_COMMIT_SLOT selects a verified slot, raises MIN_SVN, and refuses a slot that is not verified; NVM_READ
answers the bytes of one area, and OUT_OF_RANGE beyond its end. -/
def Obligations.FirmwareCommands : Prop :=
  ∀ (s : State) (m : Fin 10) (pl : List Byte), s.nvmFail = [] → s.nvmErr = [] → ramWf s.nvm = true →
    (s.holds m 0x700 pl → let off := numAt pl 0 4
      1 ≤ numAt pl 4 2 → numAt pl 4 2 ≤ 224 → off % 32 = 0 → off + numAt pl 4 2 ≤ 98304 →
      inactiveSlot s ≠ hdrSelect (hdrNow s) → slotVerified (hdrNow s) (inactiveSlot s) = false →
      ∃ t, exec (.fwStage m) s = .next t ∧ t.ended m 0 0 [] ∧ t.fw.loaded = false ∧
        (t.fw.bankOf (1 - s.fw.bank)).prot = false ∧
        nvmRead t (slotAddr (inactiveSlot s) + off) (numAt pl 4 2) = bytesAt pl 8 (numAt pl 4 2)) ∧
    (s.holds m 0x700 pl → 1 ≤ numAt pl 4 2 → numAt pl 4 2 ≤ 224 → numAt pl 0 4 % 32 = 0 →
      numAt pl 0 4 + numAt pl 4 2 ≤ 98304 → inactiveSlot s = hdrSelect (hdrNow s) →
      ∃ t, exec (.fwStage m) s = .next t ∧ t.ended m 6 0x704 [] ∧ s.onlyMail t m) ∧
    (s.holds m 0x701 pl →
      ∃ t r, exec (.fwVerify m) s = .next t ∧ numAt r 0 1 = inactiveSlot s ∧
        numAt r 1 1 = (verifySlot s (inactiveSlot s)).code ∧
        t.ended m (if verifySlot s (inactiveSlot s) = .valid then 0 else 8)
          (match verifySlot s (inactiveSlot s) with
            | .valid => 0 | .badContainer => 0x701 | .badSignature => 0x702) r ∧
        (verifySlot s (inactiveSlot s) ≠ .valid → t.fw.loaded = s.fw.loaded) ∧
        (verifySlot s (inactiveSlot s) = .valid → s.fw.boot = .running → t.fw.loaded = true ∧
          t.fw.bankOf (1 - s.fw.bank)
            = ⟨slotBody s (inactiveSlot s), slotField s (inactiveSlot s) 0x14, true⟩) ∧
        ((hdrNow s).gen + 1 < 2 ^ 32 → (slotVerified (hdrNow t) (inactiveSlot s) = true ↔
          verifySlot s (inactiveSlot s) = .valid ∨ slotVerified (hdrNow s) (inactiveSlot s) = true))) ∧
    (s.holds m 0x702 pl → s.fw.loaded = true → slotXabi s (inactiveSlot s) = slotXabi s s.fw.slot →
      ∃ t, exec (.fwActivate m) s = .next t ∧ (t.mb m).st = .busy ∧ (t.mb m).running = true ∧
        (∃ e, t.fw.exch = some e ∧ e.mbx = m.val ∧ e.begun = false ∧
          ∀ j : Fin 10, j.val ∈ e.waits ↔ j ≠ m ∧ (s.mb j).st = .busy) ∧ t.nvm = s.nvm ∧ t.doms = s.doms) ∧
    (s.holds m 0x703 pl → byteAt pl 0 ≤ 1 → slotVerified (hdrNow s) (byteAt pl 0) = true →
      ∃ t, exec (.fwCommitSlot m) s = .next t ∧ t.ended m 0 0 [] ∧ t.doms = s.doms ∧ t.cfg = s.cfg ∧
        ((hdrNow s).gen + 1 < 2 ^ 32 → hdrSelect (hdrNow t) = byteAt pl 0 ∧
          (hdrNow t).minSvn = max (hdrNow s).minSvn (slotSvn s (byteAt pl 0)))) ∧
    (s.holds m 0x703 pl → byteAt pl 0 ≤ 1 → slotVerified (hdrNow s) (byteAt pl 0) = false →
      ∃ t, exec (.fwCommitSlot m) s = .next t ∧ t.ended m 6 0x703 [] ∧ s.onlyMail t m) ∧
    (s.holds m 0x704 pl → byteAt pl 0 ≤ 3 → 1 ≤ numAt pl 8 2 → numAt pl 8 2 ≤ 256 →
      numAt pl 4 4 + numAt pl 8 2 ≤ (nvmArea (byteAt pl 0)).2 → ∃ t, exec (.nvmRead m) s = .next t ∧
        t.ended m 0 0 (nvmRead s ((nvmArea (byteAt pl 0)).1 + numAt pl 4 4) (numAt pl 8 2)) ∧
        s.onlyMail t m) ∧
    (s.holds m 0x704 pl → byteAt pl 0 ≤ 3 → 1 ≤ numAt pl 8 2 → numAt pl 8 2 ≤ 256 →
      (nvmArea (byteAt pl 0)).2 < numAt pl 4 4 + numAt pl 8 2 → ∃ t, exec (.nvmRead m) s = .next t ∧
        t.ended m 8 0x706 [] ∧ s.onlyMail t m)

/-- Firmware life (R429, R441 to R445, R491): a first watchdog expiry is reported, a second consecutive one makes a
chip reset; an exchange begins when the commands it waits for have ended, with the core at the ENTRY of the other
bank, and ends with the new image or with the old one, the timers re-armed; a timer fires, and its next time is a
whole period on, or it is gone; a record is replayed as the command it is; an admission that waits too long for its
port is skipped.
What counts as consecutive expiries, when an exchange falls back, and which records replay skips are the model's
readings (log 26, 27, 28). -/
def Obligations.FirmwareLives : Prop :=
  ∀ s : State, s.alive = true →
    ((∀ w, s.fw.wdog = some w → w + wdogPeriod < s.uptime) → ∃ t, exec .watchdogExpiry s = .next t ∧
      t.fw.wdog = some s.uptime ∧ t.raised 40 none ∧ t.ports = s.ports ∧ t.doms = s.doms) ∧
    (∀ w, s.fw.wdog = some w → s.uptime ≤ w + wdogPeriod →
      exec .watchdogExpiry s = .next (chipReset s)) ∧
    (∀ e, s.fw.exch = some e →
      (e.begun = false → (∀ j ∈ e.waits, (s.mb j).st ≠ .busy) → ∃ t, exec .exchangeBegin s = .next t ∧
        t.fw = { s.fw.jump (1 - s.fw.bank) with exch := some { e with begun := true },
                                                handover := s.fw.timers, timers := [], wdog := none } ∧
        t.smb.polling = none ∧ t.mbs = s.mbs) ∧
      (e.begun = true → e.mbx < 10 → (s.mb e.mbx).st = .busy →
        (∀ pc cause, ∃ t, exec (.exchangeFallback pc cause) s = .next t ∧ t.fw.exch = none ∧
          (cause.isSome = true → t.raised 41 none) ∧
          t.fw.loaded = false ∧ t.fw.slot = s.fw.slot ∧ t.fw.bank = 1 - s.fw.bank ∧ t.raised 42 none ∧
          t.fw.timers = rearm s.uptime s.fw.handover ∧ (t.mb e.mbx).st = .done ∧ (t.mb e.mbx).status = 8) ∧
        ∃ t, exec .exchangeComplete s = .next t ∧ t.fw.exch = none ∧ t.fw.slot = inactiveSlot s ∧
          t.fw.bank = s.fw.bank ∧ t.fw.exchanges = bump s.fw.exchanges ∧
          t.fw.timers = rearm s.uptime s.fw.handover ∧
          (t.mb e.mbx).st = .done ∧ (t.mb e.mbx).status = 0)) ∧
    (∀ id, s.fw.boot = .running → s.fw.exch = none → ∃ t, exec (.firmwareTimer id) s = .next t ∧
      { t with fw := s.fw } = s ∧ (∀ x ∈ s.fw.timers, x.id ≠ id → x ∈ t.fw.timers) ∧
      (∀ x ∈ t.fw.timers, x.id = id → x.period ≠ 0) ∧
      ∀ x ∈ s.fw.timers, x.id = id → x.period ≠ 0 → ∃ y ∈ t.fw.timers, y.id = id ∧
        s.uptime < y.due ∧ x.due < y.due ∧ y.period = x.period) ∧
    (∀ i, replays s = true → s.fw.replay = some i →
      (storedRecord s i = none → ∃ t, exec .replayRecord s = .next t ∧ t.fw.replay = none ∧
        t.fw.released = true) ∧
      (∀ op pl body, storedRecord s i = some (op, pl) → replayBody op pl = some body →
        let u := endPhaseA s op
        let v := if mbWakes op pl then wake u causeFw else u
        admitWaits u op pl = false → lenFits op pl.length pl = true → replayBlocked u op pl = false →
        (op = 0x502 → u.fw.replayFc = true) →
        ∃ t, exec .replayRecord s = .next (replayNext t i) ∧
          ((∃ st detail r, body v none pl = .done st detail r t) ∨ body v none pl = .later t)) ∧
      (∀ op pl, storedRecord s i = some (op, pl) → replayBody op pl = none →
        ∃ t, exec .replayRecord s = .next t ∧ t.fw.replay = some (i + 1) ∧ t.cfg = s.cfg ∧
          t.doms = s.doms) ∧
      (∀ op pl, storedRecord s i = some (op, pl) → s.fw.released = true → admitWaits s op pl = true →
        ∃ t, exec .replayAdmitTimeout s = .next t ∧
          t = { s with fw := { s.fw with replay := some (i + 1) } }))

/-! ## Mailbox windows and locks (14_mailboxes.md) -/

/-- The window (R387, R388, R389, R390, R397, R489): a ring of an idle mailbox makes it BUSY for its ringer, and its
command, which passes the checks, goes on to its execution, or waits while the mailboxes are closed; bytes written
to the header or the payload are read back and no other byte changes; a ring or a write by another than the lock's
holder, or while a command is in progress, changes nothing but its flags. -/
def Obligations.RingsAndWritesOfAWindow : Prop :=
  ∀ (s : State) (m : Fin 10) (who : BitVec 7), mbReached s m who = true →
    (mbAccepts s m who = true → (s.mb m).st ≠ .busy →
      (∀ v : BitVec 32, v.getLsbD 0 = true → s.fw.exch = none → s.sound m →
        let pl := mbPayload s m (mbLen s m)
        let closed := s.flt.grave = false ∧ s.fw.isOpen = false ∧ s.fw.boot ≠ .recovery
        let served := (s.flt.grave = true ∨ s.fw.isOpen = true ∨ s.fw.boot = .recovery) ∧
          mbOpcodes.contains (mbOpcode s m) = true ∧ mbPermits s m (mbOpcode s m) (mbLen s m) pl = true ∧
          lenFits (mbOpcode s m) (mbLen s m) pl = true ∧ mbServed s m (mbOpcode s m) = true
        closed ∨ served → ∃ t, exec (.mbDoorbell m who v) s = .next t ∧
          (t.mb m).st = .busy ∧ (t.mb m).ringer = (if m = 9 then 0x7F else who) ∧
          (t.mb m).tag = BitVec.ofNat 8 (mbTag s m) ∧ (t.mb m).notify = none ∧
          (t.mb m).running = false ∧ (closed → (t.mb m).waiting = true) ∧
          (served → (t.mb m).checked = true ∧ (t.mb m).waiting = false) ∧
          (∀ j, j ≠ m.val → t.mb j = s.mb j) ∧ t.mbram = s.mbram) ∧
      (∀ (off : Fin 320) bytes, ramWf s.mbram = true → 0x40 ≤ off.val → off.val % 4 = 0 → bytes.length = 4 →
        ∃ t, exec (.mailboxWindowWrite m who off bytes) s = .next t ∧
          mbWord t (mbIdx m off) = ofBytes bytes ∧
          (∀ i, i ≠ mbIdx m off → ramGet t.mbram i = ramGet s.mbram i) ∧
          { t with mbram := s.mbram } = s) ∧
      (∀ (off : Fin 320) (bytes : List Byte), ramWf s.mbram = true → bytes ≠ [] →
        inArea off bytes.length = true → fld s.integ.injCtl.toNat 31 24 = 0 →
        let first := mbIdx m off
        let last := mbIdx m (off + bytes.length - 1)
        (∀ i, first ≤ i → i ≤ last → chk39 (ramGet s.mbram i) = .clean) →
        ∃ t, exec (.mailboxWindowWrite m who off bytes) s = .next t ∧
          (∀ o, o < 0x10 ∨ 0x40 ≤ o ∧ o < 0x140 → t.window m o
            = if off.val ≤ o ∧ o < off + bytes.length then (bytes[o - off]?).getD 0 else s.window m o) ∧
          (∀ i, i < first ∨ last < i → ramGet t.mbram i = ramGet s.mbram i) ∧
          { t with mbram := s.mbram } = s)) ∧
    (mbAccepts s m who = false ∨ (s.mb m).st = .busy →
      let turned := fun (c : Instr) => ∃ t, exec c s = .next t ∧
        t.mb m = { s.mb m with blocked := (s.mb m).blocked || !mbAccepts s m who,
                               overrun := (s.mb m).overrun || (s.mb m).st == .busy } ∧
        (∀ j, j ≠ m.val → t.mb j = s.mb j) ∧ { t with mbs := s.mbs } = s
      (∀ v : BitVec 32, v.getLsbD 0 = true → turned (.mbDoorbell m who v)) ∧
      (∀ (off : Fin 320) (bytes : List Byte), bytes ≠ [] → inArea off bytes.length = true →
        turned (.mailboxWindowWrite m who off bytes))) ∧
    (∀ v : BitVec 32, v.getLsbD 0 = false → ∃ t, exec (.mbDoorbell m who v) s = .next t ∧
      (t.mb m).blocked = ((s.mb m).blocked || !mbAccepts s m who) ∧ (t.mb m).st = (s.mb m).st ∧
      { t with mbs := s.mbs } = s)

/-- Locks, notices and the opening (R389, R393, R396, R489, R491): a read of a free lock takes it, a write by its
holder frees it and one by another is counted as blocked, an idle holder loses it; a completion notice goes to its
agent; the mailboxes open, and replay begins where a configuration is stored. -/
def Obligations.LocksNoticesAndOpening : Prop :=
  ∀ s : State,
    (∀ (d : Fin 8) (who : BitVec 7), mbReached s d who = true →
      (∃ t, exec (.mbLockClaim d who) s = .next t ∧ { t with mbs := s.mbs } = s ∧
        (t.mb d).holder = some (((s.mb d).holder).getD who) ∧ ∀ j, j ≠ d.val → t.mb j = s.mb j) ∧
      ∃ t, exec (.mbLockRelease d who) s = .next t ∧ { t with mbs := s.mbs } = s ∧
        (∀ j, j ≠ d.val → t.mb j = s.mb j) ∧
        ((s.mb d).holder = some who → t.mb d = { s.mb d with holder := none }) ∧
        ((s.mb d).holder ≠ some who → t.mb d = { s.mb d with blocked := true })) ∧
    (∀ d : Fin 8, s.alive = true → (s.mb d).st ≠ .busy → ∃ t, exec (.lockIdleTimeout d) s = .next t ∧
      t.mb d = { s.mb d with holder := none } ∧ { t with mbs := s.mbs } = s) ∧
    (∀ (m : Fin 10) (p : Nat) st (d : Fin 8), (s.mb m).notify = some (p, st) → noticeFree s p = true →
      p < 16 → (s.port p).mem.dom = some d.val → ∃ t, exec (.mailboxNoticePlacement m) s = .next t ∧
        t.mb m = { s.mb m with notify := none } ∧ s.otherPorts t p ∧
        s.placed t p (hubNotice s p 1 (BitVec.ofNat 4 m) st 0)) ∧
    (s.alive = true → s.fw.boot = .running → s.fw.isOpen = false → s.fw.exch = none →
      (∀ m : Fin 10, (s.mb m).waiting = false) → ∃ t, exec .mailboxOpen s = .next t ∧
        t.fw.isOpen = true ∧ t.mbs = s.mbs ∧
        ((storedCfg s).isSome = true → t.fw.replay = some 0 ∧ t.ports = s.ports) ∧
        (storedCfg s = none → t.fw.released = true ∧ t.fw.replay = s.fw.replay ∧
          ∀ p : Fin 20, (s.port p).link.st = .held → releasable s p = true →
            (t.port p).link.st = .noReceiver))

/-! ## CRC units (16_firmware_crc.md) -/

/-- A CRC unit that is not absorbing takes a write of its control word, which cuts the value to the polynomial's
width and with LOAD returns it to INIT, or begins to absorb the bytes of a data write and counts them; at the end
of an absorption the value is the one the inner loop gives, byte by byte (R446 to R449).
That a direct write leaves a busy unit alone is the reading of log 39. -/
def Obligations.CrcUnitsAbsorb : Prop :=
  ∀ (s : State) (u : Fin 2), s.alive = true →
    ((s.crcu u).busy = [] →
      (∀ v : BitVec 32, ∃ t, exec (.crcCtl u v) s = .next t ∧ { t with crc := s.crc } = s ∧
        (t.crcu u).poly = v.extractLsb' 0 2 ∧ (t.crcu u).refin = v.getLsbD 2 ∧
        (t.crcu u).refout = v.getLsbD 3 ∧ (t.crcu u).xout = v.getLsbD 4 ∧ (t.crcu u).init = (s.crcu u).init ∧
        (v.getLsbD 8 = true → (t.crcu u).count = 0 ∧ (t.crcu u).value.toNat
          = (s.crcu u).init.toNat % 2 ^ crcWidth (v.extractLsb' 0 2)) ∧
        (v.getLsbD 8 = false → (t.crcu u).count = (s.crcu u).count ∧ (t.crcu u).value.toNat
          = (s.crcu u).value.toNat % 2 ^ crcWidth (v.extractLsb' 0 2))) ∧
      (∀ v, ∃ t, exec (.crcData8 u v) s = .next t ∧ { t with crc := s.crc } = s ∧ t.crcu u
        = { s.crcu u with busy := [v], count := satAdd 32 (s.crcu u).count 1, answer := none }) ∧
      (∀ v, ∃ t, exec (.crcData16 u v) s = .next t ∧ { t with crc := s.crc } = s ∧ t.crcu u
        = { s.crcu u with busy := toBytes 2 v.toNat, count := satAdd 32 (s.crcu u).count 2,
                          answer := none }) ∧
      ∀ v, ∃ t, exec (.crcData32 u v) s = .next t ∧ { t with crc := s.crc } = s ∧ t.crcu u
        = { s.crcu u with busy := toBytes 4 v.toNat, count := satAdd 32 (s.crcu u).count 4,
                          answer := none }) ∧
    ((s.crcu u).busy ≠ [] → (s.crcu u).answer = none → ∃ t, exec (.crcAbsorbDone u) s = .next t ∧
      { t with crc := s.crc } = s ∧ (t.crcu u).busy = [] ∧ (t.crcu u).count = (s.crcu u).count ∧
      (t.crcu u).value = ((s.crcu u).busy.foldl crcByte (s.crcu u)).value)

/-! ## The sideband (17_smbus.md) -/

/-- SMB0 (R453 to R458, R461, R467): an address that matches is acknowledged and wakes a gated datapath; SET_PTR sets
PTR and RLEN; WRITE stores a word of MBB's payload and moves PTR on; READ answers min(RLEN, what is left) bytes
with a count and a PEC; STATUS answers its byte and clears what it reported.
Readings of log 34. -/
def Obligations.Smb0TargetServes : Prop :=
  ∀ s : State, s.board.held = .none → s.flt.grave = true ∨ s.inert →
    (∀ addr, ∃ t, exec (.smb0AddressMatch addr) s = .next t ∧
      t.smb.out = (if smb0Match s addr then some [] else none) ∧
      (smb0Match s addr = true → s.kt.st = .dormant → t.smb.gated0 = false) ∧
      { t with smb := s.smb } = s) ∧
    (∀ w : SmbWrite, smb0Match s w.addr = true → w.stop = true →
      (w.pec = none ∧ pecReq s.cfg.eff.smb0 = false) ∨
        w.pec = some (pec ([addrW w.addr, 0x10, w.count] ++ w.bytes)) →
      w.count = 3 → w.bytes.length = 3 → (ptrEnd (numAt w.bytes 0 2)).isSome = true →
      numAt w.bytes 2 1 ≠ 0 → ∃ t, exec (.setPtr w) s = .next t ∧ t.smb.ptr = numAt w.bytes 0 2 ∧
        t.smb.rlen = numAt w.bytes 2 1 ∧ t.smb.out = some [] ∧ { t with smb := s.smb } = s) ∧
    (∀ w : SmbWrite, smb0Match s w.addr = true → w.stop = true →
      (w.pec = none ∧ pecReq s.cfg.eff.smb0 = false) ∨
        w.pec = some (pec ([addrW w.addr, 0x11, w.count] ++ w.bytes)) →
      w.count = 4 → w.bytes.length = 4 → 0x40 ≤ s.smb.ptr → s.smb.ptr + 4 < 0x140 →
      s.smb.ptr % 4 = 0 → (s.mb 9).st ≠ .busy → ramWf s.mbram = true →
      ∃ t, exec (.write w) s = .next t ∧ mbWord t (mbIdx 9 s.smb.ptr) = ofBytes w.bytes ∧
        t.smb.ptr = s.smb.ptr + 4 ∧ t.smb.out = some [] ∧
        { t with smb := s.smb, mbram := s.mbram } = s) ∧
    (∀ addr stop, smb0Match s addr = true → 0x400 ≤ s.smb.ptr → s.smb.ptr < 0x500 →
      let n := min s.smb.rlen (0x500 - s.smb.ptr)
      ∃ t bs x, exec (.read addr stop) s = .next t ∧ t.smb.out = some (BitVec.ofNat 8 n :: bs ++ [x]) ∧
        bs.length = n ∧ x = pec ([addrW addr, 0x12, addrR addr, BitVec.ofNat 8 n] ++ bs) ∧
        (stop = false → t.smb.ptr = s.smb.ptr) ∧
        (stop = true → s.smb.ptr + n < 0x500 → t.smb.ptr = s.smb.ptr + n)) ∧
    (∀ addr, smb0Match s addr = true → ∃ t b x, exec (.status addr) s = .next t ∧
      t.smb.out = some [b, x] ∧ b = smbStatus (smb0Wake s) ∧
      x = pec [addrW addr, 0x13, addrR addr, b] ∧ t.smb.woke = false ∧ t.smb.tmo = false ∧
      t.smb.pec = false ∧ t.smb.discard = false ∧ { t with smb := s.smb } = s)

/-- Alerts, time-outs and gating (R460, R462, R468): the alert response answers the lowest address and releases the
alert unless another device has won; a time-out discards the transaction; a datapath is gated again.
SMB1 (R464, R465): a gated datapath wakes without an answer; a matched read answers its bytes and a PEC over the
whole transaction; the telemetry selection is kept.
Readings of log 34. -/
def Obligations.SidebandAlertsAndAnswers : Prop :=
  (∀ s : State, s.board.held = .none →
     (∀ a others, s.smb.alert = true → alertAddr s = some a → ∃ t,
       exec (.alertResponse others) s = .next t ∧
       (2 * a ≤ others.toNat → t.smb.alert = false ∧
         t.smb.out = some [BitVec.ofNat 8 (2 * a), pec [0x19, BitVec.ofNat 8 (2 * a)]]) ∧
       (others.toNat < 2 * a → t.smb.alert = true ∧ t.smb.out = some []) ∧ { t with smb := s.smb } = s) ∧
     (∃ t, exec (.smbusTimeout .smb0) s = .next t ∧
       t = { s with smb := { s.smb with tmo := true, discard := true, out := none } }) ∧
     (s.flt.grave = false → ∃ t, exec (.smbusTimeout .smb1) s = .next t ∧
       t = { s with smb := { s.smb with out := none } }) ∧
     (s.flt.grave = false → s.kt.st = .dormant →
       (∃ t, exec (.datapathRegate .smb0) s = .next t ∧ t = { s with smb := { s.smb with gated0 := true } }) ∧
       (∃ t, exec (.datapathRegate .smb1) s = .next t ∧ t = { s with smb := { s.smb with gated1 := true } }))) ∧
  (∀ s : State, s.alive = true → s.inert →
     (smb1Gated s = true → ∃ t, exec .smb1Wake s = .next t ∧
       t = { s with smb := { s.smb with gated1 := false, out := none } }) ∧
     (∀ addr, smb1Gated s = false → smb1Match s addr = true →
       let answers := fun (c : Instr) (cmd : Nat) (bs : List Byte) =>
         exec c s = .next { s with smb := { s.smb with
           out := some (bs ++ [pec ([addrW addr, BitVec.ofNat 8 cmd, addrR addr] ++ bs)]) } }
       answers (.smb1TempNow addr) 1 (toBytes 2 s.sens.now.toNat) ∧
       answers (.smb1TempMax addr) 2 (toBytes 2 s.sens.max.toNat) ∧
       answers (.smb1TempLimit addr) 3 (toBytes 2 tjMax) ∧
       (∃ b, answers (.smb1State addr) 4 [b] ∧ b.toNat % 8 = s.kt.st.code ∧
         b.getLsbD 3 = errDriven s ∧ b.getLsbD 4 = (errDriven s || s.flt.extErr)) ∧
       answers (.smb1HubInfo addr) 5 (16 :: (hubInfoBytes s).take 16) ∧
       answers (.smb1FcStatus addr) 6 (8 :: toBytes 8 s.flt.status.toNat) ∧
       (∃ bs, answers (.smb1Telemetry addr) 7 (16 :: bs) ∧ bs = telemBytes s s.smb.telPort ∧
         bs.length = 16) ∧
       ∀ port : Byte, port.toNat ≤ 15 → ∃ t,
         exec (.smb1TelemetrySelect addr port (some (pec [addrW addr, 7, port]))) s = .next t ∧
         t = { s with smb := { s.smb with telPort := port.toNat, out := some [] } }))

/-- The regulator controller (R469 to R474): a poll that succeeds fills the entry of the next present regulator; a
probe marks presence; a lost arbitration is tried again, the third time marked; a recovery is reported; an
abandoned transaction fails its poll.
What the third loss of arbitration does is the reading of log 34. -/
def Obligations.RegulatorsArePolled : Prop :=
  ∀ s : State, smbcRuns s = true →
    (∀ n vout iout temp, s.smb.polling = none → nextReg s = some n →
      (∃ t, exec (.smbcPoll (.ok vout iout temp)) s = .next t ∧ (telemOf t n).vout = vout ∧
        (telemOf t n).iout = iout ∧ (telemOf t n).temp = temp ∧ (telemOf t n).polled = some s.uptime ∧
        (telemOf t n).stat = (telemOf s n).stat &&& 0b10001#5 ∧ t.smb.pollAt = (n + 1) % 16 ∧
        (∀ j, j ≠ n → telemOf t j = telemOf s j) ∧ { t with smb := s.smb } = s) ∧
      (∃ t, exec .smbcAbandon s = .next t ∧ (telemOf t n).stat.getLsbD 1 = true ∧
        (telemOf t n).polled = (telemOf s n).polled ∧ { t with smb := s.smb } = s)) ∧
    (∀ n, s.smb.polling = some n → ∃ t, exec (.smbcRetry .lost) s = .next t ∧
      (s.smb.retries = 0 → t.smb.polling = some n ∧ t.smb.retries = 1 ∧ telemOf t n = telemOf s n) ∧
      (2 ≤ s.smb.retries → t.smb.polling = none ∧ (telemOf t n).stat.getLsbD 3 = true) ∧
      { t with smb := s.smb } = s) ∧
    (∀ (n : Fin 16) rev vmode ok, ∃ t, exec (.regulatorProbe n (.found rev vmode ok)) s = .next t ∧
      (telemOf t n).rev = rev ∧ (telemOf t n).vmode = vmode ∧ (telemOf t n).stat.getLsbD 0 = true ∧
      (telemOf t n).stat.getLsbD 4 = ok ∧ (∀ j, j ≠ n.val → telemOf t j = telemOf s j)) ∧
    ∀ (k : Fin 10) low, ∃ t, exec (.busRecovery k low) s = .next t ∧ t.raised 45 none ∧
      { t with flt := s.flt } = s

/-! ## Resets (18_bringup_reset.md, R506) -/

/-- Resets (R479 to R488): a power-on reset keeps the NVM and leaves everything else at its reset value; PWR_OK or
SYS_RST_N low holds a hub that is not in the Grave state in reset, with its ports Down and its domains gone; the
release, with both pins high, samples the straps; an unsafe TAP instruction is in effect only while SYS_RST_N is
low.
That ports and domains end in the same step is the model's choice (log 23). -/
def Obligations.ResetsClearAndRelease : Prop :=
  ∀ s : State,
    (∃ t, exec .powerOnReset s = .next t ∧ t.board.held = .powerOn ∧ t.flt.grave = false ∧
      t.nvm = s.nvm ∧ t.doms = [] ∧ t.mbram = [] ∧ t.home.trackers = [] ∧
      (∀ p, t.up p = false) ∧ t.cfg = {} ∧ t.board.pins = s.board.pins) ∧
    (s.flt.grave = false → s.board.held = .none →
      (∃ t, exec (.pwrOk false) s = .next t ∧ t.board.held = .sys ∧ t.board.pwrOk = false ∧
        t.doms = [] ∧ (∀ p, t.up p = false) ∧ t.nvm = s.nvm ∧ t.home.trackers = []) ∧
      (∃ t, exec (.sysRstN false) s = .next t ∧ t.board.held = .sys ∧ t.board.sysRstN = false ∧
        t.doms = [] ∧ (∀ p, t.up p = false) ∧ t.nvm = s.nvm ∧ t.board.tap = s.board.tap)) ∧
    (∃ t, exec (.pwrOk true) s = .next t ∧ t = { s with board := { s.board with pwrOk := true } }) ∧
    (s.board.held ≠ .none → s.board.pwrOk = true → s.board.sysRstN = true → s.mbs = [] →
      ∃ t, exec .resetRelease s = .next t ∧ t.board.held = .none ∧ t.board.straps = s.board.pins ∧
        t.doms = s.doms ∧ t.ports = s.ports) ∧
    (∀ i, ∃ t, exec (.tapInstruction i) s = .next t ∧
      t.board.tap = (if s.board.sysRstN = true ∧ tapSafe i = false then .bypass else i) ∧
      { t with board := s.board } = s)

/-! ## Requests (03_messages.md, 05_home_flows.md, 07_atomics_ordering.md) -/

/-- A request to an NC line that nothing is at work on (R172, R211, R212, R233): it takes the tracker that its quota
admits, and its MRD or MWR, which names the requester and the tracker, goes to the region's target. -/
def Obligations.NcRequestsReachMemory : Prop :=
  ∀ (s : State) (p : Fin 20) (h : Hdr) (f : ReqF) (data : Line) (op : ReqOp) (sl n tgt q : Nat),
    op ∈ [.rdc, .rnc, .wnc, .wrl, .atm] →
    let d := h.dom.toNat
    let r : Req := ⟨op, p, h, f, reqLine op data, 0⟩
    s.sender p h → (s.port p).rx.pmk = [] → s.inert → f.tkv = false → inAperture (reqAddr r) = false →
    gated s r = false → badFields r = false → misaligned r = false → s.homes d f.laddr sl →
    mayTake s p (.req op h f (reqLine op data)) = true →
    s.region d (lineAddr f.laddr 0) = some (.nc, tgt) → tgt ≠ 0x7F →
    (∀ a, s.agent d tgt = some a → a.matc = false) → s.reaches d tgt q → creditFree s q .mrq d = true →
    quotaAdmits s sl d false = some n →
    ∃ t x, exec (reqCmd op p h f data) s = .next t ∧ t.trk sl n = some x ∧
      t.home = { s.home with trackers := s.home.trackers ++ [x], turn := t.home.turn } ∧
      (sl < 17 → t.home.turn = tset s.home.turn sl p.val) ∧ x.dom = d ∧ x.laddr = f.laddr ∧
      x.req = some r ∧ x.phase = .collect ∧
      x.awaits = (if op = .wnc ∨ op = .wrl then [.mcp] else [.line]) ∧
      s.placed t q (.mrq (ncMrq s r sl n).1 (ncMrq s r sl n).2) ∧ s.homeOnly t ∧
      (∀ j, j ≠ p.val → j ≠ q → t.port j = s.port j) ∧ ∀ e, e ≠ d → t.dom e = s.dom e

/-- A request to a CO line that the directory cache misses (R151, R168, R169): its tracker reads the line's directory
word from memory, and a read reads the line together with it. -/
def Obligations.CoRequestsReadTheDirectory : Prop :=
  ∀ (s : State) (p : Fin 20) (h : Hdr) (f : ReqF) (data : Line) (op : ReqOp) (sl n tgt q q2 : Nat),
    op ∈ [.rds, .rdo, .rdc, .upg, .wrl, .atm] →
    let d := h.dom.toNat
    let r : Req := ⟨op, p, h, f, reqLine op data, 0⟩
    let w := dirLine s d f.laddr
    s.sender p h → (s.port p).rx.pmk = [] → s.inert → f.tkv = false → inAperture (reqAddr r) = false →
    badFields r = false → misaligned r = false → s.homes d f.laddr sl →
    mayTake s p (.req op h f (reqLine op data)) = true →
    s.region d (lineAddr f.laddr 0) = some (.co, tgt) → s.localMirrored d = [] → s.arr.tag = [] →
    s.arr.owner = [] → s.reaches d (s.dom d).par.dirTgt q → creditFree s q .mrq d = true →
    s.reaches d tgt q2 → quotaAdmits s sl d false = some n →
    ∃ t x rest, exec (reqCmd op p h f data) s = .next t ∧ t.trk sl n = some x ∧
      t.home = { s.home with trackers := s.home.trackers ++ [x], turn := t.home.turn } ∧
      (sl < 17 → t.home.turn = tset s.home.turn sl p.val) ∧ x.req = some r ∧ x.phase = .dirread ∧
      x.awaits = (if op = .rds ∨ op = .rdo ∨ op = .rdc then [.word, .line] else [.word]) ∧
      (t.port q).tx.q = (s.port q).tx.q ++ .mrq (mkMrq s h .mrd 3 w.2 w.1 sl n false) 0 :: rest ∧
      (.line ∈ x.awaits → let m := mkMrq s h .mrd 6 0 f.laddr sl n false
        ⟨tgt, m, 0⟩ ∈ x.mrqs ∨ .mrq m 0 ∈ (t.port q2).tx.q) ∧
      s.homeOnly t ∧ (∀ j, j ≠ p.val → j ≠ q → j ≠ q2 → t.port j = s.port j) ∧
      ∀ e, e ≠ d → t.dom e = s.dom e

/-- PMK and WRP (R89, R107): a PMK waits at its port; the WRP that follows it with its DAN, TID and stream goes on
with its mask, here to an NC line, which is read first (R233). -/
def Obligations.MasksMeetTheirWrites : Prop :=
  ∀ (s : State) (p : Fin 20) (h : Hdr), s.sender p h → s.inert →
    (∀ stream mask, mayTake s p (.pmk h stream mask) = true → (s.port p).rx.pmk.length ≤ 1 →
      ∃ t, exec (.pmk p h stream mask) s = .next t ∧
      (t.port p).rx.pmk = [(h, stream, mask)] ∧ t.home = s.home ∧ s.otherPorts t p ∧
      (t.port p).tx.q = (s.port p).tx.q ∧ s.homeOnly t) ∧
    ∀ (ph : Hdr) (mask : BitVec 64) (f : ReqF) (data : Line) (sl n tgt q : Nat),
      let d := h.dom.toNat
      let r : Req := ⟨.wrp, p, h, f, data, mask⟩
      (s.port p).rx.pmk = [(ph, f.stream, mask)] → ph.tid = h.tid → ph.dan = h.dan → ph.dom = h.dom →
      mask ≠ 0 → mask ≠ BitVec.allOnes 64 → f.tkv = false → badFields r = false →
      inAperture (reqAddr r) = false → mayTake s p (.req .wrp h f data) = true → reqsAhead s p (.req .wrp h f data) = [] →
      s.homes d f.laddr sl → s.region d (lineAddr f.laddr 0) = some (.nc, tgt) → s.reaches d tgt q →
      creditFree s q .mrq d = true → quotaAdmits s sl d false = some n →
      ∃ t x, exec (.wrp p h f data) s = .next t ∧ t.trk sl n = some x ∧ x.req = some r ∧
        x.flow = .ncWrp ∧ x.awaits = [.line] ∧ (t.port p).rx.pmk = [] ∧
        t.home = { s.home with trackers := s.home.trackers ++ [x], turn := t.home.turn } ∧
        (sl < 17 → t.home.turn = tset s.home.turn sl p.val) ∧
        s.placed t q (.mrq (mkMrq s h .mrd 6 0 f.laddr sl n false) 0) ∧ s.homeOnly t

/-- CUREs and the DS order gate (R226, R227, R230): a CURE with nothing to wait for has its CMP at once, one whose
stream has writes open waits for them and has its CMP when they are gone; the gate of a stream passes the next
request when the last has its final answer, and breaks where that answer may be retried. -/
def Obligations.BarriersAndGates : Prop :=
  ∀ s : State,
    (∀ (p : Fin 20) (h : Hdr) (f : ReqF), s.sender p h → (s.port p).rx.pmk = [] → s.home.merges = [] →
      mayTake s p (.req .cure h f 0) = true → f.laddr = 0 → f.ofs = 0 → f.sub = 0 →
      (s.port p).cures.length < 4 →
      ((∀ e ∈ (s.port p).opens, e.1 ≠ f.stream) → ∃ t, exec (.cure p h f) s = .next t ∧
        s.placed t p (.cmp h 0) ∧ t.home = s.home ∧ s.otherPorts t p ∧ s.homeOnly t) ∧
      (∀ e ∈ (s.port p).opens, e.1 = f.stream → watches s h.dom.toNat < (s.dom h.dom.toNat).par.cq →
        ∃ t, exec (.cure p h f) s = .next t ∧ (t.port p).tx.q = (s.port p).tx.q ∧
          (t.port p).cures = (s.port p).cures ++ [⟨h, f.stream,
            ((s.port p).opens.filter fun e => e.1 == f.stream).map Prod.snd, []⟩] ∧
          t.home = s.home ∧ s.otherPorts t p ∧ s.homeOnly t)) ∧
    (∀ (a : Fin 16) (tid : BitVec 12) c, s.clocked = true → s.up a = true →
      (s.port a).cures.find? (fun c => c.h.tid == tid && c.writes.isEmpty && c.drains.isEmpty) = some c →
      (s.port a).mem.dom = some c.h.dom.toNat → (s.port a).mem.sent.isSome = true →
      ∃ t, exec (.cureComplete a tid) s = .next t ∧
        s.placed t a (.cmp { c.h with epoch := (s.dom c.h.dom.toNat).epoch } 0) ∧
        (t.port a).cures.length + 1 = (s.port a).cures.length ∧ s.otherPorts t a ∧ s.homeOnly t) ∧
    ∀ (a : Fin 16) (stream : BitVec 6) (tid : BitVec 12) reason, s.clocked = true →
      gateOf (s.port a) stream.toNat = .busy tid → tget none (s.port a).gateEnd stream.toNat = some reason →
      let mine := (s.port a).gateBuf.filter fun r => r.f.stream == stream
      (retryable reason = false → mine = [] → ∃ t, exec (.dsGatePass a stream) s = .next t ∧
        gateOf (t.port a) stream.toNat = .idle ∧ (t.port a).gateBuf = (s.port a).gateBuf ∧
        s.otherPorts t a ∧ s.homeOnly t) ∧
      (∀ r rest, retryable reason = false → mine = r :: rest →
        exec (.dsGatePass a stream) s = .next (gatePass (s.updPort a fun q =>
          { q with gateBuf := q.gateBuf.erase r }) r)) ∧
      (retryable reason = true → (∀ r ∈ mine, r.port = a.val) → ∃ t,
        exec (.dsGatePass a stream) s = .next t ∧ gateOf (t.port a) stream.toNat = .broken tid ∧
        (t.port a).gateBuf = (s.port a).gateBuf.filter (fun r => r.f.stream != stream) ∧
        s.otherPorts t a ∧ s.homeOnly t)

/-- A writeback of a caching agent whose line's directory word is not in the cache (R91, R150, R168, R191): its CMP
goes at once, and a writeback tracker reads the word. -/
def Obligations.WritebacksAreCompletedAtOnce : Prop :=
  ∀ (s : State) (p : Fin 20) (h : Hdr) (l : LAddr) (data : Line) (op : WbOp) (a : Agent)
    (sl n tgt q : Nat),
    let d := h.dom.toNat
    let w := dirLine s d l
    s.sender p h → s.inert → s.agent d h.dan.toNat = some a → a.kind = .caching → s.homes d l sl →
    s.region d (lineAddr l 0) = some (.co, tgt) → s.arr.tag = [] → s.arr.owner = [] →
    s.reaches d (s.dom d).par.dirTgt q → creditFree s q .mrq d = true → wbAdmits s sl d = some n →
    ∃ t x rest b, exec (if op = .wbm then .wbm p h l data else .evc p h l) s = .next t ∧
      (t.port p).tx.q = (s.port p).tx.q ++ .cmp h 0 :: rest ∧
      t.home = { s.home with trackers := s.home.trackers ++ [x] } ∧ t.trk sl n = some x ∧
      x.flow = .writeback ∧ x.phase = .dirread ∧ x.awaits = [.word] ∧ x.wb = some b ∧ b.op = op ∧
      b.h = h ∧ b.laddr = l ∧ (op = .wbm → b.data = data) ∧
      .mrq (mkMrq s h .mrd 3 w.2 w.1 sl n false) 0 ∈ (t.port q).tx.q ∧ s.homeOnly t ∧
      (∀ j, j ≠ p.val → j ≠ q → t.port j = s.port j) ∧ ∀ e, e ≠ d → t.dom e = s.dom e

/-! ## Answers (05_home_flows.md, 06_races.md, 09_multi_hub.md) -/

/-- Snoop answers at the home while another is awaited (R95, R102, R160): the tracker awaits the answerer no more; it
notes who gave the line up and who keeps it as a sharer, and an SRD brings the line. An SRF that ends a forward, with
nothing else awaited, frees the tracker and leaves a forward record unless the DFW has gone already. -/
def Obligations.SnoopAnswersAreCollected : Prop :=
  ∀ (s : State) (p : Fin 20) (f : AnsF) (data : Line) (op : AnsOp) (x : Tracker) (r : Req),
    let d := f.h.dom.toNat
    let c := f.h.dan.toNat
    let sl := htagSlice f.htag
    let n := htagTracker f.htag
    s.delivers p f.h → (p.val < 16 → (s.port p).mem.dan = c) → s.inert → s.home.wbs = [] →
    s.home.proxies = [] → s.mirrored d c = none → htagHub f.htag = s.hubId →
    mayTake s p (.ans op f (if op = .srd then data else 0)) = true → s.noHeld →
    (s.dom d).st.inService = true → s.trk sl n = some x → x.dom = d → x.laddr = f.laddr →
    x.req = some r →
    (op = .srf → x.awaits = [.snoop c .snf] → x.plain → ∃ t, exec (.srf p f) s = .next t ∧
      t.trk sl n = none ∧ t.home.fwds = s.home.fwds
        ++ (if x.dfw then [] else [⟨sl, d, f.laddr, r.h.dan.toNat⟩]) ∧
      s.otherTrks t sl n ∧ s.otherPorts t p ∧ (t.port p).tx.q = (s.port p).tx.q ∧ t.doms = s.doms ∧
      s.homeOnly t) ∧
    ((∃ o, .snoop c o ∈ x.awaits) → .snoop c .snf ∉ x.awaits → x.owner ≠ some c → x.wbData = none →
    x.otherSnoop c →
    ∃ t y, exec (ansCmd op p f data) s = .next t ∧ t.trk sl n = some y ∧
      y.awaits = x.awaits.filter (fun a => match a with | .snoop k _ => k != c | _ => true) ∧
      y.gone = (if op = .sri ∨ op = .srm ∨ f.nst = 0 then x.gone ++ [c] else x.gone) ∧
      y.kept = (if op ≠ .sri ∧ op ≠ .srm ∧ (f.nst = 1 ∨ op = .srd ∧ f.nst = 2) then x.kept ++ [c]
        else x.kept) ∧
      (op = .srd → y.got = some data ∧ y.dirty = true ∧ y.poison = f.poi) ∧
      (op ≠ .srd → y.got = x.got ∧ y.dirty = x.dirty ∧ y.poison = x.poison) ∧ y.req = some r ∧ y.phase = x.phase ∧
      s.otherTrks t sl n ∧ s.otherPorts t p ∧ (t.port p).tx.q = (s.port p).tx.q ∧
      t.doms = s.doms ∧ s.homeOnly t)

/-- MCPs (R83, R149, R175, R237, R262): the MCP of an MRQ of this hub frees the writeback tracker, the victim or the
merge-buffer entry that it was awaited for, or is counted off a sweep.
Which tag an MRQ of the hub itself carries is the model's (log 15). -/
def Obligations.CompletionsFreeWhatWaited : Prop :=
  ∀ (s : State) (p : Fin 20) (h : Hdr) (l : LAddr) (htag : BitVec 14),
    let d := h.dom.toNat
    let sl := htagSlice htag
    let n := htagTracker htag
    s.delivers p h → htagHub htag = s.hubId → s.home.wbs = [] → mayTake s p (.mcp h l htag) = true →
    ∃ t, exec (.mcp p h l htag) s = .next t ∧
      (∀ x, s.trk sl n = some x → x.dom = d → x.laddr = l → x.phase = .drain → x.awaits = [.mcp] →
        x.plain → t.trk sl n = none ∧ s.otherTrks t sl n ∧ s.otherPorts t p ∧ s.homeOnly t) ∧
      (s.trk sl n = none →
        (∀ v, victimDone s h l htag = some v →
          t.home = { s.home with victims := s.home.victims.erase v } ∧ s.otherPorts t p ∧
          s.homeOnly t) ∧
        (∀ m, s.home.victims = [] →
          s.home.merges.find? (fun m => m.dom == d && m.laddr == l && m.drain == 2) = some m →
          t.merge m.id = none ∧ (∀ j, j ≠ m.id → t.merge j = s.merge j) ∧
          (∀ j, ∀ c ∈ (t.port j).cures, (m.id, m.laddr) ∉ c.drains) ∧ s.homeOnly t) ∧
        (∀ w a, s.home.victims = [] → s.home.merges = [] → (s.dom d).sweep = some w → w.zero = true →
          w.outst.find? (fun a => a.toNat / 64 == l.toNat) = some a →
          (t.dom d).sweep = some { w with outst := w.outst.erase a } ∧ t.home = s.home ∧
          s.otherPorts t p ∧ s.homeOnly t))

/-- Memory data (R157, R169, R237): a DMM brings a tracker its line, a drain the rest of its entry's line, which is
written back; a directory word that names no holder lets a read with its line still on the way go on. -/
def Obligations.MemoryDataIsTaken : Prop :=
  ∀ (s : State) (p : Fin 20) (f : DatF) (data : Line),
    let d := f.h.dom.toNat
    let sl := htagSlice f.htag
    let n := htagTracker f.htag
    s.delivers p f.h → htagHub f.htag = s.hubId → s.inert → s.home.wbs = [] →
    mayTake s p (.dat .dmm f data) = true → (s.dom d).st.inService = true →
    (∀ x r, wordTrk s f = none → s.trk sl n = some x → x.dom = d → x.laddr = f.laddr →
      x.req = some r → .line ∈ x.awaits → .mat ∉ x.awaits → x.dropLine = false → x.dirty = false →
      x.flow ≠ .ncWrp → (∃ k o, .snoop k o ∈ x.awaits) →
      ∃ t, exec (.dmm p f data) s = .next t ∧
        t.trk sl n = some { x with awaits := x.awaits.erase .line, got := some data, poison := f.poi } ∧
        s.otherTrks t sl n ∧ s.otherPorts t p ∧ s.homeOnly t) ∧
    (∀ m rt tgt q, s.trk sl n = none →
      s.home.merges.find? (fun m => m.dom == d && m.laddr == f.laddr && m.drain == 1) = some m →
      s.region d (lineAddr f.laddr 0) = some (rt, tgt) → s.reaches d tgt q →
      ∃ t g, exec (.dmm p f data) s = .next t ∧
        t.merge m.id = some { m with data := mergeLine m.valid m.data data,
                                     poison := m.poison || f.poi, drain := 2 } ∧
        s.placed t q (.mrq g (mergeLine m.valid m.data data)) ∧ g.op = .mwr ∧ g.sub = 6 ∧ g.ofs = 0 ∧
        g.laddr = f.laddr ∧ g.poi = (m.poison || f.poi)) ∧
    (∀ x r, wordTrk s f = some x → x.req = some r → r.op = .rds → x.wb = none → x.wbData = none →
      x.phase = .dirread → x.awaits = [.word, .line] → x.dropLine = false → f.poi = false →
      s.arr.tag = [] → s.arr.owner = [] → s.localMirrored d = [] →
      lineNum data (dirLine s d x.laddr).2 8 = 0 →
      ∃ t y, exec (.directoryWordDmm p f data) s = .next t ∧ t.trk sl n = some y ∧ y.req = some r ∧
        y.phase = .collect ∧ y.flow = .share ∧ y.awaits = [.line] ∧ t.inWay y false ∧
        s.otherTrks t sl n ∧ s.otherPorts t p ∧ s.homeOnly t)

/-- Messages between agents and hubs (R165, R201, R267, R271, R272): a DFW at the home goes on to the requester and
ends its forward record; a proxy snoop of a line without a local mirrored agent is answered SRM toward its home, one
of a line that a local agent holds snoops that agent; an answer for an agent here is placed on its port; every message
whose destination is another hub and whose slot or this hub's tables tell it goes out toward that hub.
That messages of the span network are queued at once is the model's choice (log 17, 18). -/
def Obligations.MessagesAreHandedOn : Prop :=
  ∀ (s : State) (p : Fin 20),
    (∀ (f : DatF) (data : Line) (q : Nat), let d := f.h.dom.toNat
      let dan := f.h.dan.toNat
      s.delivers p f.h → htagHub f.htag = s.hubId → f.poi = false → s.mirrored d dan = none →
      mayTake s p (.dat .dfw f data) = true → mayPass s p .dat d dan = true → s.reaches d dan q → s.noHeld →
      ∃ t, exec (.dfw p f data) s = .next t ∧ s.placed t q (.dat .dfw f data) ∧ s.homeOnly t ∧
        (∀ j, j ≠ p.val → j ≠ q → t.port j = s.port j) ∧
        ∀ r, s.home.fwds.find? (fun r => r.dom == d && r.laddr == f.laddr && r.dan == dan) = some r →
          t.home = { s.home with fwds := s.home.fwds.erase r }) ∧
    (∀ f : SnpF, let d := f.h.dom.toNat
      let o := routePort s (htagHub f.htag) d (40 + s.hubId) true
      16 ≤ p.val → s.delivers p f.h → s.inert → mayTake s p (.snp f) = true → f.proxy = true →
      (s.localMirrored d = [] → s.up o = true →
        ∃ t, exec (.proxySnoop p f) s = .next t ∧ t.home = s.home ∧ s.homeOnly t ∧
          s.placed t o (.ans .srm { h := { f.h with dan := BitVec.ofNat 7 (40 + s.hubId) }, nst := 0,
                                    laddr := f.laddr, htag := f.htag, poi := false } 0)) ∧
      let u := takeMsg s p (.snp f)
      ∀ hs n st q, strHolders u d f.laddr = (hs, false, false, u) →
        hs.filter (fun e => e.1 != f.h.dan.toNat) = [(n, st)] → f.op ≠ .snf → s.reaches d n q →
        ∃ t, exec (.proxySnoop p f) s = .next t ∧ s.placed t q (.snp { f with proxy := false }) ∧
          t.home = { s.home with proxies := s.home.proxies ++ [⟨p, f, [n], none, 0, false⟩] } ∧
          s.homeOnly t) ∧
    ∀ m : Msg, let d := m.hdr.dom.toNat
      let dan := m.hdr.dan.toNat
      16 ≤ p.val → s.delivers p m.hdr → mayTake s p m = true →
      (∀ q, (∃ h r tk v, m = .nak h r tk v) ∨ (∃ h, m = .cmp h 0) → s.reaches d dan q →
        creditFree s q .rsp d = true → ∃ t, exec (.passOn p m) s = .next t ∧
          s.placed t q m ∧ t.home = s.home ∧ s.homeOnly t) ∧
      ∀ a k, m.cls ≠ .req → (∀ f data, m ≠ .dat .dfw f data) → destOf s p m false = some (a, k) →
        a ≠ s.hubId → let o := routePort s a d k false
        s.up o = true → creditFree s o m.cls d = true → ∃ t, exec (.passOn p m) s = .next t ∧
          s.placed t o m ∧ t.home = s.home ∧ s.homeOnly t

/-! ## Trackers that wait, and their deadlines (05_home_flows.md, 06_races.md, 07_atomics_ordering.md) -/

/-- Deadlines at the home (R184, R199, R205, R207): a ticket window that ends passes a reserved tracker on to its
next place, or frees it; T_answer raises source 10 and is counted; an awaited answer that never comes, and T_tracker,
take the domain down. -/
def Obligations.DeadlinesOfTheHome : Prop :=
  ∀ (s : State), s.clocked = true →
    (∀ (sl : Fin 17) (n : Fin 64) (x : Tracker), s.trk sl n = some x → (s.dom x.dom).st.inService = true →
      (∀ quota k rest last, s.home.wbs = [] → x.phase = .reserved →
        x.tq = some ⟨quota, k :: rest, last⟩ → windowPaused s x = false →
        ∃ t, exec (.ticketWindowExpiry sl n) s = .next t ∧
          (rest = [] → t.trk sl n = none) ∧
          (∀ j ∈ rest, j ≠ k → t.trk sl n
            = some { x with tq := some ⟨quota, rest.filter (fun i => i != k), last⟩ }) ∧
          s.otherTrks t sl n ∧ { t with home := s.home } = s) ∧
      (∀ r, x.req = some r → unanswered x = true → x.late = false →
        ∃ t, exec (.tAnswerExpiry sl n) s = .next t ∧ t.trk sl n = some { x with late := true } ∧
          tget 0 (t.dom x.dom).stats 7 = satAdd 64 (tget 0 (s.dom x.dom).stats 7) 1 ∧
          t.raised 10 (some x.dom) ∧ s.otherTrks t sl n ∧ t.ports = s.ports ∧ t.arr = s.arr) ∧
      (∀ i a c, x.awaits[i]? = some a → awaitedFrom s x a = some c →
        ∃ t, exec (.tSnoopExpiry (.tracker sl n i)) s = .next t ∧ t.domDown x.dom 11 ∧
          t.raised 11 (some x.dom) ∧ t.raised 14 (some x.dom)) ∧
      (x.phase ≠ .reserved → ∃ t, exec (.tTrackerExpiry sl n) s = .next t ∧ t.domDown x.dom 12 ∧
        t.raised 12 (some x.dom) ∧ t.raised 14 (some x.dom))) ∧
    (∀ i m rt c, s.merge i = some m → m.drain ≠ 0 → (s.dom m.dom).st.inService = true →
      s.region m.dom (lineAddr m.laddr 0) = some (rt, c) →
      ∃ t, exec (.tSnoopExpiry (.merge i)) s = .next t ∧ t.domDown m.dom 11 ∧ t.raised 11 (some m.dom)) ∧
    ∀ (sl : Fin 17) i v, (s.home.victims.filter fun v => v.sl == sl.val)[i]? = some v →
      (s.dom v.dom).st.inService = true →
      ∃ t, exec (.tSnoopExpiry (.victim sl i)) s = .next t ∧ t.domDown v.dom 11 ∧ t.raised 11 (some v.dom)

/-- A grant that waited (R173, R322 to R324): with its credit held it is placed, first in ready order and as pacing
admits, or forced; it leaves its port's list, and its tracker is freed where nothing else is awaited. -/
def Obligations.DelayedGrantsArePlaced : Prop :=
  ∀ (s : State) (sl : Fin 17) (n : Fin 64) (x : Tracker) (r : Req),
    let m := finalMsg s x r
    let d := r.h.dom.toNat
    s.clocked = true → s.trk sl n = some x → x.phase = .grant → x.req = some r → switchHits s sl = false →
    s.inert → s.home.wbs = [] → grantCredit s x r = true → r.port < 16 → s.up r.port = true →
    (s.port r.port).mem.dom = some d → (s.port r.port).mem.sent.isSome = true →
    s.mirrored d (s.port r.port).mem.dan = none → x.poison = false → x.plain →
    x.awaits = [] → x.flow = .read ∨ x.flow = .own ∨ x.flow = .upgrade →
    let gives := fun (t : State) => s.placed t r.port m ∧ t.trk sl n = none ∧
      (sl.val, n.val) ∉ (t.port r.port).ready ∧ s.otherTrks t sl n ∧ s.otherPorts t r.port ∧ s.homeOnly t
    (nextReady s r.port = some x → ∃ t, exec (.grantPlacement sl n) s = .next t ∧ gives t) ∧
    (x.pacedAt.isSome = true → paceOpen (s.port r.port).fore = false → ∃ t, exec (.paceForced sl n) s = .next t ∧ gives t ∧
      (t.port r.port).fore.paceForced = bump (s.port r.port).fore.paceForced)

/-- Trackers that waited go on (R157, R175, R235, R238): an MRQ is sent when its port has a credit; a fill finds its
way, here with no holder on record; a request whose line's merge-buffer entry has drained starts as if looked up
now. -/
def Obligations.WaitingTrackersGoOn : Prop :=
  ∀ (s : State) (sl : Fin 17) (n : Fin 64) (x : Tracker), s.clocked = true → s.trk sl n = some x →
    (s.dom x.dom).st.inService = true → switchHits s sl = false → s.inert → s.home.wbs = [] →
    x.dom < 8 →
    (∀ w rest q, x.mrqs = w :: rest → w.f.h.dom.toNat = x.dom → s.reaches x.dom w.dan q →
      creditFree s q .mrq x.dom = true → ∃ t, exec (.mrqPlacement sl n) s = .next t ∧
        s.placed t q (.mrq w.f w.data) ∧ t.trk sl n = some { x with mrqs := rest } ∧
        s.otherTrks t sl n ∧ s.otherPorts t q ∧ t.doms = s.doms) ∧
    (∀ dirty r, x.fillWait = some (0, dirty) → x.req = some r → r.op = .rds → x.wb = none →
      x.wbData = none → x.awaits = [.line] → x.dropLine = false → s.arr.tag = [] → s.arr.owner = [] →
      s.localMirrored x.dom = [] → ∃ t y, exec (.directoryFillResume sl n) s = .next t ∧
        t.trk sl n = some y ∧ y.fillWait = none ∧ y.phase = .collect ∧ y.flow = .share ∧
        y.awaits = [.line] ∧ t.inWay y dirty ∧ s.otherTrks t sl n ∧
        t.ports = s.ports ∧ s.homeOnly t) ∧
    (∀ r tgt q, x.phase = .collect → x.req = some r → x.flow = .ncMerge ∨ x.flow = .undecided →
      (x.flow = .ncMerge → ∀ y ∈ s.home.trackers.takeWhile (· != x),
        ¬(y.flow = .ncMerge ∧ y.phase = .collect ∧ y.awaits = [])) →
      x.awaits = [] → x.mrqs = [] → r.op ∈ [.rdc, .rnc, .wnc, .wrl] → r.h.dom.toNat = x.dom →
      r.h.epoch = (s.dom x.dom).epoch → r.f.laddr = x.laddr → s.home.merges = [] →
      (s.dom x.dom).par.mbq = 0 → s.region x.dom (lineAddr x.laddr 0) = some (.nc, tgt) →
      s.reaches x.dom tgt q → creditFree s q .mrq x.dom = true →
      ∃ t y, exec (.drainWaiterResume sl n) s = .next t ∧ t.trk sl n = some y ∧ y.phase = .collect ∧
        y.req = some r ∧ y.awaits = (if r.op = .wnc ∨ r.op = .wrl then [.mcp] else [.line]) ∧
        s.placed t q (.mrq (ncMrq s r sl n).1 (ncMrq s r sl n).2) ∧ s.otherTrks t sl n ∧
        s.otherPorts t q ∧ s.homeOnly t)

/-- Held lines and merge-buffer entries are let go (R218, R235 to R237): a hold that reaches a limit is released,
written to memory first where it is dirty; the drain of an entry that is old, or the oldest of many, starts with
one MWR of its valid bytes, or with a read of the line. -/
def Obligations.HoldsAndEntriesEnd : Prop :=
  ∀ s : State, s.clocked = true → s.inert →
    (∀ (sl : Fin 17) (n : Fin 64) x dirty cnt forced r rt tgt q, s.trk sl n = some x → x.phase = .hold →
      x.hold = some (dirty, cnt, forced) → x.req = some r → (s.dom x.dom).st.inService = true →
      x.plain → x.awaits = [] → x.poison = false → r.h.dom.toNat = x.dom → s.home.wbs = [] →
      s.region x.dom (lineAddr x.laddr 0) = some (rt, tgt) → tgt ≠ 0x7F → s.reaches x.dom tgt q →
      creditFree s q .mrq x.dom = true →
      ∀ c, c = .holdIdleLimit sl n ∨ c = .holdTimeLimit sl n → ∃ t, exec c s = .next t ∧
        (dirty = false → t.trk sl n = none ∧ t.ports = s.ports) ∧
        (dirty = true → (∃ y, t.trk sl n = some y ∧ y.phase = .drain ∧ y.awaits = [.mcp] ∧
          y.hold = none) ∧ s.otherPorts t q ∧
          s.placed t q (.mrq (mkMrq s (reqHdr s r) .mwr 6 0 x.laddr sl n false) (x.got.getD 0))) ∧
        s.otherTrks t sl n ∧ s.homeOnly t) ∧
    (∀ (i : Fin 64) m rt tgt q, s.merge i = some m → m.drain = 0 → m.dom < 8 →
      s.region m.dom (lineAddr m.laddr 0) = some (rt, tgt) → s.reaches m.dom tgt q →
      let idle := idleEntries s fun _ => true
      ∀ c, c = .mergeEntryAge i ∨ (c = .mergePressureDrain ∧ 56 ≤ idle.length ∧ idle.head? = some m) →
      ∃ t f d, exec c s = .next t ∧ s.placed t q (.mrq f d) ∧ f.laddr = m.laddr ∧
        (∀ k o, alignedBlock m.valid = some (k, o) → f.op = .mwr ∧ f.sub = BitVec.ofNat 4 k ∧
          f.ofs = BitVec.ofNat 6 o ∧ d &&& maskBits m.valid 64 = m.data &&& maskBits m.valid 64 ∧
          t.merge i = some { m with drain := 2 }) ∧
        (alignedBlock m.valid = none → f.op = .mrd ∧ f.sub = 6 ∧ f.ofs = 0 ∧
          t.merge i = some { m with drain := 1 }) ∧
        (∀ j, j ≠ i.val → t.merge j = s.merge j) ∧ t.home.trackers = s.home.trackers ∧
        s.otherPorts t q)

/-! ## Quiescing, sweeps and stages (08_domains.md, 09_multi_hub.md) -/

/-- Quiescing and sweeps (R244, R262): a drained domain is QUIESCED and its command DONE; a zero sweep sends the next
MWR of this hub's share and, all counted off, sets the flag; a writeback sweep sends the next dirty word and ends when
there is none; an MCP that never comes fails the command, or takes a quiescing domain down.
The tag of a sweep's MWR is a free value (log 15); the cause of a flush that times out is the reading of log 38. -/
def Obligations.SweepsAndQuiescing : Prop :=
  ∀ (s : State) (d : Fin 8), s.clocked = true →
    (∀ mbx : Fin 10, (s.dom d).st = .quiescing → drained s d = true → (s.dom d).sweep = none →
      (s.dom d).quiesceMbx = some mbx.val → (s.mb mbx).st = .busy → ramWf s.mbram = true →
      ∃ t, exec (.quiesced d) s = .next t ∧ (t.dom d).st = .quiesced ∧ (t.dom d).quiesceMbx = none ∧
        t.ended mbx 0 0 [] ∧ t.home = s.home ∧ t.ports = s.ports ∧ ∀ e, e ≠ d.val → t.dom e = s.dom e) ∧
    (∀ w, (s.dom d).sweep = some w → s.home.switching ≠ some 16 →
      let par := (s.dom d).par
      (∀ q, w.zero = true → w.flush = false → w.outst.length < 64 → shareBlock s w.next < dirBlocks par →
        s.reaches d par.dirTgt q →
        let a := par.dirBase + BitVec.ofNat 52 (64 * shareBlock s w.next)
        ∃ t f, exec (.sweepMwr d) s = .next t ∧ s.placed t q (.mrq f 0) ∧ f.op = .mwr ∧ f.sub = 6 ∧
          f.ofs = 0 ∧ f.laddr = BitVec.ofNat 46 (a.toNat / 64) ∧
          (t.dom d).sweep = some { w with next := w.next + 1, outst := w.outst ++ [a] } ∧
          t.home = s.home ∧ s.otherPorts t q ∧ s.homeOnly t) ∧
      (∀ k q, w.zero = false → w.flush = false → w.outst.length < 64 → nextDirty s d w.next = some k →
        s.inert → chk47 (tget 0 s.arr.tag k) = .clean →
        evenOk 5 (tget 0 s.arr.owner k).toNat = true → chk64 (tget 0 s.arr.word k) = .clean → s.reaches d par.dirTgt q →
        let tag := (tget 0 s.arr.tag k).setWidth 40
        let at_ := dirLine s d (wayLine (k / 32) tag)
        ∃ t f data, exec (.sweepMwr d) s = .next t ∧ s.placed t q (.mrq f data) ∧ f.op = .mwr ∧
          f.sub = 3 ∧ f.laddr = at_.1 ∧ f.ofs = BitVec.ofNat 6 at_.2 ∧
          (tget 0 t.arr.tag k).setWidth 40 = mkTag false d (tagAtag tag) ∧
          (∀ j, j ≠ k → tget 0 t.arr.tag j = tget 0 s.arr.tag j) ∧ t.arr.word = s.arr.word ∧
          t.home = s.home ∧ s.otherPorts t q ∧ s.homeOnly t) ∧
      (∀ mbx : Fin 10, w.flush = false → w.mbx = some mbx.val → (s.mb mbx).st = .busy →
        ramWf s.mbram = true →
        (w.zero = false → w.outst = [] → nextDirty s d w.next = none →
          ∃ t, exec (.sweepMwr d) s = .next t ∧ (t.dom d).sweep = none ∧ t.ended mbx 0 0 [] ∧
            t.arr = s.arr) ∧
        (w.zero = true → w.outst = [] → dirBlocks par ≤ shareBlock s w.next → (s.dom d).start = none →
          ∃ t, exec (.zeroSweepComplete d) s = .next t ∧ (t.dom d).sweep = none ∧
            (t.dom d).zeroFlag = true ∧ (t.dom d).stale = 0 ∧ t.ended mbx 0 0 []) ∧
        (w.outst ≠ [] → (s.dom d).st ≠ .quiescing → (s.dom d).start = none →
          ∃ t, exec (.sweepTimeout d) s = .next t ∧ (t.dom d).sweep = none ∧
            (t.dom d).zeroFlag = (s.dom d).zeroFlag ∧ t.ended mbx 8 0x205 [])) ∧
      (w.outst ≠ [] → (s.dom d).st = .quiescing → ∃ t, exec (.sweepTimeout d) s = .next t ∧
        t.domDown d 11 ∧ t.raised 11 (some d.val) ∧ t.raised 14 (some d.val)))

/-- The stages of a DOMAIN_START (R261, R278 to R282): stage notices of another hub are kept and relayed once, one
that disagrees is reported; a start goes on when every hub's notice is in, and is given up at its time-out; a span
RELEASE takes a domain in service down, and its clean-up ends with the loss of agents that are no longer there.
Relaying, and what a failed start does with held requests, are readings of log 29. -/
def Obligations.StagesOfAStart : Prop :=
  ∀ (s : State) (d : Fin 8),
    (∀ (p : Fin 20) (n : AssignF) (h base : Nat), s.clocked = true → s.up p = true → 16 ≤ p.val →
      base = 40 ∨ base = 48 → h < 8 → h ≠ s.hubId → n.dom.toNat = d.val → n.dan.toNat = base + h →
      let c : Instr := if base = 40 then .stagePNotice p n else .stageRNotice p n
      let got := fun (q : Dom) => if base = 40 then q.stageP else q.stageR
      ∃ t, exec c s = .next t ∧
        ((s.dom d).start = none ∨ sameStage n (stageNotice s d 40) = true →
          got (t.dom d) = (got (s.dom d)).filter (fun e => e.1 != h) ++ [(h, n)] ∧ t.flt = s.flt) ∧
        ((s.dom d).start ≠ none → sameStage n (stageNotice s d 40) = false → t.raised 15 (some d.val) ∧
          got (t.dom d) = got (s.dom d)) ∧
        (∀ j ∈ spanPorts, j ≠ p.val → s.up j = true → (t.port j).tx.lcq = (s.port j).tx.lcq ++
          if (s.dom d).relayed.contains (n.dan.toNat, n.epoch.toNat) then [] else [.assign n]) ∧
        (∀ e, e ≠ d.val → t.dom e = s.dom e) ∧ t.home = s.home ∧ ∀ j < 16, t.port j = s.port j) ∧
    (∀ p : Fin 20, s.clocked = true → s.up p = true → 16 ≤ p.val → (s.dom d).start = none →
      (s.dom d).st.inService = true → ∃ t, exec (.spanRelease p d) s = .next t ∧ t.domDown d 0xFF ∧
        t.raised 14 (some d.val)) ∧
    (∀ j, s.clocked = true → (s.dom d).start = some j → (s.dom d).heldReqs = [] →
      (j.stage = .waitP → allHubs s (s.dom d).stageP = true →
        let again := j.origin = .down ∨ j.origin = .created ∧ (s.dom d).zeroFlag = false
        ∃ t, exec (.stagePComplete d) s = .next t ∧ t.home = s.home ∧
          (again → (s.dom d).par.twSize ≠ 0 → (t.dom d).start = some { j with stage := .sweep } ∧
            (t.dom d).sweep = some { zero := true, flush := false, next := 0, outst := [], mbx := none } ∧
            t.ports = s.ports) ∧
          (¬again → s.hubs ≠ 1 → (t.dom d).start = some { j with stage := .waitR } ∧
            ∀ p ∈ spanPorts, s.up p = true → (t.port p).tx.lcq = (s.port p).tx.lcq ++
              [.assign (stageNotice s d 48)])) ∧
      (j.stage = .waitR → allHubs s (s.dom d).stageR = true → ∀ mbx : Fin 10, j.mbx = some mbx.val →
        (s.mb mbx).st = .busy → ramWf s.mbram = true →
        ∃ t, exec (.stageRComplete d) s = .next t ∧ (t.dom d).st = .started ∧ (t.dom d).start = none ∧
          (t.dom d).zeroFlag = false ∧ (t.dom d).stageP = [] ∧ t.ended mbx 0 0 []) ∧
      (j.stage = .waitP ∨ j.stage = .waitR → ∀ mbx : Fin 10, j.mbx = some mbx.val →
        (s.mb mbx).st = .busy → ramWf s.mbram = true →
        ∃ t, exec (.stageTimeout d) s = .next t ∧ (t.dom d).st = (s.dom d).st ∧
          (t.dom d).start = none ∧ (t.dom d).stageP = [] ∧ t.ended mbx 8 0x204 [])) ∧
    (s.alive = true → (s.dom d).downing = true → ∃ t, exec (.downProcessingComplete d) s = .next t ∧
      (t.dom d).downing = false ∧ (t.dom d).st = (s.dom d).st ∧
      ∀ dan a, dan < 128 → s.agent d dan = some a →
        (∀ p, a.hub = s.hubId → a.port = some p → s.up p = false → t.agent d dan = none) ∧
        (a.hub ≠ s.hubId → t.agent d dan = some a))
end

