-- ==== Sys2Proof/Laws/Tbl.lean ====
section
/-!
SUPPORT. What a read of a table or of a RAM answers after a write, and the canonical form of a RAM, which
every RAM operation keeps.
-/
namespace Sys2Proof.Machine

variable {α : Type} {w : Nat}

/-! ## Tables -/

@[simp] theorem tget_nil (d : α) (k : Nat) : tget d [] k = d := rfl

@[simp] theorem tget_tset_same (d : α) (t : Tbl α) (k : Nat) (v : α) : tget d (tset t k v) k = v := by
  induction t with
  | nil => simp [tset, tget]
  | cons e rest ih =>
    obtain ⟨k', v'⟩ := e
    by_cases h : k' = k <;> simp [tset, tget, h, ih]

@[simp] theorem tget_tset_ne (d : α) (t : Tbl α) {k k' : Nat} (v : α) (h : k' ≠ k) :
    tget d (tset t k' v) k = tget d t k := by
  induction t with
  | nil => simp [tset, tget, h]
  | cons e rest ih =>
    obtain ⟨j, u⟩ := e
    by_cases hj : j = k'
    · subst hj; simp [tset, tget, h]
    · by_cases hk : j = k
      · subst hk; simp [tset, tget, hj]
      · simp [tset, tget, hj, hk, ih]

theorem tget_tset (d : α) (t : Tbl α) (k' k : Nat) (v : α) :
    tget d (tset t k' v) k = if k' = k then v else tget d t k := by
  by_cases h : k' = k
  · subst h; simp
  · simp [h]

/-- A rewrite of every listed entry that keeps the default rewrites what every key reads. -/
theorem tget_tmap (d : α) (t : Tbl α) (f : Nat → α → α) (k : Nat) (hd : f k d = d) :
    tget d (tmap t f) k = f k (tget d t k) := by
  induction t with
  | nil => simp [tmap, tget, hd]
  | cons e rest ih =>
    obtain ⟨j, u⟩ := e
    simp only [tmap, List.map_cons, tget] at ih ⊢
    by_cases h : j = k
    · subst h; simp
    · simp [h, ih]

/-! ## RAMs -/

theorem ramAbove_iff {k : Nat} {m : List (Nat × BitVec w)} :
    ramAbove k m = true ↔ ∀ e ∈ m, k < e.1 := by simp [ramAbove]

theorem ramGet_of_ramAbove {k j : Nat} {m : List (Nat × BitVec w)} (h : ramAbove k m = true)
    (hj : j ≤ k) : ramGet m j = 0 := by
  induction m with
  | nil => rfl
  | cons e rest ih =>
    obtain ⟨i, v⟩ := e
    rw [ramAbove_iff] at h
    have hi := h (i, v) (by simp)
    have hr : ramAbove k rest = true := by
      rw [ramAbove_iff]; exact fun e he => h e (by simp [he])
    have : ¬ i = j := by dsimp at hi; omega
    simp [ramGet, this, ih hr]

theorem ramAbove_mono {k j : Nat} {m : List (Nat × BitVec w)} (h : ramAbove k m = true) (hj : j ≤ k) :
    ramAbove j m = true := by
  rw [ramAbove_iff] at h ⊢
  exact fun e he => lt_of_le_of_lt hj (h e he)

theorem ramAbove_ramSet {j k : Nat} {v : BitVec w} {m : List (Nat × BitVec w)}
    (h : ramAbove j m = true) (hk : j < k) : ramAbove j (ramSet m k v) = true := by
  induction m with
  | nil => by_cases hv : v = 0#w <;> simp [ramSet, hv, ramAbove, hk]
  | cons e rest ih =>
    obtain ⟨i, u⟩ := e
    have hi : j < i := (ramAbove_iff.1 h) (i, u) (by simp)
    have hr : ramAbove j rest = true := by
      rw [ramAbove_iff]; exact fun e he => (ramAbove_iff.1 h) e (by simp [he])
    have ih := ih hr
    rw [ramAbove_iff] at *
    simp only [ramSet]
    split
    · split
      · exact h
      · intro e he
        rcases List.mem_cons.1 he with rfl | he
        · exact hk
        · exact h e he
    · split
      · split
        · exact hr
        · intro e he
          rcases List.mem_cons.1 he with rfl | he
          · exact hk
          · exact hr e he
      · intro e he
        rcases List.mem_cons.1 he with rfl | he
        · exact hi
        · exact ih e he

/-- A write of one cell keeps the canonical form. -/
theorem ramWf_ramSet {m : List (Nat × BitVec w)} (h : ramWf m = true) (k : Nat) (v : BitVec w) :
    ramWf (ramSet m k v) = true := by
  induction m with
  | nil => by_cases hv : v = 0#w <;> simp [ramSet, hv, ramWf, ramAbove]
  | cons e rest ih =>
    obtain ⟨i, u⟩ := e
    simp only [ramWf, Bool.and_eq_true, decide_eq_true_eq] at h
    obtain ⟨⟨hu, ha⟩, hr⟩ := h
    replace hu : u ≠ 0#w := hu
    have ih := ih hr
    simp only [ramSet]
    split
    · rename_i hk
      have hall : ramAbove k ((i, u) :: rest) = true := by
        rw [ramAbove_iff]
        intro e he
        rcases List.mem_cons.1 he with rfl | he
        · exact hk
        · exact lt_trans hk ((ramAbove_iff.1 ha) e he)
      split
      · simp [ramWf, hu, ha, hr]
      · rename_i hv
        replace hv : v ≠ 0#w := hv
        simp [ramWf, hv, hu, ha, hr, hall]
    · split
      · rename_i hk
        subst hk
        split
        · exact hr
        · rename_i hv
          replace hv : v ≠ 0#w := hv
          simp [ramWf, hv, ha, hr]
      · rename_i h1 h2
        have hk : i < k := by omega
        simp [ramWf, hu, ih, ramAbove_ramSet ha hk]

/-- A write of consecutive cells keeps the canonical form. -/
theorem ramWf_ramSetMany {m : List (Nat × BitVec w)} (h : ramWf m = true) (k : Nat)
    (vs : List (BitVec w)) : ramWf (ramSetMany m k vs) = true := by
  induction vs generalizing m k with
  | nil => exact h
  | cons v rest ih => exact ih (ramWf_ramSet h k v) (k + 1)

/-- Cells dropped from a RAM in canonical form leave it in canonical form. -/
theorem ramWf_filter {m : List (Nat × BitVec w)} (h : ramWf m = true) (f : Nat × BitVec w → Bool) :
    ramWf (m.filter f) = true := by
  induction m with
  | nil => rfl
  | cons e rest ih =>
    obtain ⟨i, u⟩ := e
    simp only [ramWf, Bool.and_eq_true, decide_eq_true_eq] at h
    obtain ⟨⟨hu, ha⟩, hr⟩ := h
    replace hu : u ≠ 0#w := hu
    have hf : ramAbove i (rest.filter f) = true := by
      rw [ramAbove_iff] at ha ⊢
      exact fun e he => ha e (List.mem_filter.1 he).1
    by_cases hi : f (i, u) = true <;> simp [hi, ramWf, hu, hf, ih hr]

/-- The written cell reads what was written. -/
@[simp] theorem ramGet_ramSet_same {m : List (Nat × BitVec w)} (h : ramWf m = true) (k : Nat)
    (v : BitVec w) : ramGet (ramSet m k v) k = v := by
  induction m with
  | nil => by_cases hv : v = 0#w <;> simp [ramSet, hv, ramGet]
  | cons e rest ih =>
    obtain ⟨i, u⟩ := e
    simp only [ramWf, Bool.and_eq_true, decide_eq_true_eq] at h
    obtain ⟨⟨hu, ha⟩, hr⟩ := h
    replace hu : u ≠ 0#w := hu
    have ih := ih hr
    simp only [ramSet]
    split
    · rename_i hk
      split
      · rename_i hv
        have : ¬ i = k := by omega
        simp [ramGet, this, hv, ramGet_of_ramAbove ha (le_of_lt hk)]
      · simp [ramGet]
    · split
      · rename_i hk
        subst hk
        split
        · rename_i hv
          rw [hv]; exact ramGet_of_ramAbove ha le_rfl
        · simp [ramGet]
      · rename_i h1 h2
        have : ¬ i = k := fun h => h2 h.symm
        simp [ramGet, this, ih]

/-- Every other cell reads as before. -/
@[simp] theorem ramGet_ramSet_ne {m : List (Nat × BitVec w)} (h : ramWf m = true) {k j : Nat}
    (v : BitVec w) (hj : j ≠ k) : ramGet (ramSet m k v) j = ramGet m j := by
  induction m with
  | nil =>
    have : ¬ k = j := fun h => hj h.symm
    by_cases hv : v = 0#w <;> simp [ramSet, hv, ramGet, this]
  | cons e rest ih =>
    obtain ⟨i, u⟩ := e
    simp only [ramWf, Bool.and_eq_true, decide_eq_true_eq] at h
    obtain ⟨⟨hu, ha⟩, hr⟩ := h
    replace hu : u ≠ 0#w := hu
    have ih := ih hr
    have hkj : ¬ k = j := fun h => hj h.symm
    simp only [ramSet]
    split
    · split
      · rfl
      · simp [ramGet, hkj]
    · split
      · rename_i hk
        subst hk
        have : ¬ k = j := hkj
        split <;> simp [ramGet, this]
      · by_cases hi : i = j <;> simp [ramGet, hi, ih]

/-- Cells below a block write read as before. -/
theorem ramGet_ramSetMany_below {m : List (Nat × BitVec w)} (h : ramWf m = true) {k j : Nat}
    (vs : List (BitVec w)) (hj : j < k) : ramGet (ramSetMany m k vs) j = ramGet m j := by
  induction vs generalizing m k with
  | nil => rfl
  | cons v rest ih =>
    simp only [ramSetMany]
    rw [ih (ramWf_ramSet h k v) (by omega), ramGet_ramSet_ne h v (by omega)]

/-- Cells above a block write read as before. -/
theorem ramGet_ramSetMany_above {m : List (Nat × BitVec w)} (h : ramWf m = true) {k j : Nat}
    (vs : List (BitVec w)) (hj : k + vs.length ≤ j) : ramGet (ramSetMany m k vs) j = ramGet m j := by
  induction vs generalizing m k with
  | nil => rfl
  | cons v rest ih =>
    simp only [List.length_cons] at hj
    simp only [ramSetMany]
    rw [ih (ramWf_ramSet h k v) (by omega), ramGet_ramSet_ne h v (by omega)]

/-- Cell i of a block write reads the i-th value. -/
theorem ramGet_ramSetMany {m : List (Nat × BitVec w)} (h : ramWf m = true) {k i : Nat}
    (vs : List (BitVec w)) (hi : i < vs.length) : ramGet (ramSetMany m k vs) (k + i) = vs[i] := by
  induction vs generalizing m k i with
  | nil => simp at hi
  | cons v rest ih =>
    simp only [ramSetMany]
    cases i with
    | zero =>
      have := ramGet_ramSetMany_below (ramWf_ramSet h k v) rest (Nat.lt_succ_self k)
      exact this.trans (ramGet_ramSet_same h k v)
    | succ i =>
      have := ih (ramWf_ramSet h k v) (k := k + 1) (i := i) (by simpa using hi)
      rw [show k + (i + 1) = k + 1 + i by omega, this]
      rfl

end Sys2Proof.Machine
end

