-- ==== Sys2Proof/Laws/State.lean ====
section
/-!
SUPPORT. One lemma per field of State per update of Operands.lean, so that no proof unfolds a record
update; and what the accessors of ports, domains, mailboxes and CRC units read after one.
-/
namespace Sys2Proof.Machine.State

/-! ### setPort -/

@[simp] theorem setPort_pending (s : State) (p : Nat) (v : Port) :
    (s.setPort p v).pending = s.pending := rfl
@[simp] theorem setPort_uptime (s : State) (p : Nat) (v : Port) :
    (s.setPort p v).uptime = s.uptime := rfl
@[simp] theorem setPort_free (s : State) (p : Nat) (v : Port) :
    (s.setPort p v).free = s.free := rfl
@[simp] theorem setPort_board (s : State) (p : Nat) (v : Port) :
    (s.setPort p v).board = s.board := rfl
@[simp] theorem setPort_doms (s : State) (p : Nat) (v : Port) :
    (s.setPort p v).doms = s.doms := rfl
@[simp] theorem setPort_home (s : State) (p : Nat) (v : Port) :
    (s.setPort p v).home = s.home := rfl
@[simp] theorem setPort_arr (s : State) (p : Nat) (v : Port) :
    (s.setPort p v).arr = s.arr := rfl
@[simp] theorem setPort_integ (s : State) (p : Nat) (v : Port) :
    (s.setPort p v).integ = s.integ := rfl
@[simp] theorem setPort_kt (s : State) (p : Nat) (v : Port) :
    (s.setPort p v).kt = s.kt := rfl
@[simp] theorem setPort_flt (s : State) (p : Nat) (v : Port) :
    (s.setPort p v).flt = s.flt := rfl
@[simp] theorem setPort_cfg (s : State) (p : Nat) (v : Port) :
    (s.setPort p v).cfg = s.cfg := rfl
@[simp] theorem setPort_mbs (s : State) (p : Nat) (v : Port) :
    (s.setPort p v).mbs = s.mbs := rfl
@[simp] theorem setPort_mbram (s : State) (p : Nat) (v : Port) :
    (s.setPort p v).mbram = s.mbram := rfl
@[simp] theorem setPort_fw (s : State) (p : Nat) (v : Port) :
    (s.setPort p v).fw = s.fw := rfl
@[simp] theorem setPort_fwram (s : State) (p : Nat) (v : Port) :
    (s.setPort p v).fwram = s.fwram := rfl
@[simp] theorem setPort_nvm (s : State) (p : Nat) (v : Port) :
    (s.setPort p v).nvm = s.nvm := rfl
@[simp] theorem setPort_nvmErr (s : State) (p : Nat) (v : Port) :
    (s.setPort p v).nvmErr = s.nvmErr := rfl
@[simp] theorem setPort_nvmFail (s : State) (p : Nat) (v : Port) :
    (s.setPort p v).nvmFail = s.nvmFail := rfl
@[simp] theorem setPort_crc (s : State) (p : Nat) (v : Port) :
    (s.setPort p v).crc = s.crc := rfl
@[simp] theorem setPort_smb (s : State) (p : Nat) (v : Port) :
    (s.setPort p v).smb = s.smb := rfl
@[simp] theorem setPort_sens (s : State) (p : Nat) (v : Port) :
    (s.setPort p v).sens = s.sens := rfl

/-! ### updPort -/

@[simp] theorem updPort_pending (s : State) (p : Nat) (f : Port → Port) :
    (s.updPort p f).pending = s.pending := rfl
@[simp] theorem updPort_uptime (s : State) (p : Nat) (f : Port → Port) :
    (s.updPort p f).uptime = s.uptime := rfl
@[simp] theorem updPort_free (s : State) (p : Nat) (f : Port → Port) :
    (s.updPort p f).free = s.free := rfl
@[simp] theorem updPort_board (s : State) (p : Nat) (f : Port → Port) :
    (s.updPort p f).board = s.board := rfl
@[simp] theorem updPort_doms (s : State) (p : Nat) (f : Port → Port) :
    (s.updPort p f).doms = s.doms := rfl
@[simp] theorem updPort_home (s : State) (p : Nat) (f : Port → Port) :
    (s.updPort p f).home = s.home := rfl
@[simp] theorem updPort_arr (s : State) (p : Nat) (f : Port → Port) :
    (s.updPort p f).arr = s.arr := rfl
@[simp] theorem updPort_integ (s : State) (p : Nat) (f : Port → Port) :
    (s.updPort p f).integ = s.integ := rfl
@[simp] theorem updPort_kt (s : State) (p : Nat) (f : Port → Port) :
    (s.updPort p f).kt = s.kt := rfl
@[simp] theorem updPort_flt (s : State) (p : Nat) (f : Port → Port) :
    (s.updPort p f).flt = s.flt := rfl
@[simp] theorem updPort_cfg (s : State) (p : Nat) (f : Port → Port) :
    (s.updPort p f).cfg = s.cfg := rfl
@[simp] theorem updPort_mbs (s : State) (p : Nat) (f : Port → Port) :
    (s.updPort p f).mbs = s.mbs := rfl
@[simp] theorem updPort_mbram (s : State) (p : Nat) (f : Port → Port) :
    (s.updPort p f).mbram = s.mbram := rfl
@[simp] theorem updPort_fw (s : State) (p : Nat) (f : Port → Port) :
    (s.updPort p f).fw = s.fw := rfl
@[simp] theorem updPort_fwram (s : State) (p : Nat) (f : Port → Port) :
    (s.updPort p f).fwram = s.fwram := rfl
@[simp] theorem updPort_nvm (s : State) (p : Nat) (f : Port → Port) :
    (s.updPort p f).nvm = s.nvm := rfl
@[simp] theorem updPort_nvmErr (s : State) (p : Nat) (f : Port → Port) :
    (s.updPort p f).nvmErr = s.nvmErr := rfl
@[simp] theorem updPort_nvmFail (s : State) (p : Nat) (f : Port → Port) :
    (s.updPort p f).nvmFail = s.nvmFail := rfl
@[simp] theorem updPort_crc (s : State) (p : Nat) (f : Port → Port) :
    (s.updPort p f).crc = s.crc := rfl
@[simp] theorem updPort_smb (s : State) (p : Nat) (f : Port → Port) :
    (s.updPort p f).smb = s.smb := rfl
@[simp] theorem updPort_sens (s : State) (p : Nat) (f : Port → Port) :
    (s.updPort p f).sens = s.sens := rfl

/-! ### updLink -/

@[simp] theorem updLink_pending (s : State) (p : Nat) (f : Link → Link) :
    (s.updLink p f).pending = s.pending := rfl
@[simp] theorem updLink_uptime (s : State) (p : Nat) (f : Link → Link) :
    (s.updLink p f).uptime = s.uptime := rfl
@[simp] theorem updLink_free (s : State) (p : Nat) (f : Link → Link) :
    (s.updLink p f).free = s.free := rfl
@[simp] theorem updLink_board (s : State) (p : Nat) (f : Link → Link) :
    (s.updLink p f).board = s.board := rfl
@[simp] theorem updLink_doms (s : State) (p : Nat) (f : Link → Link) :
    (s.updLink p f).doms = s.doms := rfl
@[simp] theorem updLink_home (s : State) (p : Nat) (f : Link → Link) :
    (s.updLink p f).home = s.home := rfl
@[simp] theorem updLink_arr (s : State) (p : Nat) (f : Link → Link) :
    (s.updLink p f).arr = s.arr := rfl
@[simp] theorem updLink_integ (s : State) (p : Nat) (f : Link → Link) :
    (s.updLink p f).integ = s.integ := rfl
@[simp] theorem updLink_kt (s : State) (p : Nat) (f : Link → Link) :
    (s.updLink p f).kt = s.kt := rfl
@[simp] theorem updLink_flt (s : State) (p : Nat) (f : Link → Link) :
    (s.updLink p f).flt = s.flt := rfl
@[simp] theorem updLink_cfg (s : State) (p : Nat) (f : Link → Link) :
    (s.updLink p f).cfg = s.cfg := rfl
@[simp] theorem updLink_mbs (s : State) (p : Nat) (f : Link → Link) :
    (s.updLink p f).mbs = s.mbs := rfl
@[simp] theorem updLink_mbram (s : State) (p : Nat) (f : Link → Link) :
    (s.updLink p f).mbram = s.mbram := rfl
@[simp] theorem updLink_fw (s : State) (p : Nat) (f : Link → Link) :
    (s.updLink p f).fw = s.fw := rfl
@[simp] theorem updLink_fwram (s : State) (p : Nat) (f : Link → Link) :
    (s.updLink p f).fwram = s.fwram := rfl
@[simp] theorem updLink_nvm (s : State) (p : Nat) (f : Link → Link) :
    (s.updLink p f).nvm = s.nvm := rfl
@[simp] theorem updLink_nvmErr (s : State) (p : Nat) (f : Link → Link) :
    (s.updLink p f).nvmErr = s.nvmErr := rfl
@[simp] theorem updLink_nvmFail (s : State) (p : Nat) (f : Link → Link) :
    (s.updLink p f).nvmFail = s.nvmFail := rfl
@[simp] theorem updLink_crc (s : State) (p : Nat) (f : Link → Link) :
    (s.updLink p f).crc = s.crc := rfl
@[simp] theorem updLink_smb (s : State) (p : Nat) (f : Link → Link) :
    (s.updLink p f).smb = s.smb := rfl
@[simp] theorem updLink_sens (s : State) (p : Nat) (f : Link → Link) :
    (s.updLink p f).sens = s.sens := rfl

/-! ### updTx -/

@[simp] theorem updTx_pending (s : State) (p : Nat) (f : Tx → Tx) :
    (s.updTx p f).pending = s.pending := rfl
@[simp] theorem updTx_uptime (s : State) (p : Nat) (f : Tx → Tx) :
    (s.updTx p f).uptime = s.uptime := rfl
@[simp] theorem updTx_free (s : State) (p : Nat) (f : Tx → Tx) :
    (s.updTx p f).free = s.free := rfl
@[simp] theorem updTx_board (s : State) (p : Nat) (f : Tx → Tx) :
    (s.updTx p f).board = s.board := rfl
@[simp] theorem updTx_doms (s : State) (p : Nat) (f : Tx → Tx) :
    (s.updTx p f).doms = s.doms := rfl
@[simp] theorem updTx_home (s : State) (p : Nat) (f : Tx → Tx) :
    (s.updTx p f).home = s.home := rfl
@[simp] theorem updTx_arr (s : State) (p : Nat) (f : Tx → Tx) :
    (s.updTx p f).arr = s.arr := rfl
@[simp] theorem updTx_integ (s : State) (p : Nat) (f : Tx → Tx) :
    (s.updTx p f).integ = s.integ := rfl
@[simp] theorem updTx_kt (s : State) (p : Nat) (f : Tx → Tx) :
    (s.updTx p f).kt = s.kt := rfl
@[simp] theorem updTx_flt (s : State) (p : Nat) (f : Tx → Tx) :
    (s.updTx p f).flt = s.flt := rfl
@[simp] theorem updTx_cfg (s : State) (p : Nat) (f : Tx → Tx) :
    (s.updTx p f).cfg = s.cfg := rfl
@[simp] theorem updTx_mbs (s : State) (p : Nat) (f : Tx → Tx) :
    (s.updTx p f).mbs = s.mbs := rfl
@[simp] theorem updTx_mbram (s : State) (p : Nat) (f : Tx → Tx) :
    (s.updTx p f).mbram = s.mbram := rfl
@[simp] theorem updTx_fw (s : State) (p : Nat) (f : Tx → Tx) :
    (s.updTx p f).fw = s.fw := rfl
@[simp] theorem updTx_fwram (s : State) (p : Nat) (f : Tx → Tx) :
    (s.updTx p f).fwram = s.fwram := rfl
@[simp] theorem updTx_nvm (s : State) (p : Nat) (f : Tx → Tx) :
    (s.updTx p f).nvm = s.nvm := rfl
@[simp] theorem updTx_nvmErr (s : State) (p : Nat) (f : Tx → Tx) :
    (s.updTx p f).nvmErr = s.nvmErr := rfl
@[simp] theorem updTx_nvmFail (s : State) (p : Nat) (f : Tx → Tx) :
    (s.updTx p f).nvmFail = s.nvmFail := rfl
@[simp] theorem updTx_crc (s : State) (p : Nat) (f : Tx → Tx) :
    (s.updTx p f).crc = s.crc := rfl
@[simp] theorem updTx_smb (s : State) (p : Nat) (f : Tx → Tx) :
    (s.updTx p f).smb = s.smb := rfl
@[simp] theorem updTx_sens (s : State) (p : Nat) (f : Tx → Tx) :
    (s.updTx p f).sens = s.sens := rfl

/-! ### updRx -/

@[simp] theorem updRx_pending (s : State) (p : Nat) (f : Rx → Rx) :
    (s.updRx p f).pending = s.pending := rfl
@[simp] theorem updRx_uptime (s : State) (p : Nat) (f : Rx → Rx) :
    (s.updRx p f).uptime = s.uptime := rfl
@[simp] theorem updRx_free (s : State) (p : Nat) (f : Rx → Rx) :
    (s.updRx p f).free = s.free := rfl
@[simp] theorem updRx_board (s : State) (p : Nat) (f : Rx → Rx) :
    (s.updRx p f).board = s.board := rfl
@[simp] theorem updRx_doms (s : State) (p : Nat) (f : Rx → Rx) :
    (s.updRx p f).doms = s.doms := rfl
@[simp] theorem updRx_home (s : State) (p : Nat) (f : Rx → Rx) :
    (s.updRx p f).home = s.home := rfl
@[simp] theorem updRx_arr (s : State) (p : Nat) (f : Rx → Rx) :
    (s.updRx p f).arr = s.arr := rfl
@[simp] theorem updRx_integ (s : State) (p : Nat) (f : Rx → Rx) :
    (s.updRx p f).integ = s.integ := rfl
@[simp] theorem updRx_kt (s : State) (p : Nat) (f : Rx → Rx) :
    (s.updRx p f).kt = s.kt := rfl
@[simp] theorem updRx_flt (s : State) (p : Nat) (f : Rx → Rx) :
    (s.updRx p f).flt = s.flt := rfl
@[simp] theorem updRx_cfg (s : State) (p : Nat) (f : Rx → Rx) :
    (s.updRx p f).cfg = s.cfg := rfl
@[simp] theorem updRx_mbs (s : State) (p : Nat) (f : Rx → Rx) :
    (s.updRx p f).mbs = s.mbs := rfl
@[simp] theorem updRx_mbram (s : State) (p : Nat) (f : Rx → Rx) :
    (s.updRx p f).mbram = s.mbram := rfl
@[simp] theorem updRx_fw (s : State) (p : Nat) (f : Rx → Rx) :
    (s.updRx p f).fw = s.fw := rfl
@[simp] theorem updRx_fwram (s : State) (p : Nat) (f : Rx → Rx) :
    (s.updRx p f).fwram = s.fwram := rfl
@[simp] theorem updRx_nvm (s : State) (p : Nat) (f : Rx → Rx) :
    (s.updRx p f).nvm = s.nvm := rfl
@[simp] theorem updRx_nvmErr (s : State) (p : Nat) (f : Rx → Rx) :
    (s.updRx p f).nvmErr = s.nvmErr := rfl
@[simp] theorem updRx_nvmFail (s : State) (p : Nat) (f : Rx → Rx) :
    (s.updRx p f).nvmFail = s.nvmFail := rfl
@[simp] theorem updRx_crc (s : State) (p : Nat) (f : Rx → Rx) :
    (s.updRx p f).crc = s.crc := rfl
@[simp] theorem updRx_smb (s : State) (p : Nat) (f : Rx → Rx) :
    (s.updRx p f).smb = s.smb := rfl
@[simp] theorem updRx_sens (s : State) (p : Nat) (f : Rx → Rx) :
    (s.updRx p f).sens = s.sens := rfl

/-! ### updMem -/

@[simp] theorem updMem_pending (s : State) (p : Nat) (f : Member → Member) :
    (s.updMem p f).pending = s.pending := rfl
@[simp] theorem updMem_uptime (s : State) (p : Nat) (f : Member → Member) :
    (s.updMem p f).uptime = s.uptime := rfl
@[simp] theorem updMem_free (s : State) (p : Nat) (f : Member → Member) :
    (s.updMem p f).free = s.free := rfl
@[simp] theorem updMem_board (s : State) (p : Nat) (f : Member → Member) :
    (s.updMem p f).board = s.board := rfl
@[simp] theorem updMem_doms (s : State) (p : Nat) (f : Member → Member) :
    (s.updMem p f).doms = s.doms := rfl
@[simp] theorem updMem_home (s : State) (p : Nat) (f : Member → Member) :
    (s.updMem p f).home = s.home := rfl
@[simp] theorem updMem_arr (s : State) (p : Nat) (f : Member → Member) :
    (s.updMem p f).arr = s.arr := rfl
@[simp] theorem updMem_integ (s : State) (p : Nat) (f : Member → Member) :
    (s.updMem p f).integ = s.integ := rfl
@[simp] theorem updMem_kt (s : State) (p : Nat) (f : Member → Member) :
    (s.updMem p f).kt = s.kt := rfl
@[simp] theorem updMem_flt (s : State) (p : Nat) (f : Member → Member) :
    (s.updMem p f).flt = s.flt := rfl
@[simp] theorem updMem_cfg (s : State) (p : Nat) (f : Member → Member) :
    (s.updMem p f).cfg = s.cfg := rfl
@[simp] theorem updMem_mbs (s : State) (p : Nat) (f : Member → Member) :
    (s.updMem p f).mbs = s.mbs := rfl
@[simp] theorem updMem_mbram (s : State) (p : Nat) (f : Member → Member) :
    (s.updMem p f).mbram = s.mbram := rfl
@[simp] theorem updMem_fw (s : State) (p : Nat) (f : Member → Member) :
    (s.updMem p f).fw = s.fw := rfl
@[simp] theorem updMem_fwram (s : State) (p : Nat) (f : Member → Member) :
    (s.updMem p f).fwram = s.fwram := rfl
@[simp] theorem updMem_nvm (s : State) (p : Nat) (f : Member → Member) :
    (s.updMem p f).nvm = s.nvm := rfl
@[simp] theorem updMem_nvmErr (s : State) (p : Nat) (f : Member → Member) :
    (s.updMem p f).nvmErr = s.nvmErr := rfl
@[simp] theorem updMem_nvmFail (s : State) (p : Nat) (f : Member → Member) :
    (s.updMem p f).nvmFail = s.nvmFail := rfl
@[simp] theorem updMem_crc (s : State) (p : Nat) (f : Member → Member) :
    (s.updMem p f).crc = s.crc := rfl
@[simp] theorem updMem_smb (s : State) (p : Nat) (f : Member → Member) :
    (s.updMem p f).smb = s.smb := rfl
@[simp] theorem updMem_sens (s : State) (p : Nat) (f : Member → Member) :
    (s.updMem p f).sens = s.sens := rfl

/-! ### updFore -/

@[simp] theorem updFore_pending (s : State) (p : Nat) (f : Forecast → Forecast) :
    (s.updFore p f).pending = s.pending := rfl
@[simp] theorem updFore_uptime (s : State) (p : Nat) (f : Forecast → Forecast) :
    (s.updFore p f).uptime = s.uptime := rfl
@[simp] theorem updFore_free (s : State) (p : Nat) (f : Forecast → Forecast) :
    (s.updFore p f).free = s.free := rfl
@[simp] theorem updFore_board (s : State) (p : Nat) (f : Forecast → Forecast) :
    (s.updFore p f).board = s.board := rfl
@[simp] theorem updFore_doms (s : State) (p : Nat) (f : Forecast → Forecast) :
    (s.updFore p f).doms = s.doms := rfl
@[simp] theorem updFore_home (s : State) (p : Nat) (f : Forecast → Forecast) :
    (s.updFore p f).home = s.home := rfl
@[simp] theorem updFore_arr (s : State) (p : Nat) (f : Forecast → Forecast) :
    (s.updFore p f).arr = s.arr := rfl
@[simp] theorem updFore_integ (s : State) (p : Nat) (f : Forecast → Forecast) :
    (s.updFore p f).integ = s.integ := rfl
@[simp] theorem updFore_kt (s : State) (p : Nat) (f : Forecast → Forecast) :
    (s.updFore p f).kt = s.kt := rfl
@[simp] theorem updFore_flt (s : State) (p : Nat) (f : Forecast → Forecast) :
    (s.updFore p f).flt = s.flt := rfl
@[simp] theorem updFore_cfg (s : State) (p : Nat) (f : Forecast → Forecast) :
    (s.updFore p f).cfg = s.cfg := rfl
@[simp] theorem updFore_mbs (s : State) (p : Nat) (f : Forecast → Forecast) :
    (s.updFore p f).mbs = s.mbs := rfl
@[simp] theorem updFore_mbram (s : State) (p : Nat) (f : Forecast → Forecast) :
    (s.updFore p f).mbram = s.mbram := rfl
@[simp] theorem updFore_fw (s : State) (p : Nat) (f : Forecast → Forecast) :
    (s.updFore p f).fw = s.fw := rfl
@[simp] theorem updFore_fwram (s : State) (p : Nat) (f : Forecast → Forecast) :
    (s.updFore p f).fwram = s.fwram := rfl
@[simp] theorem updFore_nvm (s : State) (p : Nat) (f : Forecast → Forecast) :
    (s.updFore p f).nvm = s.nvm := rfl
@[simp] theorem updFore_nvmErr (s : State) (p : Nat) (f : Forecast → Forecast) :
    (s.updFore p f).nvmErr = s.nvmErr := rfl
@[simp] theorem updFore_nvmFail (s : State) (p : Nat) (f : Forecast → Forecast) :
    (s.updFore p f).nvmFail = s.nvmFail := rfl
@[simp] theorem updFore_crc (s : State) (p : Nat) (f : Forecast → Forecast) :
    (s.updFore p f).crc = s.crc := rfl
@[simp] theorem updFore_smb (s : State) (p : Nat) (f : Forecast → Forecast) :
    (s.updFore p f).smb = s.smb := rfl
@[simp] theorem updFore_sens (s : State) (p : Nat) (f : Forecast → Forecast) :
    (s.updFore p f).sens = s.sens := rfl

/-! ### setDom -/

@[simp] theorem setDom_pending (s : State) (d : Nat) (v : Dom) :
    (s.setDom d v).pending = s.pending := rfl
@[simp] theorem setDom_uptime (s : State) (d : Nat) (v : Dom) :
    (s.setDom d v).uptime = s.uptime := rfl
@[simp] theorem setDom_free (s : State) (d : Nat) (v : Dom) :
    (s.setDom d v).free = s.free := rfl
@[simp] theorem setDom_board (s : State) (d : Nat) (v : Dom) :
    (s.setDom d v).board = s.board := rfl
@[simp] theorem setDom_ports (s : State) (d : Nat) (v : Dom) :
    (s.setDom d v).ports = s.ports := rfl
@[simp] theorem setDom_home (s : State) (d : Nat) (v : Dom) :
    (s.setDom d v).home = s.home := rfl
@[simp] theorem setDom_arr (s : State) (d : Nat) (v : Dom) :
    (s.setDom d v).arr = s.arr := rfl
@[simp] theorem setDom_integ (s : State) (d : Nat) (v : Dom) :
    (s.setDom d v).integ = s.integ := rfl
@[simp] theorem setDom_kt (s : State) (d : Nat) (v : Dom) :
    (s.setDom d v).kt = s.kt := rfl
@[simp] theorem setDom_flt (s : State) (d : Nat) (v : Dom) :
    (s.setDom d v).flt = s.flt := rfl
@[simp] theorem setDom_cfg (s : State) (d : Nat) (v : Dom) :
    (s.setDom d v).cfg = s.cfg := rfl
@[simp] theorem setDom_mbs (s : State) (d : Nat) (v : Dom) :
    (s.setDom d v).mbs = s.mbs := rfl
@[simp] theorem setDom_mbram (s : State) (d : Nat) (v : Dom) :
    (s.setDom d v).mbram = s.mbram := rfl
@[simp] theorem setDom_fw (s : State) (d : Nat) (v : Dom) :
    (s.setDom d v).fw = s.fw := rfl
@[simp] theorem setDom_fwram (s : State) (d : Nat) (v : Dom) :
    (s.setDom d v).fwram = s.fwram := rfl
@[simp] theorem setDom_nvm (s : State) (d : Nat) (v : Dom) :
    (s.setDom d v).nvm = s.nvm := rfl
@[simp] theorem setDom_nvmErr (s : State) (d : Nat) (v : Dom) :
    (s.setDom d v).nvmErr = s.nvmErr := rfl
@[simp] theorem setDom_nvmFail (s : State) (d : Nat) (v : Dom) :
    (s.setDom d v).nvmFail = s.nvmFail := rfl
@[simp] theorem setDom_crc (s : State) (d : Nat) (v : Dom) :
    (s.setDom d v).crc = s.crc := rfl
@[simp] theorem setDom_smb (s : State) (d : Nat) (v : Dom) :
    (s.setDom d v).smb = s.smb := rfl
@[simp] theorem setDom_sens (s : State) (d : Nat) (v : Dom) :
    (s.setDom d v).sens = s.sens := rfl

/-! ### updDom -/

@[simp] theorem updDom_pending (s : State) (d : Nat) (f : Dom → Dom) :
    (s.updDom d f).pending = s.pending := rfl
@[simp] theorem updDom_uptime (s : State) (d : Nat) (f : Dom → Dom) :
    (s.updDom d f).uptime = s.uptime := rfl
@[simp] theorem updDom_free (s : State) (d : Nat) (f : Dom → Dom) :
    (s.updDom d f).free = s.free := rfl
@[simp] theorem updDom_board (s : State) (d : Nat) (f : Dom → Dom) :
    (s.updDom d f).board = s.board := rfl
@[simp] theorem updDom_ports (s : State) (d : Nat) (f : Dom → Dom) :
    (s.updDom d f).ports = s.ports := rfl
@[simp] theorem updDom_home (s : State) (d : Nat) (f : Dom → Dom) :
    (s.updDom d f).home = s.home := rfl
@[simp] theorem updDom_arr (s : State) (d : Nat) (f : Dom → Dom) :
    (s.updDom d f).arr = s.arr := rfl
@[simp] theorem updDom_integ (s : State) (d : Nat) (f : Dom → Dom) :
    (s.updDom d f).integ = s.integ := rfl
@[simp] theorem updDom_kt (s : State) (d : Nat) (f : Dom → Dom) :
    (s.updDom d f).kt = s.kt := rfl
@[simp] theorem updDom_flt (s : State) (d : Nat) (f : Dom → Dom) :
    (s.updDom d f).flt = s.flt := rfl
@[simp] theorem updDom_cfg (s : State) (d : Nat) (f : Dom → Dom) :
    (s.updDom d f).cfg = s.cfg := rfl
@[simp] theorem updDom_mbs (s : State) (d : Nat) (f : Dom → Dom) :
    (s.updDom d f).mbs = s.mbs := rfl
@[simp] theorem updDom_mbram (s : State) (d : Nat) (f : Dom → Dom) :
    (s.updDom d f).mbram = s.mbram := rfl
@[simp] theorem updDom_fw (s : State) (d : Nat) (f : Dom → Dom) :
    (s.updDom d f).fw = s.fw := rfl
@[simp] theorem updDom_fwram (s : State) (d : Nat) (f : Dom → Dom) :
    (s.updDom d f).fwram = s.fwram := rfl
@[simp] theorem updDom_nvm (s : State) (d : Nat) (f : Dom → Dom) :
    (s.updDom d f).nvm = s.nvm := rfl
@[simp] theorem updDom_nvmErr (s : State) (d : Nat) (f : Dom → Dom) :
    (s.updDom d f).nvmErr = s.nvmErr := rfl
@[simp] theorem updDom_nvmFail (s : State) (d : Nat) (f : Dom → Dom) :
    (s.updDom d f).nvmFail = s.nvmFail := rfl
@[simp] theorem updDom_crc (s : State) (d : Nat) (f : Dom → Dom) :
    (s.updDom d f).crc = s.crc := rfl
@[simp] theorem updDom_smb (s : State) (d : Nat) (f : Dom → Dom) :
    (s.updDom d f).smb = s.smb := rfl
@[simp] theorem updDom_sens (s : State) (d : Nat) (f : Dom → Dom) :
    (s.updDom d f).sens = s.sens := rfl

/-! ### setMb -/

@[simp] theorem setMb_pending (s : State) (m : Nat) (v : Mailbox) :
    (s.setMb m v).pending = s.pending := rfl
@[simp] theorem setMb_uptime (s : State) (m : Nat) (v : Mailbox) :
    (s.setMb m v).uptime = s.uptime := rfl
@[simp] theorem setMb_free (s : State) (m : Nat) (v : Mailbox) :
    (s.setMb m v).free = s.free := rfl
@[simp] theorem setMb_board (s : State) (m : Nat) (v : Mailbox) :
    (s.setMb m v).board = s.board := rfl
@[simp] theorem setMb_ports (s : State) (m : Nat) (v : Mailbox) :
    (s.setMb m v).ports = s.ports := rfl
@[simp] theorem setMb_doms (s : State) (m : Nat) (v : Mailbox) :
    (s.setMb m v).doms = s.doms := rfl
@[simp] theorem setMb_home (s : State) (m : Nat) (v : Mailbox) :
    (s.setMb m v).home = s.home := rfl
@[simp] theorem setMb_arr (s : State) (m : Nat) (v : Mailbox) :
    (s.setMb m v).arr = s.arr := rfl
@[simp] theorem setMb_integ (s : State) (m : Nat) (v : Mailbox) :
    (s.setMb m v).integ = s.integ := rfl
@[simp] theorem setMb_kt (s : State) (m : Nat) (v : Mailbox) :
    (s.setMb m v).kt = s.kt := rfl
@[simp] theorem setMb_flt (s : State) (m : Nat) (v : Mailbox) :
    (s.setMb m v).flt = s.flt := rfl
@[simp] theorem setMb_cfg (s : State) (m : Nat) (v : Mailbox) :
    (s.setMb m v).cfg = s.cfg := rfl
@[simp] theorem setMb_mbram (s : State) (m : Nat) (v : Mailbox) :
    (s.setMb m v).mbram = s.mbram := rfl
@[simp] theorem setMb_fw (s : State) (m : Nat) (v : Mailbox) :
    (s.setMb m v).fw = s.fw := rfl
@[simp] theorem setMb_fwram (s : State) (m : Nat) (v : Mailbox) :
    (s.setMb m v).fwram = s.fwram := rfl
@[simp] theorem setMb_nvm (s : State) (m : Nat) (v : Mailbox) :
    (s.setMb m v).nvm = s.nvm := rfl
@[simp] theorem setMb_nvmErr (s : State) (m : Nat) (v : Mailbox) :
    (s.setMb m v).nvmErr = s.nvmErr := rfl
@[simp] theorem setMb_nvmFail (s : State) (m : Nat) (v : Mailbox) :
    (s.setMb m v).nvmFail = s.nvmFail := rfl
@[simp] theorem setMb_crc (s : State) (m : Nat) (v : Mailbox) :
    (s.setMb m v).crc = s.crc := rfl
@[simp] theorem setMb_smb (s : State) (m : Nat) (v : Mailbox) :
    (s.setMb m v).smb = s.smb := rfl
@[simp] theorem setMb_sens (s : State) (m : Nat) (v : Mailbox) :
    (s.setMb m v).sens = s.sens := rfl

/-! ### updMb -/

@[simp] theorem updMb_pending (s : State) (m : Nat) (f : Mailbox → Mailbox) :
    (s.updMb m f).pending = s.pending := rfl
@[simp] theorem updMb_uptime (s : State) (m : Nat) (f : Mailbox → Mailbox) :
    (s.updMb m f).uptime = s.uptime := rfl
@[simp] theorem updMb_free (s : State) (m : Nat) (f : Mailbox → Mailbox) :
    (s.updMb m f).free = s.free := rfl
@[simp] theorem updMb_board (s : State) (m : Nat) (f : Mailbox → Mailbox) :
    (s.updMb m f).board = s.board := rfl
@[simp] theorem updMb_ports (s : State) (m : Nat) (f : Mailbox → Mailbox) :
    (s.updMb m f).ports = s.ports := rfl
@[simp] theorem updMb_doms (s : State) (m : Nat) (f : Mailbox → Mailbox) :
    (s.updMb m f).doms = s.doms := rfl
@[simp] theorem updMb_home (s : State) (m : Nat) (f : Mailbox → Mailbox) :
    (s.updMb m f).home = s.home := rfl
@[simp] theorem updMb_arr (s : State) (m : Nat) (f : Mailbox → Mailbox) :
    (s.updMb m f).arr = s.arr := rfl
@[simp] theorem updMb_integ (s : State) (m : Nat) (f : Mailbox → Mailbox) :
    (s.updMb m f).integ = s.integ := rfl
@[simp] theorem updMb_kt (s : State) (m : Nat) (f : Mailbox → Mailbox) :
    (s.updMb m f).kt = s.kt := rfl
@[simp] theorem updMb_flt (s : State) (m : Nat) (f : Mailbox → Mailbox) :
    (s.updMb m f).flt = s.flt := rfl
@[simp] theorem updMb_cfg (s : State) (m : Nat) (f : Mailbox → Mailbox) :
    (s.updMb m f).cfg = s.cfg := rfl
@[simp] theorem updMb_mbram (s : State) (m : Nat) (f : Mailbox → Mailbox) :
    (s.updMb m f).mbram = s.mbram := rfl
@[simp] theorem updMb_fw (s : State) (m : Nat) (f : Mailbox → Mailbox) :
    (s.updMb m f).fw = s.fw := rfl
@[simp] theorem updMb_fwram (s : State) (m : Nat) (f : Mailbox → Mailbox) :
    (s.updMb m f).fwram = s.fwram := rfl
@[simp] theorem updMb_nvm (s : State) (m : Nat) (f : Mailbox → Mailbox) :
    (s.updMb m f).nvm = s.nvm := rfl
@[simp] theorem updMb_nvmErr (s : State) (m : Nat) (f : Mailbox → Mailbox) :
    (s.updMb m f).nvmErr = s.nvmErr := rfl
@[simp] theorem updMb_nvmFail (s : State) (m : Nat) (f : Mailbox → Mailbox) :
    (s.updMb m f).nvmFail = s.nvmFail := rfl
@[simp] theorem updMb_crc (s : State) (m : Nat) (f : Mailbox → Mailbox) :
    (s.updMb m f).crc = s.crc := rfl
@[simp] theorem updMb_smb (s : State) (m : Nat) (f : Mailbox → Mailbox) :
    (s.updMb m f).smb = s.smb := rfl
@[simp] theorem updMb_sens (s : State) (m : Nat) (f : Mailbox → Mailbox) :
    (s.updMb m f).sens = s.sens := rfl

/-! ### setCrc -/

@[simp] theorem setCrc_pending (s : State) (u : Nat) (v : Crc) :
    (s.setCrc u v).pending = s.pending := rfl
@[simp] theorem setCrc_uptime (s : State) (u : Nat) (v : Crc) :
    (s.setCrc u v).uptime = s.uptime := rfl
@[simp] theorem setCrc_free (s : State) (u : Nat) (v : Crc) :
    (s.setCrc u v).free = s.free := rfl
@[simp] theorem setCrc_board (s : State) (u : Nat) (v : Crc) :
    (s.setCrc u v).board = s.board := rfl
@[simp] theorem setCrc_ports (s : State) (u : Nat) (v : Crc) :
    (s.setCrc u v).ports = s.ports := rfl
@[simp] theorem setCrc_doms (s : State) (u : Nat) (v : Crc) :
    (s.setCrc u v).doms = s.doms := rfl
@[simp] theorem setCrc_home (s : State) (u : Nat) (v : Crc) :
    (s.setCrc u v).home = s.home := rfl
@[simp] theorem setCrc_arr (s : State) (u : Nat) (v : Crc) :
    (s.setCrc u v).arr = s.arr := rfl
@[simp] theorem setCrc_integ (s : State) (u : Nat) (v : Crc) :
    (s.setCrc u v).integ = s.integ := rfl
@[simp] theorem setCrc_kt (s : State) (u : Nat) (v : Crc) :
    (s.setCrc u v).kt = s.kt := rfl
@[simp] theorem setCrc_flt (s : State) (u : Nat) (v : Crc) :
    (s.setCrc u v).flt = s.flt := rfl
@[simp] theorem setCrc_cfg (s : State) (u : Nat) (v : Crc) :
    (s.setCrc u v).cfg = s.cfg := rfl
@[simp] theorem setCrc_mbs (s : State) (u : Nat) (v : Crc) :
    (s.setCrc u v).mbs = s.mbs := rfl
@[simp] theorem setCrc_mbram (s : State) (u : Nat) (v : Crc) :
    (s.setCrc u v).mbram = s.mbram := rfl
@[simp] theorem setCrc_fw (s : State) (u : Nat) (v : Crc) :
    (s.setCrc u v).fw = s.fw := rfl
@[simp] theorem setCrc_fwram (s : State) (u : Nat) (v : Crc) :
    (s.setCrc u v).fwram = s.fwram := rfl
@[simp] theorem setCrc_nvm (s : State) (u : Nat) (v : Crc) :
    (s.setCrc u v).nvm = s.nvm := rfl
@[simp] theorem setCrc_nvmErr (s : State) (u : Nat) (v : Crc) :
    (s.setCrc u v).nvmErr = s.nvmErr := rfl
@[simp] theorem setCrc_nvmFail (s : State) (u : Nat) (v : Crc) :
    (s.setCrc u v).nvmFail = s.nvmFail := rfl
@[simp] theorem setCrc_smb (s : State) (u : Nat) (v : Crc) :
    (s.setCrc u v).smb = s.smb := rfl
@[simp] theorem setCrc_sens (s : State) (u : Nat) (v : Crc) :
    (s.setCrc u v).sens = s.sens := rfl

/-! ### updHome -/

@[simp] theorem updHome_pending (s : State) (f : Home → Home) :
    (s.updHome f).pending = s.pending := rfl
@[simp] theorem updHome_uptime (s : State) (f : Home → Home) :
    (s.updHome f).uptime = s.uptime := rfl
@[simp] theorem updHome_free (s : State) (f : Home → Home) :
    (s.updHome f).free = s.free := rfl
@[simp] theorem updHome_board (s : State) (f : Home → Home) :
    (s.updHome f).board = s.board := rfl
@[simp] theorem updHome_ports (s : State) (f : Home → Home) :
    (s.updHome f).ports = s.ports := rfl
@[simp] theorem updHome_doms (s : State) (f : Home → Home) :
    (s.updHome f).doms = s.doms := rfl
@[simp] theorem updHome_arr (s : State) (f : Home → Home) :
    (s.updHome f).arr = s.arr := rfl
@[simp] theorem updHome_integ (s : State) (f : Home → Home) :
    (s.updHome f).integ = s.integ := rfl
@[simp] theorem updHome_kt (s : State) (f : Home → Home) :
    (s.updHome f).kt = s.kt := rfl
@[simp] theorem updHome_flt (s : State) (f : Home → Home) :
    (s.updHome f).flt = s.flt := rfl
@[simp] theorem updHome_cfg (s : State) (f : Home → Home) :
    (s.updHome f).cfg = s.cfg := rfl
@[simp] theorem updHome_mbs (s : State) (f : Home → Home) :
    (s.updHome f).mbs = s.mbs := rfl
@[simp] theorem updHome_mbram (s : State) (f : Home → Home) :
    (s.updHome f).mbram = s.mbram := rfl
@[simp] theorem updHome_fw (s : State) (f : Home → Home) :
    (s.updHome f).fw = s.fw := rfl
@[simp] theorem updHome_fwram (s : State) (f : Home → Home) :
    (s.updHome f).fwram = s.fwram := rfl
@[simp] theorem updHome_nvm (s : State) (f : Home → Home) :
    (s.updHome f).nvm = s.nvm := rfl
@[simp] theorem updHome_nvmErr (s : State) (f : Home → Home) :
    (s.updHome f).nvmErr = s.nvmErr := rfl
@[simp] theorem updHome_nvmFail (s : State) (f : Home → Home) :
    (s.updHome f).nvmFail = s.nvmFail := rfl
@[simp] theorem updHome_crc (s : State) (f : Home → Home) :
    (s.updHome f).crc = s.crc := rfl
@[simp] theorem updHome_smb (s : State) (f : Home → Home) :
    (s.updHome f).smb = s.smb := rfl
@[simp] theorem updHome_sens (s : State) (f : Home → Home) :
    (s.updHome f).sens = s.sens := rfl
@[simp] theorem updHome_home (s : State) (f : Home → Home) :
    (s.updHome f).home = f s.home := rfl

/-! ### updArr -/

@[simp] theorem updArr_pending (s : State) (f : Arrays → Arrays) :
    (s.updArr f).pending = s.pending := rfl
@[simp] theorem updArr_uptime (s : State) (f : Arrays → Arrays) :
    (s.updArr f).uptime = s.uptime := rfl
@[simp] theorem updArr_free (s : State) (f : Arrays → Arrays) :
    (s.updArr f).free = s.free := rfl
@[simp] theorem updArr_board (s : State) (f : Arrays → Arrays) :
    (s.updArr f).board = s.board := rfl
@[simp] theorem updArr_ports (s : State) (f : Arrays → Arrays) :
    (s.updArr f).ports = s.ports := rfl
@[simp] theorem updArr_doms (s : State) (f : Arrays → Arrays) :
    (s.updArr f).doms = s.doms := rfl
@[simp] theorem updArr_home (s : State) (f : Arrays → Arrays) :
    (s.updArr f).home = s.home := rfl
@[simp] theorem updArr_integ (s : State) (f : Arrays → Arrays) :
    (s.updArr f).integ = s.integ := rfl
@[simp] theorem updArr_kt (s : State) (f : Arrays → Arrays) :
    (s.updArr f).kt = s.kt := rfl
@[simp] theorem updArr_flt (s : State) (f : Arrays → Arrays) :
    (s.updArr f).flt = s.flt := rfl
@[simp] theorem updArr_cfg (s : State) (f : Arrays → Arrays) :
    (s.updArr f).cfg = s.cfg := rfl
@[simp] theorem updArr_mbs (s : State) (f : Arrays → Arrays) :
    (s.updArr f).mbs = s.mbs := rfl
@[simp] theorem updArr_mbram (s : State) (f : Arrays → Arrays) :
    (s.updArr f).mbram = s.mbram := rfl
@[simp] theorem updArr_fw (s : State) (f : Arrays → Arrays) :
    (s.updArr f).fw = s.fw := rfl
@[simp] theorem updArr_fwram (s : State) (f : Arrays → Arrays) :
    (s.updArr f).fwram = s.fwram := rfl
@[simp] theorem updArr_nvm (s : State) (f : Arrays → Arrays) :
    (s.updArr f).nvm = s.nvm := rfl
@[simp] theorem updArr_nvmErr (s : State) (f : Arrays → Arrays) :
    (s.updArr f).nvmErr = s.nvmErr := rfl
@[simp] theorem updArr_nvmFail (s : State) (f : Arrays → Arrays) :
    (s.updArr f).nvmFail = s.nvmFail := rfl
@[simp] theorem updArr_crc (s : State) (f : Arrays → Arrays) :
    (s.updArr f).crc = s.crc := rfl
@[simp] theorem updArr_smb (s : State) (f : Arrays → Arrays) :
    (s.updArr f).smb = s.smb := rfl
@[simp] theorem updArr_sens (s : State) (f : Arrays → Arrays) :
    (s.updArr f).sens = s.sens := rfl
@[simp] theorem updArr_arr (s : State) (f : Arrays → Arrays) :
    (s.updArr f).arr = f s.arr := rfl

/-! ### updInteg -/

@[simp] theorem updInteg_pending (s : State) (f : Integ → Integ) :
    (s.updInteg f).pending = s.pending := rfl
@[simp] theorem updInteg_uptime (s : State) (f : Integ → Integ) :
    (s.updInteg f).uptime = s.uptime := rfl
@[simp] theorem updInteg_free (s : State) (f : Integ → Integ) :
    (s.updInteg f).free = s.free := rfl
@[simp] theorem updInteg_board (s : State) (f : Integ → Integ) :
    (s.updInteg f).board = s.board := rfl
@[simp] theorem updInteg_ports (s : State) (f : Integ → Integ) :
    (s.updInteg f).ports = s.ports := rfl
@[simp] theorem updInteg_doms (s : State) (f : Integ → Integ) :
    (s.updInteg f).doms = s.doms := rfl
@[simp] theorem updInteg_home (s : State) (f : Integ → Integ) :
    (s.updInteg f).home = s.home := rfl
@[simp] theorem updInteg_arr (s : State) (f : Integ → Integ) :
    (s.updInteg f).arr = s.arr := rfl
@[simp] theorem updInteg_kt (s : State) (f : Integ → Integ) :
    (s.updInteg f).kt = s.kt := rfl
@[simp] theorem updInteg_flt (s : State) (f : Integ → Integ) :
    (s.updInteg f).flt = s.flt := rfl
@[simp] theorem updInteg_cfg (s : State) (f : Integ → Integ) :
    (s.updInteg f).cfg = s.cfg := rfl
@[simp] theorem updInteg_mbs (s : State) (f : Integ → Integ) :
    (s.updInteg f).mbs = s.mbs := rfl
@[simp] theorem updInteg_mbram (s : State) (f : Integ → Integ) :
    (s.updInteg f).mbram = s.mbram := rfl
@[simp] theorem updInteg_fw (s : State) (f : Integ → Integ) :
    (s.updInteg f).fw = s.fw := rfl
@[simp] theorem updInteg_fwram (s : State) (f : Integ → Integ) :
    (s.updInteg f).fwram = s.fwram := rfl
@[simp] theorem updInteg_nvm (s : State) (f : Integ → Integ) :
    (s.updInteg f).nvm = s.nvm := rfl
@[simp] theorem updInteg_nvmErr (s : State) (f : Integ → Integ) :
    (s.updInteg f).nvmErr = s.nvmErr := rfl
@[simp] theorem updInteg_nvmFail (s : State) (f : Integ → Integ) :
    (s.updInteg f).nvmFail = s.nvmFail := rfl
@[simp] theorem updInteg_crc (s : State) (f : Integ → Integ) :
    (s.updInteg f).crc = s.crc := rfl
@[simp] theorem updInteg_smb (s : State) (f : Integ → Integ) :
    (s.updInteg f).smb = s.smb := rfl
@[simp] theorem updInteg_sens (s : State) (f : Integ → Integ) :
    (s.updInteg f).sens = s.sens := rfl
@[simp] theorem updInteg_integ (s : State) (f : Integ → Integ) :
    (s.updInteg f).integ = f s.integ := rfl

/-! ### updKt -/

@[simp] theorem updKt_pending (s : State) (f : Kettle → Kettle) :
    (s.updKt f).pending = s.pending := rfl
@[simp] theorem updKt_uptime (s : State) (f : Kettle → Kettle) :
    (s.updKt f).uptime = s.uptime := rfl
@[simp] theorem updKt_free (s : State) (f : Kettle → Kettle) :
    (s.updKt f).free = s.free := rfl
@[simp] theorem updKt_board (s : State) (f : Kettle → Kettle) :
    (s.updKt f).board = s.board := rfl
@[simp] theorem updKt_ports (s : State) (f : Kettle → Kettle) :
    (s.updKt f).ports = s.ports := rfl
@[simp] theorem updKt_doms (s : State) (f : Kettle → Kettle) :
    (s.updKt f).doms = s.doms := rfl
@[simp] theorem updKt_home (s : State) (f : Kettle → Kettle) :
    (s.updKt f).home = s.home := rfl
@[simp] theorem updKt_arr (s : State) (f : Kettle → Kettle) :
    (s.updKt f).arr = s.arr := rfl
@[simp] theorem updKt_integ (s : State) (f : Kettle → Kettle) :
    (s.updKt f).integ = s.integ := rfl
@[simp] theorem updKt_flt (s : State) (f : Kettle → Kettle) :
    (s.updKt f).flt = s.flt := rfl
@[simp] theorem updKt_cfg (s : State) (f : Kettle → Kettle) :
    (s.updKt f).cfg = s.cfg := rfl
@[simp] theorem updKt_mbs (s : State) (f : Kettle → Kettle) :
    (s.updKt f).mbs = s.mbs := rfl
@[simp] theorem updKt_mbram (s : State) (f : Kettle → Kettle) :
    (s.updKt f).mbram = s.mbram := rfl
@[simp] theorem updKt_fw (s : State) (f : Kettle → Kettle) :
    (s.updKt f).fw = s.fw := rfl
@[simp] theorem updKt_fwram (s : State) (f : Kettle → Kettle) :
    (s.updKt f).fwram = s.fwram := rfl
@[simp] theorem updKt_nvm (s : State) (f : Kettle → Kettle) :
    (s.updKt f).nvm = s.nvm := rfl
@[simp] theorem updKt_nvmErr (s : State) (f : Kettle → Kettle) :
    (s.updKt f).nvmErr = s.nvmErr := rfl
@[simp] theorem updKt_nvmFail (s : State) (f : Kettle → Kettle) :
    (s.updKt f).nvmFail = s.nvmFail := rfl
@[simp] theorem updKt_crc (s : State) (f : Kettle → Kettle) :
    (s.updKt f).crc = s.crc := rfl
@[simp] theorem updKt_smb (s : State) (f : Kettle → Kettle) :
    (s.updKt f).smb = s.smb := rfl
@[simp] theorem updKt_sens (s : State) (f : Kettle → Kettle) :
    (s.updKt f).sens = s.sens := rfl
@[simp] theorem updKt_kt (s : State) (f : Kettle → Kettle) :
    (s.updKt f).kt = f s.kt := rfl

/-! ### updFlt -/

@[simp] theorem updFlt_pending (s : State) (f : Collector → Collector) :
    (s.updFlt f).pending = s.pending := rfl
@[simp] theorem updFlt_uptime (s : State) (f : Collector → Collector) :
    (s.updFlt f).uptime = s.uptime := rfl
@[simp] theorem updFlt_free (s : State) (f : Collector → Collector) :
    (s.updFlt f).free = s.free := rfl
@[simp] theorem updFlt_board (s : State) (f : Collector → Collector) :
    (s.updFlt f).board = s.board := rfl
@[simp] theorem updFlt_ports (s : State) (f : Collector → Collector) :
    (s.updFlt f).ports = s.ports := rfl
@[simp] theorem updFlt_doms (s : State) (f : Collector → Collector) :
    (s.updFlt f).doms = s.doms := rfl
@[simp] theorem updFlt_home (s : State) (f : Collector → Collector) :
    (s.updFlt f).home = s.home := rfl
@[simp] theorem updFlt_arr (s : State) (f : Collector → Collector) :
    (s.updFlt f).arr = s.arr := rfl
@[simp] theorem updFlt_integ (s : State) (f : Collector → Collector) :
    (s.updFlt f).integ = s.integ := rfl
@[simp] theorem updFlt_kt (s : State) (f : Collector → Collector) :
    (s.updFlt f).kt = s.kt := rfl
@[simp] theorem updFlt_cfg (s : State) (f : Collector → Collector) :
    (s.updFlt f).cfg = s.cfg := rfl
@[simp] theorem updFlt_mbs (s : State) (f : Collector → Collector) :
    (s.updFlt f).mbs = s.mbs := rfl
@[simp] theorem updFlt_mbram (s : State) (f : Collector → Collector) :
    (s.updFlt f).mbram = s.mbram := rfl
@[simp] theorem updFlt_fw (s : State) (f : Collector → Collector) :
    (s.updFlt f).fw = s.fw := rfl
@[simp] theorem updFlt_fwram (s : State) (f : Collector → Collector) :
    (s.updFlt f).fwram = s.fwram := rfl
@[simp] theorem updFlt_nvm (s : State) (f : Collector → Collector) :
    (s.updFlt f).nvm = s.nvm := rfl
@[simp] theorem updFlt_nvmErr (s : State) (f : Collector → Collector) :
    (s.updFlt f).nvmErr = s.nvmErr := rfl
@[simp] theorem updFlt_nvmFail (s : State) (f : Collector → Collector) :
    (s.updFlt f).nvmFail = s.nvmFail := rfl
@[simp] theorem updFlt_crc (s : State) (f : Collector → Collector) :
    (s.updFlt f).crc = s.crc := rfl
@[simp] theorem updFlt_smb (s : State) (f : Collector → Collector) :
    (s.updFlt f).smb = s.smb := rfl
@[simp] theorem updFlt_sens (s : State) (f : Collector → Collector) :
    (s.updFlt f).sens = s.sens := rfl
@[simp] theorem updFlt_flt (s : State) (f : Collector → Collector) :
    (s.updFlt f).flt = f s.flt := rfl

/-! ### updFw -/

@[simp] theorem updFw_pending (s : State) (f : Firmware → Firmware) :
    (s.updFw f).pending = s.pending := rfl
@[simp] theorem updFw_uptime (s : State) (f : Firmware → Firmware) :
    (s.updFw f).uptime = s.uptime := rfl
@[simp] theorem updFw_free (s : State) (f : Firmware → Firmware) :
    (s.updFw f).free = s.free := rfl
@[simp] theorem updFw_board (s : State) (f : Firmware → Firmware) :
    (s.updFw f).board = s.board := rfl
@[simp] theorem updFw_ports (s : State) (f : Firmware → Firmware) :
    (s.updFw f).ports = s.ports := rfl
@[simp] theorem updFw_doms (s : State) (f : Firmware → Firmware) :
    (s.updFw f).doms = s.doms := rfl
@[simp] theorem updFw_home (s : State) (f : Firmware → Firmware) :
    (s.updFw f).home = s.home := rfl
@[simp] theorem updFw_arr (s : State) (f : Firmware → Firmware) :
    (s.updFw f).arr = s.arr := rfl
@[simp] theorem updFw_integ (s : State) (f : Firmware → Firmware) :
    (s.updFw f).integ = s.integ := rfl
@[simp] theorem updFw_kt (s : State) (f : Firmware → Firmware) :
    (s.updFw f).kt = s.kt := rfl
@[simp] theorem updFw_flt (s : State) (f : Firmware → Firmware) :
    (s.updFw f).flt = s.flt := rfl
@[simp] theorem updFw_cfg (s : State) (f : Firmware → Firmware) :
    (s.updFw f).cfg = s.cfg := rfl
@[simp] theorem updFw_mbs (s : State) (f : Firmware → Firmware) :
    (s.updFw f).mbs = s.mbs := rfl
@[simp] theorem updFw_mbram (s : State) (f : Firmware → Firmware) :
    (s.updFw f).mbram = s.mbram := rfl
@[simp] theorem updFw_fwram (s : State) (f : Firmware → Firmware) :
    (s.updFw f).fwram = s.fwram := rfl
@[simp] theorem updFw_nvm (s : State) (f : Firmware → Firmware) :
    (s.updFw f).nvm = s.nvm := rfl
@[simp] theorem updFw_nvmErr (s : State) (f : Firmware → Firmware) :
    (s.updFw f).nvmErr = s.nvmErr := rfl
@[simp] theorem updFw_nvmFail (s : State) (f : Firmware → Firmware) :
    (s.updFw f).nvmFail = s.nvmFail := rfl
@[simp] theorem updFw_crc (s : State) (f : Firmware → Firmware) :
    (s.updFw f).crc = s.crc := rfl
@[simp] theorem updFw_smb (s : State) (f : Firmware → Firmware) :
    (s.updFw f).smb = s.smb := rfl
@[simp] theorem updFw_sens (s : State) (f : Firmware → Firmware) :
    (s.updFw f).sens = s.sens := rfl
@[simp] theorem updFw_fw (s : State) (f : Firmware → Firmware) :
    (s.updFw f).fw = f s.fw := rfl

/-! ### updSmb -/

@[simp] theorem updSmb_pending (s : State) (f : Smb → Smb) :
    (s.updSmb f).pending = s.pending := rfl
@[simp] theorem updSmb_uptime (s : State) (f : Smb → Smb) :
    (s.updSmb f).uptime = s.uptime := rfl
@[simp] theorem updSmb_free (s : State) (f : Smb → Smb) :
    (s.updSmb f).free = s.free := rfl
@[simp] theorem updSmb_board (s : State) (f : Smb → Smb) :
    (s.updSmb f).board = s.board := rfl
@[simp] theorem updSmb_ports (s : State) (f : Smb → Smb) :
    (s.updSmb f).ports = s.ports := rfl
@[simp] theorem updSmb_doms (s : State) (f : Smb → Smb) :
    (s.updSmb f).doms = s.doms := rfl
@[simp] theorem updSmb_home (s : State) (f : Smb → Smb) :
    (s.updSmb f).home = s.home := rfl
@[simp] theorem updSmb_arr (s : State) (f : Smb → Smb) :
    (s.updSmb f).arr = s.arr := rfl
@[simp] theorem updSmb_integ (s : State) (f : Smb → Smb) :
    (s.updSmb f).integ = s.integ := rfl
@[simp] theorem updSmb_kt (s : State) (f : Smb → Smb) :
    (s.updSmb f).kt = s.kt := rfl
@[simp] theorem updSmb_flt (s : State) (f : Smb → Smb) :
    (s.updSmb f).flt = s.flt := rfl
@[simp] theorem updSmb_cfg (s : State) (f : Smb → Smb) :
    (s.updSmb f).cfg = s.cfg := rfl
@[simp] theorem updSmb_mbs (s : State) (f : Smb → Smb) :
    (s.updSmb f).mbs = s.mbs := rfl
@[simp] theorem updSmb_mbram (s : State) (f : Smb → Smb) :
    (s.updSmb f).mbram = s.mbram := rfl
@[simp] theorem updSmb_fw (s : State) (f : Smb → Smb) :
    (s.updSmb f).fw = s.fw := rfl
@[simp] theorem updSmb_fwram (s : State) (f : Smb → Smb) :
    (s.updSmb f).fwram = s.fwram := rfl
@[simp] theorem updSmb_nvm (s : State) (f : Smb → Smb) :
    (s.updSmb f).nvm = s.nvm := rfl
@[simp] theorem updSmb_nvmErr (s : State) (f : Smb → Smb) :
    (s.updSmb f).nvmErr = s.nvmErr := rfl
@[simp] theorem updSmb_nvmFail (s : State) (f : Smb → Smb) :
    (s.updSmb f).nvmFail = s.nvmFail := rfl
@[simp] theorem updSmb_crc (s : State) (f : Smb → Smb) :
    (s.updSmb f).crc = s.crc := rfl
@[simp] theorem updSmb_sens (s : State) (f : Smb → Smb) :
    (s.updSmb f).sens = s.sens := rfl
@[simp] theorem updSmb_smb (s : State) (f : Smb → Smb) :
    (s.updSmb f).smb = f s.smb := rfl

/-! ### Accessors after an update of another part -/

@[simp] theorem setPort_dom (s : State) (p : Nat) (v : Port) (j : Nat) :
    (s.setPort p v).dom j = s.dom j := rfl
@[simp] theorem setPort_mb (s : State) (p : Nat) (v : Port) (j : Nat) :
    (s.setPort p v).mb j = s.mb j := rfl
@[simp] theorem setPort_crcu (s : State) (p : Nat) (v : Port) (j : Nat) :
    (s.setPort p v).crcu j = s.crcu j := rfl

@[simp] theorem updPort_dom (s : State) (p : Nat) (f : Port → Port) (j : Nat) :
    (s.updPort p f).dom j = s.dom j := rfl
@[simp] theorem updPort_mb (s : State) (p : Nat) (f : Port → Port) (j : Nat) :
    (s.updPort p f).mb j = s.mb j := rfl
@[simp] theorem updPort_crcu (s : State) (p : Nat) (f : Port → Port) (j : Nat) :
    (s.updPort p f).crcu j = s.crcu j := rfl

@[simp] theorem updLink_dom (s : State) (p : Nat) (f : Link → Link) (j : Nat) :
    (s.updLink p f).dom j = s.dom j := rfl
@[simp] theorem updLink_mb (s : State) (p : Nat) (f : Link → Link) (j : Nat) :
    (s.updLink p f).mb j = s.mb j := rfl
@[simp] theorem updLink_crcu (s : State) (p : Nat) (f : Link → Link) (j : Nat) :
    (s.updLink p f).crcu j = s.crcu j := rfl

@[simp] theorem updTx_dom (s : State) (p : Nat) (f : Tx → Tx) (j : Nat) :
    (s.updTx p f).dom j = s.dom j := rfl
@[simp] theorem updTx_mb (s : State) (p : Nat) (f : Tx → Tx) (j : Nat) :
    (s.updTx p f).mb j = s.mb j := rfl
@[simp] theorem updTx_crcu (s : State) (p : Nat) (f : Tx → Tx) (j : Nat) :
    (s.updTx p f).crcu j = s.crcu j := rfl

@[simp] theorem updRx_dom (s : State) (p : Nat) (f : Rx → Rx) (j : Nat) :
    (s.updRx p f).dom j = s.dom j := rfl
@[simp] theorem updRx_mb (s : State) (p : Nat) (f : Rx → Rx) (j : Nat) :
    (s.updRx p f).mb j = s.mb j := rfl
@[simp] theorem updRx_crcu (s : State) (p : Nat) (f : Rx → Rx) (j : Nat) :
    (s.updRx p f).crcu j = s.crcu j := rfl

@[simp] theorem updMem_dom (s : State) (p : Nat) (f : Member → Member) (j : Nat) :
    (s.updMem p f).dom j = s.dom j := rfl
@[simp] theorem updMem_mb (s : State) (p : Nat) (f : Member → Member) (j : Nat) :
    (s.updMem p f).mb j = s.mb j := rfl
@[simp] theorem updMem_crcu (s : State) (p : Nat) (f : Member → Member) (j : Nat) :
    (s.updMem p f).crcu j = s.crcu j := rfl

@[simp] theorem updFore_dom (s : State) (p : Nat) (f : Forecast → Forecast) (j : Nat) :
    (s.updFore p f).dom j = s.dom j := rfl
@[simp] theorem updFore_mb (s : State) (p : Nat) (f : Forecast → Forecast) (j : Nat) :
    (s.updFore p f).mb j = s.mb j := rfl
@[simp] theorem updFore_crcu (s : State) (p : Nat) (f : Forecast → Forecast) (j : Nat) :
    (s.updFore p f).crcu j = s.crcu j := rfl

@[simp] theorem setDom_port (s : State) (d : Nat) (v : Dom) (j : Nat) :
    (s.setDom d v).port j = s.port j := rfl
@[simp] theorem setDom_mb (s : State) (d : Nat) (v : Dom) (j : Nat) :
    (s.setDom d v).mb j = s.mb j := rfl
@[simp] theorem setDom_crcu (s : State) (d : Nat) (v : Dom) (j : Nat) :
    (s.setDom d v).crcu j = s.crcu j := rfl

@[simp] theorem updDom_port (s : State) (d : Nat) (f : Dom → Dom) (j : Nat) :
    (s.updDom d f).port j = s.port j := rfl
@[simp] theorem updDom_mb (s : State) (d : Nat) (f : Dom → Dom) (j : Nat) :
    (s.updDom d f).mb j = s.mb j := rfl
@[simp] theorem updDom_crcu (s : State) (d : Nat) (f : Dom → Dom) (j : Nat) :
    (s.updDom d f).crcu j = s.crcu j := rfl

@[simp] theorem setMb_port (s : State) (m : Nat) (v : Mailbox) (j : Nat) :
    (s.setMb m v).port j = s.port j := rfl
@[simp] theorem setMb_dom (s : State) (m : Nat) (v : Mailbox) (j : Nat) :
    (s.setMb m v).dom j = s.dom j := rfl
@[simp] theorem setMb_crcu (s : State) (m : Nat) (v : Mailbox) (j : Nat) :
    (s.setMb m v).crcu j = s.crcu j := rfl

@[simp] theorem updMb_port (s : State) (m : Nat) (f : Mailbox → Mailbox) (j : Nat) :
    (s.updMb m f).port j = s.port j := rfl
@[simp] theorem updMb_dom (s : State) (m : Nat) (f : Mailbox → Mailbox) (j : Nat) :
    (s.updMb m f).dom j = s.dom j := rfl
@[simp] theorem updMb_crcu (s : State) (m : Nat) (f : Mailbox → Mailbox) (j : Nat) :
    (s.updMb m f).crcu j = s.crcu j := rfl

@[simp] theorem setCrc_port (s : State) (u : Nat) (v : Crc) (j : Nat) :
    (s.setCrc u v).port j = s.port j := rfl
@[simp] theorem setCrc_dom (s : State) (u : Nat) (v : Crc) (j : Nat) :
    (s.setCrc u v).dom j = s.dom j := rfl
@[simp] theorem setCrc_mb (s : State) (u : Nat) (v : Crc) (j : Nat) :
    (s.setCrc u v).mb j = s.mb j := rfl

@[simp] theorem updHome_port (s : State) (f : Home → Home) (j : Nat) :
    (s.updHome f).port j = s.port j := rfl
@[simp] theorem updHome_dom (s : State) (f : Home → Home) (j : Nat) :
    (s.updHome f).dom j = s.dom j := rfl
@[simp] theorem updHome_mb (s : State) (f : Home → Home) (j : Nat) :
    (s.updHome f).mb j = s.mb j := rfl
@[simp] theorem updHome_crcu (s : State) (f : Home → Home) (j : Nat) :
    (s.updHome f).crcu j = s.crcu j := rfl

@[simp] theorem updArr_port (s : State) (f : Arrays → Arrays) (j : Nat) :
    (s.updArr f).port j = s.port j := rfl
@[simp] theorem updArr_dom (s : State) (f : Arrays → Arrays) (j : Nat) :
    (s.updArr f).dom j = s.dom j := rfl
@[simp] theorem updArr_mb (s : State) (f : Arrays → Arrays) (j : Nat) :
    (s.updArr f).mb j = s.mb j := rfl
@[simp] theorem updArr_crcu (s : State) (f : Arrays → Arrays) (j : Nat) :
    (s.updArr f).crcu j = s.crcu j := rfl

@[simp] theorem updInteg_port (s : State) (f : Integ → Integ) (j : Nat) :
    (s.updInteg f).port j = s.port j := rfl
@[simp] theorem updInteg_dom (s : State) (f : Integ → Integ) (j : Nat) :
    (s.updInteg f).dom j = s.dom j := rfl
@[simp] theorem updInteg_mb (s : State) (f : Integ → Integ) (j : Nat) :
    (s.updInteg f).mb j = s.mb j := rfl
@[simp] theorem updInteg_crcu (s : State) (f : Integ → Integ) (j : Nat) :
    (s.updInteg f).crcu j = s.crcu j := rfl

@[simp] theorem updKt_port (s : State) (f : Kettle → Kettle) (j : Nat) :
    (s.updKt f).port j = s.port j := rfl
@[simp] theorem updKt_dom (s : State) (f : Kettle → Kettle) (j : Nat) :
    (s.updKt f).dom j = s.dom j := rfl
@[simp] theorem updKt_mb (s : State) (f : Kettle → Kettle) (j : Nat) :
    (s.updKt f).mb j = s.mb j := rfl
@[simp] theorem updKt_crcu (s : State) (f : Kettle → Kettle) (j : Nat) :
    (s.updKt f).crcu j = s.crcu j := rfl

@[simp] theorem updFlt_port (s : State) (f : Collector → Collector) (j : Nat) :
    (s.updFlt f).port j = s.port j := rfl
@[simp] theorem updFlt_dom (s : State) (f : Collector → Collector) (j : Nat) :
    (s.updFlt f).dom j = s.dom j := rfl
@[simp] theorem updFlt_mb (s : State) (f : Collector → Collector) (j : Nat) :
    (s.updFlt f).mb j = s.mb j := rfl
@[simp] theorem updFlt_crcu (s : State) (f : Collector → Collector) (j : Nat) :
    (s.updFlt f).crcu j = s.crcu j := rfl

@[simp] theorem updFw_port (s : State) (f : Firmware → Firmware) (j : Nat) :
    (s.updFw f).port j = s.port j := rfl
@[simp] theorem updFw_dom (s : State) (f : Firmware → Firmware) (j : Nat) :
    (s.updFw f).dom j = s.dom j := rfl
@[simp] theorem updFw_mb (s : State) (f : Firmware → Firmware) (j : Nat) :
    (s.updFw f).mb j = s.mb j := rfl
@[simp] theorem updFw_crcu (s : State) (f : Firmware → Firmware) (j : Nat) :
    (s.updFw f).crcu j = s.crcu j := rfl

@[simp] theorem updSmb_port (s : State) (f : Smb → Smb) (j : Nat) :
    (s.updSmb f).port j = s.port j := rfl
@[simp] theorem updSmb_dom (s : State) (f : Smb → Smb) (j : Nat) :
    (s.updSmb f).dom j = s.dom j := rfl
@[simp] theorem updSmb_mb (s : State) (f : Smb → Smb) (j : Nat) :
    (s.updSmb f).mb j = s.mb j := rfl
@[simp] theorem updSmb_crcu (s : State) (f : Smb → Smb) (j : Nat) :
    (s.updSmb f).crcu j = s.crcu j := rfl

/-! ### The part that was written, and the others -/

@[simp] theorem setPort_port_same (s : State) (k : Nat) (v : Port) :
    (s.setPort k v).port k = v := tget_tset_same ..
@[simp] theorem setPort_port_ne (s : State) {k j : Nat} (v : Port) (h : k ≠ j) :
    (s.setPort k v).port j = s.port j := tget_tset_ne _ _ _ h
@[simp] theorem updPort_port_same (s : State) (k : Nat) (f : Port → Port) :
    (s.updPort k f).port k = f (s.port k) := setPort_port_same ..
@[simp] theorem updPort_port_ne (s : State) {k j : Nat} (f : Port → Port) (h : k ≠ j) :
    (s.updPort k f).port j = s.port j := setPort_port_ne _ _ h
@[simp] theorem setDom_dom_same (s : State) (k : Nat) (v : Dom) :
    (s.setDom k v).dom k = v := tget_tset_same ..
@[simp] theorem setDom_dom_ne (s : State) {k j : Nat} (v : Dom) (h : k ≠ j) :
    (s.setDom k v).dom j = s.dom j := tget_tset_ne _ _ _ h
@[simp] theorem updDom_dom_same (s : State) (k : Nat) (f : Dom → Dom) :
    (s.updDom k f).dom k = f (s.dom k) := setDom_dom_same ..
@[simp] theorem updDom_dom_ne (s : State) {k j : Nat} (f : Dom → Dom) (h : k ≠ j) :
    (s.updDom k f).dom j = s.dom j := setDom_dom_ne _ _ h
@[simp] theorem setMb_mb_same (s : State) (k : Nat) (v : Mailbox) :
    (s.setMb k v).mb k = v := tget_tset_same ..
@[simp] theorem setMb_mb_ne (s : State) {k j : Nat} (v : Mailbox) (h : k ≠ j) :
    (s.setMb k v).mb j = s.mb j := tget_tset_ne _ _ _ h
@[simp] theorem updMb_mb_same (s : State) (k : Nat) (f : Mailbox → Mailbox) :
    (s.updMb k f).mb k = f (s.mb k) := setMb_mb_same ..
@[simp] theorem updMb_mb_ne (s : State) {k j : Nat} (f : Mailbox → Mailbox) (h : k ≠ j) :
    (s.updMb k f).mb j = s.mb j := setMb_mb_ne _ _ h
@[simp] theorem setCrc_crcu_same (s : State) (k : Nat) (v : Crc) :
    (s.setCrc k v).crcu k = v := tget_tset_same ..
@[simp] theorem setCrc_crcu_ne (s : State) {k j : Nat} (v : Crc) (h : k ≠ j) :
    (s.setCrc k v).crcu j = s.crcu j := tget_tset_ne _ _ _ h
@[simp] theorem updLink_port_same (s : State) (k : Nat) (f : Link → Link) :
    (s.updLink k f).port k = (let q := s.port k; { q with link := f q.link }) := updPort_port_same ..
@[simp] theorem updLink_port_ne (s : State) {k j : Nat} (f : Link → Link) (h : k ≠ j) :
    (s.updLink k f).port j = s.port j := updPort_port_ne _ _ h
@[simp] theorem updTx_port_same (s : State) (k : Nat) (f : Tx → Tx) :
    (s.updTx k f).port k = (let q := s.port k; { q with tx := f q.tx }) := updPort_port_same ..
@[simp] theorem updTx_port_ne (s : State) {k j : Nat} (f : Tx → Tx) (h : k ≠ j) :
    (s.updTx k f).port j = s.port j := updPort_port_ne _ _ h
@[simp] theorem updRx_port_same (s : State) (k : Nat) (f : Rx → Rx) :
    (s.updRx k f).port k = (let q := s.port k; { q with rx := f q.rx }) := updPort_port_same ..
@[simp] theorem updRx_port_ne (s : State) {k j : Nat} (f : Rx → Rx) (h : k ≠ j) :
    (s.updRx k f).port j = s.port j := updPort_port_ne _ _ h
@[simp] theorem updMem_port_same (s : State) (k : Nat) (f : Member → Member) :
    (s.updMem k f).port k = (let q := s.port k; { q with mem := f q.mem }) := updPort_port_same ..
@[simp] theorem updMem_port_ne (s : State) {k j : Nat} (f : Member → Member) (h : k ≠ j) :
    (s.updMem k f).port j = s.port j := updPort_port_ne _ _ h
@[simp] theorem updFore_port_same (s : State) (k : Nat) (f : Forecast → Forecast) :
    (s.updFore k f).port k = (let q := s.port k; { q with fore := f q.fore }) := updPort_port_same ..
@[simp] theorem updFore_port_ne (s : State) {k j : Nat} (f : Forecast → Forecast) (h : k ≠ j) :
    (s.updFore k f).port j = s.port j := updPort_port_ne _ _ h

/-- A free value is used up, and nothing else. -/
@[simp] theorem nextFree_fst (s : State) : s.nextFree.1 = Config.freeValue s.free := rfl
@[simp] theorem nextFree_snd (s : State) : s.nextFree.2 = { s with free := s.free + 1 } := rfl

end Sys2Proof.Machine.State
end

