-- ==== Sys2Proof/Laws/Frame.lean ====
section
/-!
SUPPORT. One lemma per operation and per command body: it leaves the queue of waiting commands, the board
(pins, straps, TAP, held reset) and the Grave state as they are. The operations that do change one of the three
have a shorter lemma.
-/
namespace Sys2Proof.Machine

set_option linter.unusedTactic false

def CmdRes.st : CmdRes → State
  | .done _ _ _ s => s
  | .later s => s

@[simp] theorem CmdRes.st_done (a b c) (s : State) : (CmdRes.done a b c s).st = s := rfl

@[simp] theorem CmdRes.st_later (s : State) : (CmdRes.later s).st = s := rfl

theorem foldl_frame {α β : Type} (g : State → β) (f : State → α → State) (h : ∀ s a, g (f s a) = g s)
    (l : List α) (s : State) : g (l.foldl f s) = g s := by
  induction l generalizing s with
  | nil => rfl
  | cons a l ih => simp [ih, h]

@[simp] theorem foldl_pending {α : Type} (f : State → α → State) (h : ∀ s a, (f s a).pending = s.pending)
    (l : List α) (s : State) : (l.foldl f s).pending = s.pending := foldl_frame (·.pending) f h l s

@[simp] theorem foldl_board {α : Type} (f : State → α → State) (h : ∀ s a, (f s a).board = s.board)
    (l : List α) (s : State) : (l.foldl f s).board = s.board := foldl_frame (·.board) f h l s

@[simp] theorem foldl_flt_grave {α : Type} (f : State → α → State) (h : ∀ s a, (f s a).flt.grave = s.flt.grave)
    (l : List α) (s : State) : (l.foldl f s).flt.grave = s.flt.grave := foldl_frame (·.flt.grave) f h l s

theorem foldl_proj {β γ δ : Type} (g : β → δ) (f : β → γ → β) (h : ∀ b a, g (f b a) = g b)
    (l : List γ) (b : β) : g (l.foldl f b) = g b := by
  induction l generalizing b with
  | nil => rfl
  | cons a l ih => simp [ih, h]

def State.fx (s : State) : List Instr × Board × Bool := (s.pending, s.board, s.flt.grave)

theorem fx_of {s t : State} (h : t.fx = s.fx) :
    t.pending = s.pending ∧ t.board = s.board ∧ t.flt.grave = s.flt.grave := by
  simpa [State.fx] using h

theorem fx_fold {β γ : Type} (π : β → State) (f : β → γ → β) (h : ∀ b a, (π (f b a)).fx = (π b).fx)
    (l : List γ) (b : β) : (π (l.foldl f b)).pending = (π b).pending ∧ (π (l.foldl f b)).board = (π b).board
      ∧ (π (l.foldl f b)).flt.grave = (π b).flt.grave :=
  fx_of (foldl_proj (fun b => (π b).fx) f h l b)

@[simp] theorem State_setPort_frame (s : State) (p : Nat) (v : Port) :
    (State.setPort s p v).pending = s.pending
      ∧ (State.setPort s p v).board = s.board
      ∧ (State.setPort s p v).flt.grave = s.flt.grave := by
  simp [State.setPort]

@[simp] theorem State_updPort_frame (s : State) (p : Nat) (f : Port → Port) :
    (State.updPort s p f).pending = s.pending
      ∧ (State.updPort s p f).board = s.board
      ∧ (State.updPort s p f).flt.grave = s.flt.grave := by
  simp [State.updPort]

@[simp] theorem State_updLink_frame (s : State) (p : Nat) (f : Link → Link) :
    (State.updLink s p f).pending = s.pending
      ∧ (State.updLink s p f).board = s.board
      ∧ (State.updLink s p f).flt.grave = s.flt.grave := by
  simp [State.updLink]

@[simp] theorem State_updTx_frame (s : State) (p : Nat) (f : Tx → Tx) :
    (State.updTx s p f).pending = s.pending
      ∧ (State.updTx s p f).board = s.board
      ∧ (State.updTx s p f).flt.grave = s.flt.grave := by
  simp [State.updTx]

@[simp] theorem State_updRx_frame (s : State) (p : Nat) (f : Rx → Rx) :
    (State.updRx s p f).pending = s.pending
      ∧ (State.updRx s p f).board = s.board
      ∧ (State.updRx s p f).flt.grave = s.flt.grave := by
  simp [State.updRx]

@[simp] theorem State_updMem_frame (s : State) (p : Nat) (f : Member → Member) :
    (State.updMem s p f).pending = s.pending
      ∧ (State.updMem s p f).board = s.board
      ∧ (State.updMem s p f).flt.grave = s.flt.grave := by
  simp [State.updMem]

@[simp] theorem State_updFore_frame (s : State) (p : Nat) (f : Forecast → Forecast) :
    (State.updFore s p f).pending = s.pending
      ∧ (State.updFore s p f).board = s.board
      ∧ (State.updFore s p f).flt.grave = s.flt.grave := by
  simp [State.updFore]

@[simp] theorem State_setDom_frame (s : State) (d : Nat) (v : Dom) :
    (State.setDom s d v).pending = s.pending
      ∧ (State.setDom s d v).board = s.board
      ∧ (State.setDom s d v).flt.grave = s.flt.grave := by
  simp [State.setDom]

@[simp] theorem State_updDom_frame (s : State) (d : Nat) (f : Dom → Dom) :
    (State.updDom s d f).pending = s.pending
      ∧ (State.updDom s d f).board = s.board
      ∧ (State.updDom s d f).flt.grave = s.flt.grave := by
  simp [State.updDom]

@[simp] theorem State_setMb_frame (s : State) (m : Nat) (v : Mailbox) :
    (State.setMb s m v).pending = s.pending
      ∧ (State.setMb s m v).board = s.board
      ∧ (State.setMb s m v).flt.grave = s.flt.grave := by
  simp [State.setMb]

@[simp] theorem State_updMb_frame (s : State) (m : Nat) (f : Mailbox → Mailbox) :
    (State.updMb s m f).pending = s.pending
      ∧ (State.updMb s m f).board = s.board
      ∧ (State.updMb s m f).flt.grave = s.flt.grave := by
  simp [State.updMb]

@[simp] theorem State_setCrc_frame (s : State) (u : Nat) (v : Crc) :
    (State.setCrc s u v).pending = s.pending
      ∧ (State.setCrc s u v).board = s.board
      ∧ (State.setCrc s u v).flt.grave = s.flt.grave := by
  simp [State.setCrc]

@[simp] theorem State_updHome_frame (s : State) (f : Home → Home) :
    (State.updHome s f).pending = s.pending
      ∧ (State.updHome s f).board = s.board
      ∧ (State.updHome s f).flt.grave = s.flt.grave := by
  simp [State.updHome]

@[simp] theorem State_updArr_frame (s : State) (f : Arrays → Arrays) :
    (State.updArr s f).pending = s.pending
      ∧ (State.updArr s f).board = s.board
      ∧ (State.updArr s f).flt.grave = s.flt.grave := by
  simp [State.updArr]

@[simp] theorem State_updInteg_frame (s : State) (f : Integ → Integ) :
    (State.updInteg s f).pending = s.pending
      ∧ (State.updInteg s f).board = s.board
      ∧ (State.updInteg s f).flt.grave = s.flt.grave := by
  simp [State.updInteg]

@[simp] theorem State_updKt_frame (s : State) (f : Kettle → Kettle) :
    (State.updKt s f).pending = s.pending
      ∧ (State.updKt s f).board = s.board
      ∧ (State.updKt s f).flt.grave = s.flt.grave := by
  simp [State.updKt]

@[simp] theorem State_updFlt_frame (s : State) (f : Collector → Collector) :
    (State.updFlt s f).pending = s.pending ∧ (State.updFlt s f).board = s.board := ⟨rfl, rfl⟩

@[simp] theorem State_updFw_frame (s : State) (f : Firmware → Firmware) :
    (State.updFw s f).pending = s.pending
      ∧ (State.updFw s f).board = s.board
      ∧ (State.updFw s f).flt.grave = s.flt.grave := by
  simp [State.updFw]

@[simp] theorem State_updSmb_frame (s : State) (f : Smb → Smb) :
    (State.updSmb s f).pending = s.pending
      ∧ (State.updSmb s f).board = s.board
      ∧ (State.updSmb s f).flt.grave = s.flt.grave := by
  simp [State.updSmb]

@[simp] theorem State_nextFree_frame (s : State) :
    (State.nextFree s).2.pending = s.pending
      ∧ (State.nextFree s).2.board = s.board
      ∧ (State.nextFree s).2.flt.grave = s.flt.grave := by
  simp [State.nextFree]

@[simp] theorem State_fill_frame (s : State) (m : BitVec 64) (d : Line) :
    (State.fill s m d).2.pending = s.pending
      ∧ (State.fill s m d).2.board = s.board
      ∧ (State.fill s m d).2.flt.grave = s.flt.grave := by
  simp [State.fill]

@[simp] theorem mbPut_frame (s : State) (i v : Nat) :
    (mbPut s i v).pending = s.pending
      ∧ (mbPut s i v).board = s.board
      ∧ (mbPut s i v).flt.grave = s.flt.grave := by
  simp [mbPut]

@[simp] theorem mbPutWords_frame (s : State) (i : Nat) (l : List Nat) :
    (mbPutWords s i l).pending = s.pending ∧ (mbPutWords s i l).board = s.board
      ∧ (mbPutWords s i l).flt.grave = s.flt.grave := by
  induction l generalizing s i with
  | nil => simp [mbPutWords]
  | cons a l ih => simp [mbPutWords, ih]

@[simp] theorem mbPutPayload_frame (s : State) (m : Nat) (bs : List Byte) :
    (mbPutPayload s m bs).pending = s.pending
      ∧ (mbPutPayload s m bs).board = s.board
      ∧ (mbPutPayload s m bs).flt.grave = s.flt.grave := by
  simp [mbPutPayload]

@[simp] theorem mbNotice_frame (s : State) (m : Nat) (status : BitVec 8) :
    (mbNotice s m status).pending = s.pending
      ∧ (mbNotice s m status).board = s.board
      ∧ (mbNotice s m status).flt.grave = s.flt.grave := by
  unfold mbNotice
  (repeat' split) <;> simp

@[simp] theorem mbDropPort_frame (s : State) (p : Nat) :
    (mbDropPort s p).pending = s.pending
      ∧ (mbDropPort s p).board = s.board
      ∧ (mbDropPort s p).flt.grave = s.flt.grave := by
  simp [mbDropPort]

@[simp] theorem mbFreeLock_frame (s : State) (d dan : Nat) :
    (mbFreeLock s d dan).pending = s.pending
      ∧ (mbFreeLock s d dan).board = s.board
      ∧ (mbFreeLock s d dan).flt.grave = s.flt.grave := by
  simp [mbFreeLock]

@[simp] theorem mbFinish_frame (s : State) (m status detail : Nat) (resp : List Byte) :
    (mbFinish s m status detail resp).pending = s.pending
      ∧ (mbFinish s m status detail resp).board = s.board
      ∧ (mbFinish s m status detail resp).flt.grave = s.flt.grave := by
  unfold mbFinish
  dsimp only
  split
  · simp
  · split <;> simp

@[simp] theorem forgetMbx_frame (s : State) (m : Nat) :
    (forgetMbx s m).pending = s.pending
      ∧ (forgetMbx s m).board = s.board
      ∧ (forgetMbx s m).flt.grave = s.flt.grave := by
  simp [forgetMbx]

@[simp] theorem mbZero_frame (s : State) (m : Nat) :
    (mbZero s m).pending = s.pending
      ∧ (mbZero s m).board = s.board
      ∧ (mbZero s m).flt.grave = s.flt.grave := by
  simp [mbZero]

@[simp] theorem mbBlockReset_frame (s : State) (m : Nat) :
    (mbBlockReset s m).pending = s.pending
      ∧ (mbBlockReset s m).board = s.board
      ∧ (mbBlockReset s m).flt.grave = s.flt.grave := by
  unfold mbBlockReset
  dsimp only
  (repeat' split) <;> (try dsimp only) <;> (repeat' split) <;> simp

@[simp] theorem cntAdd_frame (s : State) (p i n : Nat) :
    (cntAdd s p i n).pending = s.pending
      ∧ (cntAdd s p i n).board = s.board
      ∧ (cntAdd s p i n).flt.grave = s.flt.grave := by
  simp [cntAdd]

@[simp] theorem statAdd_frame (s : State) (d i : Nat) :
    (statAdd s d i).pending = s.pending
      ∧ (statAdd s d i).board = s.board
      ∧ (statAdd s d i).flt.grave = s.flt.grave := by
  simp [statAdd]

@[simp] theorem nakAdd_frame (s : State) (d i : Nat) :
    (nakAdd s d i).pending = s.pending
      ∧ (nakAdd s d i).board = s.board
      ∧ (nakAdd s d i).flt.grave = s.flt.grave := by
  simp [nakAdd]

@[simp] theorem raiseInj_frame (s : State) (src : Nat) (dom : Option Nat) (detail : Nat) (inj : Bool) :
    (raiseInj s src dom detail inj).pending = s.pending
      ∧ (raiseInj s src dom detail inj).board = s.board
      ∧ (raiseInj s src dom detail inj).flt.grave = s.flt.grave := by
  simp [raiseInj]

@[simp] theorem raise_frame (s : State) (src : Nat) (dom : Option Nat) (detail : Nat) :
    (raise s src dom detail).pending = s.pending
      ∧ (raise s src dom detail).board = s.board
      ∧ (raise s src dom detail).flt.grave = s.flt.grave := by
  simp [raise]

@[simp] theorem nudge_frame (s : State) (p : Nat) :
    (nudge s p).pending = s.pending ∧ (nudge s p).board = s.board ∧ (nudge s p).flt.grave = s.flt.grave := by
  simp [nudge]

@[simp] theorem placeCtl_frame (s : State) (p : Nat) (c : LinkCtl) :
    (placeCtl s p c).pending = s.pending
      ∧ (placeCtl s p c).board = s.board
      ∧ (placeCtl s p c).flt.grave = s.flt.grave := by
  unfold placeCtl
  (repeat' split) <;> simp

@[simp] theorem queueMsg_frame (s : State) (p : Nat) (m : Msg) :
    (queueMsg s p m).pending = s.pending
      ∧ (queueMsg s p m).board = s.board
      ∧ (queueMsg s p m).flt.grave = s.flt.grave := by
  unfold queueMsg
  (repeat' split) <;> simp

@[simp] theorem returnCredit_frame (s : State) (p : Nat) (c : Cls) (d : Nat) :
    (returnCredit s p c d).pending = s.pending
      ∧ (returnCredit s p c d).board = s.board
      ∧ (returnCredit s p c d).flt.grave = s.flt.grave := by
  unfold returnCredit
  (repeat' split) <;> simp

@[simp] theorem takeMsg_frame (s : State) (p : Nat) (m : Msg) :
    (takeMsg s p m).pending = s.pending
      ∧ (takeMsg s p m).board = s.board
      ∧ (takeMsg s p m).flt.grave = s.flt.grave := by
  simp [takeMsg]

@[simp] theorem putBack_frame (s : State) (p : Nat) (m : Msg) :
    (putBack s p m).pending = s.pending
      ∧ (putBack s p m).board = s.board
      ∧ (putBack s p m).flt.grave = s.flt.grave := by
  simp [putBack]

@[simp] theorem takeCtl_frame (s : State) (p : Nat) (c : LinkCtl) :
    (takeCtl s p c).pending = s.pending
      ∧ (takeCtl s p c).board = s.board
      ∧ (takeCtl s p c).flt.grave = s.flt.grave := by
  simp [takeCtl]

@[simp] theorem takePm_frame (s : State) (p : Nat) (v : BitVec 2) :
    (takePm s p v).pending = s.pending
      ∧ (takePm s p v).board = s.board
      ∧ (takePm s p v).flt.grave = s.flt.grave := by
  simp [takePm]

@[simp] theorem dropNotices_frame (s : State) (p : Nat) :
    (dropNotices s p).pending = s.pending
      ∧ (dropNotices s p).board = s.board
      ∧ (dropNotices s p).flt.grave = s.flt.grave := by
  unfold dropNotices
  dsimp only
  (repeat' split) <;> (try dsimp only) <;> (repeat' split) <;> simp

@[simp] theorem placeAssign_frame (s : State) (p : Nat) (creds : Bool) :
    (placeAssign s p creds).pending = s.pending
      ∧ (placeAssign s p creds).board = s.board
      ∧ (placeAssign s p creds).flt.grave = s.flt.grave := by
  unfold placeAssign
  (repeat' split) <;> simp

@[simp] theorem forgetCredits_frame (s : State) (p : Nat) :
    (forgetCredits s p).pending = s.pending
      ∧ (forgetCredits s p).board = s.board
      ∧ (forgetCredits s p).flt.grave = s.flt.grave := by
  simp [forgetCredits]

@[simp] theorem placeRelease_frame (s : State) (p d : Nat) :
    (placeRelease s p d).pending = s.pending
      ∧ (placeRelease s p d).board = s.board
      ∧ (placeRelease s p d).flt.grave = s.flt.grave := by
  unfold placeRelease
  dsimp only
  (repeat' split) <;> (try dsimp only) <;> (repeat' split) <;> simp

@[simp] theorem holdPort_frame (s : State) (p : Nat) (reason : BitVec 8) :
    (holdPort s p reason).pending = s.pending
      ∧ (holdPort s p reason).board = s.board
      ∧ (holdPort s p reason).flt.grave = s.flt.grave := by
  unfold holdPort
  dsimp only
  (repeat' split) <;> (try dsimp only) <;> (repeat' split) <;> simp

@[simp] theorem sendDownAfter_frame (s : State) (p : Nat) (first : List TxFlit) (reason : BitVec 8) :
    (sendDownAfter s p first reason).pending = s.pending
      ∧ (sendDownAfter s p first reason).board = s.board
      ∧ (sendDownAfter s p first reason).flt.grave = s.flt.grave := by
  simp [sendDownAfter]

@[simp] theorem sendLinkDown_frame (s : State) (p : Nat) (reason : BitVec 8) :
    (sendLinkDown s p reason).pending = s.pending
      ∧ (sendLinkDown s p reason).board = s.board
      ∧ (sendLinkDown s p reason).flt.grave = s.flt.grave := by
  simp [sendLinkDown]

@[simp] theorem raiseFatalBy_frame (inj : Bool) (s : State) (p : Nat) (reason : BitVec 8) :
    (raiseFatalBy inj s p reason).pending = s.pending
      ∧ (raiseFatalBy inj s p reason).board = s.board
      ∧ (raiseFatalBy inj s p reason).flt.grave = s.flt.grave := by
  simp [raiseFatalBy]

@[simp] theorem raiseFatal_frame (s : State) (p : Nat) (reason : BitVec 8) :
    (raiseFatal s p reason).pending = s.pending
      ∧ (raiseFatal s p reason).board = s.board
      ∧ (raiseFatal s p reason).flt.grave = s.flt.grave := by
  simp [raiseFatal]

@[simp] theorem flipTake_frame (s : State) (m u : Nat) (d : Option Nat) :
    (flipTake s m u d).2.2.pending = s.pending
      ∧ (flipTake s m u d).2.2.board = s.board
      ∧ (flipTake s m u d).2.2.flt.grave = s.flt.grave := by
  unfold flipTake
  dsimp only
  (repeat' split) <;> (try dsimp only) <;> (repeat' split) <;> simp

@[simp] theorem dropErr_frame (s : State) (m k : Nat) :
    (dropErr s m k).pending = s.pending
      ∧ (dropErr s m k).board = s.board
      ∧ (dropErr s m k).flt.grave = s.flt.grave := by
  simp [dropErr]

@[simp] theorem storeMem_frame (s : State) (m unit k : Nat) (d : Option Nat) :
    (storeMem s m unit k d).pending = s.pending
      ∧ (storeMem s m unit k d).board = s.board
      ∧ (storeMem s m unit k d).flt.grave = s.flt.grave := by
  unfold storeMem
  dsimp only
  (repeat' split) <;> (try dsimp only) <;> (repeat' split) <;> simp

@[simp] theorem clearWays_frame (s : State) (d : Nat) :
    (clearWays s d).pending = s.pending
      ∧ (clearWays s d).board = s.board
      ∧ (clearWays s d).flt.grave = s.flt.grave := by
  simp [clearWays]

@[simp] theorem clearShelf_frame (s : State) (b : Nat) :
    (clearShelf s b).pending = s.pending
      ∧ (clearShelf s b).board = s.board
      ∧ (clearShelf s b).flt.grave = s.flt.grave := by
  simp [clearShelf]

@[simp] theorem clearShelves_frame (s : State) (bs : List Nat) :
    (clearShelves s bs).pending = s.pending
      ∧ (clearShelves s bs).board = s.board
      ∧ (clearShelves s bs).flt.grave = s.flt.grave := by
  simp [clearShelves]

@[simp] theorem setShelf_frame (s : State) (b : Nat) (o : Option (Nat × Nat)) :
    (setShelf s b o).pending = s.pending
      ∧ (setShelf s b o).board = s.board
      ∧ (setShelf s b o).flt.grave = s.flt.grave := by
  simp [setShelf]

@[simp] theorem putMap_frame (s : State) (d dan : Nat) (o : Option Agent) (stale : Dom → BitVec 128) :
    (putMap s d dan o stale).pending = s.pending
      ∧ (putMap s d dan o stale).board = s.board
      ∧ (putMap s d dan o stale).flt.grave = s.flt.grave := by
  simp [putMap]

@[simp] theorem leavePort_frame (s : State) (p d : Nat) :
    (leavePort s p d).pending = s.pending
      ∧ (leavePort s p d).board = s.board
      ∧ (leavePort s p d).flt.grave = s.flt.grave := by
  simp [leavePort]

@[simp] theorem expel_frame (s : State) (d dan : Nat) :
    (expel s d dan).pending = s.pending
      ∧ (expel s d dan).board = s.board
      ∧ (expel s d dan).flt.grave = s.flt.grave := by
  unfold expel
  dsimp only
  (repeat' split) <;> (try dsimp only) <;> (repeat' split) <;> simp

@[simp] theorem expelAll_frame (s : State) (d : Nat) (dans : List Nat) :
    (expelAll s d dans).pending = s.pending
      ∧ (expelAll s d dans).board = s.board
      ∧ (expelAll s d dans).flt.grave = s.flt.grave := by
  simp [expelAll]

@[simp] theorem freeDomain_frame (s : State) (d : Nat) :
    (freeDomain s d).pending = s.pending
      ∧ (freeDomain s d).board = s.board
      ∧ (freeDomain s d).flt.grave = s.flt.grave := by
  have h1 := fx_fold id (fun (s : State) (w : WbEntry) => returnCredit s w.port .wb d) (fun b c => by simp [State.fx])
  have h2 := fx_fold id (fun (s : State) (e : Nat × Req) => returnCredit s e.2.port .req d)
    (fun b c => by simp [State.fx])
  have h3 := fx_fold id (fun (s : State) (x : Proxy) =>
      if x.f.h.dom.toNat = d then returnCredit s x.port .snp d else s)
    (fun b c => by dsimp only [id]; split <;> simp [State.fx])
  dsimp only [id] at h1 h2 h3
  simp [freeDomain, h3, h2, h1]

@[simp] theorem dropQueued_frame (s : State) (d : Nat) :
    (dropQueued s d).pending = s.pending
      ∧ (dropQueued s d).board = s.board
      ∧ (dropQueued s d).flt.grave = s.flt.grave := by
  unfold dropQueued
  exact fx_fold id _ (fun b c => by simp [State.fx]) _ _

@[simp] theorem downPort_frame (s : State) (d : Nat) (p : Nat) :
    (downPort s d p).pending = s.pending
      ∧ (downPort s d p).board = s.board
      ∧ (downPort s d p).flt.grave = s.flt.grave := by
  simp [downPort]

@[simp] theorem spanNotice_frame (s : State) (except : Option Nat) (c : LinkCtl) :
    (spanNotice s except c).pending = s.pending
      ∧ (spanNotice s except c).board = s.board
      ∧ (spanNotice s except c).flt.grave = s.flt.grave := by
  unfold spanNotice
  exact fx_fold id _ (fun b c => by dsimp only [id]; split <;> simp [State.fx]) _ _

@[simp] theorem abortJobs_frame (s : State) (d : Nat) :
    (abortJobs s d).pending = s.pending
      ∧ (abortJobs s d).board = s.board
      ∧ (abortJobs s d).flt.grave = s.flt.grave := by
  unfold abortJobs
  exact fx_fold id (fun s m => mbFinish s m 8 0x206 []) (fun b c => by simp [State.fx]) _ _

@[simp] theorem crcRelease_frame (s : State) (d : Nat) :
    (crcRelease s d).pending = s.pending
      ∧ (crcRelease s d).board = s.board
      ∧ (crcRelease s d).flt.grave = s.flt.grave := by
  unfold crcRelease
  exact fx_fold id _ (fun b c => by dsimp only [id]; split <;> simp [State.fx]) _ _

@[simp] theorem domainDownBy_frame (inj : Bool) (s : State) (d cause : Nat) (dead : List Nat)
    (src : Option Nat) :
    (domainDownBy inj s d cause dead src).pending = s.pending
      ∧ (domainDownBy inj s d cause dead src).board = s.board
      ∧ (domainDownBy inj s d cause dead src).flt.grave = s.flt.grave := by
  have h1 := fx_fold id (fun (s : State) p => downPort s d p) (fun b c => by simp [State.fx])
  have h2 := fx_fold id (fun (s : State) p => if s.up p then raiseFatal (sendLinkDown s p 7) p 7 else s)
    (fun b c => by dsimp only [id]; split <;> simp [State.fx])
  dsimp only [id] at h1 h2
  unfold domainDownBy
  split
  · simp
  · simp only [raiseInj_frame, expelAll_frame, h2, h1, crcRelease_frame, clearShelves_frame, clearWays_frame,
      dropQueued_frame, freeDomain_frame, abortJobs_frame, spanNotice_frame, State.updDom_pending,
      State.updDom_board, State.updDom_flt, and_self]

@[simp] theorem domainDown_frame (s : State) (d cause : Nat) (dead : List Nat) (src : Option Nat) :
    (domainDown s d cause dead src).pending = s.pending
      ∧ (domainDown s d cause dead src).board = s.board
      ∧ (domainDown s d cause dead src).flt.grave = s.flt.grave := by
  simp [domainDown]

@[simp] theorem agentGone_frame (s : State) (p : Nat) :
    (agentGone s p).pending = s.pending
      ∧ (agentGone s p).board = s.board
      ∧ (agentGone s p).flt.grave = s.flt.grave := by
  unfold agentGone
  dsimp only
  (repeat' split) <;> (try dsimp only) <;> (repeat' split) <;> simp

@[simp] theorem downConsequences_frame (s : State) (p : Nat) (q : Port) :
    (downConsequences s p q).pending = s.pending
      ∧ (downConsequences s p q).board = s.board
      ∧ (downConsequences s p q).flt.grave = s.flt.grave := by
  unfold downConsequences
  (repeat' split) <;> simp

@[simp] theorem portFault_frame (s : State) (p : Nat) (reason : BitVec 8) :
    (portFault s p reason).pending = s.pending
      ∧ (portFault s p reason).board = s.board
      ∧ (portFault s p reason).flt.grave = s.flt.grave := by
  simp [portFault]

@[simp] theorem fatal_frame (s : State) (p : Nat) (reason : BitVec 8) :
    (fatal s p reason).pending = s.pending
      ∧ (fatal s p reason).board = s.board
      ∧ (fatal s p reason).flt.grave = s.flt.grave := by
  simp [fatal]

@[simp] theorem endPort_frame (inj : Bool) (s : State) (p : Nat) :
    (endPort inj s p).pending = s.pending
      ∧ (endPort inj s p).board = s.board
      ∧ (endPort inj s p).flt.grave = s.flt.grave := by
  unfold endPort
  dsimp only
  (repeat' split) <;> (try dsimp only) <;> (repeat' split) <;> simp

@[simp] theorem clearCommon_frame (s : State) :
    (clearCommon s).pending = s.pending
      ∧ (clearCommon s).board = s.board
      ∧ (clearCommon s).flt.grave = s.flt.grave := by
  simp [clearCommon]

@[simp] theorem freshCollector_frame (s : State) :
    (freshCollector s).pending = s.pending
      ∧ (freshCollector s).board = s.board
      ∧ (freshCollector s).flt.grave = s.flt.grave := by
  simp [freshCollector]

@[simp] theorem chipResetBy_frame (inj : Bool) (s : State) :
    (chipResetBy inj s).pending = s.pending
      ∧ (chipResetBy inj s).board = s.board
      ∧ (chipResetBy inj s).flt.grave = s.flt.grave := by
  unfold chipResetBy
  (repeat' split) <;> simp

@[simp] theorem chipReset_frame (s : State) :
    (chipReset s).pending = s.pending
      ∧ (chipReset s).board = s.board
      ∧ (chipReset s).flt.grave = s.flt.grave := by
  unfold chipReset
  (repeat' split) <;> simp

@[simp] theorem clearSys_frame (s : State) :
    (clearSys s).pending = s.pending
      ∧ (clearSys s).board = s.board
      ∧ (clearSys s).flt.grave = s.flt.grave := by
  simp [clearSys]

@[simp] theorem clearPower_frame (s : State) :
    (clearPower s).pending = s.pending := by
  simp [clearPower]

@[simp] theorem State_setBkt_frame (s : State) (m : Nat) (b : Bucket) :
    (State.setBkt s m b).pending = s.pending
      ∧ (State.setBkt s m b).board = s.board
      ∧ (State.setBkt s m b).flt.grave = s.flt.grave := by
  simp [State.setBkt]

@[simp] theorem ceEvent_frame (s : State) (m : Nat) (inj : Bool) :
    (ceEvent s m inj).pending = s.pending
      ∧ (ceEvent s m inj).board = s.board
      ∧ (ceEvent s m inj).flt.grave = s.flt.grave := by
  unfold ceEvent
  dsimp only
  (repeat' split) <;> (try dsimp only) <;> (repeat' split) <;> simp

@[simp] theorem ueEvent_frame (s : State) (u : UeAt) (by_ : Finder) (inj : Bool) :
    (ueEvent s u by_ inj).pending = s.pending
      ∧ (ueEvent s u by_ inj).board = s.board
      ∧ (ueEvent s u by_ inj).flt.grave = s.flt.grave := by
  unfold ueEvent
  (repeat' split) <;> simp

@[simp] theorem stateError_frame (s : State) (mem d : Nat) :
    (stateError s mem d).pending = s.pending
      ∧ (stateError s mem d).board = s.board
      ∧ (stateError s mem d).flt.grave = s.flt.grave := by
  simp [stateError]

@[simp] theorem injTake_frame (s : State) (m : Nat) (d : Option Nat) :
    (injTake s m d).2.pending = s.pending
      ∧ (injTake s m d).2.board = s.board
      ∧ (injTake s m d).2.flt.grave = s.flt.grave := by
  unfold injTake
  dsimp only
  (repeat' split) <;> (try dsimp only) <;> (repeat' split) <;> simp

@[simp] theorem State_setRot_frame (s : State) (u : Nat) (r : Rot) :
    (State.setRot s u r).pending = s.pending
      ∧ (State.setRot s u r).board = s.board
      ∧ (State.setRot s u r).flt.grave = s.flt.grave := by
  simp [State.setRot]

@[simp] theorem readGroup_frame (s : State) (a : StrAt) (by_ : Finder) :
    (readGroup s a by_).2.2.pending = s.pending
      ∧ (readGroup s a by_).2.2.board = s.board
      ∧ (readGroup s a by_).2.2.flt.grave = s.flt.grave := by
  unfold readGroup
  dsimp only
  (repeat' split) <;> (try dsimp only) <;> (repeat' split) <;> simp

@[simp] theorem writeGroup_frame (s : State) (a : StrAt) (v : BitVec 16) :
    (writeGroup s a v).pending = s.pending
      ∧ (writeGroup s a v).board = s.board
      ∧ (writeGroup s a v).flt.grave = s.flt.grave := by
  simp [writeGroup]

@[simp] theorem setValid_frame (s : State) (a : StrAt) (v : BitVec 16) (b : Bool) :
    (setValid s a v b).pending = s.pending
      ∧ (setValid s a v b).board = s.board
      ∧ (setValid s a v b).flt.grave = s.flt.grave := by
  simp [setValid]

@[simp] theorem readEnt_frame (s : State) (a : StrAt) (live : Bool) (by_ : Finder) :
    (readEnt s a live by_).2.2.2.pending = s.pending
      ∧ (readEnt s a live by_).2.2.2.board = s.board
      ∧ (readEnt s a live by_).2.2.2.flt.grave = s.flt.grave := by
  unfold readEnt
  dsimp only
  (repeat' split) <;> (try dsimp only) <;> (repeat' split) <;> simp

@[simp] theorem writeEnt_frame (s : State) (a : StrAt) (x : BitVec 41) :
    (writeEnt s a x).pending = s.pending
      ∧ (writeEnt s a x).board = s.board
      ∧ (writeEnt s a x).flt.grave = s.flt.grave := by
  simp [writeEnt]

@[simp] theorem writeTag_frame (s : State) (k : Nat) (t : BitVec 40) :
    (writeTag s k t).pending = s.pending
      ∧ (writeTag s k t).board = s.board
      ∧ (writeTag s k t).flt.grave = s.flt.grave := by
  simp [writeTag]

@[simp] theorem readTag_frame (s : State) (k : Nat) (spare : Bool) (by_ : Finder) :
    (readTag s k spare by_).2.2.2.pending = s.pending
      ∧ (readTag s k spare by_).2.2.2.board = s.board
      ∧ (readTag s k spare by_).2.2.2.flt.grave = s.flt.grave := by
  unfold readTag
  dsimp only
  (repeat' split) <;> (try dsimp only) <;> (repeat' split) <;> simp

@[simp] theorem writeWord_frame (s : State) (k d : Nat) (x : BitVec 56) :
    (writeWord s k d x).pending = s.pending
      ∧ (writeWord s k d x).board = s.board
      ∧ (writeWord s k d x).flt.grave = s.flt.grave := by
  simp [writeWord]

@[simp] theorem readWord_frame (s : State) (k d : Nat) (by_ : Finder) :
    (readWord s k d by_).2.2.2.pending = s.pending
      ∧ (readWord s k d by_).2.2.2.board = s.board
      ∧ (readWord s k d by_).2.2.2.flt.grave = s.flt.grave := by
  unfold readWord
  dsimp only
  (repeat' split) <;> (try dsimp only) <;> (repeat' split) <;> simp

@[simp] theorem checkWord_frame (s : State) (d sl : Nat) (w : BitVec 64) :
    (checkWord s d sl w).2.2.2.pending = s.pending
      ∧ (checkWord s d sl w).2.2.2.board = s.board
      ∧ (checkWord s d sl w).2.2.2.flt.grave = s.flt.grave := by
  unfold checkWord
  dsimp only
  (repeat' split) <;> (try dsimp only) <;> (repeat' split) <;> simp

@[simp] theorem useMem_frame (s : State) (m unit k : Nat) (d : Option Nat) (scope : Nat) :
    (useMem s m unit k d scope).2.2.pending = s.pending
      ∧ (useMem s m unit k d scope).2.2.board = s.board
      ∧ (useMem s m unit k d scope).2.2.flt.grave = s.flt.grave := by
  unfold useMem
  dsimp only
  (repeat' split) <;> (try dsimp only) <;> (repeat' split) <;> simp

@[simp] theorem storeLine_frame (s : State) (m unit k : Nat) (d : Option Nat) :
    (storeLine s m unit k d).pending = s.pending
      ∧ (storeLine s m unit k d).board = s.board
      ∧ (storeLine s m unit k d).flt.grave = s.flt.grave := by
  simp [storeLine]

@[simp] theorem useLine_frame (s : State) (m : Nat) (unit : Nat) (k : Nat) (d : Option Nat) :
    (useLine s m unit k d).2.2.pending = s.pending
      ∧ (useLine s m unit k d).2.2.board = s.board
      ∧ (useLine s m unit k d).2.2.flt.grave = s.flt.grave := by
  unfold useLine
  exact fx_fold (fun b : Bool × Line × State => b.2.2) _ (fun b c => by simp [State.fx]) _ _

@[simp] theorem useCfg_frame (s : State) (m key : Nat) (d : Option Nat) :
    (useCfg s m key d).2.pending = s.pending
      ∧ (useCfg s m key d).2.board = s.board
      ∧ (useCfg s m key d).2.flt.grave = s.flt.grave := by
  simp [useCfg]

@[simp] theorem useCfgs_frame (s : State) (d : Nat) (ks : List Nat) :
    (useCfgs s d ks).2.pending = s.pending ∧ (useCfgs s d ks).2.board = s.board
      ∧ (useCfgs s d ks).2.flt.grave = s.flt.grave := by
  induction ks generalizing s with
  | nil => simp [useCfgs]
  | cons k ks ih =>
    simp only [useCfgs]
    split <;> simp [ih]

@[simp] theorem useCosy_frame (s : State) (c : CosyItem) :
    (useCosy s c).2.pending = s.pending
      ∧ (useCosy s c).2.board = s.board
      ∧ (useCosy s c).2.flt.grave = s.flt.grave := by
  unfold useCosy
  dsimp only
  (repeat' split) <;> (try dsimp only) <;> (repeat' split) <;> simp

@[simp] theorem storeRegion_frame (s : State) (i d : Nat) :
    (storeRegion s i d).pending = s.pending
      ∧ (storeRegion s i d).board = s.board
      ∧ (storeRegion s i d).flt.grave = s.flt.grave := by
  simp [storeRegion]

@[simp] theorem useRegion_frame (s : State) (d i : Nat) :
    (useRegion s d i).2.pending = s.pending
      ∧ (useRegion s d i).2.board = s.board
      ∧ (useRegion s d i).2.flt.grave = s.flt.grave := by
  unfold useRegion
  dsimp only
  (repeat' split) <;> (try dsimp only) <;> (repeat' split) <;> simp

@[simp] theorem useRegions_frame (s : State) (d : Nat) (l : List Nat) :
    (useRegions s d l).2.pending = s.pending
      ∧ (useRegions s d l).2.board = s.board
      ∧ (useRegions s d l).2.flt.grave = s.flt.grave := by
  induction l generalizing s with
  | nil => simp [useRegions]
  | cons k rest ih =>
    simp only [useRegions]
    split <;> simp [ih]

@[simp] theorem strWay_frame (a : Agent) (l : LAddr) (x : StrFound × State) (w : Nat) :
    (strWay a l x w).2.pending = x.2.pending ∧ (strWay a l x w).2.board = x.2.board
      ∧ (strWay a l x w).2.flt.grave = x.2.flt.grave := by
  obtain ⟨r, s⟩ := x
  unfold strWay
  dsimp only
  (repeat' split) <;> (try dsimp only) <;> (repeat' split) <;> simp

@[simp] theorem strFind_frame (s : State) (a : Agent) (l : LAddr) :
    (strFind s a l).2.pending = s.pending
      ∧ (strFind s a l).2.board = s.board
      ∧ (strFind s a l).2.flt.grave = s.flt.grave := by
  have h := fx_fold (fun b : StrFound × State => b.2) (strWay a l) (fun b c => by simp [State.fx])
  unfold strFind
  dsimp only
  split
  · simp
  · split <;> simp [h]

@[simp] theorem strHolders_frame (s : State) (d : Nat) (l : LAddr) :
    (strHolders s d l).2.2.2.pending = s.pending
      ∧ (strHolders s d l).2.2.2.board = s.board
      ∧ (strHolders s d l).2.2.2.flt.grave = s.flt.grave := by
  unfold strHolders
  refine fx_fold (fun b : List (Nat × HSt) × Bool × Bool × State => b.2.2.2) _ ?_ _ _
  rintro ⟨hs, c, b, t⟩ n
  dsimp only
  split <;> simp [State.fx]

@[simp] theorem strFill_frame (s : State) (d dan : Nat) (a : Agent) (l : LAddr) (st : HSt) :
    (strFill s d dan a l st).pending = s.pending
      ∧ (strFill s d dan a l st).board = s.board
      ∧ (strFill s d dan a l st).flt.grave = s.flt.grave := by
  unfold strFill
  dsimp only
  (repeat' split) <;> (try dsimp only) <;> (repeat' split) <;> simp

@[simp] theorem strMark_frame (s : State) (a : Agent) (l : LAddr) (st : HSt) :
    (strMark s a l st).pending = s.pending
      ∧ (strMark s a l st).board = s.board
      ∧ (strMark s a l st).flt.grave = s.flt.grave := by
  unfold strMark
  dsimp only
  (repeat' split) <;> (try dsimp only) <;> (repeat' split) <;> simp

@[simp] theorem strClear_frame (s : State) (a : Agent) (l : LAddr) :
    (strClear s a l).pending = s.pending
      ∧ (strClear s a l).board = s.board
      ∧ (strClear s a l).flt.grave = s.flt.grave := by
  unfold strClear
  dsimp only
  (repeat' split) <;> (try dsimp only) <;> (repeat' split) <;> simp

@[simp] theorem noteAsk_frame (s : State) (p : Nat) (m : Msg) :
    (noteAsk s p m).pending = s.pending
      ∧ (noteAsk s p m).board = s.board
      ∧ (noteAsk s p m).flt.grave = s.flt.grave := by
  unfold noteAsk
  (repeat' split) <;> simp

@[simp] theorem placeAgent_frame (s : State) (p : Nat) (m : Msg) :
    (placeAgent s p m).pending = s.pending
      ∧ (placeAgent s p m).board = s.board
      ∧ (placeAgent s p m).flt.grave = s.flt.grave := by
  unfold placeAgent
  dsimp only
  (repeat' split) <;> (try dsimp only) <;> (repeat' split) <;> simp

@[simp] theorem placeSpan_frame (s : State) (t key : Nat) (placing : Bool) (m : Msg) :
    (placeSpan s t key placing m).pending = s.pending
      ∧ (placeSpan s t key placing m).board = s.board
      ∧ (placeSpan s t key placing m).flt.grave = s.flt.grave := by
  unfold placeSpan
  dsimp only
  (repeat' split) <;> (try dsimp only) <;> (repeat' split) <;> simp

@[simp] theorem sendAgent_frame (s : State) (d dan : Nat) (m : Msg) :
    (sendAgent s d dan m).pending = s.pending
      ∧ (sendAgent s d dan m).board = s.board
      ∧ (sendAgent s d dan m).flt.grave = s.flt.grave := by
  unfold sendAgent
  (repeat' split) <;> simp

@[simp] theorem answerReq_frame (s : State) (r : Req) (m : Msg) :
    (answerReq s r m).pending = s.pending
      ∧ (answerReq s r m).board = s.board
      ∧ (answerReq s r m).flt.grave = s.flt.grave := by
  unfold answerReq
  (repeat' split) <;> simp

@[simp] theorem nakReq_frame (s : State) (r : Req) (reason : Nat) (ticket : Option (BitVec 16)) :
    (nakReq s r reason ticket).pending = s.pending
      ∧ (nakReq s r reason ticket).board = s.board
      ∧ (nakReq s r reason ticket).flt.grave = s.flt.grave := by
  unfold nakReq
  (repeat' split) <;> simp

@[simp] theorem raiseProtocol_frame (s : State) (p : Nat) (d : Option Nat) (m : Msg) (l : LAddr) :
    (raiseProtocol s p d m l).pending = s.pending
      ∧ (raiseProtocol s p d m l).board = s.board
      ∧ (raiseProtocol s p d m l).flt.grave = s.flt.grave := by
  simp [raiseProtocol]

@[simp] theorem raisePoison_frame (s : State) (p : Nat) (m : Msg) (l : LAddr) :
    (raisePoison s p m l).pending = s.pending
      ∧ (raisePoison s p m l).board = s.board
      ∧ (raisePoison s p m l).flt.grave = s.flt.grave := by
  simp [raisePoison]

@[simp] theorem dropTrk_frame (s : State) (sl t : Nat) :
    (dropTrk s sl t).pending = s.pending
      ∧ (dropTrk s sl t).board = s.board
      ∧ (dropTrk s sl t).flt.grave = s.flt.grave := by
  simp [dropTrk]

@[simp] theorem putTrk_frame (s : State) (x : Tracker) :
    (putTrk s x).pending = s.pending
      ∧ (putTrk s x).board = s.board
      ∧ (putTrk s x).flt.grave = s.flt.grave := by
  unfold putTrk
  (repeat' split) <;> simp

@[simp] theorem sendMrq_frame (s : State) (d dan : Nat) (f : MrqF) (data : Line) :
    (sendMrq s d dan f data).pending = s.pending
      ∧ (sendMrq s d dan f data).board = s.board
      ∧ (sendMrq s d dan f data).flt.grave = s.flt.grave := by
  unfold sendMrq
  (repeat' split) <;> simp

@[simp] theorem trkMrq_frame (s : State) (x : Tracker) (dan : Nat) (f : MrqF) (data : Line) :
    (trkMrq s x dan f data).2.pending = s.pending
      ∧ (trkMrq s x dan f data).2.board = s.board
      ∧ (trkMrq s x dan f data).2.flt.grave = s.flt.grave := by
  unfold trkMrq
  dsimp only
  (repeat' split) <;> (try dsimp only) <;> (repeat' split) <;> simp

@[simp] theorem hubMrq_frame (s : State) (d dan : Nat) (op : MrqOp) (sz ofs : Nat) (l : LAddr) (sl : Nat) (poi : Bool)
    (data : Line) :
    (hubMrq s d dan op sz ofs l sl poi data).pending = s.pending
      ∧ (hubMrq s d dan op sz ofs l sl poi data).board = s.board
      ∧ (hubMrq s d dan op sz ofs l sl poi data).flt.grave = s.flt.grave := by
  simp [hubMrq]

@[simp] theorem touchWay_frame (s : State) (l : LAddr) (w : Nat) :
    (touchWay s l w).pending = s.pending
      ∧ (touchWay s l w).board = s.board
      ∧ (touchWay s l w).flt.grave = s.flt.grave := by
  simp [touchWay]

@[simp] theorem readSet_frame (s : State) (set : Nat) :
    (readSet s set).2.2.pending = s.pending
      ∧ (readSet s set).2.2.board = s.board
      ∧ (readSet s set).2.2.flt.grave = s.flt.grave := by
  unfold readSet
  exact fx_fold (fun b : List (BitVec 40) × Bool × State => b.2.2) _ (fun b c => by simp [State.fx]) _ _

@[simp] theorem dirLookup_frame (s : State) (d : Nat) (l : LAddr) :
    (dirLookup s d l).2.pending = s.pending
      ∧ (dirLookup s d l).2.board = s.board
      ∧ (dirLookup s d l).2.flt.grave = s.flt.grave := by
  have h := fx_fold (fun b : Option Nat × Bool × Bool × State => b.2.2.2)
    (fun (w?, corr, bad, s) i =>
      let (t, c, b, s) := readTag s (wayKey (dirSet l) (s.physWay i)) false .demand
      let hit := tagV t && tagDom t == d && tagAtag t == dirTag l && !b
      ((if hit then some i else w?), corr || c, bad || b, s))
    (by rintro ⟨w, c, b, t⟩ i; simp [State.fx]) (upto 16) ((none : Option Nat), false, false, s)
  unfold dirLookup
  dsimp only at h ⊢
  generalize List.foldl _ _ _ = q at h ⊢
  obtain ⟨w, c, b, t⟩ := q
  dsimp only at h ⊢
  (repeat' split) <;> simp [h]

@[simp] theorem setWord_frame (s : State) (x : Tracker) (w : BitVec 56) :
    (setWord s x w).2.pending = s.pending
      ∧ (setWord s x w).2.board = s.board
      ∧ (setWord s x w).2.flt.grave = s.flt.grave := by
  unfold setWord
  (repeat' split) <;> simp

@[simp] theorem dirMwr_frame (s : State) (d sl : Nat) (l : LAddr) (w : BitVec 56) :
    (dirMwr s d sl l w).pending = s.pending
      ∧ (dirMwr s d sl l w).board = s.board
      ∧ (dirMwr s d sl l w).flt.grave = s.flt.grave := by
  simp [dirMwr]

@[simp] theorem trkDirMwr_frame (s : State) (x : Tracker) (d : Nat) (l : LAddr) (w : BitVec 56) :
    (trkDirMwr s x d l w).pending = s.pending
      ∧ (trkDirMwr s x d l w).board = s.board
      ∧ (trkDirMwr s x d l w).flt.grave = s.flt.grave := by
  simp [trkDirMwr]

@[simp] theorem evict_frame (s : State) (x : Tracker) (k : Nat) (t : BitVec 40) :
    (evict s x k t).pending = s.pending
      ∧ (evict s x k t).board = s.board
      ∧ (evict s x k t).flt.grave = s.flt.grave := by
  unfold evict
  dsimp only
  (repeat' split) <;> (try dsimp only) <;> (repeat' split) <;> simp

@[simp] theorem dirFill_frame (s : State) (x : Tracker) (w : BitVec 56) (dirty : Bool) :
    (dirFill s x w dirty).2.2.pending = s.pending
      ∧ (dirFill s x w dirty).2.2.board = s.board
      ∧ (dirFill s x w dirty).2.2.flt.grave = s.flt.grave := by
  unfold dirFill
  dsimp only
  (repeat' split) <;> (try dsimp only) <;> (repeat' split) <;> simp

@[simp] theorem readVictim_frame (s : State) (v : Victim) :
    (readVictim s v).2.pending = s.pending
      ∧ (readVictim s v).2.board = s.board
      ∧ (readVictim s v).2.flt.grave = s.flt.grave := by
  unfold readVictim
  dsimp only
  (repeat' split) <;> (try dsimp only) <;> (repeat' split) <;> simp

@[simp] theorem sendSnoop_frame (s : State) (d cand : Nat) (f : SnpF) :
    (sendSnoop s d cand f).pending = s.pending
      ∧ (sendSnoop s d cand f).board = s.board
      ∧ (sendSnoop s d cand f).flt.grave = s.flt.grave := by
  unfold sendSnoop
  (repeat' split) <;> simp

@[simp] theorem snoop_frame (x : Tracker) (s : State) (r : Req) (cand : Nat) (op : SnpOp) (fmode : BitVec 2) :
    (snoop x s r cand op fmode).2.pending = s.pending
      ∧ (snoop x s r cand op fmode).2.board = s.board
      ∧ (snoop x s r cand op fmode).2.flt.grave = s.flt.grave := by
  unfold snoop
  dsimp only
  (repeat' split) <;> (try dsimp only) <;> (repeat' split) <;> simp

@[simp] theorem snoopAll_frame (x : Tracker) (s : State) (r : Req) (op : SnpOp) (cs : List Nat) :
    (snoopAll x s r op cs).2.pending = s.pending
      ∧ (snoopAll x s r op cs).2.board = s.board
      ∧ (snoopAll x s r op cs).2.flt.grave = s.flt.grave := by
  unfold snoopAll
  exact fx_fold (fun b : Tracker × State => b.2) _ (fun b c => by simp [State.fx]) cs (x, s)

@[simp] theorem useGot_frame (x : Tracker) (s : State) :
    (useGot x s).2.2.pending = s.pending
      ∧ (useGot x s).2.2.board = s.board
      ∧ (useGot x s).2.2.flt.grave = s.flt.grave := by
  unfold useGot
  dsimp only
  (repeat' split) <;> (try dsimp only) <;> (repeat' split) <;> simp

@[simp] theorem useData_frame (x : Tracker) (s : State) (r : Req) :
    (useData x s r).2.2.2.pending = s.pending
      ∧ (useData x s r).2.2.2.board = s.board
      ∧ (useData x s r).2.2.2.flt.grave = s.flt.grave := by
  simp [useData]

@[simp] theorem useHeld_frame (x : Tracker) (s : State) :
    (useHeld x s).2.2.pending = s.pending
      ∧ (useHeld x s).2.2.board = s.board
      ∧ (useHeld x s).2.2.flt.grave = s.flt.grave := by
  simp [useHeld]

@[simp] theorem storeGot_frame (s : State) (x : Tracker) :
    (storeGot s x).pending = s.pending
      ∧ (storeGot s x).board = s.board
      ∧ (storeGot s x).flt.grave = s.flt.grave := by
  simp [storeGot]

@[simp] theorem storeHeld_frame (s : State) (x : Tracker) :
    (storeHeld s x).pending = s.pending
      ∧ (storeHeld s x).board = s.board
      ∧ (storeHeld s x).flt.grave = s.flt.grave := by
  simp [storeHeld]

@[simp] theorem readLine_frame (x : Tracker) (s : State) (r : Req) :
    (readLine x s r).2.pending = s.pending
      ∧ (readLine x s r).2.board = s.board
      ∧ (readLine x s r).2.flt.grave = s.flt.grave := by
  unfold readLine
  dsimp only
  (repeat' split) <;> (try dsimp only) <;> (repeat' split) <;> simp

@[simp] theorem unheldData_frame (x : Tracker) (s : State) :
    (unheldData x s).2.pending = s.pending
      ∧ (unheldData x s).2.board = s.board
      ∧ (unheldData x s).2.flt.grave = s.flt.grave := by
  unfold unheldData
  (repeat' split) <;> simp

@[simp] theorem writeLine_frame (x : Tracker) (s : State) (h : Hdr) (data : Line) (poi : Bool) :
    (writeLine x s h data poi).2.pending = s.pending
      ∧ (writeLine x s h data poi).2.board = s.board
      ∧ (writeLine x s h data poi).2.flt.grave = s.flt.grave := by
  unfold writeLine
  dsimp only
  (repeat' split) <;> (try dsimp only) <;> (repeat' split) <;> simp

@[simp] theorem chainTail_frame (x : Tracker) (s : State) (r : Req) :
    (chainTail x s r).2.pending = s.pending
      ∧ (chainTail x s r).2.board = s.board
      ∧ (chainTail x s r).2.flt.grave = s.flt.grave := by
  unfold chainTail
  (repeat' split) <;> simp

@[simp] theorem chainStart_frame (x : Tracker) (s : State) (r : Req) (cs : List Nat) :
    (chainStart x s r cs).2.pending = s.pending
      ∧ (chainStart x s r cs).2.board = s.board
      ∧ (chainStart x s r cs).2.flt.grave = s.flt.grave := by
  unfold chainStart
  dsimp only
  (repeat' split) <;> (try dsimp only) <;> (repeat' split) <;> simp

@[simp] theorem recordGrant_frame (x : Tracker) (s : State) (r : Req) (g : BitVec 2) (clear : Bool) :
    (recordGrant x s r g clear).2.pending = s.pending
      ∧ (recordGrant x s r g clear).2.board = s.board
      ∧ (recordGrant x s r g clear).2.flt.grave = s.flt.grave := by
  unfold recordGrant
  (repeat' split) <;> simp

@[simp] theorem freeTrk_frame (s : State) (x : Tracker) :
    (freeTrk s x).pending = s.pending
      ∧ (freeTrk s x).board = s.board
      ∧ (freeTrk s x).flt.grave = s.flt.grave := by
  unfold freeTrk
  (repeat' split) <;> simp

@[simp] theorem settle_frame (x : Tracker) (s : State) :
    (settle x s).pending = s.pending
      ∧ (settle x s).board = s.board
      ∧ (settle x s).flt.grave = s.flt.grave := by
  unfold settle
  (repeat' split) <;> simp

@[simp] theorem predSet_frame (s : State) (sl i v : Nat) :
    (predSet s sl i v).pending = s.pending
      ∧ (predSet s sl i v).board = s.board
      ∧ (predSet s sl i v).flt.grave = s.flt.grave := by
  simp [predSet]

@[simp] theorem predRelease_frame (s : State) (x : Tracker) (n : Nat) (forced : Bool) :
    (predRelease s x n forced).pending = s.pending
      ∧ (predRelease s x n forced).board = s.board
      ∧ (predRelease s x n forced).flt.grave = s.flt.grave := by
  unfold predRelease
  (repeat' split) <;> simp

@[simp] theorem releaseLine_frame (s : State) (x : Tracker) (h : Hdr) (dirty : Bool) :
    (releaseLine s x h dirty).pending = s.pending
      ∧ (releaseLine s x h dirty).board = s.board
      ∧ (releaseLine s x h dirty).flt.grave = s.flt.grave := by
  unfold releaseLine
  (repeat' split) <;> simp

@[simp] theorem releaseHold_frame (s : State) (x : Tracker) :
    (releaseHold s x).pending = s.pending
      ∧ (releaseHold s x).board = s.board
      ∧ (releaseHold s x).flt.grave = s.flt.grave := by
  unfold releaseHold
  dsimp only
  (repeat' split) <;> (try dsimp only) <;> (repeat' split) <;> simp

@[simp] theorem grantWrite_frame (x : Tracker) (s : State) (r : Req) :
    (grantWrite x s r).2.2.pending = s.pending
      ∧ (grantWrite x s r).2.2.board = s.board
      ∧ (grantWrite x s r).2.2.flt.grave = s.flt.grave := by
  unfold grantWrite
  dsimp only
  (repeat' split) <;> (try dsimp only) <;> (repeat' split) <;> simp

@[simp] theorem holdLine_frame (s : State) (x : Tracker) (r : Req) (forced : Bool) :
    (holdLine s x r forced).pending = s.pending
      ∧ (holdLine s x r forced).board = s.board
      ∧ (holdLine s x r forced).flt.grave = s.flt.grave := by
  unfold holdLine
  dsimp only
  (repeat' split) <;> (try dsimp only) <;> (repeat' split) <;> simp

@[simp] theorem afterGrant_frame (s : State) (x : Tracker) (r : Req) (g : BitVec 2) :
    (afterGrant s x r g).pending = s.pending
      ∧ (afterGrant s x r g).board = s.board
      ∧ (afterGrant s x r g).flt.grave = s.flt.grave := by
  unfold afterGrant
  dsimp only
  (repeat' split) <;> (try dsimp only) <;> (repeat' split) <;> simp

@[simp] theorem useFinal_frame (x : Tracker) (s : State) (r : Req) :
    (useFinal x s r).2.2.2.pending = s.pending
      ∧ (useFinal x s r).2.2.2.board = s.board
      ∧ (useFinal x s r).2.2.2.flt.grave = s.flt.grave := by
  unfold useFinal
  dsimp only
  (repeat' split) <;> (try dsimp only) <;> (repeat' split) <;> simp

@[simp] theorem placeGrant_frame (s : State) (x : Tracker) (r : Req) :
    (placeGrant s x r).pending = s.pending
      ∧ (placeGrant s x r).board = s.board
      ∧ (placeGrant s x r).flt.grave = s.flt.grave := by
  unfold placeGrant
  dsimp only
  (repeat' split) <;> (try dsimp only) <;> (repeat' split) <;> simp

@[simp] theorem readyGrant_frame (s : State) (x : Tracker) (r : Req) :
    (readyGrant s x r).pending = s.pending
      ∧ (readyGrant s x r).board = s.board
      ∧ (readyGrant s x r).flt.grave = s.flt.grave := by
  unfold readyGrant
  dsimp only
  (repeat' split) <;> (try dsimp only) <;> (repeat' split) <;> simp

@[simp] theorem progress_frame (x : Tracker) (s : State) :
    (progress x s).pending = s.pending
      ∧ (progress x s).board = s.board
      ∧ (progress x s).flt.grave = s.flt.grave := by
  unfold progress
  dsimp only
  (repeat' split) <;> (try dsimp only) <;> (repeat' split) <;> simp

@[simp] theorem decideRead_frame (x : Tracker) (s : State) (r : Req) (hs : List Holder) (op : SnpOp) (paired : Bool) :
    (decideRead x s r hs op paired).2.pending = s.pending
      ∧ (decideRead x s r hs op paired).2.board = s.board
      ∧ (decideRead x s r hs op paired).2.flt.grave = s.flt.grave := by
  unfold decideRead
  (repeat' split) <;> simp

@[simp] theorem soRead_frame (x : Tracker) (s : State) (r : Req) (hs : List Holder) (op : SnpOp) (proxies
    : List Nat) :
    (soRead x s r hs op proxies).2.pending = s.pending
      ∧ (soRead x s r hs op proxies).2.board = s.board
      ∧ (soRead x s r hs op proxies).2.flt.grave = s.flt.grave := by
  simp [soRead]

@[simp] theorem decideOwn_frame (x : Tracker) (s : State) (r : Req) (hs : List Holder) (upg paired : Bool) :
    (decideOwn x s r hs upg paired).2.pending = s.pending
      ∧ (decideOwn x s r hs upg paired).2.board = s.board
      ∧ (decideOwn x s r hs upg paired).2.flt.grave = s.flt.grave := by
  unfold decideOwn
  dsimp only
  (repeat' split) <;> (try dsimp only) <;> (repeat' split) <;> simp

@[simp] theorem decideWrite_frame (x : Tracker) (s : State) (r : Req) (hs : List Holder) (rd paired : Bool) :
    (decideWrite x s r hs rd paired).2.pending = s.pending
      ∧ (decideWrite x s r hs rd paired).2.board = s.board
      ∧ (decideWrite x s r hs rd paired).2.flt.grave = s.flt.grave := by
  unfold decideWrite
  dsimp only
  (repeat' split) <;> (try dsimp only) <;> (repeat' split) <;> simp

@[simp] theorem decideFlow_frame (x : Tracker) (s : State) (r : Req) (all : List Holder) (so : List Nat) (paired : Bool) :
    (decideFlow x s r all so paired).pending = s.pending
      ∧ (decideFlow x s r all so paired).board = s.board
      ∧ (decideFlow x s r all so paired).flt.grave = s.flt.grave := by
  unfold decideFlow
  dsimp only
  (repeat' split) <;> (try dsimp only) <;> (repeat' split) <;> simp

@[simp] theorem passReserved_frame (s : State) (x : Tracker) (k : Nat) :
    (passReserved s x k).pending = s.pending
      ∧ (passReserved s x k).board = s.board
      ∧ (passReserved s x k).flt.grave = s.flt.grave := by
  unfold passReserved
  dsimp only
  (repeat' split) <;> (try dsimp only) <;> (repeat' split) <;> simp

@[simp] theorem quotaNak_frame (s : State) (r : Req) (sl : Nat) :
    (quotaNak s r sl).pending = s.pending
      ∧ (quotaNak s r sl).board = s.board
      ∧ (quotaNak s r sl).flt.grave = s.flt.grave := by
  unfold quotaNak
  dsimp only
  (repeat' split) <;> (try dsimp only) <;> (repeat' split) <;> simp

@[simp] theorem putMerge_frame (s : State) (m : Merge) :
    (putMerge s m).pending = s.pending
      ∧ (putMerge s m).board = s.board
      ∧ (putMerge s m).flt.grave = s.flt.grave := by
  simp [putMerge]

@[simp] theorem useMerge_frame (s : State) (m : Merge) :
    (useMerge s m).2.2.pending = s.pending
      ∧ (useMerge s m).2.2.board = s.board
      ∧ (useMerge s m).2.2.flt.grave = s.flt.grave := by
  simp [useMerge]

@[simp] theorem startDrain_frame (s : State) (i : Nat) :
    (startDrain s i).pending = s.pending
      ∧ (startDrain s i).board = s.board
      ∧ (startDrain s i).flt.grave = s.flt.grave := by
  unfold startDrain
  dsimp only
  (repeat' split) <;> (try dsimp only) <;> (repeat' split) <;> simp

@[simp] theorem enterBytes_frame (s : State) (x : Tracker) (r : Req) (bytes : BitVec 64) :
    (enterBytes s x r bytes).2.2.pending = s.pending
      ∧ (enterBytes s x r bytes).2.2.board = s.board
      ∧ (enterBytes s x r bytes).2.2.flt.grave = s.flt.grave := by
  unfold enterBytes
  dsimp only
  (repeat' split) <;> (try dsimp only) <;> (repeat' split) <;> simp

@[simp] theorem enterMerge_frame (s : State) (x : Tracker) (r : Req) (bytes : BitVec 64) :
    (enterMerge s x r bytes).pending = s.pending
      ∧ (enterMerge s x r bytes).board = s.board
      ∧ (enterMerge s x r bytes).flt.grave = s.flt.grave := by
  unfold enterMerge
  dsimp only
  (repeat' split) <;> (try dsimp only) <;> (repeat' split) <;> simp

@[simp] theorem waitDrain_frame (s : State) (x : Tracker) (i : Nat) :
    (waitDrain s x i).pending = s.pending
      ∧ (waitDrain s x i).board = s.board
      ∧ (waitDrain s x i).flt.grave = s.flt.grave := by
  simp [waitDrain]

@[simp] theorem mergeWrite_frame (s : State) (x : Tracker) (r : Req) (bytes : BitVec 64) :
    (mergeWrite s x r bytes).pending = s.pending
      ∧ (mergeWrite s x r bytes).board = s.board
      ∧ (mergeWrite s x r bytes).flt.grave = s.flt.grave := by
  unfold mergeWrite
  dsimp only
  (repeat' split) <;> (try dsimp only) <;> (repeat' split) <;> simp

@[simp] theorem ncStart_frame (s : State) (x : Tracker) (r : Req) :
    (ncStart s x r).pending = s.pending
      ∧ (ncStart s x r).board = s.board
      ∧ (ncStart s x r).flt.grave = s.flt.grave := by
  unfold ncStart
  dsimp only
  (repeat' split) <;> (try dsimp only) <;> (repeat' split) <;> simp

@[simp] theorem ncLookup_frame (s : State) (x : Tracker) (r : Req) (rt : RType) :
    (ncLookup s x r rt).pending = s.pending
      ∧ (ncLookup s x r rt).board = s.board
      ∧ (ncLookup s x r rt).flt.grave = s.flt.grave := by
  unfold ncLookup
  dsimp only
  (repeat' split) <;> (try dsimp only) <;> (repeat' split) <;> simp

@[simp] theorem decideWord_frame (s : State) (x : Tracker) (r : Req) (w : BitVec 56) (hs : List (Nat × HSt))
    (paired : Bool) :
    (decideWord s x r w hs paired).pending = s.pending
      ∧ (decideWord s x r w hs paired).board = s.board
      ∧ (decideWord s x r w hs paired).flt.grave = s.flt.grave := by
  unfold decideWord
  (repeat' split) <;> simp

@[simp] theorem coLookup_frame (s : State) (x : Tracker) (r : Req) :
    (coLookup s x r).pending = s.pending
      ∧ (coLookup s x r).board = s.board
      ∧ (coLookup s x r).flt.grave = s.flt.grave := by
  unfold coLookup
  dsimp only
  have h := strHolders_frame s x.dom x.laddr
  generalize strHolders s x.dom x.laddr = q at h ⊢
  obtain ⟨hs, c1, b1, t⟩ := q
  dsimp only at h ⊢
  have h2 := dirLookup_frame t x.dom x.laddr
  generalize dirLookup t x.dom x.laddr = q at h2 ⊢
  obtain ⟨f, t2⟩ := q
  dsimp only at h2 ⊢
  split
  · simp [h, h2]
  · split
    · split <;> simp [h, h2]
    · split
      · rename_i v _
        have h3 := readVictim_frame (statAdd t2 x.dom 4) v
        split
        · rename_i e; rw [e] at h3; simpa [h, h2] using h3
        · rename_i e; rw [e] at h3
          split <;> simpa [h, h2] using h3
      · split <;> simp [h, h2]

@[simp] theorem soLookup_frame (s : State) (x : Tracker) (r : Req) :
    (soLookup s x r).pending = s.pending
      ∧ (soLookup s x r).board = s.board
      ∧ (soLookup s x r).flt.grave = s.flt.grave := by
  unfold soLookup
  have h := strHolders_frame s x.dom x.laddr
  generalize strHolders s x.dom x.laddr = q at h ⊢
  obtain ⟨hs, c1, b1, t⟩ := q
  dsimp only at h ⊢
  (repeat' split) <;> simp [h]

@[simp] theorem serve_frame (s : State) (x : Tracker) (r : Req) (rt : RType) :
    (serve s x r rt).pending = s.pending
      ∧ (serve s x r rt).board = s.board
      ∧ (serve s x r rt).flt.grave = s.flt.grave := by
  unfold serve
  dsimp only
  (repeat' split) <;> (try dsimp only) <;> (repeat' split) <;> simp

@[simp] theorem inBuffer_frame (s : State) (x : Tracker) (r : Req) :
    (inBuffer s x r).pending = s.pending
      ∧ (inBuffer s x r).board = s.board
      ∧ (inBuffer s x r).flt.grave = s.flt.grave := by
  unfold inBuffer
  dsimp only
  (repeat' split) <;> (try dsimp only) <;> (repeat' split) <;> simp

@[simp] theorem conflict_frame (s : State) (r : Req) (x : Tracker) :
    (conflict s r x).pending = s.pending
      ∧ (conflict s r x).board = s.board
      ∧ (conflict s r x).flt.grave = s.flt.grave := by
  unfold conflict
  dsimp only
  (repeat' split) <;> (try dsimp only) <;> (repeat' split) <;> simp

@[simp] theorem lookup_frame (s : State) (r : Req) (rt : RType) :
    (lookup s r rt).pending = s.pending
      ∧ (lookup s r rt).board = s.board
      ∧ (lookup s r rt).flt.grave = s.flt.grave := by
  unfold lookup
  dsimp only
  (repeat' split) <;> (try dsimp only) <;> (repeat' split) <;> simp

@[simp] theorem homeReq_frame (s : State) (r : Req) :
    (homeReq s r).pending = s.pending
      ∧ (homeReq s r).board = s.board
      ∧ (homeReq s r).flt.grave = s.flt.grave := by
  unfold homeReq
  dsimp only
  (repeat' split) <;> (try dsimp only) <;> (repeat' split) <;> simp

@[simp] theorem wbCmp_frame (s : State) (w : WbEntry) :
    (wbCmp s w).pending = s.pending ∧ (wbCmp s w).board = s.board ∧ (wbCmp s w).flt.grave = s.flt.grave := by
  unfold wbCmp
  (repeat' split) <;> simp

@[simp] theorem wbLeave_frame (s : State) (w : WbEntry) :
    (wbLeave s w).2.2.pending = s.pending
      ∧ (wbLeave s w).2.2.board = s.board
      ∧ (wbLeave s w).2.2.flt.grave = s.flt.grave := by
  unfold wbLeave
  dsimp only
  (repeat' split) <;> (try dsimp only) <;> (repeat' split) <;> simp

@[simp] theorem wbProtocol_frame (s : State) (w : WbEntry) :
    (wbProtocol s w).pending = s.pending
      ∧ (wbProtocol s w).board = s.board
      ∧ (wbProtocol s w).flt.grave = s.flt.grave := by
  simp [wbProtocol]

@[simp] theorem wbWord_frame (s : State) (x : Tracker) (w : WbEntry) :
    (wbWord s x w).2.2.pending = s.pending
      ∧ (wbWord s x w).2.2.board = s.board
      ∧ (wbWord s x w).2.2.flt.grave = s.flt.grave := by
  unfold wbWord
  dsimp only
  (repeat' split) <;> (try dsimp only) <;> (repeat' split) <;> simp

@[simp] theorem wbFinish_frame (s : State) (x : Tracker) (w : WbEntry) (good : Bool) :
    (wbFinish s x w good).pending = s.pending
      ∧ (wbFinish s x w good).board = s.board
      ∧ (wbFinish s x w good).flt.grave = s.flt.grave := by
  unfold wbFinish
  dsimp only
  (repeat' split) <;> (try dsimp only) <;> (repeat' split) <;> simp

@[simp] theorem wbApply_frame (s : State) (x : Tracker) (w : WbEntry) :
    (wbApply s x w).pending = s.pending
      ∧ (wbApply s x w).board = s.board
      ∧ (wbApply s x w).flt.grave = s.flt.grave := by
  unfold wbApply
  dsimp only
  (repeat' split) <;> (try dsimp only) <;> (repeat' split) <;> simp

@[simp] theorem wbLookup_frame (s : State) (x : Tracker) (w : WbEntry) :
    (wbLookup s x w).pending = s.pending
      ∧ (wbLookup s x w).board = s.board
      ∧ (wbLookup s x w).flt.grave = s.flt.grave := by
  unfold wbLookup
  dsimp only
  have h2 := dirLookup_frame s x.dom w.laddr
  generalize dirLookup s x.dom w.laddr = q at h2 ⊢
  obtain ⟨f, t2⟩ := q
  dsimp only at h2 ⊢
  split
  · simp [h2]
  · split
    · simp [h2]
    · split
      · rename_i v _
        have h3 := readVictim_frame t2 v
        split
        · rename_i e; rw [e] at h3; simpa [h2] using h3
        · rename_i e; rw [e] at h3
          split <;> simpa [h2] using h3
      · simp [h2]

@[simp] theorem useWbCfg_frame (s : State) (w : WbEntry) :
    (useWbCfg s w).2.pending = s.pending
      ∧ (useWbCfg s w).2.board = s.board
      ∧ (useWbCfg s w).2.flt.grave = s.flt.grave := by
  unfold useWbCfg
  dsimp only
  (repeat' split) <;> (try dsimp only) <;> (repeat' split) <;> simp

@[simp] theorem wbTake_frame (s : State) (w : WbEntry) (sl t : Nat) :
    (wbTake s w sl t).pending = s.pending
      ∧ (wbTake s w sl t).board = s.board
      ∧ (wbTake s w sl t).flt.grave = s.flt.grave := by
  unfold wbTake
  dsimp only
  (repeat' split) <;> (try dsimp only) <;> (repeat' split) <;> simp

@[simp] theorem takeWbm_frame (x : Tracker) (s : State) (c : Nat) (data : Line) :
    (takeWbm x s c data).pending = s.pending
      ∧ (takeWbm x s c data).board = s.board
      ∧ (takeWbm x s c data).flt.grave = s.flt.grave := by
  unfold takeWbm
  dsimp only
  (repeat' split) <;> (try dsimp only) <;> (repeat' split) <;> simp

@[simp] theorem absorbDrain_frame (s : State) (x : Tracker) (w : WbEntry) :
    (absorbDrain s x w).pending = s.pending
      ∧ (absorbDrain s x w).board = s.board
      ∧ (absorbDrain s x w).flt.grave = s.flt.grave := by
  unfold absorbDrain
  dsimp only
  (repeat' split) <;> (try dsimp only) <;> (repeat' split) <;> simp

@[simp] theorem absorb_frame (s : State) (x : Tracker) (w : WbEntry) :
    (absorb s x w).pending = s.pending
      ∧ (absorb s x w).board = s.board
      ∧ (absorb s x w).flt.grave = s.flt.grave := by
  unfold absorb
  dsimp only
  (repeat' split) <;> (try dsimp only) <;> (repeat' split) <;> simp

@[simp] theorem wbTry_frame (s : State) (w : WbEntry) :
    (wbTry s w).pending = s.pending
      ∧ (wbTry s w).board = s.board
      ∧ (wbTry s w).flt.grave = s.flt.grave := by
  unfold wbTry
  dsimp only
  (repeat' split) <;> (try dsimp only) <;> (repeat' split) <;> simp

@[simp] theorem serveStore_frame (s : State) :
    (serveStore s).pending = s.pending
      ∧ (serveStore s).board = s.board
      ∧ (serveStore s).flt.grave = s.flt.grave := by
  simp [serveStore]

@[simp] theorem decideLate_frame (s : State) (x : Tracker) (r : Req) (w : BitVec 56) (hs : List (Nat × HSt))
    (paired : Bool) :
    (decideLate s x r w hs paired).pending = s.pending
      ∧ (decideLate s x r w hs paired).board = s.board
      ∧ (decideLate s x r w hs paired).flt.grave = s.flt.grave := by
  unfold decideLate
  dsimp only
  (repeat' split) <;> (try dsimp only) <;> (repeat' split) <;> simp

@[simp] theorem wordReady_frame (s : State) (x : Tracker) (w : BitVec 56) :
    (wordReady s x w).pending = s.pending
      ∧ (wordReady s x w).board = s.board
      ∧ (wordReady s x w).flt.grave = s.flt.grave := by
  unfold wordReady
  dsimp only
  (repeat' split) <;> (try dsimp only) <;> (repeat' split) <;> simp

@[simp] theorem onWord_frame (s : State) (x : Tracker) (poi : Bool) (data : Line) :
    (onWord s x poi data).pending = s.pending
      ∧ (onWord s x poi data).board = s.board
      ∧ (onWord s x poi data).flt.grave = s.flt.grave := by
  unfold onWord
  dsimp only
  (repeat' split) <;> (try dsimp only) <;> (repeat' split) <;> simp

@[simp] theorem onLine_frame (s : State) (x : Tracker) (poi : Bool) (data : Line) :
    (onLine s x poi data).pending = s.pending
      ∧ (onLine s x poi data).board = s.board
      ∧ (onLine s x poi data).flt.grave = s.flt.grave := by
  unfold onLine
  extract_lets x1 x2 x3 t
  split
  · split <;> simp
  · have ht : t.pending = s.pending ∧ t.board = s.board ∧ t.flt.grave = s.flt.grave := by simp [t]
    clear_value t
    split
    · have h3 := useGot_frame x3 t
      generalize useGot x3 t = q at h3 ⊢
      obtain ⟨b, y, u⟩ := q
      dsimp only at h3 ⊢
      cases b
      · rename_i r _ _
        have h4 := useData_frame y u r
        generalize useData y u r = q at h4 ⊢
        obtain ⟨b, y, r', v⟩ := q
        dsimp only at h4 ⊢
        cases b <;> simp [h3, h4, ht]
      · simp [h3, ht]
    · simp [ht]

@[simp] theorem onMat_frame (s : State) (x : Tracker) (poi : Bool) (data : Line) :
    (onMat s x poi data).pending = s.pending
      ∧ (onMat s x poi data).board = s.board
      ∧ (onMat s x poi data).flt.grave = s.flt.grave := by
  simp [onMat]

@[simp] theorem onMcp_frame (s : State) (x : Tracker) :
    (onMcp s x).pending = s.pending ∧ (onMcp s x).board = s.board ∧ (onMcp s x).flt.grave = s.flt.grave := by
  unfold onMcp
  dsimp only
  (repeat' split) <;> (try dsimp only) <;> (repeat' split) <;> simp

@[simp] theorem onSrf_frame (s : State) (x : Tracker) (r : Req) :
    (onSrf s x r).pending = s.pending
      ∧ (onSrf s x r).board = s.board
      ∧ (onSrf s x r).flt.grave = s.flt.grave := by
  unfold onSrf
  dsimp only
  (repeat' split) <;> (try dsimp only) <;> (repeat' split) <;> simp

@[simp] theorem chainOn_frame (x : Tracker) (s : State) (r : Req) (cand : Nat) (snf : Bool) :
    (chainOn x s r cand snf).pending = s.pending
      ∧ (chainOn x s r cand snf).board = s.board
      ∧ (chainOn x s r cand snf).flt.grave = s.flt.grave := by
  unfold chainOn
  dsimp only
  (repeat' split) <;> (try dsimp only) <;> (repeat' split) <;> simp

@[simp] theorem homeAnswer_frame (s : State) (x : Tracker) (r : Req) (op : AnsOp) (cand : Nat) (nst :
    BitVec 2) (poi : Bool) (data : Line) :
    (homeAnswer s x r op cand nst poi data).pending = s.pending
      ∧ (homeAnswer s x r op cand nst poi data).board = s.board
      ∧ (homeAnswer s x r op cand nst poi data).flt.grave = s.flt.grave := by
  unfold homeAnswer
  dsimp only
  (repeat' split) <;> (try dsimp only) <;> (repeat' split) <;> simp

@[simp] theorem proxyReply_frame (s : State) (p : Nat) (f : SnpF) (op : AnsOp) (nst : BitVec 2) (poi : Bool) (data : Line) :
    (proxyReply s p f op nst poi data).pending = s.pending
      ∧ (proxyReply s p f op nst poi data).board = s.board
      ∧ (proxyReply s p f op nst poi data).flt.grave = s.flt.grave := by
  simp [proxyReply]

@[simp] theorem proxySnoop_frame (s : State) (p : Nat) (f : SnpF) :
    (proxySnoop s p f).pending = s.pending
      ∧ (proxySnoop s p f).board = s.board
      ∧ (proxySnoop s p f).flt.grave = s.flt.grave := by
  have hf : ∀ (d : Nat) (g : SnpF) (l : List Nat) (s : State),
      (l.foldl (fun s n => sendAgent (statAdd s d 5) d n (.snp g)) s).fx = s.fx :=
    fun d g => foldl_proj State.fx _ (fun b c => by simp [State.fx])
  have ht : ∀ (tg : List Nat) (u : State), (if tg.isEmpty = true then proxyReply u p f .srm 0 false 0
      else tg.foldl (fun s n => sendAgent (statAdd s f.h.dom.toNat 5) f.h.dom.toNat n
          (.snp { f with proxy := false }))
        (u.updHome fun h => { h with proxies := h.proxies ++ [⟨p, f, tg, none, 0, false⟩] })).fx = u.fx := by
    intro tg u
    split
    · simp [State.fx]
    · rw [hf]; simp [State.fx]
  unfold proxySnoop
  dsimp only
  have h := useCfgs_frame s f.h.dom.toNat [keyMap f.h.dom.toNat f.h.dan.toNat, keyProx f.h.dom.toNat f.h.dan.toNat]
  generalize useCfgs s f.h.dom.toNat [keyMap f.h.dom.toNat f.h.dan.toNat, keyProx f.h.dom.toNat f.h.dan.toNat] = q at h ⊢
  obtain ⟨b, t⟩ := q
  dsimp only at h ⊢
  have h2 := strHolders_frame t f.h.dom.toNat f.laddr
  generalize strHolders t f.h.dom.toNat f.laddr = q at h2 ⊢
  obtain ⟨hs, c1, b1, u⟩ := q
  dsimp only at h2 ⊢
  split
  · simp [h, h2]
  · exact fx_of ((ht _ _).trans (by simp [State.fx, h, h2]))

@[simp] theorem proxyAnswer_frame (s : State) (x : Proxy) (op : AnsOp) (dan : Nat) (poi : Bool) (data : Line) :
    (proxyAnswer s x op dan poi data).pending = s.pending
      ∧ (proxyAnswer s x op dan poi data).board = s.board
      ∧ (proxyAnswer s x op dan poi data).flt.grave = s.flt.grave := by
  unfold proxyAnswer
  dsimp only
  split
  · have h := strHolders_frame (s.updHome fun h => { h with proxies := h.proxies.erase x }) x.f.h.dom.toNat x.f.laddr
    generalize strHolders _ x.f.h.dom.toNat x.f.laddr = q at h ⊢
    obtain ⟨hs, c1, b1, t⟩ := q
    dsimp only at h ⊢
    split <;> simp [h]
  · simp

@[simp] theorem retryHeld_frame (s : State) (x : Tracker) :
    (retryHeld s x).pending = s.pending
      ∧ (retryHeld s x).board = s.board
      ∧ (retryHeld s x).flt.grave = s.flt.grave := by
  have h := fx_fold (fun b : List (Nat × SnpF) × State => b.2)
    (fun (b : List (Nat × SnpF) × State) (e : Nat × SnpF) =>
      if recordHolds b.2 x.sl x.dom x.laddr e.1 || (e.2.op == .snf && recordsFull b.2 x.sl) then
        (b.1 ++ [e], b.2) else (b.1, sendSnoop b.2 x.dom e.1 e.2))
    (fun b c => by split <;> simp [State.fx])
  unfold retryHeld
  dsimp only
  split
  · exact h _ _
  · split
    · simpa using h _ _
    · exact h _ _

@[simp] theorem retryAllHeld_frame (s : State) :
    (retryAllHeld s).pending = s.pending
      ∧ (retryAllHeld s).board = s.board
      ∧ (retryAllHeld s).flt.grave = s.flt.grave := by
  simp [retryAllHeld]

@[simp] theorem homeDfw_frame (s : State) (p : Nat) (f : DatF) (data : Line) :
    (homeDfw s p f data).pending = s.pending
      ∧ (homeDfw s p f data).board = s.board
      ∧ (homeDfw s p f data).flt.grave = s.flt.grave := by
  unfold homeDfw
  dsimp only
  (repeat' split) <;> (try dsimp only) <;> (repeat' split) <;> simp

@[simp] theorem readMb_frame (s : State) (i : Nat) :
    (readMb s i).2.2.pending = s.pending
      ∧ (readMb s i).2.2.board = s.board
      ∧ (readMb s i).2.2.flt.grave = s.flt.grave := by
  unfold readMb
  dsimp only
  (repeat' split) <;> (try dsimp only) <;> (repeat' split) <;> simp

@[simp] theorem readFw_frame (s : State) (i : Nat) :
    (readFw s i).2.pending = s.pending
      ∧ (readFw s i).2.board = s.board
      ∧ (readFw s i).2.flt.grave = s.flt.grave := by
  unfold readFw
  dsimp only
  (repeat' split) <;> (try dsimp only) <;> (repeat' split) <;> simp

@[simp] theorem useMbWords_frame (s : State) (m i n : Nat) :
    (useMbWords s m i n).2.pending = s.pending
      ∧ (useMbWords s m i n).2.board = s.board
      ∧ (useMbWords s m i n).2.flt.grave = s.flt.grave := by
  unfold useMbWords
  exact fx_fold (fun b : Bool × State => b.2) _ (fun b c => by simp [State.fx]) _ _

@[simp] theorem readWindow_frame (s : State) (m o n : Nat) :
    (readWindow s m o n).2.pending = s.pending
      ∧ (readWindow s m o n).2.board = s.board
      ∧ (readWindow s m o n).2.flt.grave = s.flt.grave := by
  simp [readWindow]

@[simp] theorem writeByte_frame (s : State) (m o : Nat) (b : Byte) :
    (writeByte s m o b).pending = s.pending
      ∧ (writeByte s m o b).board = s.board
      ∧ (writeByte s m o b).flt.grave = s.flt.grave := by
  simp [writeByte]

@[simp] theorem writeWindow_frame (s : State) (m o : Nat) (bs : List Byte) :
    (writeWindow s m o bs).pending = s.pending
      ∧ (writeWindow s m o bs).board = s.board
      ∧ (writeWindow s m o bs).flt.grave = s.flt.grave := by
  unfold writeWindow
  dsimp only
  have h1 := fx_fold id (fun (s : State) i => (readMb s i).2.2) (fun b c => by simp [State.fx])
  have h2 := fx_fold (fun b : State × Nat => b.1) (fun (s, k) (b : Byte) => (writeByte s m (o + k) b, k + 1))
    (by rintro ⟨t, k⟩ b; simp [State.fx])
  dsimp only [id] at h1 h2
  refine ⟨(h2 _ _).1.trans ?_, (h2 _ _).2.1.trans ?_, (h2 _ _).2.2.trans ?_⟩ <;> simp [h1]

@[simp] theorem lockClaim_frame (s : State) (d : Nat) (who : BitVec 7) :
    (lockClaim s d who).2.pending = s.pending
      ∧ (lockClaim s d who).2.board = s.board
      ∧ (lockClaim s d who).2.flt.grave = s.flt.grave := by
  unfold lockClaim
  (repeat' split) <;> simp

@[simp] theorem lockRelease_frame (s : State) (d : Nat) (who : BitVec 7) :
    (lockRelease s d who).pending = s.pending
      ∧ (lockRelease s d who).board = s.board
      ∧ (lockRelease s d who).flt.grave = s.flt.grave := by
  simp [lockRelease]

@[simp] theorem mbIgnore_frame (s : State) (m : Nat) (who : BitVec 7) :
    (mbIgnore s m who).pending = s.pending
      ∧ (mbIgnore s m who).board = s.board
      ∧ (mbIgnore s m who).flt.grave = s.flt.grave := by
  simp [mbIgnore]

@[simp] theorem windowWrite_frame (s : State) (m : Nat) (who : BitVec 7) (o : Nat) (bs : List Byte) :
    (windowWrite s m who o bs).pending = s.pending
      ∧ (windowWrite s m who o bs).board = s.board
      ∧ (windowWrite s m who o bs).flt.grave = s.flt.grave := by
  unfold windowWrite
  (repeat' split) <;> simp

@[simp] theorem mbStateWrite_frame (s : State) (m v : Nat) :
    (mbStateWrite s m v).pending = s.pending
      ∧ (mbStateWrite s m v).board = s.board
      ∧ (mbStateWrite s m v).flt.grave = s.flt.grave := by
  simp [mbStateWrite]

@[simp] theorem bktWrite_frame (s : State) (m : Nat) (p : Part) (v : BitVec 64) :
    (bktWrite s m p v).pending = s.pending
      ∧ (bktWrite s m p v).board = s.board
      ∧ (bktWrite s m p v).flt.grave = s.flt.grave := by
  unfold bktWrite
  (repeat' split) <;> simp

@[simp] theorem flipWrite_frame (s : State) (v : BitVec 32) :
    (flipWrite s v).pending = s.pending
      ∧ (flipWrite s v).board = s.board
      ∧ (flipWrite s v).flt.grave = s.flt.grave := by
  unfold flipWrite
  (repeat' split) <;> simp

@[simp] theorem injWrite_frame (s : State) (v : BitVec 32) :
    (injWrite s v).pending = s.pending
      ∧ (injWrite s v).board = s.board
      ∧ (injWrite s v).flt.grave = s.flt.grave := by
  simp [injWrite]

@[simp] theorem rawCheck_frame (s : State) :
    (rawCheck s).pending = s.pending
      ∧ (rawCheck s).board = s.board
      ∧ (rawCheck s).flt.grave = s.flt.grave := by
  have u : ∀ (t : State) f, (t.updInteg f).fx = t.fx := fun t f => rfl
  have h : ∀ v, (if rawMail v then (match readMb s (rawIdx v) with | (c, _, s) => (c, s))
      else readFw s (rawIdx v)).2.fx = s.fx := fun v => by split <;> simp [State.fx]
  apply fx_of
  unfold rawCheck
  extract_lets v
  split
  · rfl
  · specialize h v
    generalize (if rawMail v then (match readMb s (rawIdx v) with | (c, _, s) => (c, s))
      else readFw s (rawIdx v)) = q at h ⊢
    obtain ⟨c, t⟩ := q
    split
    rename_i c' t' e
    cases e
    split
    exact (u _ _).trans h

@[simp] theorem rawCtlWrite_frame (s : State) (v : BitVec 32) :
    (rawCtlWrite s v).pending = s.pending
      ∧ (rawCtlWrite s v).board = s.board
      ∧ (rawCtlWrite s v).flt.grave = s.flt.grave := by
  unfold rawCtlWrite
  (repeat' split) <;> simp

@[simp] theorem rawStore_frame (s : State) (f : BitVec 39 → BitVec 39) :
    (rawStore s f).pending = s.pending
      ∧ (rawStore s f).board = s.board
      ∧ (rawStore s f).flt.grave = s.flt.grave := by
  unfold rawStore
  dsimp only
  (repeat' split) <;> (try dsimp only) <;> (repeat' split) <;> simp

@[simp] theorem rawDataWrite_frame (s : State) (v : BitVec 32) :
    (rawDataWrite s v).pending = s.pending
      ∧ (rawDataWrite s v).board = s.board
      ∧ (rawDataWrite s v).flt.grave = s.flt.grave := by
  simp [rawDataWrite]

@[simp] theorem rawChkbWrite_frame (s : State) (v : BitVec 32) :
    (rawChkbWrite s v).pending = s.pending
      ∧ (rawChkbWrite s v).board = s.board
      ∧ (rawChkbWrite s v).flt.grave = s.flt.grave := by
  simp [rawChkbWrite]

@[simp] theorem statusClear_frame (s : State) (mask : Nat) :
    (statusClear s mask).pending = s.pending
      ∧ (statusClear s mask).board = s.board
      ∧ (statusClear s mask).flt.grave = s.flt.grave := by
  simp [statusClear]

@[simp] theorem missedClear_frame (s : State) (mask : Nat) :
    (missedClear s mask).pending = s.pending
      ∧ (missedClear s mask).board = s.board
      ∧ (missedClear s mask).flt.grave = s.flt.grave := by
  simp [missedClear]

@[simp] theorem platWrite_frame (s : State) (o : Nat) (p : Part) (v : BitVec 64) :
    (platWrite s o p v).pending = s.pending
      ∧ (platWrite s o p v).board = s.board
      ∧ (platWrite s o p v).flt.grave = s.flt.grave := by
  unfold platWrite
  (repeat' split) <;> simp

@[simp] theorem pllStart_frame (s : State) :
    (pllStart s).pending = s.pending
      ∧ (pllStart s).board = s.board
      ∧ (pllStart s).flt.grave = s.flt.grave := by
  unfold pllStart
  (repeat' split) <;> simp

@[simp] theorem netUpdate_frame (s : State) :
    (netUpdate s).pending = s.pending
      ∧ (netUpdate s).board = s.board
      ∧ (netUpdate s).flt.grave = s.flt.grave := by
  unfold netUpdate
  dsimp only
  (repeat' split) <;> (try dsimp only) <;> (repeat' split) <;> simp

@[simp] theorem beginExit_frame (s : State) (p : Nat) :
    (beginExit s p).pending = s.pending
      ∧ (beginExit s p).board = s.board
      ∧ (beginExit s p).flt.grave = s.flt.grave := by
  simp [beginExit]

@[simp] theorem beginExits_frame (s : State) :
    (beginExits s).pending = s.pending
      ∧ (beginExits s).board = s.board
      ∧ (beginExits s).flt.grave = s.flt.grave := by
  simp [beginExits]

@[simp] theorem addCause_frame (s : State) (c : Nat) :
    (addCause s c).pending = s.pending
      ∧ (addCause s c).board = s.board
      ∧ (addCause s c).flt.grave = s.flt.grave := by
  simp [addCause]

@[simp] theorem wakeSteep_frame (s : State) (cause : Nat) :
    (wakeSteep s cause).pending = s.pending
      ∧ (wakeSteep s cause).board = s.board
      ∧ (wakeSteep s cause).flt.grave = s.flt.grave := by
  simp [wakeSteep]

@[simp] theorem wakeDormant_frame (s : State) (cause : Nat) :
    (wakeDormant s cause).pending = s.pending
      ∧ (wakeDormant s cause).board = s.board
      ∧ (wakeDormant s cause).flt.grave = s.flt.grave := by
  unfold wakeDormant
  have h := fun (s : State) => fx_fold id (fun s p => s.updLink p fun l =>
    if l.upAtDormant then { l with st := .training, wakeTrain := true, upAtDormant := false } else l) (fun b c => by simp [State.fx]) allPorts s
  dsimp only [id] at h ⊢
  simp [h]

@[simp] theorem wake_frame (s : State) (cause : Nat) :
    (wake s cause).pending = s.pending
      ∧ (wake s cause).board = s.board
      ∧ (wake s cause).flt.grave = s.flt.grave := by
  unfold wake
  (repeat' split) <;> simp

@[simp] theorem mbCheckTail_frame (s : State) (m : Nat) :
    (mbCheckTail s m).pending = s.pending
      ∧ (mbCheckTail s m).board = s.board
      ∧ (mbCheckTail s m).flt.grave = s.flt.grave := by
  unfold mbCheckTail
  dsimp only
  (repeat' split) <;> (try dsimp only) <;> (repeat' split) <;> simp

@[simp] theorem mbChecks_frame (s : State) (m : Nat) :
    (mbChecks s m).pending = s.pending
      ∧ (mbChecks s m).board = s.board
      ∧ (mbChecks s m).flt.grave = s.flt.grave := by
  unfold mbChecks
  dsimp only
  (repeat' split) <;> (try dsimp only) <;> (repeat' split) <;> simp

@[simp] theorem mbRing_frame (s : State) (m : Nat) (who : BitVec 7) (v : Nat) :
    (mbRing s m who v).pending = s.pending
      ∧ (mbRing s m who v).board = s.board
      ∧ (mbRing s m who v).flt.grave = s.flt.grave := by
  unfold mbRing
  (repeat' split) <;> simp

@[simp] theorem trigger_frame (s : State) (p : Nat) (large : Bool) (count : Forecast → Forecast) :
    (trigger s p large count).pending = s.pending
      ∧ (trigger s p large count).board = s.board
      ∧ (trigger s p large count).flt.grave = s.flt.grave := by
  unfold trigger
  dsimp only
  (repeat' split) <;> (try dsimp only) <;> (repeat' split) <;> simp

@[simp] theorem growLarge_frame (s : State) (p : Nat) :
    (growLarge s p).pending = s.pending
      ∧ (growLarge s p).board = s.board
      ∧ (growLarge s p).flt.grave = s.flt.grave := by
  unfold growLarge
  dsimp only
  (repeat' split) <;> (try dsimp only) <;> (repeat' split) <;> simp

@[simp] theorem reqDelivered_frame (s : State) (p : Nat) :
    (reqDelivered s p).pending = s.pending
      ∧ (reqDelivered s p).board = s.board
      ∧ (reqDelivered s p).flt.grave = s.flt.grave := by
  unfold reqDelivered
  dsimp only
  (repeat' split) <;> (try dsimp only) <;> (repeat' split) <;> simp

@[simp] theorem wbDelivered_frame (s : State) (p : Nat) :
    (wbDelivered s p).pending = s.pending
      ∧ (wbDelivered s p).board = s.board
      ∧ (wbDelivered s p).flt.grave = s.flt.grave := by
  simp [wbDelivered]

@[simp] theorem droopEdge_frame (s : State) (p : Nat) :
    (droopEdge s p).pending = s.pending
      ∧ (droopEdge s p).board = s.board
      ∧ (droopEdge s p).flt.grave = s.flt.grave := by
  unfold droopEdge
  dsimp only
  (repeat' split) <;> (try dsimp only) <;> (repeat' split) <;> simp

@[simp] theorem dropReady_frame (s : State) (p sl t : Nat) :
    (dropReady s p sl t).pending = s.pending
      ∧ (dropReady s p sl t).board = s.board
      ∧ (dropReady s p sl t).flt.grave = s.flt.grave := by
  simp [dropReady]

@[simp] theorem placeReady_frame (s : State) (p : Nat) (x : Tracker) :
    (placeReady s p x).pending = s.pending
      ∧ (placeReady s p x).board = s.board
      ∧ (placeReady s p x).flt.grave = s.flt.grave := by
  unfold placeReady
  dsimp only
  (repeat' split) <;> (try dsimp only) <;> (repeat' split) <;> simp

@[simp] theorem markPaced_frame (s : State) (p : Nat) :
    (markPaced s p).pending = s.pending
      ∧ (markPaced s p).board = s.board
      ∧ (markPaced s p).flt.grave = s.flt.grave := by
  unfold markPaced
  (repeat' split) <;> simp

@[simp] theorem drainReady_frame (s : State) (p : Nat) (n : Nat) :
    (drainReady s p n).pending = s.pending
      ∧ (drainReady s p n).board = s.board
      ∧ (drainReady s p n).flt.grave = s.flt.grave := by
  induction n generalizing s with
  | zero => simp [drainReady]
  | succ n ih =>
    simp only [drainReady]
    split <;> simp [ih]

@[simp] theorem aperAnswer_frame (s : State) (r : Req) (m : Msg) :
    (aperAnswer s r m).pending = s.pending
      ∧ (aperAnswer s r m).board = s.board
      ∧ (aperAnswer s r m).flt.grave = s.flt.grave := by
  simp [aperAnswer]

@[simp] theorem aperRead_frame (s : State) (r : Req) (v : Nat) :
    (aperRead s r v).pending = s.pending
      ∧ (aperRead s r v).board = s.board
      ∧ (aperRead s r v).flt.grave = s.flt.grave := by
  simp [aperRead]

@[simp] theorem aperWrote_frame (s : State) (r : Req) :
    (aperWrote s r).pending = s.pending
      ∧ (aperWrote s r).board = s.board
      ∧ (aperWrote s r).flt.grave = s.flt.grave := by
  simp [aperWrote]

@[simp] theorem mregRead_frame (s : State) (m o : Nat) (who : BitVec 7) :
    (mregRead s m o who).2.pending = s.pending
      ∧ (mregRead s m o who).2.board = s.board
      ∧ (mregRead s m o who).2.flt.grave = s.flt.grave := by
  unfold mregRead
  (repeat' split) <;> simp

@[simp] theorem mregWrite_frame (s : State) (m o : Nat) (who : BitVec 7) (v : Nat) :
    (mregWrite s m o who v).pending = s.pending
      ∧ (mregWrite s m o who v).board = s.board
      ∧ (mregWrite s m o who v).flt.grave = s.flt.grave := by
  unfold mregWrite
  (repeat' split) <;> simp

@[simp] theorem aperServe_frame (s : State) (r : Req) :
    (aperServe s r).pending = s.pending
      ∧ (aperServe s r).board = s.board
      ∧ (aperServe s r).flt.grave = s.flt.grave := by
  unfold aperServe
  dsimp only
  (repeat' split) <;> (try dsimp only) <;> (repeat' split) <;> simp

@[simp] theorem serveAper_frame (s : State) (r : Req) :
    (serveAper s r).pending = s.pending
      ∧ (serveAper s r).board = s.board
      ∧ (serveAper s r).flt.grave = s.flt.grave := by
  unfold serveAper
  (repeat' split) <;> simp

@[simp] theorem dropConsent_frame (s : State) (p : Nat) (m : Msg) (l : LAddr) :
    (dropConsent s p m l).pending = s.pending
      ∧ (dropConsent s p m l).board = s.board
      ∧ (dropConsent s p m l).flt.grave = s.flt.grave := by
  unfold dropConsent
  (repeat' split) <;> simp

def Entry.st : Entry → State
  | .drop s => s
  | .take s => s

@[simp] theorem Entry.st_drop (s : State) : (Entry.drop s).st = s := rfl

@[simp] theorem Entry.st_take (s : State) : (Entry.take s).st = s := rfl

@[simp] theorem releasedDrop_frame (s : State) (p d : Nat) (m : Msg) :
    (releasedDrop s p d m).pending = s.pending
      ∧ (releasedDrop s p d m).board = s.board
      ∧ (releasedDrop s p d m).flt.grave = s.flt.grave := by
  unfold releasedDrop
  (repeat' split) <;> simp

theorem enter_st (s : State) (p : Nat) (m : Msg) (l : LAddr) :
    (enter s p m l).st.pending = s.pending ∧ (enter s p m l).st.board = s.board
      ∧ (enter s p m l).st.flt.grave = s.flt.grave := by
  unfold enter
  dsimp only
  (repeat' split) <;> simp

theorem enter_drop {s t : State} {p : Nat} {m : Msg} {l : LAddr} (h : enter s p m l = .drop t) :
    t.pending = s.pending ∧ t.board = s.board
      ∧ t.flt.grave = s.flt.grave := by
  have e := enter_st s p m l
  rw [h] at e
  exact e

theorem enter_take {s t : State} {p : Nat} {m : Msg} {l : LAddr} (h : enter s p m l = .take t) :
    t.pending = s.pending ∧ t.board = s.board
      ∧ t.flt.grave = s.flt.grave := by
  have e := enter_st s p m l
  rw [h] at e
  exact e

@[simp] theorem forward_frame (s : State) (p : Nat) (m : Msg) (t key : Nat) :
    (forward s p m t key).pending = s.pending
      ∧ (forward s p m t key).board = s.board
      ∧ (forward s p m t key).flt.grave = s.flt.grave := by
  unfold forward
  dsimp only
  (repeat' split) <;> (try dsimp only) <;> (repeat' split) <;> simp

@[simp] theorem matchPmk_frame (s : State) (p : Nat) (m : Msg) :
    (matchPmk s p m).2.pending = s.pending
      ∧ (matchPmk s p m).2.board = s.board
      ∧ (matchPmk s p m).2.flt.grave = s.flt.grave := by
  unfold matchPmk
  dsimp only
  (repeat' split) <;> (try dsimp only) <;> (repeat' split) <;> simp

@[simp] theorem route_frame (s : State) (r : Req) :
    (route s r).pending = s.pending ∧ (route s r).board = s.board ∧ (route s r).flt.grave = s.flt.grave := by
  unfold route
  dsimp only
  (repeat' split) <;> (try dsimp only) <;> (repeat' split) <;> simp

@[simp] theorem setGate_frame (s : State) (p stream : Nat) (g : Gate) :
    (setGate s p stream g).pending = s.pending
      ∧ (setGate s p stream g).board = s.board
      ∧ (setGate s p stream g).flt.grave = s.flt.grave := by
  simp [setGate]

@[simp] theorem gatePass_frame (s : State) (r : Req) :
    (gatePass s r).pending = s.pending
      ∧ (gatePass s r).board = s.board
      ∧ (gatePass s r).flt.grave = s.flt.grave := by
  simp [gatePass]

@[simp] theorem gateArrive_frame (s : State) (r : Req) :
    (gateArrive s r).pending = s.pending
      ∧ (gateArrive s r).board = s.board
      ∧ (gateArrive s r).flt.grave = s.flt.grave := by
  unfold gateArrive
  (repeat' split) <;> simp

@[simp] theorem cureReq_frame (s : State) (r : Req) :
    (cureReq s r).pending = s.pending
      ∧ (cureReq s r).board = s.board
      ∧ (cureReq s r).flt.grave = s.flt.grave := by
  unfold cureReq
  dsimp only
  (repeat' split) <;> (try dsimp only) <;> (repeat' split) <;> simp

@[simp] theorem agentServe_frame (s : State) (r : Req) :
    (agentServe s r).pending = s.pending
      ∧ (agentServe s r).board = s.board
      ∧ (agentServe s r).flt.grave = s.flt.grave := by
  unfold agentServe
  dsimp only
  (repeat' split) <;> (try dsimp only) <;> (repeat' split) <;> simp

@[simp] theorem agentReq_frame (s : State) (p : Nat) (op : ReqOp) (h : Hdr) (f : ReqF) (data : Line) :
    (agentReq s p op h f data).pending = s.pending
      ∧ (agentReq s p op h f data).board = s.board
      ∧ (agentReq s p op h f data).flt.grave = s.flt.grave := by
  unfold agentReq
  dsimp only
  (repeat' split) <;> (try dsimp only) <;> (repeat' split) <;> simp

@[simp] theorem spanReq_frame (s : State) (p : Nat) (op : ReqOp) (h : Hdr) (f : ReqF) (data : Line) :
    (spanReq s p op h f data).pending = s.pending
      ∧ (spanReq s p op h f data).board = s.board
      ∧ (spanReq s p op h f data).flt.grave = s.flt.grave := by
  unfold spanReq
  dsimp only
  (repeat' split) <;> (try dsimp only) <;> (repeat' split) <;> simp

@[simp] theorem noteTurn_frame (s : State) (p : Nat) (op : ReqOp) (h : Hdr) (f : ReqF) :
    (noteTurn s p op h f).pending = s.pending
      ∧ (noteTurn s p op h f).board = s.board
      ∧ (noteTurn s p op h f).flt.grave = s.flt.grave := by
  unfold noteTurn
  dsimp only
  (repeat' split) <;> (try dsimp only) <;> (repeat' split) <;> simp

@[simp] theorem reqRow_frame (s : State) (p : Nat) (op : ReqOp) (h : Hdr) (f : ReqF) (data : Line) :
    (reqRow s p op h f data).pending = s.pending
      ∧ (reqRow s p op h f data).board = s.board
      ∧ (reqRow s p op h f data).flt.grave = s.flt.grave := by
  unfold reqRow
  (repeat' split) <;> simp

@[simp] theorem raiseMismatch_frame (s : State) (d h : Nat) (a : AssignF) :
    (raiseMismatch s d h a).pending = s.pending
      ∧ (raiseMismatch s d h a).board = s.board
      ∧ (raiseMismatch s d h a).flt.grave = s.flt.grave := by
  simp [raiseMismatch]

@[simp] theorem sortNotices_frame (s : State) (d : Nat) :
    (sortNotices s d).pending = s.pending
      ∧ (sortNotices s d).board = s.board
      ∧ (sortNotices s d).flt.grave = s.flt.grave := by
  simp [sortNotices]

@[simp] theorem takeNotice_frame (s : State) (p h : Nat) (n : AssignF) (stageR : Bool) :
    (takeNotice s p h n stageR).pending = s.pending
      ∧ (takeNotice s p h n stageR).board = s.board
      ∧ (takeNotice s p h n stageR).flt.grave = s.flt.grave := by
  unfold takeNotice
  dsimp only
  (repeat' split) <;> (try dsimp only) <;> (repeat' split) <;> simp

@[simp] theorem finishMbx_frame (s : State) (m : Option Nat) (status detail : Nat) :
    (finishMbx s m status detail).pending = s.pending
      ∧ (finishMbx s m status detail).board = s.board
      ∧ (finishMbx s m status detail).flt.grave = s.flt.grave := by
  unfold finishMbx
  (repeat' split) <;> simp

@[simp] theorem lookupHeld_frame (s : State) (d : Nat) (e : Nat × Req) :
    (lookupHeld s d e).pending = s.pending
      ∧ (lookupHeld s d e).board = s.board
      ∧ (lookupHeld s d e).flt.grave = s.flt.grave := by
  unfold lookupHeld
  dsimp only
  (repeat' split) <;> (try dsimp only) <;> (repeat' split) <;> simp

@[simp] theorem enterStarted_frame (s : State) (d : Nat) :
    (enterStarted s d).pending = s.pending
      ∧ (enterStarted s d).board = s.board
      ∧ (enterStarted s d).flt.grave = s.flt.grave := by
  simp [enterStarted]

@[simp] theorem failStart_frame (s : State) (d detail : Nat) :
    (failStart s d detail).pending = s.pending
      ∧ (failStart s d detail).board = s.board
      ∧ (failStart s d detail).flt.grave = s.flt.grave := by
  unfold failStart
  dsimp only
  (repeat' split) <;> (try dsimp only) <;> (repeat' split) <;> simp

@[simp] theorem reachP_frame (s : State) (d : Nat) :
    (reachP s d).pending = s.pending
      ∧ (reachP s d).board = s.board
      ∧ (reachP s d).flt.grave = s.flt.grave := by
  simp [reachP]

@[simp] theorem setStage_frame (s : State) (d : Nat) (g : Stage) :
    (setStage s d g).pending = s.pending
      ∧ (setStage s d g).board = s.board
      ∧ (setStage s d g).flt.grave = s.flt.grave := by
  simp [setStage]

@[simp] theorem afterSweep_frame (s : State) (d : Nat) :
    (afterSweep s d).pending = s.pending
      ∧ (afterSweep s d).board = s.board
      ∧ (afterSweep s d).flt.grave = s.flt.grave := by
  unfold afterSweep
  (repeat' split) <;> simp

@[simp] theorem zeroDone_frame (s : State) (d : Nat) :
    (zeroDone s d).pending = s.pending
      ∧ (zeroDone s d).board = s.board
      ∧ (zeroDone s d).flt.grave = s.flt.grave := by
  unfold zeroDone
  dsimp only
  (repeat' split) <;> (try dsimp only) <;> (repeat' split) <;> simp

@[simp] theorem beginZero_frame (s : State) (d : Nat) (mbx : Option Nat) :
    (beginZero s d mbx).pending = s.pending
      ∧ (beginZero s d mbx).board = s.board
      ∧ (beginZero s d mbx).flt.grave = s.flt.grave := by
  unfold beginZero
  dsimp only
  (repeat' split) <;> (try dsimp only) <;> (repeat' split) <;> simp

@[simp] theorem zeroMwr_frame (s : State) (d : Nat) (w : Sweep) :
    (zeroMwr s d w).pending = s.pending
      ∧ (zeroMwr s d w).board = s.board
      ∧ (zeroMwr s d w).flt.grave = s.flt.grave := by
  unfold zeroMwr
  dsimp only
  (repeat' split) <;> (try dsimp only) <;> (repeat' split) <;> simp

@[simp] theorem dirtyMwr_frame (s : State) (d : Nat) (w : Sweep) :
    (dirtyMwr s d w).pending = s.pending
      ∧ (dirtyMwr s d w).board = s.board
      ∧ (dirtyMwr s d w).flt.grave = s.flt.grave := by
  unfold dirtyMwr
  dsimp only
  (repeat' split) <;> (try dsimp only) <;> (repeat' split) <;> simp

@[simp] theorem sweepEnd_frame (s : State) (d : Nat) :
    (sweepEnd s d).pending = s.pending
      ∧ (sweepEnd s d).board = s.board
      ∧ (sweepEnd s d).flt.grave = s.flt.grave := by
  unfold sweepEnd
  (repeat' split) <;> simp

@[simp] theorem takeEntry_frame (s : State) (d dan : Nat) (l : LAddr) :
    (takeEntry s d dan l).2.pending = s.pending
      ∧ (takeEntry s d dan l).2.board = s.board
      ∧ (takeEntry s d dan l).2.flt.grave = s.flt.grave := by
  unfold takeEntry
  dsimp only
  (repeat' split) <;> (try dsimp only) <;> (repeat' split) <;> simp

theorem wbRow_fx (s : State) (p : Nat) (op : WbOp) (h : Hdr) (l : LAddr) (data : Line) :
    (wbRow s p op h l data).fx = s.fx := by
  unfold wbRow
  extract_lets m s0 d
  split
  · rfl
  · have h0 : s0.fx = s.fx := by simp only [s0]; split <;> simp [State.fx]
    split
    · rename_i t e
      refine Eq.trans ?_ h0
      simpa [State.fx] using enter_drop e
    · rename_i t e
      have e : t.fx = s0.fx := by simpa [State.fx] using enter_take e
      extract_lets s2
      have h2 : s2.fx = t.fx := by simp only [s2]; split <;> simp [State.fx]
      have h3 : (if p < 16 then takeEntry s2 d h.dan.toNat l else (0, s2)).2.fx = s2.fx := by
        split <;> simp [State.fx]
      generalize (if p < 16 then takeEntry s2 d h.dan.toNat l else (0, s2)) = y at h3 ⊢
      obtain ⟨had, t2⟩ := y
      refine Eq.trans ?_ (h3.trans (h2.trans (e.trans h0)))
      dsimp only
      clear h3 h2 e h0
      (repeat' split) <;> simp [State.fx]

@[simp] theorem wbRow_frame (s : State) (p : Nat) (op : WbOp) (h : Hdr) (l : LAddr) (data : Line) :
    (wbRow s p op h l data).pending = s.pending
      ∧ (wbRow s p op h l data).board = s.board
      ∧ (wbRow s p op h l data).flt.grave = s.flt.grave :=
  fx_of (wbRow_fx ..)

@[simp] theorem noteEntry_frame (s : State) (d dan : Nat) (op : AnsOp) (f : AnsF) :
    (noteEntry s d dan op f).pending = s.pending
      ∧ (noteEntry s d dan op f).board = s.board
      ∧ (noteEntry s d dan op f).flt.grave = s.flt.grave := by
  unfold noteEntry
  (repeat' split) <;> simp

@[simp] theorem answerHome_frame (s : State) (op : AnsOp) (f : AnsF) (data : Line) :
    (answerHome s op f data).pending = s.pending
      ∧ (answerHome s op f data).board = s.board
      ∧ (answerHome s op f data).flt.grave = s.flt.grave := by
  unfold answerHome
  dsimp only
  (repeat' split) <;> (try dsimp only) <;> (repeat' split) <;> simp

theorem ansRow_fx (s : State) (p : Nat) (op : AnsOp) (f : AnsF) (data : Line) :
    (ansRow s p op f data).fx = s.fx := by
  unfold ansRow
  extract_lets m d dan
  split
  · simp [State.fx]
  · split
    · rename_i t e
      simpa [State.fx] using enter_drop e
    · rename_i t e
      have e : t.fx = s.fx := by simpa [State.fx] using enter_take e
      extract_lets s1 proxy
      have h1 : s1.fx = t.fx := by simp only [s1]; split <;> simp [State.fx]
      refine Eq.trans ?_ (h1.trans e)
      clear h1 e
      clear_value s1 proxy
      split
      · simp [State.fx]
      · cases proxy
        · dsimp only
          split <;> simp [State.fx]
        · simp [State.fx]

@[simp] theorem ansRow_frame (s : State) (p : Nat) (op : AnsOp) (f : AnsF) (data : Line) :
    (ansRow s p op f data).pending = s.pending
      ∧ (ansRow s p op f data).board = s.board
      ∧ (ansRow s p op f data).flt.grave = s.flt.grave :=
  fx_of (ansRow_fx ..)

@[simp] theorem mergeDone_frame (s : State) (m : Merge) :
    (mergeDone s m).pending = s.pending
      ∧ (mergeDone s m).board = s.board
      ∧ (mergeDone s m).flt.grave = s.flt.grave := by
  simp [mergeDone]

@[simp] theorem mcpHome_frame (s : State) (h : Hdr) (l : LAddr) (htag : BitVec 14) :
    (mcpHome s h l htag).pending = s.pending
      ∧ (mcpHome s h l htag).board = s.board
      ∧ (mcpHome s h l htag).flt.grave = s.flt.grave := by
  unfold mcpHome
  dsimp only
  (repeat' split) <;> (try dsimp only) <;> (repeat' split) <;> simp

@[simp] theorem mergeData_frame (s : State) (m : Merge) (poi : Bool) (data : Line) :
    (mergeData s m poi data).pending = s.pending
      ∧ (mergeData s m poi data).board = s.board
      ∧ (mergeData s m poi data).flt.grave = s.flt.grave := by
  unfold mergeData
  dsimp only
  (repeat' split) <;> (try dsimp only) <;> (repeat' split) <;> simp

@[simp] theorem dmmHome_frame (s : State) (f : DatF) (data : Line) :
    (dmmHome s f data).pending = s.pending
      ∧ (dmmHome s f data).board = s.board
      ∧ (dmmHome s f data).flt.grave = s.flt.grave := by
  unfold dmmHome
  (repeat' split) <;> simp

@[simp] theorem deliverAgent_frame (s : State) (p : Nat) (m : Msg) (dan : Nat) :
    (deliverAgent s p m dan).pending = s.pending
      ∧ (deliverAgent s p m dan).board = s.board
      ∧ (deliverAgent s p m dan).flt.grave = s.flt.grave := by
  unfold deliverAgent
  dsimp only
  (repeat' split) <;> (try dsimp only) <;> (repeat' split) <;> simp

@[simp] theorem destNow_frame (s : State) (p : Nat) (m : Msg) :
    (destNow s p m).2.pending = s.pending
      ∧ (destNow s p m).2.board = s.board
      ∧ (destNow s p m).2.flt.grave = s.flt.grave := by
  unfold destNow
  dsimp only
  (repeat' split) <;> (try dsimp only) <;> (repeat' split) <;> simp

@[simp] theorem goOn_frame (s : State) (p : Nat) (m : Msg) (t key : Nat) :
    (goOn s p m t key).pending = s.pending
      ∧ (goOn s p m t key).board = s.board
      ∧ (goOn s p m t key).flt.grave = s.flt.grave := by
  unfold goOn
  (repeat' split) <;> simp

theorem passOn_fx (s : State) (p : Nat) (m : Msg) : (passOn s p m).fx = s.fx := by
  unfold passOn
  extract_lets d
  split
  · simp [State.fx]
  · rfl
  · rfl
  · split
    · rename_i t e
      simpa [State.fx] using enter_drop e
    · rename_i t e
      have e : t.fx = s.fx := by simpa [State.fx] using enter_take e
      rw [← e]
      dsimp only
      (repeat' split) <;> simp [State.fx]
  · split
    · rename_i t e
      simpa [State.fx] using enter_drop e
    · rename_i t e
      have e : t.fx = s.fx := by simpa [State.fx] using enter_take e
      rw [← e]
      split
      · simp [State.fx]
      · split <;> rename_i e2 <;> have h := destNow_frame t p (.dat .dfw ‹DatF› ‹Line›) <;> rw [e2] at h <;>
          simpa [State.fx] using h
  · split
    · split
      · rename_i t e
        simpa [State.fx] using enter_drop e
      · rename_i t e
        have e : t.fx = s.fx := by simpa [State.fx] using enter_take e
        rw [← e]
        simp [State.fx]
    · split
      · rfl
      · split
        · rename_i t e
          simpa [State.fx] using enter_drop e
        · rename_i t e
          have e : t.fx = s.fx := by simpa [State.fx] using enter_take e
          rw [← e]
          simp [State.fx]

@[simp] theorem passOn_frame (s : State) (p : Nat) (m : Msg) :
    (passOn s p m).pending = s.pending
      ∧ (passOn s p m).board = s.board
      ∧ (passOn s p m).flt.grave = s.flt.grave :=
  fx_of (passOn_fx ..)

@[simp] theorem scrubSpareGroup_frame (s : State) (a : StrAt) :
    (scrubSpareGroup s a).pending = s.pending
      ∧ (scrubSpareGroup s a).board = s.board
      ∧ (scrubSpareGroup s a).flt.grave = s.flt.grave := by
  unfold scrubSpareGroup
  dsimp only
  (repeat' split) <;> (try dsimp only) <;> (repeat' split) <;> simp

@[simp] theorem scrubRows_frame (s : State) (bank sub g : Nat) (by_ : Finder) :
    (scrubRows s bank sub g by_).pending = s.pending
      ∧ (scrubRows s bank sub g by_).board = s.board
      ∧ (scrubRows s bank sub g by_).flt.grave = s.flt.grave := by
  unfold scrubRows
  dsimp only
  (repeat' split) <;> (try dsimp only) <;> (repeat' split) <;> simp

@[simp] theorem scrubDeadWord_frame (s : State) (k : Nat) :
    (scrubDeadWord s k).pending = s.pending
      ∧ (scrubDeadWord s k).board = s.board
      ∧ (scrubDeadWord s k).flt.grave = s.flt.grave := by
  unfold scrubDeadWord
  dsimp only
  (repeat' split) <;> (try dsimp only) <;> (repeat' split) <;> simp

@[simp] theorem scrubWay_frame (s : State) (set i : Nat) (by_ : Finder) :
    (scrubWay s set i by_).pending = s.pending
      ∧ (scrubWay s set i by_).board = s.board
      ∧ (scrubWay s set i by_).flt.grave = s.flt.grave := by
  unfold scrubWay
  dsimp only
  (repeat' split) <;> (try dsimp only) <;> (repeat' split) <;> simp

@[simp] theorem trowelScrub_frame (s : State) (n : Nat) :
    (trowelScrub s n).pending = s.pending
      ∧ (trowelScrub s n).board = s.board
      ∧ (trowelScrub s n).flt.grave = s.flt.grave := by
  unfold trowelScrub
  (repeat' split) <;> simp

@[simp] theorem predReset_frame (s : State) (p : Nat) :
    (predReset s p).pending = s.pending
      ∧ (predReset s p).board = s.board
      ∧ (predReset s p).flt.grave = s.flt.grave := by
  simp [predReset]

@[simp] theorem releaseHeld_frame (s : State) (f : Nat → Bool) :
    (releaseHeld s f).pending = s.pending
      ∧ (releaseHeld s f).board = s.board
      ∧ (releaseHeld s f).flt.grave = s.flt.grave := by
  simp [releaseHeld]

@[simp] theorem sliceWindow_frame (s : State) (p : Nat) :
    (sliceWindow s p).pending = s.pending
      ∧ (sliceWindow s p).board = s.board
      ∧ (sliceWindow s p).flt.grave = s.flt.grave := by
  simp [sliceWindow]

@[simp] theorem mapSlice_frame (s : State) (k p : Nat) :
    (mapSlice s k p).pending = s.pending
      ∧ (mapSlice s k p).board = s.board
      ∧ (mapSlice s k p).flt.grave = s.flt.grave := by
  simp [mapSlice]

@[simp] theorem startStep_frame (s : State) (u : Nat) :
    (startStep s u).pending = s.pending
      ∧ (startStep s u).board = s.board
      ∧ (startStep s u).flt.grave = s.flt.grave := by
  unfold startStep
  dsimp only
  (repeat' split) <;> (try dsimp only) <;> (repeat' split) <;> simp

@[simp] theorem copyReads_frame (s : State) (u src : Nat) :
    (copyReads s u src).pending = s.pending
      ∧ (copyReads s u src).board = s.board
      ∧ (copyReads s u src).flt.grave = s.flt.grave := by
  unfold copyReads
  (repeat' split) <;> simp

@[simp] theorem copyElem_frame (s : State) (u src dst : Nat) :
    (copyElem s u src dst).pending = s.pending
      ∧ (copyElem s u src dst).board = s.board
      ∧ (copyElem s u src dst).flt.grave = s.flt.grave := by
  unfold copyElem
  (repeat' split) <;> simp

@[simp] theorem wipeElem_frame (s : State) (u x : Nat) :
    (wipeElem s u x).pending = s.pending
      ∧ (wipeElem s u x).board = s.board
      ∧ (wipeElem s u x).flt.grave = s.flt.grave := by
  unfold wipeElem
  (repeat' split) <;> simp

@[simp] theorem setRole_frame (s : State) (p : Nat) (r : Option Role) :
    (setRole s p r).pending = s.pending
      ∧ (setRole s p r).board = s.board
      ∧ (setRole s p r).flt.grave = s.flt.grave := by
  simp [setRole]

@[simp] theorem testResult_frame (s : State) (u x : Nat) (ok : Bool) :
    (testResult s u x ok).pending = s.pending
      ∧ (testResult s u x ok).board = s.board
      ∧ (testResult s u x ok).flt.grave = s.flt.grave := by
  unfold testResult
  (repeat' split) <;> simp

@[simp] theorem dropSliceTest_frame (s : State) :
    (dropSliceTest s).pending = s.pending
      ∧ (dropSliceTest s).board = s.board
      ∧ (dropSliceTest s).flt.grave = s.flt.grave := by
  unfold dropSliceTest
  (repeat' split) <;> simp

@[simp] theorem fenceSlice_frame (s : State) (p cause : Nat) :
    (fenceSlice s p cause).pending = s.pending
      ∧ (fenceSlice s p cause).board = s.board
      ∧ (fenceSlice s p cause).flt.grave = s.flt.grave := by
  unfold fenceSlice
  dsimp only
  (repeat' split) <;> (try dsimp only) <;> (repeat' split) <;> simp

theorem nvmBytes_fx (s : State) (a n : Nat) : (nvmBytes s a n).2.fx = s.fx := by
  unfold nvmBytes
  split
  · rfl
  · refine foldl_proj (fun b : List Byte × State => b.2.fx) _ (fun b c => ?_) _ _
    dsimp only
    split <;> simp [State.fx]

@[simp] theorem nvmBytes_frame (s : State) (a n : Nat) :
    (nvmBytes s a n).2.pending = s.pending
      ∧ (nvmBytes s a n).2.board = s.board
      ∧ (nvmBytes s a n).2.flt.grave = s.flt.grave :=
  fx_of (nvmBytes_fx ..)

@[simp] theorem freeRow_frame (s : State) (row : Nat) :
    (freeRow s row).2.pending = s.pending
      ∧ (freeRow s row).2.board = s.board
      ∧ (freeRow s row).2.flt.grave = s.flt.grave := by
  unfold freeRow
  exact fx_fold (fun b : List (Nat × BitVec 64 × BitVec 8) × State => b.2) _ (fun b c => by simp [State.fx]) _ _

@[simp] theorem writeRow_frame (s : State) (row : Nat) (bs : List Byte) :
    (writeRow s row bs).2.pending = s.pending
      ∧ (writeRow s row bs).2.board = s.board
      ∧ (writeRow s row bs).2.flt.grave = s.flt.grave := by
  unfold writeRow
  dsimp only
  (repeat' split) <;> (try dsimp only) <;> (repeat' split) <;> simp

@[simp] theorem writeRows_frame (s : State) (row n : Nat) (bs : List Byte) :
    (writeRows s row n bs).2.pending = s.pending ∧ (writeRows s row n bs).2.board = s.board
      ∧ (writeRows s row n bs).2.flt.grave = s.flt.grave := by
  induction n generalizing s row bs with
  | zero => simp [writeRows]
  | succ n ih =>
    simp only [writeRows]
    (repeat' split) <;> simp [ih]

@[simp] theorem nvmWrite_frame (s : State) (a : Nat) (bs : List Byte) :
    (nvmWrite s a bs).2.pending = s.pending
      ∧ (nvmWrite s a bs).2.board = s.board
      ∧ (nvmWrite s a bs).2.flt.grave = s.flt.grave := by
  simp [nvmWrite]

@[simp] theorem writeHdr_frame (s : State) (f : NvmHdr → NvmHdr) :
    (writeHdr s f).2.pending = s.pending
      ∧ (writeHdr s f).2.board = s.board
      ∧ (writeHdr s f).2.flt.grave = s.flt.grave := by
  simp [writeHdr]

@[simp] theorem restoreCfg_frame (s old : State) :
    (restoreCfg s old).pending = s.pending
      ∧ (restoreCfg s old).board = s.board
      ∧ (restoreCfg s old).flt.grave = s.flt.grave := by
  simp [restoreCfg]

@[simp] theorem saveCfg_frame (s : State) (bs : List Byte) :
    (saveCfg s bs).2.pending = s.pending
      ∧ (saveCfg s bs).2.board = s.board
      ∧ (saveCfg s bs).2.flt.grave = s.flt.grave := by
  unfold saveCfg
  dsimp only
  (repeat' split) <;> (try dsimp only) <;> (repeat' split) <;> simp

@[simp] theorem queueRec_frame (s : State) (r : LogRec) :
    (queueRec s r).pending = s.pending
      ∧ (queueRec s r).board = s.board
      ∧ (queueRec s r).flt.grave = s.flt.grave := by
  unfold queueRec
  dsimp only
  (repeat' split) <;> (try dsimp only) <;> (repeat' split) <;> simp

@[simp] theorem queueGrave_frame (s : State) (r : LogRec) :
    (queueGrave s r).pending = s.pending
      ∧ (queueGrave s r).board = s.board
      ∧ (queueGrave s r).flt.grave = s.flt.grave := by
  simp [queueGrave]

@[simp] theorem queueHnt_frame (s : State) (p src : Nat) :
    (queueHnt s p src).pending = s.pending
      ∧ (queueHnt s p src).board = s.board
      ∧ (queueHnt s p src).flt.grave = s.flt.grave := by
  unfold queueHnt
  (repeat' split) <;> simp

@[simp] theorem enterGrave_frame (s : State) (src : Nat) :
    (enterGrave s src).pending = s.pending ∧ (enterGrave s src).board = s.board := by
  have e : ∀ (t : State), (allPorts.foldl (fun s p => if s.up p then sendLinkDown s p 7
      else holdPort s p (s.port p).link.lastDown) t).fx = t.fx :=
    fun t => foldl_proj _ _ (fun b c => by split <;> simp [State.fx]) _ t
  unfold enterGrave
  extract_lets dormant s1 s2 s3 s4
  have h2 : s2.fx = s.fx := by
    simp only [s2]
    split
    · simp [State.fx, s1]
    · exact (e s1).trans (by simp [State.fx, s1])
  obtain ⟨a, b, -⟩ := fx_of h2
  exact ⟨a, b⟩

@[simp] theorem react_frame (s : State) (src : Nat) (dom : Option Nat) (set : BitVec 5) :
    (react s src dom set).pending = s.pending
      ∧ (react s src dom set).board = s.board
      ∧ (react s src dom set).flt.grave = s.flt.grave := by
  apply fx_of
  unfold react
  extract_lets int ports s1 live s2 s3 block s4 s5
  have h1 : s1.fx = s.fx := foldl_proj State.fx _ (fun b c => by simp [State.fx]) _ _
  have h2 : s2.fx = s1.fx := by simp only [s2]; (repeat' split) <;> simp [State.fx]
  have h3 : s3.fx = s2.fx := by simp only [s3]; (repeat' split) <;> simp [State.fx]
  have h4 : s4.fx = s3.fx := by simp only [s4]; (repeat' split) <;> simp [State.fx]
  have h5 : s5.fx = s4.fx := by
    simp only [s5]
    clear_value block s4
    cases block <;> cases dom <;> simp [State.fx]
  refine Eq.trans ?_ (h5.trans (h4.trans (h3.trans (h2.trans h1))))
  clear h1 h2 h3 h4 h5
  clear_value s5 s4 s3 s2 s1
  split <;> simp [State.fx]

@[simp] theorem latch_frame (s : State) (src : Nat) (dom : Option Nat) (detail : BitVec 64) (inj : Bool) :
    (latch s src dom detail inj).pending = s.pending ∧ (latch s src dom detail inj).board = s.board := by
  unfold latch
  split
  · simp
  · have h1 : (if srcGrave src then s else (useCfg s 0xA src none).2).fx = s.fx := by split <;> simp [State.fx]
    generalize (if srcGrave src then s else (useCfg s 0xA src none).2) = s1 at h1 ⊢
    obtain ⟨a, b, -⟩ := fx_of h1
    dsimp only
    split <;> simp [a, b]

@[simp] theorem takeLine_frame (s : State) (l : ErrLine) :
    (takeLine s l).pending = s.pending
      ∧ (takeLine s l).board = s.board := by
  unfold takeLine
  dsimp only
  (repeat' split) <;> simp

@[simp] theorem takeEvent_frame (s : State) (src : Nat) (dom : Option Nat) (detail : BitVec 64) :
    (takeEvent s src dom detail).pending = s.pending ∧ (takeEvent s src dom detail).board = s.board := by
  unfold takeEvent
  dsimp only
  (repeat' split) <;> (try dsimp only) <;> (repeat' split) <;> simp

@[simp] theorem reclass_frame (s : State) (src : Nat) :
    (reclass s src).pending = s.pending
      ∧ (reclass s src).board = s.board
      ∧ (reclass s src).flt.grave = s.flt.grave := by
  simp [reclass]

@[simp] theorem cmdOk_frame (s : State) (resp : List Byte) :
    (cmdOk s resp).st.pending = s.pending
      ∧ (cmdOk s resp).st.board = s.board
      ∧ (cmdOk s resp).st.flt.grave = s.flt.grave := by
  simp [cmdOk]

@[simp] theorem cmdFail_frame (s : State) (code : Nat) :
    (cmdFail s code).st.pending = s.pending
      ∧ (cmdFail s code).st.board = s.board
      ∧ (cmdFail s code).st.flt.grave = s.flt.grave := by
  simp [cmdFail]

@[simp] theorem cmdState_frame (s : State) (code : Nat) :
    (cmdState s code).st.pending = s.pending
      ∧ (cmdState s code).st.board = s.board
      ∧ (cmdState s code).st.flt.grave = s.flt.grave := by
  simp [cmdState]

@[simp] theorem badValue_frame (s : State) :
    (badValue s).st.pending = s.pending
      ∧ (badValue s).st.board = s.board
      ∧ (badValue s).st.flt.grave = s.flt.grave := by
  simp [badValue]

theorem mbRun_frame (s : State) (m op : Nat) (form : List Byte → Bool)
    (busy : State → List Byte → List Byte × State) (body : State → Option Nat → List Byte → CmdRes)
    (hb : ∀ s pl, (busy s pl).2.pending = s.pending ∧ (busy s pl).2.board = s.board
      ∧ (busy s pl).2.flt.grave = s.flt.grave)
    (hd : ∀ s o pl, (body s o pl).st.pending = s.pending ∧ (body s o pl).st.board = s.board
      ∧ (body s o pl).st.flt.grave = s.flt.grave) :
    (mbRun s m op form busy body).pending = s.pending ∧ (mbRun s m op form busy body).board = s.board
      ∧ (mbRun s m op form busy body).flt.grave = s.flt.grave := by
  unfold mbRun
  split
  · simp
  · extract_lets pl t
    have ht : t.pending = s.pending ∧ t.board = s.board ∧ t.flt.grave = s.flt.grave := by
      simp only [t]; split <;> simp
    clear_value t
    split
    · simp [hb, ht]
    · have h := hd t (some m) pl
      split <;> rename_i e <;> rw [e] at h <;> simpa [ht] using h

theorem mbRun1_frame (s : State) (m op : Nat) (body : State → Option Nat → List Byte → CmdRes)
    (hd : ∀ s o pl, (body s o pl).st.pending = s.pending ∧ (body s o pl).st.board = s.board
      ∧ (body s o pl).st.flt.grave = s.flt.grave) :
    (mbRun1 s m op body).pending = s.pending ∧ (mbRun1 s m op body).board = s.board
      ∧ (mbRun1 s m op body).flt.grave = s.flt.grave :=
  mbRun_frame s m op _ _ body (fun s pl => by simp [noBusy]) hd

@[simp] theorem releasePorts_frame (s : State) :
    (releasePorts s).pending = s.pending
      ∧ (releasePorts s).board = s.board
      ∧ (releasePorts s).flt.grave = s.flt.grave := by
  unfold releasePorts
  have h := fun (s : State) => fx_fold id (fun s p => s.updLink p fun l =>
    if l.st = .held
      ∧ releasable s p then { l with st := .noReceiver } else l) (fun b c => by simp [State.fx]) allPorts s
  dsimp only [id] at h ⊢
  simp [h]

theorem tailFold_fx (l : List Nat) (t : State) :
    (l.foldl (fun s m => if (s.mb m).waiting then mbCheckTail s m else s) t).fx = t.fx :=
  foldl_proj State.fx _ (fun b c => by split <;> simp [State.fx]) _ _

theorem openMailboxes_fx (s : State) : (openMailboxes s).fx = s.fx := by
  unfold openMailboxes
  extract_lets s1 s2
  have h2 : s2.fx = s.fx := tailFold_fx _ s1
  refine Eq.trans ?_ h2
  clear_value s2
  split <;> simp [State.fx]

@[simp] theorem openMailboxes_frame (s : State) :
    (openMailboxes s).pending = s.pending
      ∧ (openMailboxes s).board = s.board
      ∧ (openMailboxes s).flt.grave = s.flt.grave :=
  fx_of (openMailboxes_fx ..)

@[simp] theorem resizePorts_frame (s : State) (old : Nat) :
    (resizePorts s old).pending = s.pending
      ∧ (resizePorts s old).board = s.board
      ∧ (resizePorts s old).flt.grave = s.flt.grave := by
  unfold resizePorts
  refine fx_fold id _ (fun b c => ?_) _ _
  dsimp only [id]
  (repeat' split) <;> simp [State.fx]

theorem commitApply_fx (s : State) : (commitApply s).fx = s.fx := by
  have e1 : ∀ (new : Items) (l : List Nat) (t : State), (l.foldl (fun s i =>
    storeRegion s i (rgDom (regionAt new i))) t).fx = t.fx :=
    fun new => foldl_proj State.fx _ (fun b c => by simp [State.fx])
  have e2 : ∀ (moved : Nat → Bool) (l : List Nat) (t : State),
      (l.foldl (fun s u => if moved u then s.setCrc u {} else s) t).fx = t.fx :=
    fun moved => foldl_proj State.fx _ (fun b c => by split <;> simp [State.fx])
  unfold commitApply
  extract_lets old new c0 s1 s2 s3
  have h2 : s2.fx = s1.fx := e1 new _ s1
  have h3 : s3.fx = s2.fx := e2 _ _ s2
  have h1 : s1.fx = s.fx := rfl
  refine Eq.trans ?_ (h3.trans (h2.trans h1))
  clear h1 h2 h3 e1 e2
  clear_value s3
  split <;> simp [State.fx]

@[simp] theorem commitApply_frame (s : State) :
    (commitApply s).pending = s.pending
      ∧ (commitApply s).board = s.board
      ∧ (commitApply s).flt.grave = s.flt.grave :=
  fx_of (commitApply_fx ..)

@[simp] theorem proxSetRow_frame (s : State) (d dan row : Nat) :
    (proxSetRow s d dan row).pending = s.pending
      ∧ (proxSetRow s d dan row).board = s.board
      ∧ (proxSetRow s d dan row).flt.grave = s.flt.grave := by
  simp [proxSetRow]

@[simp] theorem doHubInfo_frame (s : State) (u1 : Option Nat) (u2 : List Byte) :
    (doHubInfo s u1 u2).st.pending = s.pending
      ∧ (doHubInfo s u1 u2).st.board = s.board
      ∧ (doHubInfo s u1 u2).st.flt.grave = s.flt.grave := by
  unfold doHubInfo
  dsimp only
  (repeat' split) <;> (try dsimp only) <;> (repeat' split) <;> simp

@[simp] theorem doFwInfo_frame (s : State) (x1 : Option Nat) (x2 : List Byte) :
    (doFwInfo s x1 x2).st.pending = s.pending
      ∧ (doFwInfo s x1 x2).st.board = s.board
      ∧ (doFwInfo s x1 x2).st.flt.grave = s.flt.grave := by
  simp [doFwInfo]

@[simp] theorem doCaps_frame (s : State) (x1 : Option Nat) (x2 : List Byte) :
    (doCaps s x1 x2).st.pending = s.pending
      ∧ (doCaps s x1 x2).st.board = s.board
      ∧ (doCaps s x1 x2).st.flt.grave = s.flt.grave := by
  simp [doCaps]

@[simp] theorem doConfigRead_frame (s : State) (x1 : Option Nat) (pl : List Byte) :
    (doConfigRead s x1 pl).st.pending = s.pending
      ∧ (doConfigRead s x1 pl).st.board = s.board
      ∧ (doConfigRead s x1 pl).st.flt.grave = s.flt.grave := by
  unfold doConfigRead
  dsimp only
  (repeat' split) <;> (try dsimp only) <;> (repeat' split) <;> simp

@[simp] theorem doConfigWrite_frame (s : State) (x1 : Option Nat) (pl : List Byte) :
    (doConfigWrite s x1 pl).st.pending = s.pending
      ∧ (doConfigWrite s x1 pl).st.board = s.board
      ∧ (doConfigWrite s x1 pl).st.flt.grave = s.flt.grave := by
  unfold doConfigWrite
  dsimp only
  (repeat' split) <;> (try dsimp only) <;> (repeat' split) <;> simp

@[simp] theorem doConfigCommit_frame (s : State) (x1 : Option Nat) (pl : List Byte) :
    (doConfigCommit s x1 pl).st.pending = s.pending
      ∧ (doConfigCommit s x1 pl).st.board = s.board
      ∧ (doConfigCommit s x1 pl).st.flt.grave = s.flt.grave := by
  unfold doConfigCommit
  dsimp only
  (repeat' split) <;> (try dsimp only) <;> (repeat' split) <;> simp

@[simp] theorem doConfigLock_frame (s : State) (x1 : Option Nat) (pl : List Byte) :
    (doConfigLock s x1 pl).st.pending = s.pending
      ∧ (doConfigLock s x1 pl).st.board = s.board
      ∧ (doConfigLock s x1 pl).st.flt.grave = s.flt.grave := by
  simp [doConfigLock]

@[simp] theorem doRegionSet_frame (s : State) (x1 : Option Nat) (pl : List Byte) :
    (doRegionSet s x1 pl).st.pending = s.pending
      ∧ (doRegionSet s x1 pl).st.board = s.board
      ∧ (doRegionSet s x1 pl).st.flt.grave = s.flt.grave := by
  unfold doRegionSet
  dsimp only
  (repeat' split) <;> (try dsimp only) <;> (repeat' split) <;> simp

@[simp] theorem doRegionGet_frame (s : State) (x1 : Option Nat) (pl : List Byte) :
    (doRegionGet s x1 pl).st.pending = s.pending
      ∧ (doRegionGet s x1 pl).st.board = s.board
      ∧ (doRegionGet s x1 pl).st.flt.grave = s.flt.grave := by
  unfold doRegionGet
  dsimp only
  (repeat' split) <;> (try dsimp only) <;> (repeat' split) <;> simp

@[simp] theorem doProximitySet_frame (s : State) (x1 : Option Nat) (pl : List Byte) :
    (doProximitySet s x1 pl).st.pending = s.pending
      ∧ (doProximitySet s x1 pl).st.board = s.board
      ∧ (doProximitySet s x1 pl).st.flt.grave = s.flt.grave := by
  unfold doProximitySet
  dsimp only
  (repeat' split) <;> (try dsimp only) <;> (repeat' split) <;> simp

@[simp] theorem doPortConfig_frame (s : State) (x1 : Option Nat) (pl : List Byte) :
    (doPortConfig s x1 pl).st.pending = s.pending
      ∧ (doPortConfig s x1 pl).st.board = s.board
      ∧ (doPortConfig s x1 pl).st.flt.grave = s.flt.grave := by
  unfold doPortConfig
  dsimp only
  (repeat' split) <;> (try dsimp only) <;> (repeat' split) <;> simp

@[simp] theorem answerDead_frame (s : State) (d : Nat) (c : Awaited) (sl t : Nat) :
    (answerDead s d c sl t).pending = s.pending
      ∧ (answerDead s d c sl t).board = s.board
      ∧ (answerDead s d c sl t).flt.grave = s.flt.grave := by
  simp [answerDead]

@[simp] theorem holdLimit_frame (sl t : Nat) (s : State) :
    (holdLimit sl t s).pending = s.pending
      ∧ (holdLimit sl t s).board = s.board
      ∧ (holdLimit sl t s).flt.grave = s.flt.grave := by
  unfold holdLimit
  (repeat' split) <;> simp

@[simp] theorem noticeRow_frame (p : Nat) (n : AssignF) (base : Nat) (stageR : Bool) (s : State) :
    (noticeRow p n base stageR s).pending = s.pending
      ∧ (noticeRow p n base stageR s).board = s.board
      ∧ (noticeRow p n base stageR s).flt.grave = s.flt.grave := by
  unfold noticeRow
  dsimp only
  (repeat' split) <;> (try dsimp only) <;> (repeat' split) <;> simp

@[simp] theorem wrongState_frame (s : State) :
    (wrongState s).st.pending = s.pending
      ∧ (wrongState s).st.board = s.board
      ∧ (wrongState s).st.flt.grave = s.flt.grave := by
  simp [wrongState]

@[simp] theorem createDom_frame (s : State) (d : Nat) (p : Params) :
    (createDom s d p).pending = s.pending
      ∧ (createDom s d p).board = s.board
      ∧ (createDom s d p).flt.grave = s.flt.grave := by
  unfold createDom
  dsimp only
  (repeat' split) <;> (try dsimp only) <;> (repeat' split) <;> simp

@[simp] theorem doDomainCreate_frame (s : State) (x1 : Option Nat) (pl : List Byte) :
    (doDomainCreate s x1 pl).st.pending = s.pending
      ∧ (doDomainCreate s x1 pl).st.board = s.board
      ∧ (doDomainCreate s x1 pl).st.flt.grave = s.flt.grave := by
  unfold doDomainCreate
  dsimp only
  (repeat' split) <;> (try dsimp only) <;> (repeat' split) <;> simp

@[simp] theorem restartDom_frame (s : State) (d : Nat) :
    (restartDom s d).pending = s.pending
      ∧ (restartDom s d).board = s.board
      ∧ (restartDom s d).flt.grave = s.flt.grave := by
  simp [restartDom]

@[simp] theorem beginStart_frame (s : State) (d : Nat) (mbx : Option Nat) :
    (beginStart s d mbx).pending = s.pending
      ∧ (beginStart s d mbx).board = s.board
      ∧ (beginStart s d mbx).flt.grave = s.flt.grave := by
  unfold beginStart
  dsimp only
  (repeat' split) <;> (try dsimp only) <;> (repeat' split) <;> simp

@[simp] theorem doDomainStart_frame (s : State) (mbx : Option Nat) (pl : List Byte) :
    (doDomainStart s mbx pl).st.pending = s.pending
      ∧ (doDomainStart s mbx pl).st.board = s.board
      ∧ (doDomainStart s mbx pl).st.flt.grave = s.flt.grave := by
  unfold doDomainStart
  dsimp only
  (repeat' split) <;> (try dsimp only) <;> (repeat' split) <;> simp

@[simp] theorem voidTickets_frame (s : State) (d : Nat) (f : TQueue → Bool) :
    (voidTickets s d f).pending = s.pending
      ∧ (voidTickets s d f).board = s.board
      ∧ (voidTickets s d f).flt.grave = s.flt.grave := by
  simp [voidTickets]

@[simp] theorem quiesceGates_frame (s : State) (p : Nat) :
    (quiesceGates s p).pending = s.pending
      ∧ (quiesceGates s p).board = s.board
      ∧ (quiesceGates s p).flt.grave = s.flt.grave := by
  simp [quiesceGates]

@[simp] theorem beginQuiesce_frame (s : State) (d : Nat) (mbx : Option Nat) :
    (beginQuiesce s d mbx).pending = s.pending
      ∧ (beginQuiesce s d mbx).board = s.board
      ∧ (beginQuiesce s d mbx).flt.grave = s.flt.grave := by
  simp [beginQuiesce]

@[simp] theorem doDomainQuiesce_frame (s : State) (mbx : Option Nat) (pl : List Byte) :
    (doDomainQuiesce s mbx pl).st.pending = s.pending
      ∧ (doDomainQuiesce s mbx pl).st.board = s.board
      ∧ (doDomainQuiesce s mbx pl).st.flt.grave = s.flt.grave := by
  unfold doDomainQuiesce
  dsimp only
  (repeat' split) <;> (try dsimp only) <;> (repeat' split) <;> simp

@[simp] theorem stopDom_frame (s : State) (d : Nat) (free : Bool) :
    (stopDom s d free).pending = s.pending
      ∧ (stopDom s d free).board = s.board
      ∧ (stopDom s d free).flt.grave = s.flt.grave := by
  simp [stopDom]

@[simp] theorem doDomainStop_frame (s : State) (x1 : Option Nat) (pl : List Byte) :
    (doDomainStop s x1 pl).st.pending = s.pending
      ∧ (doDomainStop s x1 pl).st.board = s.board
      ∧ (doDomainStop s x1 pl).st.flt.grave = s.flt.grave := by
  unfold doDomainStop
  dsimp only
  (repeat' split) <;> (try dsimp only) <;> (repeat' split) <;> simp

@[simp] theorem doDomainStatus_frame (s : State) (x1 : Option Nat) (pl : List Byte) :
    (doDomainStatus s x1 pl).st.pending = s.pending
      ∧ (doDomainStatus s x1 pl).st.board = s.board
      ∧ (doDomainStatus s x1 pl).st.flt.grave = s.flt.grave := by
  unfold doDomainStatus
  dsimp only
  (repeat' split) <;> (try dsimp only) <;> (repeat' split) <;> simp

@[simp] theorem doSweepWriteback_frame (s : State) (mbx : Option Nat) (pl : List Byte) :
    (doSweepWriteback s mbx pl).st.pending = s.pending
      ∧ (doSweepWriteback s mbx pl).st.board = s.board
      ∧ (doSweepWriteback s mbx pl).st.flt.grave = s.flt.grave := by
  unfold doSweepWriteback
  dsimp only
  (repeat' split) <;> (try dsimp only) <;> (repeat' split) <;> simp

@[simp] theorem doSweepZero_frame (s : State) (mbx : Option Nat) (pl : List Byte) :
    (doSweepZero s mbx pl).st.pending = s.pending
      ∧ (doSweepZero s mbx pl).st.board = s.board
      ∧ (doSweepZero s mbx pl).st.flt.grave = s.flt.grave := by
  unfold doSweepZero
  dsimp only
  (repeat' split) <;> (try dsimp only) <;> (repeat' split) <;> simp

@[simp] theorem doQuotaSet_frame (s : State) (x1 : Option Nat) (pl : List Byte) :
    (doQuotaSet s x1 pl).st.pending = s.pending
      ∧ (doQuotaSet s x1 pl).st.board = s.board
      ∧ (doQuotaSet s x1 pl).st.flt.grave = s.flt.grave := by
  unfold doQuotaSet
  dsimp only
  (repeat' split) <;> (try dsimp only) <;> (repeat' split) <;> simp

@[simp] theorem putAgent_frame (s : State) (d dan : Nat) (a : Agent) :
    (putAgent s d dan a).pending = s.pending
      ∧ (putAgent s d dan a).board = s.board
      ∧ (putAgent s d dan a).flt.grave = s.flt.grave := by
  simp [putAgent]

@[simp] theorem admitPort_frame (s : State) (d dan p : Nat) (c : CapF) (k : Kind) :
    (admitPort s d dan p c k).2.pending = s.pending
      ∧ (admitPort s d dan p c k).2.board = s.board
      ∧ (admitPort s d dan p c k).2.flt.grave = s.flt.grave := by
  simp [admitPort]

@[simp] theorem doAdmitPort_frame (s : State) (x1 : Option Nat) (pl : List Byte) :
    (doAdmitPort s x1 pl).st.pending = s.pending
      ∧ (doAdmitPort s x1 pl).st.board = s.board
      ∧ (doAdmitPort s x1 pl).st.flt.grave = s.flt.grave := by
  unfold doAdmitPort
  dsimp only
  (repeat' split) <;> (try dsimp only) <;> (repeat' split) <;> simp

@[simp] theorem doAdmitRecord_frame (s : State) (x1 : Option Nat) (pl : List Byte) :
    (doAdmitRecord s x1 pl).st.pending = s.pending
      ∧ (doAdmitRecord s x1 pl).st.board = s.board
      ∧ (doAdmitRecord s x1 pl).st.flt.grave = s.flt.grave := by
  unfold doAdmitRecord
  dsimp only
  (repeat' split) <;> (try dsimp only) <;> (repeat' split) <;> simp

@[simp] theorem doExpel_frame (here : Bool) (s : State) (x1 : Option Nat) (pl : List Byte) :
    (doExpel here s x1 pl).st.pending = s.pending
      ∧ (doExpel here s x1 pl).st.board = s.board
      ∧ (doExpel here s x1 pl).st.flt.grave = s.flt.grave := by
  unfold doExpel
  dsimp only
  (repeat' split) <;> (try dsimp only) <;> (repeat' split) <;> simp

@[simp] theorem trainFail_frame (s : State) (p code : Nat) :
    (trainFail s p code).pending = s.pending
      ∧ (trainFail s p code).board = s.board
      ∧ (trainFail s p code).flt.grave = s.flt.grave := by
  simp [trainFail]

@[simp] theorem trainUp_frame (s : State) (p rate width wired : Nat) (r : Trained) :
    (trainUp s p rate width wired r).pending = s.pending
      ∧ (trainUp s p rate width wired r).board = s.board
      ∧ (trainUp s p rate width wired r).flt.grave = s.flt.grave := by
  unfold trainUp
  dsimp only
  (repeat' split) <;> (try dsimp only) <;> (repeat' split) <;> simp

@[simp] theorem enterRecovery_frame (s : State) (p : Nat) :
    (enterRecovery s p).pending = s.pending
      ∧ (enterRecovery s p).board = s.board
      ∧ (enterRecovery s p).flt.grave = s.flt.grave := by
  simp [enterRecovery]

@[simp] theorem startReplay_frame (s : State) (p : Nat) (timer : Bool) :
    (startReplay s p timer).pending = s.pending
      ∧ (startReplay s p timer).board = s.board
      ∧ (startReplay s p timer).flt.grave = s.flt.grave := by
  unfold startReplay
  (repeat' split) <;> simp

@[simp] theorem requestSimmer_frame (s : State) (p : Nat) :
    (requestSimmer s p).pending = s.pending
      ∧ (requestSimmer s p).board = s.board
      ∧ (requestSimmer s p).flt.grave = s.flt.grave := by
  unfold requestSimmer
  dsimp only
  (repeat' split) <;> (try dsimp only) <;> (repeat' split) <;> simp

@[simp] theorem steepRequest_frame (s : State) (p : Nat) :
    (steepRequest s p).pending = s.pending
      ∧ (steepRequest s p).board = s.board
      ∧ (steepRequest s p).flt.grave = s.flt.grave := by
  unfold steepRequest
  (repeat' split) <;> simp

@[simp] theorem recvDown_frame (s : State) (p : Nat) (reason : BitVec 8) :
    (recvDown s p reason).pending = s.pending
      ∧ (recvDown s p reason).board = s.board
      ∧ (recvDown s p reason).flt.grave = s.flt.grave := by
  simp [recvDown]

@[simp] theorem spanGrant_frame (s : State) (p : Nat) :
    (spanGrant s p).pending = s.pending
      ∧ (spanGrant s p).board = s.board
      ∧ (spanGrant s p).flt.grave = s.flt.grave := by
  unfold spanGrant
  dsimp only
  (repeat' split) <;> (try dsimp only) <;> (repeat' split) <;> simp

@[simp] theorem resetReleases_frame (s : State) (p : Nat) :
    (resetReleases s p).pending = s.pending
      ∧ (resetReleases s p).board = s.board
      ∧ (resetReleases s p).flt.grave = s.flt.grave := by
  unfold resetReleases
  (repeat' split) <;> simp

@[simp] theorem capAccept_frame (s : State) (p : Nat) (c : CapF) :
    (capAccept s p c).pending = s.pending
      ∧ (capAccept s p c).board = s.board
      ∧ (capAccept s p c).flt.grave = s.flt.grave := by
  unfold capAccept
  dsimp only
  (repeat' split) <;> (try dsimp only) <;> (repeat' split) <;> simp

@[simp] theorem capRefuse_frame (s : State) (p : Nat) (result : BitVec 8) :
    (capRefuse s p result).pending = s.pending
      ∧ (capRefuse s p result).board = s.board
      ∧ (capRefuse s p result).flt.grave = s.flt.grave := by
  simp [capRefuse]

@[simp] theorem enterSimmer_frame (s : State) (p : Nat) (req : Bool) :
    (enterSimmer s p req).pending = s.pending
      ∧ (enterSimmer s p req).board = s.board
      ∧ (enterSimmer s p req).flt.grave = s.flt.grave := by
  simp [enterSimmer]

@[simp] theorem abandonSteep_frame (s : State) :
    (abandonSteep s).pending = s.pending
      ∧ (abandonSteep s).board = s.board
      ∧ (abandonSteep s).flt.grave = s.flt.grave := by
  unfold abandonSteep
  (repeat' split) <;> simp

@[simp] theorem simmerRefused_frame (s : State) (p : Nat) :
    (simmerRefused s p).pending = s.pending
      ∧ (simmerRefused s p).board = s.board
      ∧ (simmerRefused s p).flt.grave = s.flt.grave := by
  simp [simmerRefused]

@[simp] theorem simmerUp_frame (s : State) (p : Nat) :
    (simmerUp s p).pending = s.pending
      ∧ (simmerUp s p).board = s.board
      ∧ (simmerUp s p).flt.grave = s.flt.grave := by
  simp [simmerUp]

@[simp] theorem exitTrigger_frame (s : State) (p : Nat) (own : Bool) :
    (exitTrigger s p own).pending = s.pending
      ∧ (exitTrigger s p own).board = s.board
      ∧ (exitTrigger s p own).flt.grave = s.flt.grave := by
  unfold exitTrigger
  (repeat' split) <;> simp

@[simp] theorem dormantPort_frame (s : State) (p : Nat) :
    (dormantPort s p).pending = s.pending
      ∧ (dormantPort s p).board = s.board
      ∧ (dormantPort s p).flt.grave = s.flt.grave := by
  unfold dormantPort
  (repeat' split) <;> simp

@[simp] theorem dormantAssignPort_frame (s : State) (p : Nat) :
    (dormantAssignPort s p).pending = s.pending
      ∧ (dormantAssignPort s p).board = s.board
      ∧ (dormantAssignPort s p).flt.grave = s.flt.grave := by
  unfold dormantAssignPort
  dsimp only
  (repeat' split) <;> (try dsimp only) <;> (repeat' split) <;> simp

@[simp] theorem doLinkStatus_frame (s : State) (x1 : Option Nat) (x2 : List Byte) :
    (doLinkStatus s x1 x2).st.pending = s.pending
      ∧ (doLinkStatus s x1 x2).st.board = s.board
      ∧ (doLinkStatus s x1 x2).st.flt.grave = s.flt.grave := by
  simp [doLinkStatus]

@[simp] theorem retrainDown_frame (s : State) (p : Nat) :
    (retrainDown s p).pending = s.pending
      ∧ (retrainDown s p).board = s.board
      ∧ (retrainDown s p).flt.grave = s.flt.grave := by
  unfold retrainDown
  dsimp only
  (repeat' split) <;> (try dsimp only) <;> (repeat' split) <;> simp

@[simp] theorem doLinkRetrain_frame (s : State) (mbx : Option Nat) (pl : List Byte) :
    (doLinkRetrain s mbx pl).st.pending = s.pending
      ∧ (doLinkRetrain s mbx pl).st.board = s.board
      ∧ (doLinkRetrain s mbx pl).st.flt.grave = s.flt.grave := by
  unfold doLinkRetrain
  dsimp only
  (repeat' split) <;> (try dsimp only) <;> (repeat' split) <;> simp

@[simp] theorem doLinkMargin_frame (s : State) (x1 : Option Nat) (pl : List Byte) :
    (doLinkMargin s x1 pl).st.pending = s.pending
      ∧ (doLinkMargin s x1 pl).st.board = s.board
      ∧ (doLinkMargin s x1 pl).st.flt.grave = s.flt.grave := by
  unfold doLinkMargin
  dsimp only
  (repeat' split) <;> (try dsimp only) <;> (repeat' split) <;> simp

@[simp] theorem doLinkCounters_frame (s : State) (x1 : Option Nat) (pl : List Byte) :
    (doLinkCounters s x1 pl).st.pending = s.pending
      ∧ (doLinkCounters s x1 pl).st.board = s.board
      ∧ (doLinkCounters s x1 pl).st.flt.grave = s.flt.grave := by
  unfold doLinkCounters
  dsimp only
  (repeat' split) <;> (try dsimp only) <;> (repeat' split) <;> simp

@[simp] theorem doSpanSpare_frame (s : State) (x1 : Option Nat) (pl : List Byte) :
    (doSpanSpare s x1 pl).st.pending = s.pending
      ∧ (doSpanSpare s x1 pl).st.board = s.board
      ∧ (doSpanSpare s x1 pl).st.flt.grave = s.flt.grave := by
  unfold doSpanSpare
  dsimp only
  (repeat' split) <;> (try dsimp only) <;> (repeat' split) <;> simp

@[simp] theorem doPowerRead_frame (s : State) (x1 : Option Nat) (pl : List Byte) :
    (doPowerRead s x1 pl).st.pending = s.pending
      ∧ (doPowerRead s x1 pl).st.board = s.board
      ∧ (doPowerRead s x1 pl).st.flt.grave = s.flt.grave := by
  unfold doPowerRead
  (repeat' split) <;> simp

@[simp] theorem doPowerClear_frame (s : State) (x1 : Option Nat) (x2 : List Byte) :
    (doPowerClear s x1 x2).st.pending = s.pending
      ∧ (doPowerClear s x1 x2).st.board = s.board
      ∧ (doPowerClear s x1 x2).st.flt.grave = s.flt.grave := by
  simp [doPowerClear]

@[simp] theorem doPowerWake_frame (s : State) (x1 : Option Nat) (x2 : List Byte) :
    (doPowerWake s x1 x2).st.pending = s.pending
      ∧ (doPowerWake s x1 x2).st.board = s.board
      ∧ (doPowerWake s x1 x2).st.flt.grave = s.flt.grave := by
  simp [doPowerWake]

@[simp] theorem setHubPolicy_frame (s : State) (pl : List Byte) :
    (setHubPolicy s pl).pending = s.pending
      ∧ (setHubPolicy s pl).board = s.board
      ∧ (setHubPolicy s pl).flt.grave = s.flt.grave := by
  unfold setHubPolicy
  dsimp only
  (repeat' split) <;> (try dsimp only) <;> (repeat' split) <;> simp

@[simp] theorem doPolicyHub_frame (s : State) (x1 : Option Nat) (pl : List Byte) :
    (doPolicyHub s x1 pl).st.pending = s.pending
      ∧ (doPolicyHub s x1 pl).st.board = s.board
      ∧ (doPolicyHub s x1 pl).st.flt.grave = s.flt.grave := by
  unfold doPolicyHub
  dsimp only
  (repeat' split) <;> (try dsimp only) <;> (repeat' split) <;> simp

@[simp] theorem doPolicyPort_frame (s : State) (x1 : Option Nat) (pl : List Byte) :
    (doPolicyPort s x1 pl).st.pending = s.pending
      ∧ (doPolicyPort s x1 pl).st.board = s.board
      ∧ (doPolicyPort s x1 pl).st.flt.grave = s.flt.grave := by
  unfold doPolicyPort
  dsimp only
  (repeat' split) <;> (try dsimp only) <;> (repeat' split) <;> simp

@[simp] theorem doForecastStatus_frame (s : State) (x1 : Option Nat) (pl : List Byte) :
    (doForecastStatus s x1 pl).st.pending = s.pending
      ∧ (doForecastStatus s x1 pl).st.board = s.board
      ∧ (doForecastStatus s x1 pl).st.flt.grave = s.flt.grave := by
  unfold doForecastStatus
  dsimp only
  (repeat' split) <;> (try dsimp only) <;> (repeat' split) <;> simp

@[simp] theorem doFaultRead_frame (s : State) (m : Option Nat) (pl : List Byte) :
    (doFaultRead s m pl).st.pending = s.pending
      ∧ (doFaultRead s m pl).st.board = s.board
      ∧ (doFaultRead s m pl).st.flt.grave = s.flt.grave := by
  unfold doFaultRead
  dsimp only
  (repeat' split) <;> (try dsimp only) <;> (repeat' split) <;> simp

theorem doFaultClear_fx (s : State) (x1 : Option Nat) (pl : List Byte) : (doFaultClear s x1 pl).st.fx = s.fx := by
  have e : ∀ (mask : Nat) (l : List Nat) (t : State),
      (l.foldl (fun s i => if nbit mask i then reclass s i else s) t).fx = t.fx :=
    fun mask => foldl_proj State.fx _ (fun b c => by split <;> simp [State.fx])
  unfold doFaultClear
  extract_lets mask s1
  have h1 : s1.fx = s.fx := by simp [State.fx, s1]
  clear_value s1 mask
  split
  · rw [cmdOk, CmdRes.st_done, e, h1]
  · exact h1

@[simp] theorem doFaultClear_frame (s : State) (x1 : Option Nat) (pl : List Byte) :
    (doFaultClear s x1 pl).st.pending = s.pending
      ∧ (doFaultClear s x1 pl).st.board = s.board
      ∧ (doFaultClear s x1 pl).st.flt.grave = s.flt.grave :=
  fx_of (doFaultClear_fx ..)

@[simp] theorem doFaultSource_frame (s : State) (x1 : Option Nat) (pl : List Byte) :
    (doFaultSource s x1 pl).st.pending = s.pending
      ∧ (doFaultSource s x1 pl).st.board = s.board
      ∧ (doFaultSource s x1 pl).st.flt.grave = s.flt.grave := by
  unfold doFaultSource
  dsimp only
  (repeat' split) <;> (try dsimp only) <;> (repeat' split) <;> simp

@[simp] theorem doFaultNotify_frame (s : State) (x1 : Option Nat) (pl : List Byte) :
    (doFaultNotify s x1 pl).st.pending = s.pending
      ∧ (doFaultNotify s x1 pl).st.board = s.board
      ∧ (doFaultNotify s x1 pl).st.flt.grave = s.flt.grave := by
  unfold doFaultNotify
  dsimp only
  (repeat' split) <;> (try dsimp only) <;> (repeat' split) <;> simp

@[simp] theorem doErrlogRead_frame (s : State) (m : Option Nat) (pl : List Byte) :
    (doErrlogRead s m pl).st.pending = s.pending
      ∧ (doErrlogRead s m pl).st.board = s.board
      ∧ (doErrlogRead s m pl).st.flt.grave = s.flt.grave := by
  unfold doErrlogRead
  dsimp only
  (repeat' split) <;> (try dsimp only) <;> (repeat' split) <;> simp

@[simp] theorem doInjectCollector_frame (s : State) (x1 : Option Nat) (pl : List Byte) :
    (doInjectCollector s x1 pl).st.pending = s.pending ∧ (doInjectCollector s x1 pl).st.board = s.board := by
  unfold doInjectCollector
  dsimp only
  (repeat' split) <;> (try dsimp only) <;> (repeat' split) <;> simp

@[simp] theorem doInjectChecker_frame (s : State) (x1 : Option Nat) (pl : List Byte) :
    (doInjectChecker s x1 pl).st.pending = s.pending
      ∧ (doInjectChecker s x1 pl).st.board = s.board
      ∧ (doInjectChecker s x1 pl).st.flt.grave = s.flt.grave := by
  unfold doInjectChecker
  dsimp only
  (repeat' split) <;> (try dsimp only) <;> (repeat' split) <;> simp

@[simp] theorem doInjectFlip_frame (s : State) (x1 : Option Nat) (pl : List Byte) :
    (doInjectFlip s x1 pl).st.pending = s.pending
      ∧ (doInjectFlip s x1 pl).st.board = s.board
      ∧ (doInjectFlip s x1 pl).st.flt.grave = s.flt.grave := by
  unfold doInjectFlip
  dsimp only
  (repeat' split) <;> (try dsimp only) <;> (repeat' split) <;> simp

@[simp] theorem doScrubConfig_frame (s : State) (x1 : Option Nat) (pl : List Byte) :
    (doScrubConfig s x1 pl).st.pending = s.pending
      ∧ (doScrubConfig s x1 pl).st.board = s.board
      ∧ (doScrubConfig s x1 pl).st.flt.grave = s.flt.grave := by
  unfold doScrubConfig
  (repeat' split) <;> simp

@[simp] theorem doSelftestStart_frame (s : State) (x1 : Option Nat) (pl : List Byte) :
    (doSelftestStart s x1 pl).st.pending = s.pending
      ∧ (doSelftestStart s x1 pl).st.board = s.board
      ∧ (doSelftestStart s x1 pl).st.flt.grave = s.flt.grave := by
  unfold doSelftestStart
  dsimp only
  (repeat' split) <;> (try dsimp only) <;> (repeat' split) <;> simp

@[simp] theorem doSelftestStatus_frame (s : State) (x1 : Option Nat) (x2 : List Byte) :
    (doSelftestStatus s x1 x2).st.pending = s.pending
      ∧ (doSelftestStatus s x1 x2).st.board = s.board
      ∧ (doSelftestStatus s x1 x2).st.flt.grave = s.flt.grave := by
  simp [doSelftestStatus]

@[simp] theorem roleBytes_frame (s : State) :
    (roleBytes s).2.pending = s.pending
      ∧ (roleBytes s).2.board = s.board
      ∧ (roleBytes s).2.flt.grave = s.flt.grave := by
  unfold roleBytes
  refine fx_fold (fun b : List Byte × State => b.2) _ (fun b c => ?_) _ _
  dsimp only
  split <;> simp [State.fx]

@[simp] theorem doSliceStatus_frame (s : State) (x1 : Option Nat) (x2 : List Byte) :
    (doSliceStatus s x1 x2).st.pending = s.pending
      ∧ (doSliceStatus s x1 x2).st.board = s.board
      ∧ (doSliceStatus s x1 x2).st.flt.grave = s.flt.grave := by
  simp [doSliceStatus]

@[simp] theorem doTempRead_frame (s : State) (x1 : Option Nat) (pl : List Byte) :
    (doTempRead s x1 pl).st.pending = s.pending
      ∧ (doTempRead s x1 pl).st.board = s.board
      ∧ (doTempRead s x1 pl).st.flt.grave = s.flt.grave := by
  unfold doTempRead
  (repeat' split) <;> simp

@[simp] theorem doStatsRead_frame (s : State) (x1 : Option Nat) (pl : List Byte) :
    (doStatsRead s x1 pl).st.pending = s.pending
      ∧ (doStatsRead s x1 pl).st.board = s.board
      ∧ (doStatsRead s x1 pl).st.flt.grave = s.flt.grave := by
  unfold doStatsRead
  (repeat' split) <;> simp

@[simp] theorem copyBody_frame (s : State) (sl b : Nat) (prot : Bool) :
    (copyBody s sl b prot).pending = s.pending
      ∧ (copyBody s sl b prot).board = s.board
      ∧ (copyBody s sl b prot).flt.grave = s.flt.grave := by
  simp [copyBody]

@[simp] theorem countRows_frame (s : State) (sl n : Nat) :
    (countRows s sl n).pending = s.pending
      ∧ (countRows s sl n).board = s.board
      ∧ (countRows s sl n).flt.grave = s.flt.grave := by
  simp [countRows]

@[simp] theorem stageBytes_frame (s : State) (sl off : Nat) (bs : List Byte) :
    (stageBytes s sl off bs).2.pending = s.pending
      ∧ (stageBytes s sl off bs).2.board = s.board
      ∧ (stageBytes s sl off bs).2.flt.grave = s.flt.grave := by
  unfold stageBytes
  dsimp only
  (repeat' split) <;> (try dsimp only) <;> (repeat' split) <;> simp

@[simp] theorem bootFrom_frame (s : State) (sl : Nat) :
    (bootFrom s sl).pending = s.pending
      ∧ (bootFrom s sl).board = s.board
      ∧ (bootFrom s sl).flt.grave = s.flt.grave := by
  unfold bootFrom
  (repeat' split) <;> simp

theorem recovery_fx (s : State) : (recovery s).fx = s.fx := by
  unfold recovery
  exact (tailFold_fx _ _).trans rfl

@[simp] theorem recovery_frame (s : State) :
    (recovery s).pending = s.pending ∧ (recovery s).board = s.board ∧ (recovery s).flt.grave = s.flt.grave :=
  fx_of (recovery_fx ..)

@[simp] theorem bootRom_frame (s : State) :
    (bootRom s).pending = s.pending ∧ (bootRom s).board = s.board ∧ (bootRom s).flt.grave = s.flt.grave := by
  have h := useCosy_frame s .boot
  unfold bootRom
  generalize useCosy s .boot = q at h ⊢
  obtain ⟨b, t⟩ := q
  dsimp only at h ⊢
  (repeat' split) <;> simp_all

@[simp] theorem resume_frame (s : State) :
    (resume s).pending = s.pending ∧ (resume s).board = s.board ∧ (resume s).flt.grave = s.flt.grave := by
  simp [resume]

theorem replayBody_fx {op : Nat} {pl : List Byte} {body : State → Option Nat → List Byte → CmdRes}
    (h : replayBody op pl = some body) (s : State) (o : Option Nat) (q : List Byte) : (body s o q).st.fx = s.fx := by
  unfold replayBody at h
  split at h <;> cases h <;> (try split) <;> simp [State.fx]

theorem applyRecord_fx (s : State) (op : Nat) (pl : List Byte) : (applyRecord s op pl).fx = s.fx := by
  unfold applyRecord
  split
  · rfl
  · rename_i body e
    split
    · rfl
    · extract_lets s1
      have h1 : s1.fx = s.fx := by simp only [s1]; split <;> simp [State.fx]
      have h2 := replayBody_fx e s1 none pl
      rw [← h1]
      split <;> rename_i e2 <;> rw [e2] at h2 <;> exact h2

@[simp] theorem applyRecord_frame (s : State) (op : Nat) (pl : List Byte) :
    (applyRecord s op pl).pending = s.pending
      ∧ (applyRecord s op pl).board = s.board
      ∧ (applyRecord s op pl).flt.grave = s.flt.grave :=
  fx_of (applyRecord_fx ..)

@[simp] theorem endPhaseA_frame (s : State) (op : Nat) :
    (endPhaseA s op).pending = s.pending
      ∧ (endPhaseA s op).board = s.board
      ∧ (endPhaseA s op).flt.grave = s.flt.grave := by
  unfold endPhaseA
  (repeat' split) <;> simp

@[simp] theorem replayNext_frame (s : State) (i : Nat) :
    (replayNext s i).pending = s.pending
      ∧ (replayNext s i).board = s.board
      ∧ (replayNext s i).flt.grave = s.flt.grave := by
  simp [replayNext]

@[simp] theorem replayStep_frame (s : State) (i : Nat) :
    (replayStep s i).pending = s.pending
      ∧ (replayStep s i).board = s.board
      ∧ (replayStep s i).flt.grave = s.flt.grave := by
  unfold replayStep
  dsimp only
  (repeat' split) <;> (try dsimp only) <;> (repeat' split) <;> simp

@[simp] theorem doFwStage_frame (s : State) (x1 : Option Nat) (pl : List Byte) :
    (doFwStage s x1 pl).st.pending = s.pending
      ∧ (doFwStage s x1 pl).st.board = s.board
      ∧ (doFwStage s x1 pl).st.flt.grave = s.flt.grave := by
  unfold doFwStage
  dsimp only
  (repeat' split) <;> (try dsimp only) <;> (repeat' split) <;> simp

@[simp] theorem doFwVerify_frame (s : State) (x1 : Option Nat) (x2 : List Byte) :
    (doFwVerify s x1 x2).st.pending = s.pending
      ∧ (doFwVerify s x1 x2).st.board = s.board
      ∧ (doFwVerify s x1 x2).st.flt.grave = s.flt.grave := by
  unfold doFwVerify
  dsimp only
  (repeat' split) <;> (try dsimp only) <;> (repeat' split) <;> simp

@[simp] theorem verifyBusy_frame (s : State) (x1 : List Byte) :
    (verifyBusy s x1).2.pending = s.pending
      ∧ (verifyBusy s x1).2.board = s.board
      ∧ (verifyBusy s x1).2.flt.grave = s.flt.grave := by
  simp [verifyBusy]

@[simp] theorem doFwActivate_frame (s : State) (mbx : Option Nat) (x1 : List Byte) :
    (doFwActivate s mbx x1).st.pending = s.pending
      ∧ (doFwActivate s mbx x1).st.board = s.board
      ∧ (doFwActivate s mbx x1).st.flt.grave = s.flt.grave := by
  unfold doFwActivate
  (repeat' split) <;> simp

@[simp] theorem doFwCommit_frame (s : State) (x1 : Option Nat) (pl : List Byte) :
    (doFwCommit s x1 pl).st.pending = s.pending
      ∧ (doFwCommit s x1 pl).st.board = s.board
      ∧ (doFwCommit s x1 pl).st.flt.grave = s.flt.grave := by
  unfold doFwCommit
  dsimp only
  (repeat' split) <;> (try dsimp only) <;> (repeat' split) <;> simp

@[simp] theorem doNvmRead_frame (s : State) (x1 : Option Nat) (pl : List Byte) :
    (doNvmRead s x1 pl).st.pending = s.pending
      ∧ (doNvmRead s x1 pl).st.board = s.board
      ∧ (doNvmRead s x1 pl).st.flt.grave = s.flt.grave := by
  unfold doNvmRead
  dsimp only
  (repeat' split) <;> (try dsimp only) <;> (repeat' split) <;> simp

@[simp] theorem crcFinish_frame (s : State) (u : Nat) :
    (crcFinish s u).pending = s.pending
      ∧ (crcFinish s u).board = s.board
      ∧ (crcFinish s u).flt.grave = s.flt.grave := by
  unfold crcFinish
  dsimp only
  (repeat' split) <;> (try dsimp only) <;> (repeat' split) <;> simp

@[simp] theorem crcDirect_frame (s : State) (u o v : Nat) :
    (crcDirect s u o v).pending = s.pending
      ∧ (crcDirect s u o v).board = s.board
      ∧ (crcDirect s u o v).flt.grave = s.flt.grave := by
  unfold crcDirect
  (repeat' split) <;> simp

@[simp] theorem ackTo_frame (s : State) (p : Nat) (ack : BitVec 10) :
    (ackTo s p ack).pending = s.pending
      ∧ (ackTo s p ack).board = s.board
      ∧ (ackTo s p ack).flt.grave = s.flt.grave := by
  unfold ackTo
  dsimp only
  (repeat' split) <;> (try dsimp only) <;> (repeat' split) <;> simp

@[simp] theorem rpqIn_frame (s : State) (p : Nat) (ack : BitVec 10) :
    (rpqIn s p ack).pending = s.pending
      ∧ (rpqIn s p ack).board = s.board
      ∧ (rpqIn s p ack).flt.grave = s.flt.grave := by
  unfold rpqIn
  (repeat' split) <;> simp

@[simp] theorem wantReplay_frame (s : State) (p : Nat) :
    (wantReplay s p).pending = s.pending
      ∧ (wantReplay s p).board = s.board
      ∧ (wantReplay s p).flt.grave = s.flt.grave := by
  unfold wantReplay
  (repeat' split) <;> simp

@[simp] theorem acceptFlit_frame (s : State) (p : Nat) (f : RawFlit) :
    (acceptFlit s p f).pending = s.pending
      ∧ (acceptFlit s p f).board = s.board
      ∧ (acceptFlit s p f).flt.grave = s.flt.grave := by
  unfold acceptFlit
  dsimp only
  (repeat' split) <;> (try dsimp only) <;> (repeat' split) <;> simp

@[simp] theorem dlfIn_frame (s : State) (p : Nat) (f : RawFlit) :
    (dlfIn s p f).pending = s.pending
      ∧ (dlfIn s p f).board = s.board
      ∧ (dlfIn s p f).flt.grave = s.flt.grave := by
  unfold dlfIn
  dsimp only
  (repeat' split) <;> (try dsimp only) <;> (repeat' split) <;> simp

@[simp] theorem goodFlit_frame (s : State) (p : Nat) (f : RawFlit) :
    (goodFlit s p f).pending = s.pending
      ∧ (goodFlit s p f).board = s.board
      ∧ (goodFlit s p f).flt.grave = s.flt.grave := by
  unfold goodFlit
  dsimp only
  (repeat' split) <;> (try dsimp only) <;> (repeat' split) <;> simp

@[simp] theorem resend_frame (s : State) (p : Nat) (f : TxFlit) (rest : List TxFlit) :
    (resend s p f rest).pending = s.pending
      ∧ (resend s p f rest).board = s.board
      ∧ (resend s p f rest).flt.grave = s.flt.grave := by
  simp [resend]

@[simp] theorem settlePm_frame (s : State) (p : Nat) :
    (settlePm s p).pending = s.pending
      ∧ (settlePm s p).board = s.board
      ∧ (settlePm s p).flt.grave = s.flt.grave := by
  unfold settlePm
  dsimp only
  (repeat' split) <;> (try dsimp only) <;> (repeat' split) <;> simp

@[simp] theorem newFlit_frame (s : State) (p : Nat) :
    (newFlit s p).pending = s.pending
      ∧ (newFlit s p).board = s.board
      ∧ (newFlit s p).flt.grave = s.flt.grave := by
  unfold newFlit
  dsimp only
  (repeat' split) <;> (try dsimp only) <;> (repeat' split) <;> simp

@[simp] theorem trowelStep_frame (s : State) :
    (trowelStep s).pending = s.pending
      ∧ (trowelStep s).board = s.board
      ∧ (trowelStep s).flt.grave = s.flt.grave := by
  simp [trowelStep]

@[simp] theorem dueStep_frame (s : State) :
    (dueStep s).pending = s.pending
      ∧ (dueStep s).board = s.board
      ∧ (dueStep s).flt.grave = s.flt.grave := by
  unfold dueStep
  (repeat' split) <;> simp

@[simp] theorem smb0Start_frame (s : State) (addr : BitVec 7) :
    (smb0Start s addr).2.pending = s.pending
      ∧ (smb0Start s addr).2.board = s.board
      ∧ (smb0Start s addr).2.flt.grave = s.flt.grave := by
  unfold smb0Start
  dsimp only
  (repeat' split) <;> (try dsimp only) <;> (repeat' split) <;> simp

@[simp] theorem smb1Start_frame (s : State) (addr : BitVec 7) :
    (smb1Start s addr).2.pending = s.pending
      ∧ (smb1Start s addr).2.board = s.board
      ∧ (smb1Start s addr).2.flt.grave = s.flt.grave := by
  unfold smb1Start
  dsimp only
  (repeat' split) <;> (try dsimp only) <;> (repeat' split) <;> simp

@[simp] theorem sent_frame (s : State) (o : Option (List Byte)) :
    (sent s o).pending = s.pending ∧ (sent s o).board = s.board ∧ (sent s o).flt.grave = s.flt.grave := by
  simp [sent]

@[simp] theorem smb0Wake_frame (s : State) :
    (smb0Wake s).pending = s.pending
      ∧ (smb0Wake s).board = s.board
      ∧ (smb0Wake s).flt.grave = s.flt.grave := by
  unfold smb0Wake
  (repeat' split) <;> simp

@[simp] theorem ptrAdvance_frame (s : State) (n : Nat) :
    (ptrAdvance s n).pending = s.pending
      ∧ (ptrAdvance s n).board = s.board
      ∧ (ptrAdvance s n).flt.grave = s.flt.grave := by
  unfold ptrAdvance
  dsimp only
  (repeat' split) <;> (try dsimp only) <;> (repeat' split) <;> simp

@[simp] theorem mbbCheck_frame (s : State) (p n : Nat) :
    (mbbCheck s p n).pending = s.pending
      ∧ (mbbCheck s p n).board = s.board
      ∧ (mbbCheck s p n).flt.grave = s.flt.grave := by
  simp [mbbCheck]

@[simp] theorem ptrRead_frame (s : State) (p n : Nat) :
    (ptrRead s p n).2.pending = s.pending
      ∧ (ptrRead s p n).2.board = s.board
      ∧ (ptrRead s p n).2.flt.grave = s.flt.grave := by
  unfold ptrRead
  (repeat' split) <;> simp

@[simp] theorem crcWords_frame (s : State) (u n o : Nat) (bs : List Byte) :
    (crcWords s u n o bs).pending = s.pending ∧ (crcWords s u n o bs).board = s.board
      ∧ (crcWords s u n o bs).flt.grave = s.flt.grave := by
  induction n generalizing s o bs with
  | zero => simp [crcWords]
  | succ n ih =>
    simp only [crcWords]
    (repeat' split) <;> simp [ih]

@[simp] theorem ptrWrite_frame (s : State) (p : Nat) (bs : List Byte) :
    (ptrWrite s p bs).pending = s.pending
      ∧ (ptrWrite s p bs).board = s.board
      ∧ (ptrWrite s p bs).flt.grave = s.flt.grave := by
  unfold ptrWrite
  (repeat' split) <;> simp

@[simp] theorem discard_frame (s : State) (forPec : Bool) :
    (discard s forPec).pending = s.pending
      ∧ (discard s forPec).board = s.board
      ∧ (discard s forPec).flt.grave = s.flt.grave := by
  simp [discard]

theorem blockWrite_fx (s : State) (w : SmbWrite) (cmd : Nat) (fits : State → Bool) (use : State → State)
    (h : ∀ s, (use s).fx = s.fx) :
    (blockWrite s w cmd fits use).fx = s.fx := by
  have h' : ∀ s : State, (use s).pending = s.pending
      ∧ (use s).board = s.board
      ∧ (use s).flt.grave = s.flt.grave :=
    fun s => fx_of (h s)
  unfold blockWrite
  dsimp only
  (repeat' split) <;> simp [State.fx, h']

@[simp] theorem setTelem_frame (s : State) (n : Nat) (f : Telem → Telem) :
    (setTelem s n f).pending = s.pending
      ∧ (setTelem s n f).board = s.board
      ∧ (setTelem s n f).flt.grave = s.flt.grave := by
  simp [setTelem]

@[simp] theorem pollEnd_frame (s : State) (n tries : Nat) (r : PollEnd) :
    (pollEnd s n tries r).pending = s.pending
      ∧ (pollEnd s n tries r).board = s.board
      ∧ (pollEnd s n tries r).flt.grave = s.flt.grave := by
  unfold pollEnd
  (repeat' split) <;> simp

@[simp] theorem smb1Read_frame (s : State) (addr : BitVec 7) (cmd : Nat) (bs : List Byte) :
    (smb1Read s addr cmd bs).pending = s.pending
      ∧ (smb1Read s addr cmd bs).board = s.board
      ∧ (smb1Read s addr cmd bs).flt.grave = s.flt.grave := by
  unfold smb1Read
  dsimp only
  (repeat' split) <;> (try dsimp only) <;> (repeat' split) <;> simp

@[simp] theorem setBoard_frame (s : State) (f : Board → Board) :
    (setBoard s f).pending = s.pending ∧ (setBoard s f).flt.grave = s.flt.grave := by
  simp [setBoard]

@[simp] theorem enterSys_frame (s : State) :
    (enterSys s).pending = s.pending ∧ (enterSys s).flt.grave = s.flt.grave := by
  unfold enterSys
  (repeat' split) <;> simp

@[simp] theorem startHub_frame (s : State) :
    (startHub s).pending = s.pending
      ∧ (startHub s).board = s.board
      ∧ (startHub s).flt.grave = s.flt.grave := by
  simp [startHub]

@[simp] theorem sampleStraps_frame (s : State) :
    (sampleStraps s).pending = s.pending ∧ (sampleStraps s).flt.grave = s.flt.grave := by
  simp [sampleStraps]

@[simp] theorem regWrite_frame (s : State) (o : Nat) (p : Part) (v : BitVec 64) :
    (regWrite s o p v).pending = s.pending
      ∧ (regWrite s o p v).board = s.board
      ∧ (regWrite s o p v).flt.grave = s.flt.grave := by
  unfold regWrite
  dsimp only
  (repeat' split) <;> (try dsimp only) <;> (repeat' split) <;> simp

@[simp] theorem idleTick_frame (s : State) :
    (idleTick s).pending = s.pending
      ∧ (idleTick s).board = s.board
      ∧ (idleTick s).flt.grave = s.flt.grave := by
  simp [idleTick]

theorem latch_grave {s : State} (h : s.flt.grave = true) (src : Nat) (dom : Option Nat) (detail : BitVec 64)
    (inj : Bool) : (latch s src dom detail inj).flt.grave = true := by
  unfold latch
  split
  · simpa using h
  · have h1 : (if srcGrave src then s else (useCfg s 0xA src none).2).fx = s.fx := by split <;> simp [State.fx]
    generalize (if srcGrave src then s else (useCfg s 0xA src none).2) = s1 at h1 ⊢
    obtain ⟨-, -, c⟩ := fx_of h1
    dsimp only
    split
    · rfl
    · simp [c, h]

theorem takeLine_grave {s : State} (h : s.flt.grave = true) (l : ErrLine) :
    (takeLine s l).flt.grave = true := by
  unfold takeLine
  dsimp only
  split
  · simpa using h
  · exact latch_grave (by simpa using h) ..

theorem takeEvent_grave {s : State} (h : s.flt.grave = true) (src : Nat) (dom : Option Nat)
    (detail : BitVec 64) : (takeEvent s src dom detail).flt.grave = true := by
  unfold takeEvent
  dsimp only
  (repeat' split) <;> simp_all [latch_grave]

theorem doInjectCollector_grave {s : State} (h : s.flt.grave = true) (o : Option Nat) (pl : List Byte) :
    (doInjectCollector s o pl).st.flt.grave = true := by
  unfold doInjectCollector
  dsimp only
  (repeat' split) <;> simp [badValue, cmdFail, cmdOk, takeLine_grave, h]

end Sys2Proof.Machine
end

