-- ==== Sys2Proof/Laws/Mail.lean ====
section
/-!
SUPPORT. The mailbox RAM read back, and what the end of a mailbox command leaves: the answer, the DONE
state, and everything else as it was.
-/
namespace Sys2Proof.Machine

/-! ## Fields and code words -/

theorem fld_lt (v hi lo : Nat) : fld v hi lo < 2 ^ (hi + 1 - lo) := Nat.mod_lt _ (by positivity)

theorem chkBits_lt (d : Nat) (ms : List Nat) : chkBits d ms < 2 ^ ms.length := by
  induction ms with
  | nil => simp [chkBits]
  | cons m ms ih =>
    simp only [chkBits, List.length_cons, pow_succ]
    split <;> omega

/-- A stored code word reads clean, and its data is what was stored. -/
@[simp] theorem word39_enc39 (d : BitVec 32) : word39 (enc39 d) = d.toNat := by
  have hc : chkBits d.toNat masks39 < 2 ^ 7 := chkBits_lt d.toNat masks39
  have hd := d.isLt
  have hw : (enc39 d).toNat = chkBits d.toNat masks39 * 2 ^ 32 + d.toNat := by
    unfold enc39
    rw [BitVec.toNat_append, BitVec.toNat_ofNat, Nat.mod_eq_of_lt hc, Nat.shiftLeft_eq,
      Nat.mul_comm, Nat.two_pow_add_eq_or_of_lt hd]
  have h1 : fld (enc39 d).toNat 31 0 = d.toNat := by
    rw [hw, fld]; simp only [Nat.shiftRight_zero]; omega
  have h2 : fld (enc39 d).toNat 38 32 = chkBits d.toNat masks39 := by
    rw [hw, fld, Nat.shiftRight_eq_div_pow]; omega
  have h3 : chk39 (enc39 d) = .clean := by
    unfold chk39 check
    rw [h1, h2]
    simp
  unfold word39
  rw [h3, h1]

/-! ## Words -/

theorem ramWf_mbPutWords {s : State} (h : ramWf s.mbram = true) (i : Nat) (l : List Nat) :
    ramWf (mbPutWords s i l).mbram = true := by
  induction l generalizing s i with
  | nil => exact h
  | cons v l ih => exact ih (s := mbPut s i v) (ramWf_ramSet h _ _) (i + 1)

theorem mbWord_mbPut {s : State} (h : ramWf s.mbram = true) (i v j : Nat) :
    mbWord (mbPut s i v) j = if j = i then v % 2 ^ 32 else mbWord s j := by
  unfold mbWord mbPut
  by_cases e : j = i
  · subst e
    simp only [if_true]
    rw [ramGet_ramSet_same h, word39_enc39, BitVec.toNat_ofNat]
  · simp only [if_neg e]
    rw [ramGet_ramSet_ne h _ e]

theorem mbWord_mbPutWords {s : State} (h : ramWf s.mbram = true) (i : Nat) (l : List Nat) (j : Nat) :
    mbWord (mbPutWords s i l) j
      = if i ≤ j ∧ j < i + l.length then ((l[j - i]?).getD 0) % 2 ^ 32 else mbWord s j := by
  induction l generalizing s i with
  | nil =>
    have : ¬ (i ≤ j ∧ j < i + 0) := by omega
    simp [mbPutWords, this]
  | cons v l ih =>
    have hp : ramWf (mbPut s i v).mbram = true := ramWf_ramSet h _ _
    simp only [mbPutWords, ih hp, List.length_cons, mbWord_mbPut h]
    by_cases e : j = i
    · subst e
      have h1 : ¬ (j + 1 ≤ j ∧ j < j + 1 + l.length) := by omega
      have h2 : j ≤ j ∧ j < j + (l.length + 1) := by omega
      rw [if_neg h1, if_pos rfl, if_pos h2]
      simp
    · by_cases c : i + 1 ≤ j ∧ j < i + 1 + l.length
      · have h2 : i ≤ j ∧ j < i + (l.length + 1) := by omega
        rw [if_pos c, if_pos h2]
        obtain ⟨k, rfl⟩ : ∃ k, j = i + 1 + k := ⟨j - (i + 1), by omega⟩
        rw [show i + 1 + k - (i + 1) = k by omega, show i + 1 + k - i = k + 1 by omega]
        simp
      · have h2 : ¬ (i ≤ j ∧ j < i + (l.length + 1)) := by omega
        rw [if_neg c, if_neg h2, if_neg e]

/-! ## Bytes of a response -/

theorem length_bytesToWords (old : Nat → Nat) (i : Nat) (bs : List Byte) :
    (bytesToWords old i bs).length = (bs.length + 3) / 4 := by
  induction i, bs using bytesToWords.induct with
  | case1 => simp [bytesToWords]
  | case2 => simp [bytesToWords]
  | case3 => simp [bytesToWords]
  | case4 => simp [bytesToWords]
  | case5 i a b c d rest ih => simp [bytesToWords, ih]; omega

/-- Byte k of the words is byte k of the response. -/
theorem byte_bytesToWords (old : Nat → Nat) (i : Nat) (bs : List Byte) (k : Nat) (hk : k < bs.length) :
    BitVec.ofNat 8 ((((bytesToWords old i bs)[k / 4]?).getD 0 % 2 ^ 32) >>> (8 * (k % 4))) = bs[k] := by
  induction i, bs using bytesToWords.induct generalizing k with
  | case1 => simp at hk
  | case2 i a =>
    have ha := a.isLt
    have : k = 0 := by simp at hk; omega
    subst this
    simp only [bytesToWords]
    apply BitVec.eq_of_toNat_eq
    simp
    omega
  | case3 i a b =>
    have ha := a.isLt
    have hb := b.isLt
    have : k = 0 ∨ k = 1 := by simp at hk; omega
    rcases this with rfl | rfl <;> simp only [bytesToWords] <;> apply BitVec.eq_of_toNat_eq <;>
      simp [Nat.shiftRight_eq_div_pow] <;> omega
  | case4 i a b c =>
    have ha := a.isLt
    have hb := b.isLt
    have hc := c.isLt
    have : k = 0 ∨ k = 1 ∨ k = 2 := by simp at hk; omega
    rcases this with rfl | rfl | rfl <;> simp only [bytesToWords] <;> apply BitVec.eq_of_toNat_eq <;>
      simp [Nat.shiftRight_eq_div_pow] <;> omega
  | case5 i a b c d rest ih =>
    have ha := a.isLt
    have hb := b.isLt
    have hc := c.isLt
    have hd := d.isLt
    by_cases h4 : k < 4
    · have : k = 0 ∨ k = 1 ∨ k = 2 ∨ k = 3 := by omega
      rcases this with rfl | rfl | rfl | rfl <;> simp only [bytesToWords] <;> apply BitVec.eq_of_toNat_eq <;>
        simp [Nat.shiftRight_eq_div_pow] <;> omega
    · obtain ⟨j, rfl⟩ : ∃ j, k = j + 4 := ⟨k - 4, by omega⟩
      have hj : j < rest.length := by simp at hk; omega
      have := ih j hj
      simp only [bytesToWords]
      rw [show (j + 4) / 4 = j / 4 + 1 by omega, show (j + 4) % 4 = j % 4 by omega]
      simpa using this

/-! ## The end of a command (R390, R392, R393) -/

@[simp] theorem mbPutWords_rest (s : State) (i : Nat) (l : List Nat) :
    (mbPutWords s i l).uptime = s.uptime ∧
    (mbPutWords s i l).free = s.free ∧
    (mbPutWords s i l).ports = s.ports ∧
    (mbPutWords s i l).doms = s.doms ∧
    (mbPutWords s i l).home = s.home ∧
    (mbPutWords s i l).arr = s.arr ∧
    (mbPutWords s i l).integ = s.integ ∧
    (mbPutWords s i l).kt = s.kt ∧
    (mbPutWords s i l).flt = s.flt ∧
    (mbPutWords s i l).cfg = s.cfg ∧
    (mbPutWords s i l).fw = s.fw ∧
    (mbPutWords s i l).fwram = s.fwram ∧
    (mbPutWords s i l).nvm = s.nvm ∧
    (mbPutWords s i l).nvmErr = s.nvmErr ∧
    (mbPutWords s i l).nvmFail = s.nvmFail ∧
    (mbPutWords s i l).crc = s.crc ∧
    (mbPutWords s i l).sens = s.sens ∧
    (mbPutWords s i l).mbs = s.mbs ∧ (mbPutWords s i l).smb = s.smb := by
  induction l generalizing s i with
  | nil => simp [mbPutWords]
  | cons a l ih => simp [mbPutWords, ih, mbPut]

@[simp] theorem mbNotice_rest (s : State) (m : Nat) (st : BitVec 8) :
    (mbNotice s m st).uptime = s.uptime ∧
    (mbNotice s m st).free = s.free ∧
    (mbNotice s m st).ports = s.ports ∧
    (mbNotice s m st).doms = s.doms ∧
    (mbNotice s m st).home = s.home ∧
    (mbNotice s m st).arr = s.arr ∧
    (mbNotice s m st).integ = s.integ ∧
    (mbNotice s m st).kt = s.kt ∧
    (mbNotice s m st).flt = s.flt ∧
    (mbNotice s m st).cfg = s.cfg ∧
    (mbNotice s m st).fw = s.fw ∧
    (mbNotice s m st).fwram = s.fwram ∧
    (mbNotice s m st).nvm = s.nvm ∧
    (mbNotice s m st).nvmErr = s.nvmErr ∧
    (mbNotice s m st).nvmFail = s.nvmFail ∧
    (mbNotice s m st).crc = s.crc ∧
    (mbNotice s m st).sens = s.sens ∧
    (mbNotice s m st).mbram = s.mbram := by
  unfold mbNotice
  (repeat' split) <;> simp

/-- The end of a command touches the mailboxes, their RAM and the alert line, and nothing else. -/
@[simp] theorem mbFinish_rest (s : State) (m st de : Nat) (r : List Byte) :
    (mbFinish s m st de r).uptime = s.uptime ∧
    (mbFinish s m st de r).free = s.free ∧
    (mbFinish s m st de r).ports = s.ports ∧
    (mbFinish s m st de r).doms = s.doms ∧
    (mbFinish s m st de r).home = s.home ∧
    (mbFinish s m st de r).arr = s.arr ∧
    (mbFinish s m st de r).integ = s.integ ∧
    (mbFinish s m st de r).kt = s.kt ∧
    (mbFinish s m st de r).flt = s.flt ∧
    (mbFinish s m st de r).cfg = s.cfg ∧
    (mbFinish s m st de r).fw = s.fw ∧
    (mbFinish s m st de r).fwram = s.fwram ∧
    (mbFinish s m st de r).nvm = s.nvm ∧
    (mbFinish s m st de r).nvmErr = s.nvmErr ∧
    (mbFinish s m st de r).nvmFail = s.nvmFail ∧
    (mbFinish s m st de r).crc = s.crc ∧
    (mbFinish s m st de r).sens = s.sens := by
  unfold mbFinish
  dsimp only
  split
  · simp
  · split <;> simp [mbPutPayload]

/-- A command that runs ends in DONE with its status. -/
theorem mbFinish_mb {s : State} {m : Nat} (h : (s.mb m).st = .busy) (st de : Nat) (r : List Byte) :
    ((mbFinish s m st de r).mb m).st = .done ∧
      ((mbFinish s m st de r).mb m).status = BitVec.ofNat 8 st := by
  have hn : ∀ (t : State) (x : BitVec 8), ((mbNotice t m x).mb m).st = (t.mb m).st ∧
      ((mbNotice t m x).mb m).status = (t.mb m).status := by
    intro t x
    unfold mbNotice
    (repeat' split) <;> simp
  unfold mbFinish
  simp only [h, ne_eq, not_true_eq_false, if_false]
  split <;> simp [hn]

/-- Other mailboxes stand. -/
theorem mbFinish_mb_ne (s : State) {m j : Nat} (hj : m ≠ j) (st de : Nat) (r : List Byte) :
    (mbFinish s m st de r).mb j = s.mb j := by
  have hn : ∀ (t : State) (x : BitVec 8), (mbNotice t m x).mb j = t.mb j := by
    intro t x
    unfold mbNotice
    (repeat' split) <;> simp [hj]
  have hp : ∀ (t : State) i l, (mbPutWords t i l).mb j = t.mb j := by
    intro t i l
    simp [State.mb]
  unfold mbFinish
  dsimp only
  (repeat' split) <;> simp [hn, hj, mbPutPayload, hp]

theorem mbNotice_mbWord (t : State) (m : Nat) (x : BitVec 8) (j : Nat) :
    mbWord (mbNotice t m x) j = mbWord t j := by simp [mbWord]

/-- The words that the end of a command leaves in its mailbox. -/
theorem mbFinish_word {s : State} {m : Nat} (h : (s.mb m).st = .busy) (hw : ramWf s.mbram = true)
    (st de : Nat) (r : List Byte) (hr : r.length ≤ 256) (j : Nat) :
    mbWord (mbFinish s m st de r) j =
      if j = 0x60 * m + 1 then (mbLen s m + 2 ^ 16 * r.length) % 2 ^ 32
      else if j = 0x60 * m + 2 then (st + 2 ^ 16 * de) % 2 ^ 32
      else if j = 0x60 * m + 3 then (crc32c r).toNat
      else if 0x60 * m + 4 ≤ j ∧ j < 0x60 * m + 4 + (r.length + 3) / 4 then
        ((bytesToWords (mbWord s) (0x60 * m + 4) r)[j - (0x60 * m + 4)]?).getD 0 % 2 ^ 32
      else mbWord s j := by
  have hc := (crc32c r).isLt
  have hlen : mbLen (mbPutPayload s m r) m = mbLen s m := by
    unfold mbLen mbPutPayload
    rw [mbWord_mbPutWords hw, if_neg (by omega)]
  have hx : mbWord (mbFinish s m st de r) j = mbWord (mbPutWords (mbPutPayload s m r) (0x60 * m + 1)
      [mbLen s m + 2 ^ 16 * r.length, st + 2 ^ 16 * de, (crc32c r).toNat]) j := by
    rw [← hlen]
    unfold mbFinish
    simp only [h, ne_eq, not_true_eq_false, if_false]
    split
    · rw [mbNotice_mbWord]; rfl
    · rfl
  have hw2 : ramWf (mbPutPayload s m r).mbram = true := ramWf_mbPutWords hw _ _
  rw [hx, mbWord_mbPutWords hw2]
  by_cases h1 : j = 0x60 * m + 1
  · subst h1; simp
  · by_cases h2 : j = 0x60 * m + 2
    · subst h2
      simp
    · by_cases h3 : j = 0x60 * m + 3
      · subst h3
        simp
        omega
      · rw [if_neg (by simp; omega), if_neg h1, if_neg h2, if_neg h3]
        unfold mbPutPayload
        rw [mbWord_mbPutWords hw, length_bytesToWords]

/-- The answer that the end of a command leaves in its mailbox. -/
theorem mbFinish_answer {s : State} {m : Nat} (h : (s.mb m).st = .busy) (hw : ramWf s.mbram = true)
    (st de : Nat) (r : List Byte) (hr : r.length ≤ 256) (hs : st < 256) (hd : de < 65536) :
    (mbFinish s m st de r).answer m = (st, de, r) := by
  have hl : mbLen s m < 2 ^ 16 := fld_lt _ _ _
  have e1 : mbWord (mbFinish s m st de r) (0x60 * m + 1) = mbLen s m + 2 ^ 16 * r.length := by
    rw [mbFinish_word h hw st de r hr, if_pos rfl, Nat.mod_eq_of_lt (by omega)]
  have e2 : mbWord (mbFinish s m st de r) (0x60 * m + 2) = st + 2 ^ 16 * de := by
    rw [mbFinish_word h hw st de r hr, if_neg (by omega), if_pos rfl, Nat.mod_eq_of_lt (by omega)]
  have e3 : fld (mbLen s m + 2 ^ 16 * r.length) 31 16 = r.length := by
    rw [fld, Nat.shiftRight_eq_div_pow]; omega
  have e4 : fld (st + 2 ^ 16 * de) 7 0 = st := by
    rw [fld, Nat.shiftRight_eq_div_pow]; omega
  have e5 : fld (st + 2 ^ 16 * de) 31 16 = de := by
    rw [fld, Nat.shiftRight_eq_div_pow]; omega
  unfold State.answer
  rw [e1, e2, e3, e4, e5]
  have e6 : mbPayload (mbFinish s m st de r) m r.length = r := by
    apply List.ext_getElem
    · simp [mbPayload, upto]
    · intro k h1 h2
      have h2' : k < r.length := h2
      simp only [mbPayload, upto, List.getElem_map, List.getElem_range]
      rw [mbFinish_word h hw st de r hr, if_neg (by omega), if_neg (by omega), if_neg (by omega),
        if_pos (by omega), show 0x60 * m + 4 + k / 4 - (0x60 * m + 4) = k / 4 by omega]
      exact byte_bytesToWords _ _ _ _ h2
  rw [e6]

/-! ## The execution of a command (R402) -/

theorem mbReady_of_holds {s : State} {m : Fin 10} {op : Nat} {pl : List Byte} (h : s.holds m op pl)
    (form : List Byte → Bool) (hf : form pl = true) : mbReady s m op form = true := by
  obtain ⟨hh, -, hb, hk, hr, ht, ho, hp, -, -⟩ := h
  simp [mbReady, hb, hk, hr, ht, ho, hp, hf, hh]

/-- The mailbox has its turn: the next one is looked at first after it (R395). -/
def State.turned (s : State) (m : Nat) : State := s.updFw fun w => { w with mbTurn := (m + 1) % 10 }

/-- A command whose body ends leaves its answer in the mailbox, and its body's effect on all else. -/
theorem mbRun_done {s s' : State} {m : Fin 10} {op : Nat} {pl : List Byte} (h : s.holds m op pl)
    (form : List Byte → Bool) (hf : form pl = true) (busy) (body) (st de : Nat) (r : List Byte)
    (hb : body (s.turned m) (some m.val) pl = .done st de r s') :
    mbRun s m op form busy body = mbFinish s' m st de r := by
  have hr := mbReady_of_holds h form hf
  obtain ⟨-, -, -, -, hn, -, -, hp, hres, -⟩ := h
  have hres' : resourceHeld (s.turned m) m op pl = false := hres
  unfold State.turned at hb hres'
  unfold mbRun
  simp [hr, hn, hp, hres', hb]

/-- A command whose execution ends with a later step is noted as running. -/
theorem mbRun_later {s s' : State} {m : Fin 10} {op : Nat} {pl : List Byte} (h : s.holds m op pl)
    (form : List Byte → Bool) (hf : form pl = true) (busy) (body)
    (hb : body (s.turned m) (some m.val) pl = .later s') :
    mbRun s m op form busy body = s'.updMb m fun b => { b with running := b.st == .busy } := by
  have hr := mbReady_of_holds h form hf
  obtain ⟨-, -, -, -, hn, -, -, hp, hres, -⟩ := h
  have hres' : resourceHeld (s.turned m) m op pl = false := hres
  unfold State.turned at hb hres'
  unfold mbRun
  simp [hr, hn, hp, hres', hb]

/-- The end of a command whose mailbox its body left alone. -/
theorem ended_of {s : State} {m : Fin 10} {op : Nat} {pl : List Byte} (h : s.holds m op pl) {s' : State}
    (hm : s'.mb m = s.mb m) (hr : s'.mbram = s.mbram) (st de : Nat) (r : List Byte) (hl : r.length ≤ 256)
    (hs : st < 256) (hd : de < 65536) : (mbFinish s' m st de r).ended m st de r := by
  obtain ⟨-, -, hb, -, -, -, -, -, -, hw⟩ := h
  rw [← hm] at hb
  rw [← hr] at hw
  exact ⟨(mbFinish_mb hb st de r).1, (mbFinish_mb hb st de r).2, mbFinish_answer hb hw st de r hl hs hd⟩

theorem ramGet_mbPutWords {s : State} (h : ramWf s.mbram = true) (i : Nat) (l : List Nat) (j : Nat)
    (hj : j < i ∨ i + l.length ≤ j) : ramGet (mbPutWords s i l).mbram j = ramGet s.mbram j := by
  induction l generalizing s i with
  | nil => rfl
  | cons v l ih =>
    have hp : ramWf (mbPut s i v).mbram = true := ramWf_ramSet h _ _
    simp only [List.length_cons] at hj
    rw [mbPutWords, ih hp (i + 1) (by omega)]
    exact ramGet_ramSet_ne h _ (by omega)

/-- The end of a command touches its own mailbox alone. -/
theorem mbFinish_onlyMail {s : State} {m : Fin 10} (hw : ramWf s.mbram = true) (st de : Nat) (r : List Byte)
    (hr : r.length ≤ 256) : s.onlyMail (mbFinish s m st de r) m := by
  refine ⟨?_, fun j hj => mbFinish_mb_ne s (fun e => hj (Fin.ext e.symm)) st de r, fun i hi => ?_⟩
  · have hn : ∀ (t : State) (x : BitVec 8),
        { (mbNotice t m x).smb with alert := s.smb.alert } = { t.smb with alert := s.smb.alert } := by
      intro t x
      unfold mbNotice
      (repeat' split) <;> simp
    have hs : { (mbFinish s m st de r).smb with alert := s.smb.alert } = s.smb := by
      unfold mbFinish
      dsimp only
      split
      · rfl
      · split
        · rw [hn]; simp [mbPutPayload]
        · simp [mbPutPayload]
    have hf := mbFinish_rest s m st de r
    have hq := mbFinish_frame s m st de r
    generalize mbFinish s m st de r = t at hs hf hq ⊢
    cases t
    cases s
    simp_all
  · have hw2 : ramWf (mbPutPayload s m r).mbram = true := ramWf_mbPutWords hw _ _
    have hx : (mbFinish s m st de r).mbram = s.mbram ∨ ∃ a b c,
        (mbFinish s m st de r).mbram = (mbPutWords (mbPutPayload s m r) (0x60 * m + 1) [a, b, c]).mbram := by
      unfold mbFinish
      dsimp only
      split
      · exact .inl rfl
      · split <;> exact .inr ⟨_, _, _, by simp; rfl⟩
    rcases hx with e | ⟨a, b, c, e⟩
    · rw [e]
    · rw [e, ramGet_mbPutWords hw2 _ _ _ (by simp; omega)]
      exact ramGet_mbPutWords hw _ _ _ (by rw [length_bytesToWords]; omega)

end Sys2Proof.Machine
end

