-- ==== Sys2Proof/WellFormed.lean ====
section
/-!
DEFINITION. Which commands a far end, a requester or a pin can form. The operand types carry most of it;
what is left are the lengths and ranges below.
-/
namespace Sys2Proof

/-- A flit has fourteen slots (R44). -/
def RawFlit.wf (f : RawFlit) : Bool := f.slots.length == 14

/-- A block write carries at most 255 data bytes (R457). -/
def SmbWrite.wf (w : SmbWrite) : Bool := decide (w.bytes.length ≤ 255)

/-- n bytes at window offset o lie in a mailbox's header or in its payload (R383). -/
def windowWf (o n : Nat) : Bool :=
  decide (0 < n) && (decide (o + n ≤ 0x10) || decide (0x40 ≤ o ∧ o + n ≤ 0x140))

/-- What a bus recovery can end with (R474): SDA still low after nine clocks, or, on a bus whose SCL is
held low, with none. -/
def recoveryWf (clocks : Nat) (sdaLow : Bool) : Bool := !sdaLow || clocks == 9 || clocks == 0

def Instr.wf : Instr → Bool
  | .flitReceive _ f => f.wf
  | .mailboxWindowWrite _ _ off bytes => windowWf off bytes.length
  | .setPtr w => w.wf
  | .write w => w.wf
  | .busRecovery clocks sdaLow => recoveryWf clocks sdaLow
  | .portDetect .. | .trainingComplete .. | .replayTimeout .. | .recoveryExit .. | .recoveryTimeout ..
  | .flitTransmit .. | .linkDown .. | .farEndIdle .. | .cap .. | .capAck .. | .capTimeout ..
  | .simmerRequest .. | .simmerAccept .. | .simmerRefuse .. | .simmerRequestTimeout ..
  | .simmerEntryComplete .. | .portIdleTimeout .. | .simmerExit .. | .simmerExitStart ..
  | .simmerExitSlow .. | .assignAfterRelease .. | .rds .. | .rdo .. | .rdc .. | .upg .. | .wrl ..
  | .pmk .. | .wrp .. | .atm .. | .rnc .. | .wnc .. | .cure .. | .wbm .. | .evc .. | .sri .. | .srs ..
  | .srf .. | .srm .. | .srd .. | .mcp .. | .dmm .. | .directoryWordDmm .. | .dfw .. | .proxySnoop ..
  | .passOn .. | .pwi .. | .grantPlacement .. | .mrqPlacement .. | .directoryFillResume ..
  | .ticketWindowExpiry .. | .tAnswerExpiry .. | .tSnoopExpiry .. | .tTrackerExpiry .. | .quiesced ..
  | .holdIdleLimit .. | .holdTimeLimit .. | .dsGatePass .. | .cureComplete .. | .mergeEntryAge ..
  | .mergePressureDrain | .drainWaiterResume .. | .sweepMwr .. | .zeroSweepComplete ..
  | .sweepTimeout .. | .stagePNotice .. | .stageRNotice .. | .spanRelease .. | .stagePComplete ..
  | .stageRComplete .. | .stageTimeout .. | .pllLock | .pllLockTimeout | .pllLockLoss
  | .steepIdleElapsed | .stopStep | .wakeNEdge .. | .wakeNetFall | .dormantEntry | .dormantAssign
  | .wakeTrainingTimeout .. | .droopStretch | .droopEase | .stretchEpisodeLong | .droopNEdge ..
  | .pacingWindow .. | .watchEnd .. | .fallHintEnd .. | .fallSignature .. | .ldhDeferredChange ..
  | .paceForced .. | .bucketLeak .. | .trowelStep | .selftestStep | .selftestCopyComplete
  | .switchWindowEnd | .sliceDrainComplete | .selftestTestComplete .. | .spareInitialTest ..
  | .sliceFail .. | .spareTakeover .. | .sliceSpread .. | .itBkt .. | .itFlipCtl .. | .chkrd ..
  | .itRawData .. | .itRawChkb .. | .itInjCtl .. | .faultEvent .. | .cosyConfigCheck
  | .faultNoticePlacement .. | .logWrite | .tokenGain | .logScan | .fcStatus .. | .sensorReading ..
  | .mbDoorbell .. | .mbLockClaim .. | .mbLockRelease .. | .lockIdleTimeout ..
  | .mailboxNoticePlacement .. | .mailboxOpen | .replayRecord | .hubInfo .. | .fwInfo .. | .caps ..
  | .configRead .. | .configWrite .. | .configCommit .. | .configLock .. | .regionSet .. | .regionGet ..
  | .proximitySet .. | .portConfig .. | .domainCreate .. | .domainStart .. | .domainQuiesce ..
  | .domainStop .. | .domainStatus .. | .dirSweepWriteback .. | .dirSweepZero .. | .quotaSet ..
  | .agentAdmitPort .. | .agentAdmitRecord .. | .agentExpelPort .. | .agentExpelRecord ..
  | .linkStatus .. | .linkRetrain .. | .linkMargin .. | .linkCounters .. | .spanSpare ..
  | .powerStateRead .. | .powerStateClear .. | .powerStateWake .. | .powerPolicyHub ..
  | .powerPolicyPort .. | .forecastStatus .. | .faultRead .. | .faultClear .. | .faultConfigSource ..
  | .faultConfigNotify .. | .errlogRead .. | .injectCollector .. | .injectChecker .. | .injectFlip ..
  | .scrubConfig .. | .selftestStart .. | .selftestStatus .. | .sliceStatus .. | .fwStage ..
  | .fwVerify .. | .fwActivate .. | .fwCommitSlot .. | .nvmRead .. | .tempRead .. | .statsRead ..
  | .watchdogExpiry | .exchangeBegin | .exchangeFallback .. | .firmwareTimer .. | .crcCtl ..
  | .crcData8 .. | .crcData16 .. | .crcData32 .. | .crcAbsorbDone .. | .smb0AddressMatch .. | .read ..
  | .status .. | .alertResponse .. | .smbusTimeout .. | .datapathRegate .. | .smb1Wake | .smb1TempNow ..
  | .smb1TempMax .. | .smb1TempLimit .. | .smb1State .. | .smb1HubInfo .. | .smb1FcStatus ..
  | .smb1TelemetrySelect .. | .smb1Telemetry .. | .smbcPoll .. | .regulatorProbe .. | .smbcRetry ..
  | .smbcAbandon | .powerOnReset | .pwrOk .. | .sysRstN .. | .resetRelease | .tapInstruction ..
  | .registerWrite .. | .largeRiseImminent .. | .exchangeComplete | .downProcessingComplete ..
  | .replayAdmitTimeout | .farEndRecovery .. => true

end Sys2Proof
end

