-- ==== Sys2Proof/Tests/Slice0.lean ====
section
/-!
SUPPORT. The model's own tests: ill-formed terms that are refused, figures of the spec's worked cases, and for every
statement with hypotheses a state and operands that meet them, clause by clause.
-/
open Sys2Proof Sys2Proof.Machine
namespace Sys2Proof.Tests
set_option Elab.async false
set_option maxRecDepth 20000

/-! ## Small states and operands -/

abbrev S := Machine.State
/-- a command of a mailbox whose checks have passed -/
def withCmd (s : S) (m op : Nat) (pl : List Byte) : S :=
  mbPutPayload (mbPutWords { s with mbs := tset s.mbs m { st := .busy, checked := true } } (0x60 * m)
    [op, pl.length, 0, 0]) m pl
def rg (type dom tgt base limit : Nat) : BitVec 128 :=
  BitVec.ofNat 128 (1 + 2 * type + 16 * dom + 256 * tgt + 2 ^ 28 * base + 2 ^ 92 * limit)
def aF : AssignF := ⟨1, 0, false, false, 0, 0, 0⟩
def pUp (d dan : Nat) : Port :=
  { link := { st := .l0, capAcked := true }, mem := { dom := some d, dan, sent := some aF }, tx := { credits := [(0, 8), (1, 8), (2, 8), (3, 8), (4, 8), (5, 8)] }, rx := { granted := [(0, 8), (1, 8), (4, 8), (5, 8)] } }
def ag (kind : Kind) (p : Nat) : Agent :=
  { hub := 0, kind, mem := kind == .memory, matc := false, port := some p, shelves := [], sets := 0, ways := 0 }
def dom1 : Dom :=
  { st := .started, par := { q := 4, b := 4, cq := 2, dirTgt := 3, twLog := 20, dirBase := 0x300000, tans := 1, tsnp := 1 }, map := [(2, some (ag .caching 0)), (3, some (ag .memory 1)), (4, some (ag .io 2))] }
def sH : S :=
  { cfg := { eff := { region := [(0, rg 0 1 3 0 0xF), (1, rg 1 1 3 0x10 0x1F), (2, rg 2 1 3 0x20 0x2F)] } }, doms := [(1, dom1)], ports := [(0, pUp 1 2), (1, pUp 1 3), (2, pUp 1 4)] }
def h2 : Hdr := ⟨5, 2, 0, 1⟩
def h4 : Hdr := ⟨5, 4, 0, 1⟩
def lCO : LAddr := 1
def lNC : LAddr := 0x4000
def f0 (l : LAddr) : ReqF := ⟨false, 0, 0, 0, 0, l, 0⟩
def req2 (op : ReqOp) (l : LAddr) : Req := ⟨op, 0, h2, f0 l, 9, 0⟩
def trk (l : LAddr) (op : ReqOp) (ph : Phase) : Tracker :=
  { sl := 0, num := 7, dom := 1, laddr := l, phase := ph, req := some (req2 op l) }
def tag7 : BitVec 14 := mkHtag 0 0 7
def withTrk (s : S) (x : Tracker) : S := { s with home := { s.home with trackers := [x] } }
def sMb (s : S) : S :=
  { s with mbs := [(8, { st := .busy, checked := true, running := true })] }
def xm : Tracker := { trk lCO .wrl .drain with awaits := [.mcp] }
def vm : Victim := ⟨0, 0, 7, h2, 1, lCO, 0⟩
def mm : Merge := ⟨3, 1, lNC, 5, 0xF, false, [(4, 0)], 0, 2, 0⟩
def sw : Sweep := ⟨true, false, 3, [64], some 8⟩
def aRem : Agent :=
  { hub := 1, kind := .caching, mem := false, matc := false, port := none, shelves := [], sets := 0, ways := 0 }
def sN : S :=
  { cfg := { eff := { sH.cfg.eff with n := 2 } }, doms := [(1, { dom1 with map := dom1.map ++ [(9, some aRem)] })], ports := sH.ports ++ [(16, { link := { st := .l0 }, tx := { credits := [(8, 8), (12, 8), (13, 8)] } })] }
def xs : Tracker :=
  { trk lCO .rdo .collect with awaits := [.snoop 2 .sni, .snoop 20 .sni, .line] , flow := .own}
def sS := withTrk sH xs
def xsf : Tracker := { trk lCO .rds .collect with awaits := [.snoop 2 .snf], flow := .share }
def af (n : BitVec 2) : AnsF := ⟨h2, n, lCO, tag7, false⟩
def xd : Tracker :=
  { trk lCO .rdo .collect with awaits := [.line, .snoop 2 .sni] , flow := .own}
def df (l : LAddr) : DatF := ⟨h2, false, false, 0, l, tag7⟩
def xw : Tracker := { trk lCO .rds .dirread with awaits := [.word, .line] }
def dfwF : DatF := ⟨h2, false, false, 1, lCO, tag7⟩
def aMir : Agent :=
  { hub := 0, kind := .mirrored, mem := false, matc := false, port := some 3, shelves := [0], sets := 2048, ways := 16 }
def snG : SnpF := ⟨⟨5,9,0,1⟩, .sni, true, 0, lCO, mkHtag 1 0 7⟩
/-- domain 1 with a mirrored agent here, whose shelf holds the line -/
def sMir : S :=
  strFill { sN with doms := [(1, { dom1 with map := dom1.map ++ [(9, some aRem), (7, some aMir)] })],
                    ports := sN.ports ++ [(3, pUp 1 7)] } 1 7 aMir lCO .s
def snF : SnpF := ⟨⟨5,2,0,1⟩, .sni, true, 0, 2, mkHtag 1 0 7⟩
def xr : Tracker :=
  { trk lCO .rds .reserved with req := none, tq := some ⟨false, [1, 2], 2⟩ }
def xr1 : Tracker := { xr with tq := some ⟨false, [1], 2⟩ }
def xa : Tracker := { trk lCO .rds .collect with awaits := [.snoop 2 .sni] }
def sv :=
  (withTrk sH xa).updHome (fun h => { h with merges := [mm], victims := [vm] })
def xg : Tracker :=
  { trk lCO .rdo .grant with flow := .own, pacedAt := some 0, got := some 6 }
def sg := (withTrk sH xg).updPort 0 (fun q => { q with ready := [(0, 7)] })
def sgc := sg.updFore 0 (fun f => { f with par := { f.par with ceil := 0 } })
def wf : MrqF := mkMrq sH h2 .mrd 6 0 lCO 0 7 false
def xq : Tracker :=
  { trk lCO .rds .collect with awaits := [.line], mrqs := [⟨3, wf, 0⟩] }
def xf : Tracker :=
  { trk lCO .rds .dirread with awaits := [.line], fillWait := some (0, true) }
def xn : Tracker := { trk lNC .wrl .collect with flow := .ncMerge }
def xh (b : Bool) : Tracker := { trk lCO .atm .hold with hold := some (b, 1, false), got := some 8 }
def me (v : BitVec 64) : Merge := { mm with drain := 0, valid := v }
def sw1 (z : Bool) (o : List (BitVec 52)) (n : Nat) : Sweep := ⟨z, false, n, o, some 8⟩
def sQ : S :=
  (sMb sH).updDom 1 (fun q => { q with st := .quiescing, quiesceMbx := some 8 })
def withSw (w : Sweep) (st : DomSt) : S := (sMb sH).updDom 1 (fun q => { q with st, sweep := some w })
def dirtyQ : S := let s := withSw (sw1 false [] 0) .started
  { s with arr := { s.arr with tag := [(32 * dirSet lCO, enc47 (mkTag true 1 (dirTag lCO)))], owner := [(32 * dirSet lCO, encOwner true 1)], word := [(32 * dirSet lCO, enc64 (mkWord 1 0 [2]))] } }
def nA (b : Nat) (e : BitVec 8) : AssignF :=
  { stageNotice sN 1 (b + 1) with dan := BitVec.ofNat 7 (b + 1), epoch := e }
def stS (o : DomSt) (g : Stage) (st : DomSt) : S :=
  (sMb sN).updDom 1 (fun q => { q with st, start := some ⟨o, g, some 8⟩, stageP := [(1, nA 40 0)], stageR := [(1, nA 48 0)] })
def downS : S :=
  ((sN.updDom 1 fun q => { q with st := .down, downing := true })).updPort 0 fun q => { q with link := {} }
abbrev L := List Byte
def z (n : Nat) : L := List.replicate n 0
def hubPol : L := [0,7,9,0,0xFF,0xF,0,0,0,0,0,0,0,0,0,0]
def portPol : L := [1,15,1,4,127,4,1,16,8,4,3,8,1,0,0,0]
def admS : S :=
  { doms := [(1, { st := .created })], ports := [(3, { link := { st := .l0, capAcked := true, farCap := some ⟨0x10, 0, false, false, false, true, 0, 0, 0, 0⟩ } })] }
def expS : S :=
  { sN with doms := [(1, { dom1 with st := .created, map := dom1.map ++ [(9, some aRem)] })] }
def domS (q : Dom) : S := { sH with doms := [(1, q)] }
def startN : S :=
  { sN with doms := [(1, { dom1 with st := .quiesced, map := dom1.map ++ [(9, some aRem)] })] }
def plN : L := [1,0,0,0] ++ toBytes 4 (digest startN 1)
def dirtyS : S := 
  { sH with arr := { sH.arr with tag := [(32 * dirSet lCO, enc47 (mkTag true 1 (dirTag lCO)))], owner := [(32 * dirSet lCO, encOwner true 1)], word := [(32 * dirSet lCO, enc64 (mkWord 1 0 [2]))] } }
def crPl : L :=
  [1,1,0x10,0] ++ toBytes 8 0 ++ [20,3,0,0] ++ toBytes 8 0x300000 ++ [4,4,2,0] ++ z 16
def pW (f : Port → Port) : S := sH.updPort 0 f
def tf (n : Nat) : TxFlit :=
  ⟨false, BitVec.ofNat 10 n, 3, true, false, 0, [], List.replicate 14 .empty⟩
def cA (v : BitVec 8) : CapF := ⟨v, 0, false, false, false, true, 0, 0, 0, 0⟩
def hsW (h : SimmerHs) : S := pW fun q => { q with link := { q.link with hs := h } }
def p0 : Fin 20 := 0
def trainW : S := pW fun q => { q with link := { st := .training } }
def trained (e : TrainEnd) (lanes : BitVec 8) : Trained := ⟨.g32, 8, lanes, true, 3, false, e⟩
def a0 : Fin 16 := 0
def simW (k : Power) (e due : Bool) : S :=
  { (pW fun q => { q with link := { q.link with st := .simmer, exiting := e, exitDue := due } }) with kt := { st := k } }
def dlf (fk rpq ackv ack seq : Nat) : BitVec 48 :=
  BitVec.ofNat 48 (seq + 2^10 * ack + 2^20 * ackv + 2^21*rpq + 2^22 * fk)
def fl (crc : Bool) (d : BitVec 48) (k : Nat) (m : BitVec 128) : RawFlit := { crcOk := crc, fecCorr := 0, dlf := d, hdr := BitVec.ofNat 96 k, slots := m :: List.replicate 13 0 }
def mm1 : Msg := .req .rds h2 (f0 lCO) 0
def farS : S :=
  pW (fun q => { q with rx := { q.rx with seq := 70 }, link := { q.link with farCap := some ⟨1, 0, false, false, false, true, 0, 0, 0, 0⟩ } })
def fW (f : Forecast) : S := pW fun q => { q with fore := f }
def cP (b : Bool) : CapF := ⟨1, 0, false, false, false, b, 0, 0, 0, 0⟩
def wP (b : Bool) : S := pW fun q => { q with link := { q.link with farCap := some (cP b) } }
def passedAll : Tbl Rot :=
  (List.range 34).map fun u => (u, { sp := unitTop u, passed := 2 ^ 33 - 1 })
def fen : S :=
  { ({} : S) with home := { roles := [(3, some .fenced)], smap := [(3, none)], recs := [⟨3, 3, 1, 0, 0, 0⟩] } }
def lr (g : Bool) : LogRec := ⟨511, 3, 10, false, false, 0, false, false, some 1, 0, g, 0, 5, 1⟩
def hd (sl : Nat) : S := { (writeHdr {} fun h => { h with slots := sl }).2 with flt := {} }
def injPl : L := [0, 10, 0x81, 0] ++ toBytes 8 7 ++ z 4
def stPl : L := toBytes 4 32 ++ [32,0,0,0] ++ List.replicate 32 0xA5
def fwS (f : Firmware) : S := { ({} : S) with fw := f }
def tm : FwTimer := ⟨4, 10, 7⟩
def svd : S :=
  { (saveCfg {} (cfgRecord 0x107 [19, 1, 0, 0] ++ cfgRecord 0x777 [] ++ cfgRecord 0x207 [0,1,5,3,1,0,0,0])).2 with flt := {} }
/-- MB1 of domain 1, held by the agent with DAN 2; its header names a command without payload. -/
def crcEmpty : S :=
  mbPutWords { sH with integ := { injCtl := 0 }, mbs := [(1, { holder := some 2 })] } 0x60 [0, 0, 0, 0]
def openS : S := { crcEmpty with fw := { boot := .running, isOpen := true } }
def badNvm : S :=
  { ({} : S) with nvm := [(cfgAddr 0 + 8, 1), (cfgAddr 1 + 8, 1)], fw := { boot := .running } }
def wr (cmd : Byte) (bs : L) : SmbWrite :=
  ⟨0x58, BitVec.ofNat 8 bs.length, bs, some (pec ([addrW 0x58, cmd, BitVec.ofNat 8 bs.length] ++ bs)), true⟩
def c1 : Cfg := { eff := { smb1 := BitVec.ofNat 64 (2 * 0x10 + 1) } }
def rg1 : S :=
  ({ fw := { boot := .running }, smb := { telem := [(3, { stat := 0b10101 }), (15, { stat := 1 })], pollAt := 4 } } : S)

/-! ## Ill-formed commands -/

/-- A flit has fourteen slots (R44). -/
theorem test_wf_flit_slots : Instr.wf (.flitReceive 0 ⟨true, 0, 0, 0, List.replicate 13 0, 0, 0⟩) = false := by decide

/-- A window write ends within the header, or within the payload (R383). -/
theorem test_wf_window : Instr.wf (.mailboxWindowWrite 0 0 0x0E [1, 2, 3, 4]) = false ∧
    Instr.wf (.mailboxWindowWrite 0 0 0x3C [1, 2, 3, 4, 5, 6, 7, 8]) = false ∧
    Instr.wf (.mailboxWindowWrite 0 0 0x40 []) = false ∧
    Instr.wf (.mailboxWindowWrite 0 0 0x13C [1, 2, 3, 4]) = true := by decide

/-- A block write carries at most 255 bytes (R457). -/
theorem test_wf_block : Instr.wf (.setPtr ⟨0x58, 0, List.replicate 256 0, none, true⟩) = false ∧
    Instr.wf (.write ⟨0x58, 0, List.replicate 256 0, none, true⟩) = false := by decide

/-- A recovery leaves SDA low only after nine clocks, or after none (R474). -/
theorem test_wf_recovery : Instr.wf (.busRecovery 3 true) = false ∧ Instr.wf (.busRecovery 9 true) = true := by
  decide

/-- The ill-formed flit stops, by its name. -/
theorem test_ill_formed_flit :
    exec (.flitReceive 0 ⟨true, 0, 0, 0, [], 0, 0⟩) sH = .fault .illFormed := by rfl

/-- No row of the table gives bits. -/
theorem test_no_bits : decodeTableWord 32 7 = none := by rfl

/-! ## Figures of the spec -/

/-- "123456789" -/
def digits : L := [0x31, 0x32, 0x33, 0x34, 0x35, 0x36, 0x37, 0x38, 0x39]

/-- Table 16-7, first row. -/
theorem test_crc32c : crc32c digits = 0xE3069283 := by decide +kernel

/-- Table 16-7, all rows, through the inner loop of R448. -/
theorem test_crc_units :
    crcResult (digits.foldl crcByte {}) = 0xE3069283 ∧
    crcResult (digits.foldl crcByte { poly := 1 }) = 0xCBF43926 ∧
    crcResult (digits.foldl crcByte { poly := 2, refin := false, refout := false, xout := false, value := 0xFFFF })
      = 0x29B1 ∧
    crcResult (digits.foldl crcByte { poly := 3, refin := false, refout := false, xout := false, value := 0 })
      = 0xF4 := by decide +kernel

/-- 04_tracking.md, Case: one line, every lookup. The line of 0x3_A940_1C80. -/
theorem test_lookup : sliceHash 0x3A9401C80 = 9 ∧ dirIdx 0xEA50072 = 0x4D2 ∧ dirSet 0xEA50072 = 19666 ∧
    dirTag 0xEA50072 = 0x1D4A0 ∧ mkWord 3 0 [2] = 0xC0000000000004 ∧ mkWord 1 0 [0, 2] = 0x40000000000005 ∧
    dirAddr { dirBase := 0x1000000000, twLog := 36 } 0xEA50072 = 0x1075280390 := by decide +kernel

/-- The same case: set and tag of the three Strainer geometries. -/
theorem test_strainer_index :
    (let a (n : Nat) : Agent := ⟨0, .mirrored, false, false, some 0, [0], n, 16⟩
     strSet (a 4096) 0xEA50072 = 114 ∧ strTag (a 4096) 0xEA50072 = 0xEA50 ∧
     strTag (a 2048) 0xEA50072 = 0x1D4A0 ∧ strTag (a 16384) 0xEA50072 = 0x3A94) := by decide +kernel

/-- 02_tlanyx_link.md, Case: a forward inside a writeback. The KIND fields of flits n and n + 1. -/
theorem test_kinds :
    (upto 14).map (fun i => (RawFlit.kind ⟨true, 0, 0, 0x88832000000000, [], 0, 0⟩ i).toNat)
      = [0, 0, 0, 0, 0, 0, 0, 0, 0, 2, 3, 8, 8, 8] ∧
    (upto 14).map (fun i => (RawFlit.kind ⟨true, 0, 0, 0x00000028999942, [], 0, 0⟩ i).toNat)
      = [2, 4, 9, 9, 9, 9, 8, 2, 0, 0, 0, 0, 0, 0] := by decide +kernel

/-- What a next state must hold. -/
def after (o : Out) (p : S → Bool) : Bool :=
  match o with
  | .next t => p t
  | _ => false

/-- MB1, with the header of a command without payload. -/
def cased (op pcrc : Nat) : S := mbPutWords openS 0x60 [op, 0, 0, pcrc]

/-- 14_mailboxes.md, the two cases: the CRC of an empty payload is 0, and a PCRC left from an earlier request ends
the ring with BAD_CHECK. -/
theorem test_bad_check : crc32c [] = 0 ∧
    after (exec (.mbDoorbell 1 2 1) (cased 0 7)) (fun t => (t.mb 1).st == .done && (t.mb 1).status == 4) = true := by
  decide +kernel

/-- R335: a bucket at level 0 stays there, one at level 2 leaks to 1. -/
theorem test_leak :
    after (exec (.bucketLeak 3) {}) (fun t => (t.bkt 3).level == 0) = true ∧
    after (exec (.bucketLeak 3) { integ := { bkt := [(3, { level := 2 })] } }) (fun t => (t.bkt 3).level == 1) = true := by
  decide +kernel

/-! ## Witnesses: the hypotheses of each statement are met -/

theorem witness_InfoCommandsAnswerAndOnlyRead :
    (∃ (s : State) (m : Fin 10) (pl : List Byte), s.holds m 0 pl ∧ s.inert) ∧
    (∃ (s : State) (m : Fin 10) (pl : List Byte), s.holds m 1 pl) ∧
    (∃ (s : State) (m : Fin 10) (pl : List Byte), s.holds m 2 pl) :=
  ⟨⟨withCmd {} 8 0 [], 8, [], by unfold State.holds State.inert; decide +kernel⟩,
   ⟨withCmd {} 8 1 [], 8, [], by unfold State.holds; decide +kernel⟩,
   ⟨withCmd {} 8 2 [], 8, [], by unfold State.holds; decide +kernel⟩⟩

theorem witness_ConfigItemsAndLocks :
    (∃ (s : State) (m : Fin 10) (pl : List Byte) (n : Nat), itemSize (numAt pl 0 2) = some n ∧
      s.holds m 0x100 pl ∧ byteAt pl 2 ≤ 1) ∧
    (∃ (s : State) (m : Fin 10) (pl : List Byte) (n : Nat), let v := numAt pl 4 n &&& itemMask (numAt pl 0 2);
      itemSize (numAt pl 0 2) = some n ∧ s.holds m 0x101 pl ∧ s.cfg.lock.getLsbD 0 = false ∧
      itemValid (numAt pl 0 2) v = true) ∧
    (∃ (s : State) (m : Fin 10) (pl : List Byte) (n : Nat), itemSize (numAt pl 0 2) = some n ∧
      s.holds m 0x101 pl ∧ s.cfg.lock.getLsbD 0 = true) ∧
    (∃ (s : State) (m : Fin 10) (pl : List Byte), s.holds m 0x103 pl) :=
  ⟨⟨withCmd {} 8 0x100 [1,0,1,0], 8, [1,0,1,0], 1, by unfold State.holds; decide +kernel⟩,
   ⟨withCmd {} 8 0x101 ([4,0,0,0] ++ toBytes 8 0x16100000), 8, [4,0,0,0] ++ toBytes 8 0x16100000, 8,
     by dsimp only; unfold State.holds; decide +kernel⟩,
   ⟨withCmd { cfg := { lock := 1 } } 8 0x101 [1,0,0,0,2,0,0,0,0,0,0,0], 8, [1,0,0,0,2,0,0,0,0,0,0,0], 1,
     by unfold State.holds; decide +kernel⟩,
   ⟨withCmd {} 8 0x103 [2,0,0,0], 8, [2,0,0,0], by unfold State.holds; decide +kernel⟩⟩

theorem witness_CommitMakesStagedEffective :
    (∃ (s : State) (m : Fin 10) (pl : List Byte), s.holds m 0x102 pl ∧ nbit (byteAt pl 0) 2 = true) ∧
    (∃ (s : State) (m : Fin 10) (pl : List Byte), s.holds m 0x102 pl ∧ nbit (byteAt pl 0) 2 = false ∧
      nbit (byteAt pl 0) 1 = false ∧ s.cfg.lock = 0 ∧ s.cfg.staged.n = s.cfg.eff.n ∧
      commitCheck s (nbit (byteAt pl 0) 0) = none) ∧
    (∃ (s : State) (m : Fin 10) (pl : List Byte), s.holds m 0x102 pl ∧ nbit (byteAt pl 0) 2 = false ∧
      s.cfg.lock.getLsbD 1 = true ∧ regionsDiffer s.cfg.staged s.cfg.eff = true) :=
  ⟨⟨withCmd {} 8 0x102 [4,0,0,0], 8, [4,0,0,0], by unfold State.holds; decide +kernel⟩,
   ⟨withCmd { cfg := { staged := { pport := some 3 } } } 8 0x102 [0,0,0,0], 8, [0,0,0,0],
     by unfold State.holds; decide +kernel⟩,
   ⟨withCmd { cfg := { lock := 2, staged := { region := [(0, 1)] } } } 8 0x102 [0,0,0,0], 8, [0,0,0,0],
     by unfold State.holds; decide +kernel⟩⟩

theorem witness_RegionsCostsAndCaps :
    (∃ (s : State) (m : Fin 10) (pl : List Byte), byteAt pl 0 ≤ 63 ∧ s.holds m 0x104 pl ∧
      s.cfg.lock.getLsbD 1 = false) ∧
    (∃ (s : State) (m : Fin 10) (pl : List Byte), byteAt pl 0 ≤ 63 ∧ s.holds m 0x105 pl ∧ byteAt pl 1 ≤ 1) ∧
    (∃ (s : State) (m : Fin 10) (pl : List Byte), s.holds m 0x106 pl ∧ byteAt pl 1 ≤ 127 ∧
      (s.dom (byteAt pl 0 % 8)).st ≠ .none ∧ nbit (byteAt pl 3) 0 = true ∧ byteAt pl 2 ≠ 0 ∧
      byteAt pl 1 + byteAt pl 2 ≤ 128) ∧
    (∃ (s : State) (m : Fin 10) (pl : List Byte), s.holds m 0x106 pl ∧ byteAt pl 1 ≤ 127 ∧
      (s.dom (byteAt pl 0 % 8)).st ≠ .none ∧ nbit (byteAt pl 3) 0 = false ∧ s.cfg.lock.getLsbD 1 = false ∧
      byteAt pl 2 = 1) ∧
    (∃ (s : State) (m : Fin 10) (pl : List Byte), s.holds m 0x107 pl ∧ byteAt pl 0 ≤ 19 ∧ byteAt pl 1 ≤ 2 ∧
      s.cfg.lock.getLsbD 0 = false) :=
  ⟨⟨withCmd {} 8 0x104 ([63,0,0,0] ++ toBytes 16 0x10000001), 8, [63,0,0,0] ++ toBytes 16 0x10000001,
    by unfold State.holds; decide +kernel⟩,
   ⟨withCmd sH 8 0x105 [1,0,0,0], 8, [1,0,0,0], by unfold State.holds; decide +kernel⟩,
   ⟨withCmd sH 8 0x106 ([1,127,1,1] ++ z 20), 8, ([1,127,1,1] ++ z 20: L),
     by unfold State.holds; decide +kernel⟩,
   ⟨withCmd sH 8 0x106 ([1,2,1,0] ++ List.replicate 18 0xAC ++ [0,0]), 8,
     ([1,2,1,0] ++ List.replicate 18 0xAC ++ [0,0]: L), by unfold State.holds; decide +kernel⟩,
   ⟨withCmd sH 8 0x107 [19,2,0,0], 8, [19,2,0,0], by unfold State.holds; decide +kernel⟩⟩

theorem witness_LinkCommandsReadAndSet :
    (∃ (s : State) (m : Fin 10) (pl : List Byte), s.holds m 0x300 pl) ∧
    (∃ (s : State) (m : Fin 10) (pl : List Byte), s.holds m 0x303 pl ∧ byteAt pl 0 ≤ 19 ∧
      nbit (byteAt pl 1) 0 = false) ∧
    (∃ (s : State) (m : Fin 10) (pl : List Byte), s.holds m 0x303 pl ∧ byteAt pl 0 ≤ 19 ∧
      nbit (byteAt pl 1) 0 = true) ∧
    (∃ (s : State) (m : Fin 10) (pl : List Byte), s.holds m 0x302 pl ∧ byteAt pl 0 ≤ 19 ∧ byteAt pl 1 ≤ 7 ∧
      1 ≤ byteAt pl 3 ∧ byteAt pl 3 ≤ 127 ∧ 1 ≤ byteAt pl 4 ∧ byteAt pl 4 ≤ 63 ∧
      (s.port (byteAt pl 0)).link.st = .l0 ∧ 16 ≤ (s.port (byteAt pl 0)).link.rate) ∧
    (∃ (s : State) (m : Fin 10) (pl : List Byte), s.holds m 0x304 pl ∧ byteAt pl 0 ≤ 2 ∧ byteAt pl 1 ≤ 2 ∧
      byteAt pl 2 ≤ 7 ∧ calm s = true ∧ (byteAt pl 0 = 2 → s.home.s3 ≠ 2)) :=
  ⟨⟨withCmd sH 8 0x300 [], 8, [], by unfold State.holds; decide +kernel⟩,
   ⟨withCmd (cntAdd sH 0 3 7) 8 0x303 [0,0,0,0], 8, [0,0,0,0], by unfold State.holds; decide +kernel⟩,
   ⟨withCmd (cntAdd sH 0 3 7) 8 0x303 [0,1,0,0], 8, [0,1,0,0], by unfold State.holds; decide +kernel⟩,
   ⟨withCmd (sH.updLink 0 fun l => {l with rate := 16}) 8 0x302 [0,7,0,127,63,0,0,0], 8, [0,7,0,127,63,0,0,0],
     by unfold State.holds; decide +kernel⟩,
   ⟨withCmd {} 8 0x304 [1,2,7,0], 8, [1,2,7,0], by unfold State.holds; decide +kernel⟩⟩

theorem witness_LinkRetrainStartsTraining :
    (∃ (s : State) (m : Fin 10) (pl : List Byte), s.holds m 0x301 pl ∧ byteAt pl 0 ≤ 19 ∧
      retrainRefused s (byteAt pl 0) = false ∧ s.up (byteAt pl 0) = false ∧ portUsed s (byteAt pl 0) = true) ∧
    (∃ (s : State) (m : Fin 10) (pl : List Byte) (d : Nat), s.holds m 0x301 pl ∧ byteAt pl 0 ≤ 19 ∧
      nbit (byteAt pl 1) 0 = true ∧ byteAt pl 0 < 16 ∧ (s.port (byteAt pl 0)).mem.dom = some d ∧
      (s.dom d).st.inService = true) ∧
    (∃ (s : State) (m : Fin 10) (pl : List Byte), s.holds m 0x301 pl ∧ byteAt pl 0 ≤ 19 ∧
      nbit (byteAt pl 1) 0 = false ∧ retrainRefused s (byteAt pl 0) = true) :=
  ⟨⟨withCmd sH 8 0x301 [3,0,0,0], 8, [3,0,0,0], by unfold State.holds; decide +kernel⟩,
   ⟨withCmd sH 8 0x301 [0,1,0,0], 8, [0,1,0,0], 1, by unfold State.holds; decide +kernel⟩,
   ⟨withCmd sH 8 0x301 [0,0,0,0], 8, [0,0,0,0], by unfold State.holds; decide +kernel⟩⟩

theorem witness_PowerCommandsReadAndSet :
    (∃ (s : State) (m : Fin 10) (pl : List Byte), s.holds m 0x400 pl ∧ byteAt pl 0 = 0) ∧
    (∃ (s : State) (m : Fin 10) (pl : List Byte), s.holds m 0x400 pl ∧ byteAt pl 0 = 1) ∧
    (∃ (s : State) (m : Fin 10) (pl : List Byte), s.holds m 0x400 pl ∧ byteAt pl 0 = 2) ∧
    (∃ (s : State) (m : Fin 10) (pl : List Byte), s.holds m 0x401 pl ∧ byteAt pl 0 = 0 ∧ 1 ≤ numAt pl 4 2 ∧
      numAt pl 4 2 ≤ 4095) ∧
    (∃ (s : State) (m : Fin 10) (pl : List Byte), s.holds m 0x401 pl ∧ byteAt pl 0 = 1 ∧ byteAt pl 1 ≤ 15 ∧
      paramsOk (policyParams pl) = true) ∧
    (∃ (s : State) (m : Fin 10) (pl : List Byte), s.holds m 0x402 pl ∧ byteAt pl 0 ≤ 15 ∧
      nbit (byteAt pl 1) 0 = false) ∧
    (∃ (s : State) (m : Fin 10) (pl : List Byte), s.holds m 0x402 pl ∧ byteAt pl 0 ≤ 15 ∧
      nbit (byteAt pl 1) 0 = true) :=
  ⟨⟨withCmd {} 8 0x400 [0,0,0,0], 8, [0,0,0,0], by unfold State.holds; decide +kernel⟩,
   ⟨withCmd {} 8 0x400 [1,0,0,0], 8, [1,0,0,0], by unfold State.holds; decide +kernel⟩,
   ⟨withCmd {} 8 0x400 [2,0,0,0], 8, [2,0,0,0], by unfold State.holds; decide +kernel⟩,
   ⟨withCmd {} 8 0x401 hubPol, 8, hubPol, by unfold State.holds; decide +kernel⟩,
   ⟨withCmd {} 8 0x401 portPol, 8, portPol, by unfold State.holds; decide +kernel⟩,
   ⟨withCmd {} 8 0x402 [15,0,0,0], 8, [15,0,0,0], by unfold State.holds; decide +kernel⟩,
   ⟨withCmd {} 8 0x402 [15,1,0,0], 8, [15,1,0,0], by unfold State.holds; decide +kernel⟩⟩

theorem witness_DomainParametersAreSet :
    (∃ (s : State) (m : Fin 10) (pl : List Byte), let d := byteAt pl 0 % 8; s.holds m 0x200 pl ∧
      ((s.dom d).st = .none ∨ (s.dom d).st = .created) ∧ createOk pl = true ∧
      windowClash s d (createParams pl) = false ∧
      sumsOk s d (createParams pl).q (createParams pl).cq (createParams pl).mbq = true ∧
      (s.dom d).st = .none) ∧
    (∃ (s : State) (m : Fin 10) (pl : List Byte), let d := byteAt pl 0 % 8; s.holds m 0x206 pl ∧
      (s.dom d).st ≠ .none ∧ quotaOk (byteAt pl 1) (byteAt pl 2) (byteAt pl 3) (byteAt pl 4) = true ∧
      sumsOk s d (byteAt pl 1) (byteAt pl 3) (byteAt pl 4) = true) :=
  ⟨⟨withCmd {} 8 0x200 crPl, 8, crPl, by dsimp only; unfold State.holds; decide +kernel⟩,
   ⟨withCmd sH 8 0x206 [1,1,1,1,0,0,0,0], 8, [1,1,1,1,0,0,0,0],
     by dsimp only; unfold State.holds; decide +kernel⟩⟩

theorem witness_AgentsEnterAndLeaveTheMap :
    (∃ (s : State) (m : Fin 10) (pl : List Byte), ∃ c k, let d := byteAt pl 1 % 8; let dan := byteAt pl 2;
      let p := byteAt pl 3; s.holds m 0x207 pl ∧ byteAt pl 0 = 0 ∧ admitState s d = true ∧ p ≤ 15 ∧
      byteAt pl 4 = modeCode k ∧ s.up p = true ∧ (s.port p).link.capAcked = true ∧
      (s.port p).link.farCap = some c ∧ (s.port p).mem.dom = none ∧ dan ≤ 127 ∧ (c.role.toNat ≤ 1 →
      dan ≤ 39) ∧ s.agent d dan = none ∧ (s.dom d).stale.getLsbD dan = false ∧ (c.role.toNat ≤ 1 →
      (s.dom d).par.var = true → c.fcap = true) ∧ kindFor s d c = some k) ∧
    (∃ (s : State) (m : Fin 10) (pl : List Byte), let d := byteAt pl 1 % 8; let dan := byteAt pl 2;
      s.holds m 0x207 pl ∧ byteAt pl 0 = 1 ∧ admitState s d = true ∧
      (recordAgent (byteAt pl 5)).hub ≠ s.hubId ∧ (recordAgent (byteAt pl 5)).hub < s.hubs ∧ dan ≤ 127 ∧
      ((recordAgent (byteAt pl 5)).kind = .caching ∨ (recordAgent (byteAt pl 5)).kind = .mirrored →
      dan ≤ 39) ∧ s.agent d dan = none ∧ (s.dom d).stale.getLsbD dan = false) ∧
    (∃ (s : State) (m : Fin 10) (pl : List Byte), ∃ a, let d := byteAt pl 1 % 8; let dan := byteAt pl 2;
      s.holds m 0x208 pl ∧ ((s.dom d).st = .created ∨ (s.dom d).st = .quiesced) ∧ (s.dom d).start = none ∧
      s.agent d dan = some a ∧ isTarget s d dan = false ∧ byteAt pl 0 = 0 ∧ a.hub = s.hubId) ∧
    (∃ (s : State) (m : Fin 10) (pl : List Byte), ∃ a, let d := byteAt pl 1 % 8; let dan := byteAt pl 2;
      s.holds m 0x208 pl ∧ ((s.dom d).st = .created ∨ (s.dom d).st = .quiesced) ∧ (s.dom d).start = none ∧
      s.agent d dan = some a ∧ isTarget s d dan = false ∧ byteAt pl 0 = 1 ∧ a.hub ≠ s.hubId) :=
  ⟨⟨withCmd admS 8 0x207 [0,1,5,3,1,0,0,0], 8, [0,1,5,3,1,0,0,0], ⟨0x10, 0, false, false, false, true, 0, 0,
    0, 0⟩, Kind.caching, by dsimp only; unfold State.holds; decide +kernel⟩,
   ⟨withCmd { sN with doms := [(1, {dom1 with st := .created})] } 8 0x207 [1,1,5,0,0,0x11,0,0], 8,
     [1,1,5,0,0,0x11,0,0], by dsimp only; unfold State.holds; decide +kernel⟩,
   ⟨withCmd expS 8 0x208 [0,1,2,0], 8, [0,1,2,0], ag .caching 0,
     by dsimp only; unfold State.holds; decide +kernel⟩,
   ⟨withCmd expS 8 0x208 [1,1,9,0], 8, [1,1,9,0], aRem, by dsimp only; unfold State.holds; decide +kernel⟩⟩

theorem witness_DomainStartAndStop :
    (∃ (s : State) (m : Fin 10) (pl : List Byte), let d := byteAt pl 0 % 8; (s.dom d).start = none ∧
      s.holds m 0x201 pl ∧ ((s.dom d).st = .quiesced ∨ (s.dom d).st = .created ∧ targetsOk s d = true) ∧
      s.hubs = 1 ∧ (s.dom d).heldReqs = [] ∧ ((s.dom d).st = .created → (s.dom d).zeroFlag = true)) ∧
    (∃ (s : State) (m : Fin 10) (pl : List Byte), let d := byteAt pl 0 % 8; (s.dom d).start = none ∧
      s.holds m 0x201 pl ∧ ((s.dom d).st = .quiesced ∨ (s.dom d).st = .created ∧ targetsOk s d = true) ∧
      s.hubs ≠ 1 ∧ numAt pl 4 4 = digest s d) ∧
    (∃ (s : State) (m : Fin 10) (pl : List Byte), let d := byteAt pl 0 % 8; (s.dom d).start = none ∧
      s.holds m 0x203 pl ∧ ((s.dom d).st = .created ∨ (s.dom d).st = .quiesced) ∧ stopWaits s d = false) :=
  ⟨⟨withCmd (domS { dom1 with st := .created, zeroFlag := true }) 8 0x201 [1,0,0,0,0,0,0,0], 8,
    [1,0,0,0,0,0,0,0], by dsimp only; unfold State.holds; decide +kernel⟩,
   ⟨withCmd startN 8 0x201 plN, 8, plN, by dsimp only; unfold State.holds; decide +kernel⟩,
   ⟨withCmd (domS { dom1 with st := .quiesced }) 8 0x203 [1,1,0,0], 8, [1,1,0,0],
     by dsimp only; unfold State.holds; decide +kernel⟩⟩

theorem witness_QuiesceStatusAndSweeps :
    (∃ (s : State) (m : Fin 10) (pl : List Byte), let d := byteAt pl 0 % 8; s.holds m 0x202 pl ∧
      (s.dom d).st = .started ∧ s.home.trackers = [] ∧ s.home.wbs = [] ∧ s.home.merges = [] ∧ (∀ p,
      (s.port p).gateBuf = [])) ∧
    (∃ (s : State) (m : Fin 10) (pl : List Byte), s.holds m 0x204 pl ∧ byteAt pl 1 ≤ 2) ∧
    (∃ (s : State) (m : Fin 10) (pl : List Byte), let d := byteAt pl 0 % 8; s.holds m 0x205 pl ∧
      (s.dom d).start = none ∧ byteAt pl 1 = 1 ∧ (s.dom d).st = .created ∧ (s.dom d).par.twSize ≠ 0) ∧
    (∃ (s : State) (m : Fin 10) (pl : List Byte), let d := byteAt pl 0 % 8; s.holds m 0x205 pl ∧
      (s.dom d).start = none ∧ byteAt pl 1 = 1 ∧ (s.dom d).st = .created ∧ (s.dom d).par.twSize = 0) ∧
    (∃ (s : State) (m : Fin 10) (pl : List Byte), let d := byteAt pl 0 % 8; s.holds m 0x205 pl ∧
      (s.dom d).start = none ∧ byteAt pl 1 = 0 ∧ ((s.dom d).st = .started ∨ (s.dom d).st = .quiesced) ∧
      (s.dom d).sweep = none ∧ nextDirty s d 0 = none) ∧
    (∃ (s : State) (m : Fin 10) (pl : List Byte), let d := byteAt pl 0 % 8; s.holds m 0x205 pl ∧
      (s.dom d).start = none ∧ byteAt pl 1 = 0 ∧ ((s.dom d).st = .started ∨ (s.dom d).st = .quiesced) ∧
      nextDirty s d 0 ≠ none) :=
  ⟨⟨withCmd { sH with ports := [] } 8 0x202 [1, 0, 0, 0], 8, [1, 0, 0, 0],
    by unfold State.holds; decide +kernel, by decide +kernel, by decide +kernel, by decide +kernel,
    by decide +kernel, fun _ => rfl⟩,
   ⟨withCmd sH 8 0x204 [1,2,1,0], 8, [1,2,1,0], by unfold State.holds; decide +kernel⟩,
   ⟨withCmd (domS { dom1 with st := .created }) 8 0x205 [1,1,0,0], 8, [1,1,0,0],
     by dsimp only; unfold State.holds; decide +kernel⟩,
   ⟨withCmd (domS { st := .created }) 8 0x205 [1,1,0,0], 8, [1,1,0,0],
     by dsimp only; unfold State.holds; decide +kernel⟩,
   ⟨withCmd sH 8 0x205 [1,0,0,0], 8, [1,0,0,0], by dsimp only; unfold State.holds; decide +kernel⟩,
   ⟨withCmd dirtyS 8 0x205 [1,0,0,0], 8, [1,0,0,0], by dsimp only; unfold State.holds; decide +kernel⟩⟩

theorem witness_EveryCommandLeavesTheQueue :
    ∃ (c : Instr) (s t : State), exec c s = .next t :=
  ⟨.droopStretch, {}, _, rfl⟩

theorem witness_GraveIsLeftOnlyByPowerOn :
    ∃ s t : State, s.flt.grave = true ∧ (∀ c rest, s.pending = c :: rest → c ≠ .powerOnReset) ∧
      step s = .next t :=
  ⟨{ pending := [.droopStretch], flt := { grave := true } }, _, rfl, by intro c rest h; cases h; decide, rfl⟩

theorem witness_MemoriesStayCanonical :
    ∃ s t : State, s.canonical = true ∧ step s = .next t :=
  ⟨{ pending := [.tokenGain], nvm := [(7, 1)] }, _, by decide, rfl⟩

theorem witness_SlotsReadBackAsWritten :
    (∃ (m : Msg), (∀ op f d, m = .ans op f d → (op.usesNst = true ∨ f.nst = 0) ∧ f.poi = false)) ∧
    (∃ (span : Bool) (c : LinkCtl),
      (match c with | .cap _ | .linkDown _ => True | .pwi _ => span = false | _ => span = true)) ∧
    (∃ (hub sl t k : Nat), hub < 8 ∧ sl < 17 ∧ t < 64 ∧ k < 4) :=
  ⟨⟨.ans .srm ⟨h2, 0, lCO, tag7, false⟩ 0, by intro op f d h; cases h; decide⟩,
   ⟨true, LinkCtl.assign aF, by decide +kernel⟩,
   ⟨0, 0, 0, 0, by decide +kernel⟩⟩

theorem witness_LinkTrainingReachesL0 :
    (∃ (s : State) (p : Fin 20), s.clocked = true ∧ portUsed s p = true ∧
      (s.port p).link.st.detects = true) ∧
    (∃ (s : State) (p : Fin 20) (r : Trained), s.clocked = true ∧ portUsed s p = true ∧
      (s.port p).link.st = .training ∧ r.ending = .loopback) ∧
    (∃ (s : State) (p : Fin 20) (r : Trained), s.clocked = true ∧ portUsed s p = true ∧
      (s.port p).link.st = .training ∧ r.ending = .compliance) ∧
    (∃ (s : State) (p : Fin 20) (r : Trained), s.clocked = true ∧ portUsed s p = true ∧
      (s.port p).link.st = .training ∧ r.ending = .link ∧ formedWidth p r = 0) ∧
    (∃ (s : State) (p : Fin 20) (r : Trained), s.clocked = true ∧ portUsed s p = true ∧
      (s.port p).link.st = .training ∧ r.ending = .link ∧
      trainedRate (s.port p).link r (formedWidth p r) ≠ 0 ∧ formedWidth p r ≠ 0) :=
  ⟨⟨pW (fun q => { q with link := { st := .compliance } }), 0, by decide +kernel⟩,
   ⟨trainW, 0, trained .loopback 0xFF, by decide +kernel⟩,
   ⟨trainW, 0, trained .compliance 0xFF, by decide +kernel⟩,
   ⟨trainW, 0, trained .link 0, by decide +kernel⟩,
   ⟨trainW, 0, trained .link 0xFF, by decide +kernel⟩⟩

theorem witness_ReplayAndRecovery :
    (∃ (s : State) (p : Fin 20), ∃ f rest, s.clocked = true ∧ (s.port p).link.st = .l0 ∧
      (s.port p).tx.replay = f :: rest ∧ (s.port p).tx.replays < 4) ∧
    (∃ (s : State) (p : Fin 20), ∃ f rest, s.clocked = true ∧ (s.port p).link.st = .l0 ∧
      (s.port p).tx.replay = f :: rest ∧ 4 ≤ (s.port p).tx.replays) ∧
    (∃ (s : State) (p : Fin 20), (s.port p).link.st = .l0 ∧ (s.port p).link.hs ≠ .entering) ∧
    (∃ (s : State) (p : Fin 20), (s.port p).link.st = .recovery ∧ (s.port p).link.exiting = false) ∧
    (∃ (s : State) (p : Fin 20), (s.port p).link.st = .recovery ∧ (s.port p).link.exiting = true) :=
  ⟨⟨pW (fun q => { q with tx := { q.tx with seq := 7, replay := [tf 5, tf 6] } }), 0, tf 5, [tf 6],
    by decide +kernel⟩,
   ⟨pW (fun q => { q with tx := { q.tx with seq := 7, replay := [tf 5, tf 6], replays := 4 } }), 0, tf 5,
     [tf 6], by decide +kernel⟩,
   ⟨pW (fun q => { q with tx := { q.tx with seq := 7, replay := [tf 5, tf 6] } }), 0, by decide +kernel⟩,
   ⟨pW (fun q => { q with link := { q.link with st := .recovery }, tx := { q.tx with seq := 7, replay := [tf 5, tf 6], replays := 4 } }),
     0, by decide +kernel⟩,
   ⟨pW (fun q => { q with link := { q.link with st := .recovery, exiting := true }, tx := { q.tx with seq := 7, replay := [tf 5, tf 6], replays := 4 } }),
     0, by decide +kernel⟩⟩

theorem witness_LinksEndHeld :
    (∃ (s : State) (p : Fin 20), s.up p = true) ∧
    (∃ (s : State) (p : Fin 20), (s.port p).link.st = .recovery ∧ ¬((s.port p).link.exiting = true ∧
      16 ≤ p.val ∧ (s.port p).link.netHigh = true)) ∧
    (∃ (s : State) (p : Fin 20), (s.port p).link.st = .recovery ∧ (s.port p).link.exiting = true ∧
      16 ≤ p.val ∧ (s.port p).link.netHigh = true) ∧
    (∃ (s : State) (p : Fin 20), s.clocked = true ∧ s.up p = true ∧ capSeen (s.port p) = false) :=
  ⟨⟨sH, 0, by decide +kernel⟩,
   ⟨pW (fun q => { q with link := { q.link with st := .recovery } }), 0, by decide +kernel⟩,
   ⟨sN.updPort 16 (fun q => { q with link := { q.link with st := .recovery, exiting := true, netHigh := true } }),
     16, by decide +kernel⟩,
   ⟨pW (fun q => { q with link := { q.link with farCap := none } }), 0, by decide +kernel⟩⟩

theorem witness_CapabilitiesAreExchanged :
    (∃ (s : State) (p : Fin 20), ∃ c, s.clocked = true ∧ s.up p = true ∧ (s.port p).link.farCap = none ∧
      capResult s p c = 0) ∧
    (∃ (s : State) (p : Fin 20), ∃ c, s.clocked = true ∧ s.up p = true ∧ (s.port p).link.farCap = none ∧
      capResult s p c ≠ 0) ∧
    (∃ (s : State) (p : Fin 20), 16 ≤ p.val ∧ s.up p = true ∧ (s.port p).link.peerAck = false ∧
      (s.port p).link.capAcked = true) ∧
    (∃ (s : State) (a : Fin 16), ∃ d, releaseAcked (s.port a) = true ∧ (s.port a).mem.assignQ.isSome = true ∧
      (s.port a).mem.dom = some d ∧ s.up a = true) :=
  ⟨⟨pW (fun q => { q with link := { q.link with farCap := none } }), 0, cA 1, by decide +kernel⟩,
   ⟨pW (fun q => { q with link := { q.link with farCap := none } }), 0, cA 0x10, by decide +kernel⟩,
   ⟨sN.updPort 16 (fun q => { q with link := { q.link with capAcked := true } }), 16, by decide +kernel⟩,
   ⟨pW (fun q => { q with mem := { q.mem with relWait := true, relSeq := some 4, assignQ := some aF } }), 0,
     1, by decide +kernel⟩⟩

theorem witness_SimmerIsEnteredAndLeft :
    (∃ (s : State) (p : Fin 20), (s.port p).link.st = .l0 ∧ s.clocked = true ∧ (s.port p).link.hs = .idle ∧
      simmerReady (s.port p) = true ∧ hubBusy s = false) ∧
    (∃ (s : State) (p : Fin 20), (s.port p).link.st = .l0 ∧ s.clocked = true ∧ (s.port p).link.hs = .idle ∧
      (simmerReady (s.port p) = false ∨ hubBusy s = true)) ∧
    (∃ (s : State) (p : Fin 20), (s.port p).link.st = .l0 ∧ (s.port p).link.hs ≠ .entering) ∧
    (∃ (s : State) (p : Fin 20), (s.port p).link.st = .l0 ∧ (s.port p).link.hs = .entering ∧
      handshakeDone (s.port p) = true) ∧
    (∃ (s : State) (p : Fin 20), (s.port p).link.st = .l0 ∧ s.clocked = true ∧ s.kt.portIdle ≠ 0 ∧
      hubBusy s = false ∧ (s.port p).link.hs = .idle ∧ simmerReady (s.port p) = true) ∧
    (∃ (s : State) (p : Fin 20), ∃ b, (s.port p).link.hs = .requested b) ∧
    (∃ (s : State) (p : Fin 20), (s.port p).link.hs = .requested true) ∧
    (∃ (s : State) (p : Fin 20), (s.port p).link.st = .simmer ∧ s.alive = true ∧ s.kt.st = .steep ∧
      (s.port p).link.exiting = false) ∧
    (∃ (s : State) (p : Fin 20), (s.port p).link.st = .simmer ∧ s.clocked = true ∧
      (s.port p).link.exiting = false ∧ ((s.port p).link.exitDue = true ∨ hubBusy s = true)) :=
  ⟨⟨sH, p0, by decide +kernel⟩,
   ⟨withTrk sH (trk lCO .rds .collect), p0, by decide +kernel⟩,
   ⟨sH, p0, by decide +kernel⟩,
   ⟨hsW .entering, p0, by decide +kernel⟩,
   ⟨sH, p0, by decide +kernel⟩,
   ⟨hsW (.requested true), p0, true, by decide +kernel⟩,
   ⟨hsW (.requested true), p0, by decide +kernel⟩,
   ⟨simW .steep false false, p0, by decide +kernel⟩,
   ⟨simW .warm false true, p0, by decide +kernel⟩⟩

theorem witness_FlitsAreReceived :
    (∃ (s : State) (p : Fin 20) (f : RawFlit), f.slots.length = 14 ∧ s.clocked = true ∧
      (s.port p).link.st = .l0 ∧ f.fecCorr = 0 ∧ f.crcOk = false ∧ f.fk ≠ 1) ∧
    (∃ (s : State) (p : Fin 20) (f : RawFlit), f.slots.length = 14 ∧ s.clocked = true ∧
      (s.port p).link.st = .l0 ∧ f.fecCorr = 0 ∧ f.crcOk = true ∧ 2 ≤ f.fk.toNat) ∧
    (∃ (s : State) (p : Fin 20) (f : RawFlit), ∃ r, f.slots.length = 14 ∧ s.clocked = true ∧
      (s.port p).link.st = .l0 ∧ f.fecCorr = 0 ∧ f.crcOk = true ∧ f.fk = 0 ∧ downSlot f = some r) ∧
    (∃ (s : State) (p : Fin 20) (f : RawFlit), ∃ i, f.slots.length = 14 ∧ s.clocked = true ∧
      (s.port p).link.st = .l0 ∧ f.fecCorr = 0 ∧ f.crcOk = true ∧ f.fk = 1 ∧ f.ackv = true ∧ f.rpq = false ∧
      ((s.port p).tx.replay.findIdx? fun g => g.seq == f.ack) = some i) ∧
    (∃ (s : State) (p : Fin 20) (f : RawFlit), let back := ((s.port p).rx.seq - f.seq).toNat;
      f.slots.length = 14 ∧ s.clocked = true ∧ (s.port p).link.st = .l0 ∧ f.fecCorr = 0 ∧ f.crcOk = true ∧
      f.fk = 0 ∧ downSlot f = none ∧ 1 ≤ back ∧ back ≤ 64) ∧
    (∃ (s : State) (p : Fin 20) (f : RawFlit), let back := ((s.port p).rx.seq - f.seq).toNat;
      f.slots.length = 14 ∧ s.clocked = true ∧ (s.port p).link.st = .l0 ∧ f.fecCorr = 0 ∧ f.crcOk = true ∧
      f.fk = 0 ∧ downSlot f = none ∧ 64 < back) ∧
    (∃ (s : State) (p : Fin 20) (f : RawFlit), ∃ m bits, f.slots.length = 14 ∧ s.clocked = true ∧
      (s.port p).link.st = .l0 ∧ f.fecCorr = 0 ∧ f.crcOk = true ∧ f.fk = 0 ∧ downSlot f = none ∧
      f.ackv = false ∧ f.rpq = false ∧ f.seq = (s.port p).rx.seq ∧ f.pm = 0 ∧ crValid (f.cr 0) = false ∧
      crValid (f.cr 1) = false ∧ f.kind 0 = 2 ∧ f.slots[0]? = some bits ∧ decodeSlot false bits = some m ∧
      m.reservedValue = false ∧ mayFar (decide (16 ≤ p.val)) (s.port p).link.farCap m = true ∧
      (s.port p).rx.opens = [] ∧ tget 0 (s.port p).rx.granted (msgKey p m) ≠ 0 ∧ (∀ i, 1 ≤ i → i < 14 →
      f.kind i = 0 ∧ f.slots[i]? = some 0)) :=
  ⟨⟨sH, p0, fl false (dlf 0 0 0 0 0) 0 0, by decide +kernel⟩,
   ⟨sH, p0, fl true (dlf 2 0 0 0 0) 0 0, by decide +kernel⟩,
   ⟨sH, p0, fl true (dlf 0 0 0 0 0) 1 (encodeCtl (.linkDown 0x0B)), 0x0B, by decide +kernel⟩,
   ⟨pW (fun q => { q with tx := { q.tx with seq := 7, replay := [tf 5, tf 6] } }), p0,
     fl true (dlf 1 0 1 5 0) 0 0, 0, by decide +kernel⟩,
   ⟨pW (fun q => { q with rx := { q.rx with seq := 70 } }), p0, fl true (dlf 0 0 0 0 6) 0 0,
     by dsimp only; decide +kernel⟩,
   ⟨pW (fun q => { q with rx := { q.rx with seq := 70 } }), p0, fl true (dlf 0 0 0 0 5) 0 0,
     by dsimp only; decide +kernel⟩,
   ⟨farS, p0, fl true (dlf 0 0 0 0 70) 2 (encodeSlot mm1), mm1, encodeSlot mm1, by decide +kernel⟩⟩

theorem witness_FlitsAreTransmitted :
    (∃ (s : State) (p : Fin 20), ∃ n f rest, s.clocked = true ∧ (s.port p).link.st = .l0 ∧
      (s.port p).tx.replayAt = some n ∧ ((s.port p).tx.replay.dropWhile fun g => g.seq != n) = f :: rest) ∧
    (∃ (s : State) (p : Fin 20), s.clocked = true ∧ (s.port p).link.st = .l0 ∧ (s.port p).tx.replayAt = none ∧
      64 ≤ (s.port p).tx.replay.length) ∧
    (∃ (s : State) (p : Fin 20), ∃ c rest, s.clocked = true ∧ (s.port p).link.st = .l0 ∧
      (s.port p).tx.replayAt = none ∧ (s.port p).tx.replay.length < 64 ∧ (s.port p).tx.lcq = c :: rest ∧
      (s.port p).tx.opens = [] ∧ (s.port p).link.hs ≠ .entering) :=
  ⟨⟨pW (fun q => { q with tx := { q.tx with seq := 7, replay := [tf 5, tf 6], replayAt := some 5 } }), p0, 5,
    tf 5, [tf 6], by decide +kernel⟩,
   ⟨pW (fun q => { q with tx := { q.tx with seq := 7, replay := (List.range 64).map tf } }), p0,
     by decide +kernel⟩,
   ⟨pW (fun q => { q with tx := { q.tx with seq := 7, lcq := [.assign aF, .release 1], q := [.cmp h2 0, .dat .dsh ⟨h2, false, false, 0, lCO, tag7⟩ 5] } }),
     p0, LinkCtl.assign aF, [LinkCtl.release 1], by decide +kernel⟩⟩

theorem witness_ClocksLockAndStretch :
    (∃ (s : State), s.alive = true ∧ s.kt.pllOn = true ∧ s.kt.pllLock = false ∧ s.kt.attempts < 4) ∧
    (∃ (s : State), s.alive = true ∧ s.kt.pllOn = true ∧ s.kt.pllLock = false ∧ 4 ≤ s.kt.attempts) ∧
    (∃ (s : State), s.alive = true ∧ s.kt.pllLock = true ∧ s.kt.run = false ∧ s.kt.gaveUp = false) ∧
    (∃ (s : State), s.clocked = true ∧ s.kt.stretch < 2) ∧
    (∃ (s : State), s.clocked = true ∧ (s.kt.stretch = 1 ∨ s.kt.stretch = 2)) ∧
    (∃ (s : State), s.clocked = true ∧ s.kt.stretch ≠ 0) :=
  ⟨⟨{}, by decide +kernel⟩,
   ⟨{ kt := { attempts := 4, stretch := 2 } }, by decide +kernel⟩,
   ⟨{ kt := { st := .boil, pllLock := true, stretch := 1 } }, by decide +kernel⟩,
   ⟨{}, by decide +kernel⟩,
   ⟨{ kt := { attempts := 4, stretch := 2 } }, by decide +kernel⟩,
   ⟨{ kt := { attempts := 4, stretch := 2 } }, by decide +kernel⟩⟩

theorem witness_SteepAndDormantComeAndGo :
    (∃ (s : State) (p : Fin 20), s.alive = true ∧ (s.kt.st = .boil ∨ s.kt.st = .warm) ∧ steepConds s = true ∧
      (s.port p).link.st = .l0 ∧ (s.port p).link.hs = .idle ∧ simmerReady (s.port p) = true) ∧
    (∃ (s : State), s.alive = true ∧ s.kt.st = .enterSteep ∧ (∀ p : Fin 20, s.up p = true →
      (s.port p).link.st = .simmer ∧ (s.port p).link.exiting = false)) ∧
    (∃ (s : State), s.alive = true ∧ s.kt.st = .steep ∧ s.kt.netPull = false) ∧
    (∃ (s : State) (a : Fin 16) (d : Nat), s.clocked = true ∧ (s.port a).link.wakeTrain = true ∧
      s.up a = true ∧ (s.port a).link.farCap.isSome = true ∧ (s.port a).mem.sent.isSome = true ∧
      (s.port a).mem.dom = some d ∧ (s.port a).mem.relWait = false) ∧
    (∃ (s : State) (p : Fin 20), s.alive = true ∧ (s.port p).link.wakeTrain = true ∧ s.up p = false ∧
      p.val < 16) ∧
    (∃ (s : State) (p : Fin 20), s.alive = true ∧ (s.port p).link.wakeTrain = true ∧ s.up p = false ∧
      16 ≤ p.val) :=
  ⟨⟨{ ({ kt := {} } : S) with ports := sH.ports }, 0, by decide +kernel⟩,
   ⟨{ kt := { st := .enterSteep }, ports := [(0, { pUp 1 2 with link := { st := .simmer } })] },
     by decide +kernel⟩,
   ⟨{ kt := { st := .steep, netPull := false }, ports := [(0, { pUp 1 2 with link := { st := .simmer } })] },
     by decide +kernel⟩,
   ⟨{ kt := { st := .leaveDormant }, ports := [(0, { pUp 1 2 with link := { st := .l0, wakeTrain := true, farCap := some ⟨1, 0, false, false, false, true, 0, 0, 0, 0⟩ } })] },
     a0, 1, by decide +kernel⟩,
   ⟨{ kt := { st := .leaveDormant }, ports := [(0, { pUp 1 2 with link := { st := .training, wakeTrain := true } }), (16, { link := { st := .training, wakeTrain := true } })] },
     0, by decide +kernel⟩,
   ⟨{ kt := { st := .leaveDormant }, ports := [(0, { pUp 1 2 with link := { st := .training, wakeTrain := true } }), (16, { link := { st := .training, wakeTrain := true } })] },
     16, by decide +kernel⟩⟩

theorem witness_HintsAndEdgesAdapt :
    (∃ (s : State) (a : Fin 16), foreRuns s a = true ∧ (s.port a).fore.phase = .watch) ∧
    (∃ (s : State) (a : Fin 16), foreRuns s a = true ∧ (s.port a).fore.hint = true) ∧
    (∃ (s : State) (a : Fin 16), foreRuns s a = true ∧ 8 ≤ (s.port a).fore.busy ∧
      (s.port a).fore.windowReqs = 0 ∧ (s.port a).fore.phase = .none ∧ (s.port a).fore.ldhHold = false) ∧
    (∃ (s : State) (a : Fin 16), foreRuns s a = true ∧ (s.port a).fore.phase = .lead ∧
      (s.port a).fore.large = true ∧ (s.port a).fore.imminent = false ∧ (s.port a).fore.ldhHold = false) ∧
    (∃ (s : State) (a : Fin 16), ∃ c, s.alive = true ∧ (s.port a).fore.ldhHold = true ∧
      (s.port a).fore.ldhDue = some c) ∧
    (∃ (s : State) (a : Fin 16), s.alive = true ∧ (s.port a).fore.ldhHold = true ∧
      (s.port a).fore.ldhDue = none) ∧
    (∃ (s : State) (a : Fin 16), let f := (s.port a).fore; s.clocked = true ∧ f.phase ≠ .none ∧
      f.edgeInEvent = false) ∧
    (∃ (s : State) (a : Fin 16), let f := (s.port a).fore; s.clocked = true ∧ (f.phase = .none ∨
      f.edgeInEvent = true)) ∧
    (∃ (s : State), s.clocked = false ∧ s.alive = true) ∧
    (∃ (s : State) (a : Fin 16), s.clocked = true ∧ (s.port a).ready = [] ∧ s.home.wbs = []) :=
  ⟨⟨fW { phase := .watch, large := true, busy := 9, ldhHold := true, ldhDue := some 3 }, a0,
    by decide +kernel⟩,
   ⟨fW { phase := .lead, large := true, hint := true, ldh := 3 }, a0, by decide +kernel⟩,
   ⟨fW { phase := .none, busy := 8 }, a0, by decide +kernel⟩,
   ⟨fW { phase := .lead, large := true, hint := true, ldh := 3 }, a0, by decide +kernel⟩,
   ⟨fW { phase := .watch, large := true, busy := 9, ldhHold := true, ldhDue := some 3 }, a0, 3,
     by decide +kernel⟩,
   ⟨fW { phase := .none, busy := 8, ldhHold := true }, a0, by decide +kernel⟩,
   ⟨fW { phase := .watch, large := true, busy := 9, ldhHold := true, ldhDue := some 3 }, a0,
     by dsimp only; decide +kernel⟩,
   ⟨fW { phase := .none, busy := 8, ldhHold := true }, a0, by dsimp only; decide +kernel⟩,
   ⟨{ (fW { phase := .ramp, lead := 15, start := 5 }) with kt := { st := .steep } }, by decide +kernel⟩,
   ⟨fW { phase := .watch, large := true, busy := 9, ldhHold := true, ldhDue := some 3 }, a0,
     by decide +kernel⟩⟩

theorem witness_PwiIsRecordedOrIgnored :
    (∃ (s : State) (a : Fin 16) (f : PwiF) (c : CapF), s.clocked = true ∧ s.up a = true ∧
      (s.port a).link.farCap = some c ∧ c.pwic = true ∧ (s.port a).mem.sent.isSome = true ∧ 1 ≤ f.int.toNat ∧
      f.int.toNat ≤ 4) ∧
    (∃ (s : State) (a : Fin 16) (f : PwiF) (c : CapF), s.clocked = true ∧ s.up a = true ∧
      (s.port a).link.farCap = some c ∧ (c.pwic = false ∨ (s.port a).mem.sent = none ∨ f.int = 0 ∨
      4 < f.int.toNat)) :=
  ⟨⟨wP true, a0, ⟨4, 3, 0xFFF⟩, cP true, by decide +kernel⟩,
   ⟨wP true, a0, ⟨5, 15, 3⟩, cP true, by decide +kernel⟩⟩

theorem witness_ScrubbingMovesOn :
    (∃ (s : State) (m : Fin 12), s.alive = true ∧ 0 < (s.bkt m).level) ∧
    (∃ (s : State), s.clocked = true ∧ s.integ.pass ≠ 0 ∧ s.home.switching ≠ some 16 ∧ s.arr = {} ∧
      fld s.integ.injCtl.toNat 31 24 = 0) ∧
    (∃ (s : State), s.alive = true ∧ s.inert) :=
  ⟨⟨{ integ := { bkt := [(0, { level := 1 }), (11, { level := 5 })], step := passSteps - 1, injCtl := 0 } },
    0, by decide +kernel⟩,
   ⟨{}, by decide +kernel⟩,
   ⟨{}, by unfold State.inert; decide +kernel⟩⟩

theorem witness_SparesRotateAndReplace :
    (∃ (s : State), ∃ u, s.clocked = true ∧ s.home.wbs = [] ∧ s.integ.test = none ∧ nextTestUnit s = some u ∧
      u ≠ 33) ∧
    (∃ (s : State), ∃ x, s.clocked = true ∧ s.home.wbs = [] ∧ s.integ.test = some x ∧ x.phase = .copy ∧
      s.arr = {} ∧ fld s.integ.injCtl.toNat 31 24 = 0 ∧ (∀ y ∈ s.home.trackers, y.phase ≠ .hold)) ∧
    (∃ (s : State), ∃ x, s.clocked = true ∧ s.home.wbs = [] ∧ s.integ.test = some x ∧ x.phase = .window ∧
      x.unit ≠ 33 ∧ s.integ.stepDue = false) ∧
    (∃ (s : State), ∃ x, s.clocked = true ∧ s.home.wbs = [] ∧ s.integ.test = some x ∧ x.phase = .window ∧
      x.unit = 33) ∧
    (∃ (s : State), ∃ x, s.clocked = true ∧ s.home.wbs = [] ∧ s.integ.test = some x ∧ x.phase = .drain ∧
      (∀ y ∈ s.home.trackers, y.sl ≠ x.src) ∧ (∀ y ∈ s.home.fwds, y.sl ≠ x.src) ∧ (∀ y ∈ s.home.victims,
      y.sl ≠ x.src)) ∧
    (∃ (s : State), ∃ x pass, s.clocked = true ∧ s.home.wbs = [] ∧ s.integ.test = some x ∧ x.phase = .test ∧
      pass = true) ∧
    (∃ (s : State), ∃ x pass, s.clocked = true ∧ s.home.wbs = [] ∧ s.integ.test = some x ∧ x.phase = .test ∧
      pass = false) ∧
    (∃ (s : State), ∃ u, s.clocked = true ∧ s.home.wbs = [] ∧ u < 34 ∧ (s.rotOf u).noSpare = false ∧
      (s.rotOf u).passed = 0) ∧
    (∃ (s : State) (phys : Fin 17), ∃ d, s.clocked = true ∧ fenced s phys = false ∧
      tget none s.home.roles phys ≠ some .failed ∧ s.home.recs.length < 8 ∧ (∃ x ∈ s.home.trackers,
      x.sl = phys.val ∧ x.dom = d ∧ d < 8) ∧ (s.dom d).st.inService = true) ∧
    (∃ (s : State) (phys : Fin 17), ∃ k p, s.clocked = true ∧ fenced s phys = true ∧ orphan s phys = some k ∧
      s.home.wbs = [] ∧ usableSpare s phys = some p) ∧
    (∃ (s : State) (phys : Fin 17), ∃ k, s.clocked = true ∧ fenced s phys = true ∧ orphan s phys = some k ∧
      s.home.wbs = [] ∧ usableSpare s phys = none ∧ s.mapped ≠ []) :=
  ⟨⟨{ integ := { rot := passedAll, injCtl := 0 } }, 0, by decide +kernel⟩,
   ⟨{ integ := { rot := passedAll, injCtl := 0, test := some ⟨0, .copy, 3⟩ } }, ⟨0, .copy, 3⟩,
     by decide +kernel⟩,
   ⟨{ integ := { rot := passedAll, injCtl := 0, test := some ⟨0, .window, 3⟩ } }, ⟨0, .window, 3⟩,
     by decide +kernel⟩,
   ⟨{ home := { switching := some 3 }, integ := { rot := passedAll, injCtl := 0, test := some ⟨33, .window, 3⟩ } },
     ⟨33, .window, 3⟩, by decide +kernel⟩,
   ⟨{ home := { drainOf := some (3, 16) }, integ := { rot := passedAll, injCtl := 0, test := some ⟨33, .drain, 3⟩ } },
     ⟨33, .drain, 3⟩, by decide +kernel⟩,
   ⟨{ integ := { rot := passedAll, injCtl := 0, test := some ⟨5, .test, 3⟩ } }, ⟨5, .test, 3⟩, true,
     by decide +kernel⟩,
   ⟨{ integ := { rot := passedAll, injCtl := 0, test := some ⟨5, .test, 3⟩ } }, ⟨5, .test, 3⟩, false,
     by decide +kernel⟩,
   ⟨{}, 33, by decide +kernel⟩,
   ⟨withTrk { sH with integ := { rot := passedAll } } { trk lCO .rds .collect with sl := 3 }, 3, 1,
     by decide +kernel⟩,
   ⟨{ fen with integ := { rot := passedAll } }, 3, 3, 16, by decide +kernel⟩,
   ⟨fen, 3, 3, by decide +kernel⟩⟩

theorem witness_RegistersTakeTheirWrites :
    (∃ (s : State) (v : BitVec 32), s.clocked = true ∧ v.getLsbD 31 = true ∧
      flipMem (fld v.toNat 27 24) = false) ∧
    (∃ (s : State) (v : BitVec 32), s.clocked = true ∧ (v.getLsbD 31 = false ∨
      flipMem (fld v.toNat 27 24) = true)) ∧
    (∃ (s : State), ∃ v, s.clocked = true ∧ rawEn v = true ∧ rawMail v = false ∧
      ramGet s.fwram (rawIdx v) = 0 ∧ fld s.integ.injCtl.toNat 31 24 = 0) ∧
    (∃ (s : State), s.clocked = true ∧ rawEn s.integ.rawCtl = true ∧ rawMail s.integ.rawCtl = false ∧
      ramWf s.fwram = true) ∧
    (∃ (s : State) (off : BitVec 18), s.clocked = true ∧ off.toNat ≠ 0x20 ∧
      (off.toNat < 0x27000 ∨ 0x27200 ≤ off.toNat) ∧ ∀ e ∈ platRegs, e.1 ≠ off.toNat) :=
  ⟨⟨{ integ := { injCtl := 0, flipCtl := 0x40000000, rawCtl := BitVec.ofNat 32 (2^31 + 5) } }, 0xFFFFFFFF,
    by decide +kernel⟩,
   ⟨{ integ := { injCtl := 0, flipCtl := 0x40000000, rawCtl := BitVec.ofNat 32 (2^31 + 5) } }, 0x80000005,
     by decide +kernel⟩,
   ⟨{ integ := { injCtl := 0, flipCtl := 0x40000000, rawCtl := BitVec.ofNat 32 (2^31 + 5) } }, 0x80000005,
     by decide +kernel⟩,
   ⟨{ integ := { injCtl := 0, flipCtl := 0x40000000, rawCtl := BitVec.ofNat 32 (2^31 + 5) } },
     by decide +kernel⟩,
   ⟨{}, 0x204, by decide +kernel⟩⟩

theorem witness_EventsAreLatchedOrMissed :
    (∃ (s : State) (src : Fin 64), s.board.held = .none ∧ s.flt.grave = false ∧ srcReserved src = true) ∧
    (∃ (s : State) (src : Fin 64), s.board.held = .none ∧ s.flt.grave = false ∧ s.flt.lines = [] ∧
      srcReserved src = false ∧ s.flt.status.getLsbD src = true) ∧
    (∃ (s : State) (src : Fin 64), s.board.held = .none ∧ s.flt.grave = false ∧ s.flt.lines = [] ∧
      srcReserved src = false ∧ tget none s.flt.latchedAt src = some s.uptime) ∧
    (∃ (s : State) (src : Fin 64), s.board.held = .none ∧ s.flt.grave = false ∧ s.flt.lines = [] ∧
      srcReserved src = false ∧ s.flt.status.getLsbD src = false ∧
      tget none s.flt.latchedAt src ≠ some s.uptime ∧ s.inert ∧ s.srcCfg src = defaultSrc src ∧
      srcClass src = .notice ∧ s.fw.exch = none) ∧
    (∃ (s : State) (src : Fin 64) (dom : Option (Fin 8)) (detail : BitVec 64), ∃ x ∈ s.flt.lines,
      s.board.held = .none ∧ s.flt.grave = false ∧ srcReserved src = false ∧
      (∃ y ∈ s.flt.lines, y.src = src ∧ y.dom = dom.map Fin.val ∧ y.detail = detail) ∧
      ∀ y ∈ s.flt.lines, y.src = src → x.before y = true) :=
  ⟨⟨{ integ := { injCtl := 0 } }, 5, by decide +kernel⟩,
   ⟨{ integ := { injCtl := 0 }, flt := { status := 1024 } }, 10, by decide +kernel⟩,
   ⟨{ integ := { injCtl := 0 }, flt := { latchedAt := [(10, some 0)] } }, 10, by decide +kernel⟩,
   ⟨{ integ := { injCtl := 0 } }, 10, by unfold State.inert; decide +kernel⟩,
   ⟨{ flt := { lines := [⟨30, none, 7, false, 4⟩, ⟨10, some 1, 6, false, 4⟩] } }, 30, none, 7,
     ⟨10, some 1, 6, false, 4⟩, by decide +kernel⟩⟩

theorem witness_LogAndNoticesAreServed :
    (∃ (s : State) (a : Fin 16) (d : Fin 8), ∃ src rest, (s.port a).hntQ = src :: rest ∧
      noticeFree s a = true ∧ (s.port a).mem.dom = some d.val) ∧
    (∃ (s : State), ∃ r rest, s.flt.queue = r :: rest ∧ s.board.held = .none ∧ s.flt.scanning = false ∧
      0 < s.flt.tokens ∧ ramWf s.nvm = true ∧
      s.nvmFail.contains ((logAddr + 32 * (r.seq % 512)) / 32) = false) ∧
    (∃ (s : State), s.board.held ≠ .powerOn) ∧
    (∃ (s : State), s.board.held = .none ∧ s.flt.scanning = true) ∧
    (∃ (s : State) (v : BitVec 16), s.board.held = .none ∧ (tjMax : Int) ≤ v.toInt ∧ s.sens.armed = true) ∧
    (∃ (s : State) (v : BitVec 16), s.board.held = .none ∧ v.toInt < (tjMax : Int)) :=
  ⟨⟨{ (sH.updPort 0 fun q => { q with hntQ := [3, 4] }) with flt := { queue := [lr false], scanning := false } },
    a0, 1, 3, [4], by decide +kernel⟩,
   ⟨{ (sH.updPort 0 fun q => { q with hntQ := [3, 4] }) with flt := { queue := [lr false, lr true], scanning := false, tokens := 1 }, sens := {} },
     lr false, [lr true], by decide +kernel⟩,
   ⟨{ (sH.updPort 0 fun q => { q with hntQ := [3, 4] }) with flt := { queue := [lr false], scanning := false } },
     by decide +kernel⟩,
   ⟨{ flt := { queue := [lr true], scanning := true, tokens := 16, nextSeq := 4 } }, by decide +kernel⟩,
   ⟨{}, 0x640, rfl, by unfold tjMax; split <;> decide, rfl⟩,
   ⟨{ (sH.updPort 0 fun q => { q with hntQ := [3, 4] }) with flt := { queue := [lr false, lr true], scanning := false, tokens := 1 }, sens := {} },
     0xFFFF, by decide +kernel⟩⟩

theorem witness_FaultCommandsReadAndSet :
    (∃ (s : State) (m : Fin 10) (pl : List Byte), s.holds m 0x500 pl ∧ byteAt pl 0 ≤ 63 ∧ (byteAt pl 1 ≤ 7 ∨
      byteAt pl 1 = 0xFF)) ∧
    (∃ (s : State) (m : Fin 10) (pl : List Byte), s.holds m 0x501 pl) ∧
    (∃ (s : State) (m : Fin 10) (pl : List Byte), s.holds m 0x502 pl ∧ byteAt pl 0 = 0 ∧ byteAt pl 1 ≤ 63 ∧
      srcReserved (byteAt pl 1) = false ∧ srcGrave (byteAt pl 1) = false ∧ byteAt pl 2 ≤ 2 ∧
      byteAt pl 6 ≤ 14 ∧ (srcDom (byteAt pl 1) = true ∨ nbit (byteAt pl 3 ||| byteAt pl 4) 2 = false)) ∧
    (∃ (s : State) (m : Fin 10) (pl : List Byte), s.holds m 0x502 pl ∧ byteAt pl 0 = 1 ∧
      (byteAt pl 1 ≤ 15 ∨ byteAt pl 1 = 0xFF) ∧
      (∀ d, d < 8 → byteAt pl (2 + d) ≤ 127 ∨ byteAt pl (2 + d) = 0xFF)) :=
  ⟨⟨withCmd {} 8 0x500 [63,0xFF,0,0], 8, [63,0xFF,0,0], by unfold State.holds; decide +kernel⟩,
   ⟨withCmd { flt := { status := BitVec.ofNat 64 (2^56 + 7), missed := 3 } } 8 0x501 (z 7 ++ [3] ++ toBytes 8 1),
     8, z 7 ++ [3] ++ toBytes 8 1, by unfold State.holds; decide +kernel⟩,
   ⟨withCmd {} 8 0x502 [0,8,2,3,5,0xFF,14,0,0,0,0,0], 8, [0,8,2,3,5,0xFF,14,0,0,0,0,0],
     by unfold State.holds; decide +kernel⟩,
   ⟨withCmd {} 8 0x502 [1,15,127,0xFF,3,4,5,6,7,8,0,0], 8, [1,15,127,0xFF,3,4,5,6,7,8,0,0],
     by unfold State.holds; decide +kernel⟩⟩

theorem witness_LogIsReadAndErrorsInjected :
    (∃ (s : State) (m : Fin 10) (pl : List Byte), s.holds m 0x503 pl ∧ 1 ≤ byteAt pl 4 ∧ byteAt pl 4 ≤ 7 ∧
      byteAt pl 5 ≤ 1) ∧
    (∃ (s : State) (m : Fin 10) (pl : List Byte), s.holds m 0x504 pl ∧ byteAt pl 0 = 0 ∧ byteAt pl 1 ≤ 63 ∧
      srcReserved (byteAt pl 1) = false ∧ s.flt.status.getLsbD (byteAt pl 1) = true) ∧
    (∃ (s : State) (m : Fin 10) (pl : List Byte), s.holds m 0x504 pl ∧ byteAt pl 0 = 0 ∧ byteAt pl 1 ≤ 63 ∧
      srcReserved (byteAt pl 1) = false ∧ s.flt.status.getLsbD (byteAt pl 1) = false ∧ byteAt pl 1 ≠ 46 ∧
      tget none s.flt.latchedAt (byteAt pl 1) ≠ some s.uptime ∧ s.inert ∧
      s.srcCfg (byteAt pl 1) = defaultSrc (byteAt pl 1) ∧ srcClass (byteAt pl 1) = .notice ∧
      (∀ k, (tget {} s.flt.units k).esc = false) ∧ s.fw.exch = none ∧ s.flt.queue.length < 16) ∧
    (∃ (s : State) (m : Fin 10) (pl : List Byte), s.holds m 0x504 pl ∧ byteAt pl 0 = 1 ∧ byteAt pl 3 ≤ 0xB) ∧
    (∃ (s : State) (m : Fin 10) (pl : List Byte), s.holds m 0x504 pl ∧ byteAt pl 0 = 2 ∧ byteAt pl 3 ≤ 31 ∧
      byteAt pl 1 ≤ 15 ∧ flipMem (byteAt pl 1) = true) :=
  ⟨⟨withCmd {} 8 0x503 [0,0,0,0,7,1,0,0], 8, [0,0,0,0,7,1,0,0], by unfold State.holds; decide +kernel⟩,
   ⟨withCmd { flt := { status := 1 } } 8 0x504 ([0,0] ++ z 14), 8, [0,0] ++ z 14,
     by unfold State.holds; decide +kernel⟩,
   ⟨withCmd {} 8 0x504 injPl, 8, injPl, by unfold State.holds; decide +kernel, by decide +kernel,
     by decide, rfl, rfl, by decide, nofun, by unfold State.inert; decide +kernel, rfl, rfl,
     fun _ => rfl, rfl, by decide⟩,
   ⟨withCmd {} 8 0x504 ([1,3,5,0xB] ++ z 12), 8, [1,3,5,0xB] ++ z 12, by unfold State.holds; decide +kernel⟩,
   ⟨withCmd {} 8 0x504 ([2,6,5,31] ++ List.replicate 12 3), 8, [2,6,5,31] ++ List.replicate 12 3,
     by unfold State.holds; decide +kernel⟩⟩

theorem witness_IntegrityAndTelemetryCommands :
    (∃ (s : State) (m : Fin 10) (pl : List Byte), s.holds m 0x600 pl) ∧
    (∃ (s : State) (m : Fin 10) (pl : List Byte), s.holds m 0x601 pl ∧ numAt pl 2 2 ≠ 0) ∧
    (∃ (s : State) (m : Fin 10) (pl : List Byte), s.holds m 0x602 pl) ∧
    (∃ (s : State) (m : Fin 10) (pl : List Byte), s.holds m 0x603 pl ∧ s.home.recs.length ≤ 8) ∧
    (∃ (s : State) (m : Fin 10) (pl : List Byte), s.holds m 0x800 pl) ∧
    (∃ (s : State) (m : Fin 10) (pl : List Byte), s.holds m 0x801 pl) :=
  ⟨⟨withCmd {} 8 0x600 [1,2,0,0], 8, [1,2,0,0], by unfold State.holds; decide +kernel⟩,
   ⟨withCmd {} 8 0x601 [7,0,1,0], 8, [7,0,1,0], by unfold State.holds; decide +kernel⟩,
   ⟨withCmd {} 8 0x602 [], 8, [], by unfold State.holds; decide +kernel⟩,
   ⟨withCmd {} 8 0x603 [], 8, [], by unfold State.holds; decide +kernel⟩,
   ⟨withCmd { sens := { now := 3, max := 9 } } 8 0x800 [1,0,0,0], 8, [1,0,0,0],
     by unfold State.holds; decide +kernel⟩,
   ⟨withCmd (statAdd sH 1 4) 8 0x801 [1,1,0,0], 8, [1,1,0,0], by unfold State.holds; decide +kernel⟩⟩

theorem witness_FirmwareCommands :
    (∃ (s : State) (m : Fin 10) (pl : List Byte), let off := numAt pl 0 4; s.nvmFail = [] ∧ s.nvmErr = [] ∧
      ramWf s.nvm = true ∧ s.holds m 0x700 pl ∧ 1 ≤ numAt pl 4 2 ∧ numAt pl 4 2 ≤ 224 ∧ off % 32 = 0 ∧
      off + numAt pl 4 2 ≤ 98304 ∧ inactiveSlot s ≠ hdrSelect (hdrNow s) ∧
      slotVerified (hdrNow s) (inactiveSlot s) = false) ∧
    (∃ (s : State) (m : Fin 10) (pl : List Byte), s.nvmFail = [] ∧ s.nvmErr = [] ∧ ramWf s.nvm = true ∧
      s.holds m 0x700 pl ∧ 1 ≤ numAt pl 4 2 ∧ numAt pl 4 2 ≤ 224 ∧ numAt pl 0 4 % 32 = 0 ∧
      numAt pl 0 4 + numAt pl 4 2 ≤ 98304 ∧ inactiveSlot s = hdrSelect (hdrNow s)) ∧
    (∃ (s : State) (m : Fin 10) (pl : List Byte), s.nvmFail = [] ∧ s.nvmErr = [] ∧ ramWf s.nvm = true ∧
      s.holds m 0x701 pl ∧ verifySlot s (inactiveSlot s) ≠ .valid ∧ (hdrNow s).gen + 1 < 2 ^ 32) ∧
    (∃ (s : State) (m : Fin 10) (pl : List Byte), s.nvmFail = [] ∧ s.nvmErr = [] ∧ ramWf s.nvm = true ∧
      s.holds m 0x702 pl ∧ s.fw.loaded = true ∧ slotXabi s (inactiveSlot s) = slotXabi s s.fw.slot) ∧
    (∃ (s : State) (m : Fin 10) (pl : List Byte), s.nvmFail = [] ∧ s.nvmErr = [] ∧ ramWf s.nvm = true ∧
      s.holds m 0x703 pl ∧ byteAt pl 0 ≤ 1 ∧ slotVerified (hdrNow s) (byteAt pl 0) = true ∧
      (hdrNow s).gen + 1 < 2 ^ 32) ∧
    (∃ (s : State) (m : Fin 10) (pl : List Byte), s.nvmFail = [] ∧ s.nvmErr = [] ∧ ramWf s.nvm = true ∧
      s.holds m 0x703 pl ∧ byteAt pl 0 ≤ 1 ∧ slotVerified (hdrNow s) (byteAt pl 0) = false) ∧
    (∃ (s : State) (m : Fin 10) (pl : List Byte), s.nvmFail = [] ∧ s.nvmErr = [] ∧ ramWf s.nvm = true ∧
      s.holds m 0x704 pl ∧ byteAt pl 0 ≤ 3 ∧ 1 ≤ numAt pl 8 2 ∧ numAt pl 8 2 ≤ 256 ∧
      numAt pl 4 4 + numAt pl 8 2 ≤ (nvmArea (byteAt pl 0)).2) ∧
    (∃ (s : State) (m : Fin 10) (pl : List Byte), s.nvmFail = [] ∧ s.nvmErr = [] ∧ ramWf s.nvm = true ∧
      s.holds m 0x704 pl ∧ byteAt pl 0 ≤ 3 ∧ 1 ≤ numAt pl 8 2 ∧ numAt pl 8 2 ≤ 256 ∧
      (nvmArea (byteAt pl 0)).2 < numAt pl 4 4 + numAt pl 8 2) :=
  ⟨⟨withCmd {} 8 0x700 stPl, 8, stPl, by dsimp only; unfold State.holds; decide +kernel⟩,
   ⟨withCmd (hd 1) 8 0x700 stPl, 8, stPl, by unfold State.holds; decide +kernel⟩,
   ⟨withCmd (hd 0x0A) 8 0x701 [], 8, [], by unfold State.holds; decide +kernel⟩,
   ⟨withCmd { hd 0x0A with fw := { loaded := true, boot := .running } } 8 0x702 [], 8, [],
     by unfold State.holds; decide +kernel⟩,
   ⟨withCmd { hd 0x10 with fw := { loaded := true, boot := .running } } 8 0x703 [1,0,0,0], 8, [1,0,0,0],
     by unfold State.holds; decide +kernel⟩,
   ⟨withCmd (hd 0x10) 8 0x703 [0,0,0,0], 8, [0,0,0,0], by unfold State.holds; decide +kernel⟩,
   ⟨withCmd (hd 0x10) 8 0x704 ([2,0,0,0] ++ toBytes 4 0 ++ [128,0,0,0]), 8,
     [2,0,0,0] ++ toBytes 4 0 ++ [128,0,0,0], by unfold State.holds; decide +kernel⟩,
   ⟨withCmd (hd 0x10) 8 0x704 ([3,0,0,0] ++ toBytes 4 0x3FFF ++ [2,0,0,0]), 8,
     [3,0,0,0] ++ toBytes 4 0x3FFF ++ [2,0,0,0], by unfold State.holds; decide +kernel⟩⟩

theorem witness_FirmwareLives :
    (∃ (s : State), s.alive = true ∧ ∀ w, s.fw.wdog = some w → w + wdogPeriod < s.uptime) ∧
    (∃ (s : State), ∃ w, s.alive = true ∧ s.fw.wdog = some w ∧ s.uptime ≤ w + wdogPeriod) ∧
    (∃ (s : State), ∃ e, s.alive = true ∧ s.fw.exch = some e ∧ e.begun = false ∧ (∀ j ∈ e.waits,
      (s.mb j).st ≠ .busy)) ∧
    (∃ (s : State), ∃ e, s.alive = true ∧ s.fw.exch = some e ∧ e.begun = true ∧ e.mbx < 10 ∧
      (s.mb e.mbx).st = .busy) ∧
    (∃ (s : State), ∃ id x, s.alive = true ∧ s.fw.boot = .running ∧ s.fw.exch = none ∧ x ∈ s.fw.timers ∧
      x.id = id ∧ x.period ≠ 0) ∧
    (∃ (s : State), ∃ i, s.alive = true ∧ replays s = true ∧ s.fw.replay = some i ∧ storedRecord s i = none) ∧
    (∃ (s : State), ∃ i op pl body, let u := endPhaseA s op; let v := if mbWakes op pl then wake u causeFw else u;
      s.alive = true ∧ replays s = true ∧ s.fw.replay = some i ∧ storedRecord s i = some (op, pl) ∧
      replayBody op pl = some body ∧ admitWaits u op pl = false ∧ lenFits op pl.length pl = true ∧
      replayBlocked u op pl = false ∧ (op = 0x502 → u.fw.replayFc = true) ∧ v.alive = true) ∧
    (∃ (s : State), ∃ i op pl, s.alive = true ∧ replays s = true ∧ s.fw.replay = some i ∧
      storedRecord s i = some (op, pl) ∧ replayBody op pl = none) ∧
    (∃ (s : State), ∃ i op pl, s.alive = true ∧ replays s = true ∧ s.fw.replay = some i ∧
      storedRecord s i = some (op, pl) ∧ s.fw.released = true ∧ admitWaits s op pl = true) :=
  ⟨⟨fwS {}, rfl, nofun⟩,
   ⟨fwS { wdog := some 3 }, 3, by decide +kernel⟩,
   ⟨{ fwS { boot := .running, exch := some ⟨8, [3], false⟩ } with mbs := [(8, {st := .busy, checked := true, running := true}), (3, { st := .done })], smb := { polling := some 3 } },
     ⟨8, [3], false⟩, by decide +kernel⟩,
   ⟨{ fwS { boot := .running, loaded := true, slot := 1, exch := some ⟨8, [3], true⟩ } with mbs := [(8, {st := .busy, checked := true, running := true}), (3, { st := .done })] },
     ⟨8, [3], true⟩, by decide +kernel⟩,
   ⟨{ fwS { boot := .running, timers := [tm, ⟨5, 10, 0⟩] } with uptime := 100 }, 4, tm, by decide +kernel⟩,
   ⟨{ fwS { boot := .running, replay := some 0, isOpen := true } with uptime := 100 }, 0, by decide +kernel⟩,
   ⟨{ svd with fw := { boot := .running, replay := some 0, isOpen := true } }, 0, 0x107, [19, 1, 0, 0],
     doPortConfig, by decide +kernel, by decide +kernel, rfl, by decide +kernel, rfl, by decide +kernel,
     by decide +kernel, by decide +kernel, by decide, by decide +kernel⟩,
   ⟨{ svd with fw := { boot := .running, replay := some 1, isOpen := true } }, 1, 0x777, [],
     by decide +kernel⟩,
   ⟨{ svd with fw := { boot := .running, replay := some 2, isOpen := true, released := true } }, 2, 0x207,
     [0,1,5,3,1,0,0,0], by decide +kernel⟩⟩

theorem witness_RingsAndWritesOfAWindow :
    (∃ (s : State) (m : Fin 10) (who : BitVec 7) (v : BitVec 32), mbReached s m who = true ∧
      mbAccepts s m who = true ∧ (s.mb m).st ≠ .busy ∧ v.getLsbD 0 = true ∧ s.fw.exch = none ∧ s.sound m ∧
      s.flt.grave = false ∧ s.fw.isOpen = false ∧ s.fw.boot ≠ .recovery) ∧
    (∃ (s : State) (m : Fin 10) (who : BitVec 7) (v : BitVec 32), let pl := mbPayload s m (mbLen s m);
      mbReached s m who = true ∧ mbAccepts s m who = true ∧ (s.mb m).st ≠ .busy ∧ v.getLsbD 0 = true ∧
      s.fw.exch = none ∧ s.sound m ∧ s.fw.isOpen = true ∧ mbOpcodes.contains (mbOpcode s m) = true ∧
      mbPermits s m (mbOpcode s m) (mbLen s m) pl = true ∧ lenFits (mbOpcode s m) (mbLen s m) pl = true ∧
      mbServed s m (mbOpcode s m) = true) ∧
    (∃ (s : State) (m : Fin 10) (who : BitVec 7) (off : Fin 320) (bytes : List Byte),
      mbReached s m who = true ∧ mbAccepts s m who = true ∧ (s.mb m).st ≠ .busy ∧ 0x40 ≤ off.val ∧
      off.val % 4 = 0 ∧ bytes.length = 4 ∧ ramWf s.mbram = true) ∧
    (∃ (s : State) (m : Fin 10) (who : BitVec 7) (off : Fin 320) (bytes : List Byte),
      mbReached s m who = true ∧ mbAccepts s m who = true ∧ (s.mb m).st ≠ .busy ∧ ramWf s.mbram = true ∧
      bytes ≠ [] ∧ inArea off bytes.length = true ∧ fld s.integ.injCtl.toNat 31 24 = 0 ∧
      ∀ i ≤ mbIdx m (off + bytes.length - 1), mbIdx m off ≤ i → chk39 (ramGet s.mbram i) = .clean) ∧
    (∃ (s : State) (m : Fin 10) (who : BitVec 7), mbReached s m who = true ∧ mbAccepts s m who = false) ∧
    (∃ (s : State) (m : Fin 10) (who : BitVec 7), mbReached s m who = true ∧ (s.mb m).st = .busy) :=
  ⟨⟨crcEmpty, 1, 2, 1, by unfold State.sound; decide +kernel⟩,
   ⟨openS, 1, 2, 1, by dsimp only; unfold State.sound; decide +kernel⟩,
   ⟨crcEmpty, 1, 2, 0x13C, [1,2,3,4], by decide +kernel⟩,
   ⟨crcEmpty, 1, 2, 0x3, [1,2,3,4,5], by decide +kernel⟩,
   ⟨crcEmpty, 1, 4, by decide +kernel⟩,
   ⟨{ crcEmpty with mbs := [(9, { st := .busy })] }, 9, 5, by decide +kernel⟩⟩

theorem witness_LocksNoticesAndOpening :
    (∃ (s : State) (d : Fin 8) (who : BitVec 7), mbReached s d who = true ∧
      (s.mb d).holder = some who) ∧
    (∃ (s : State) (d : Fin 8) (who : BitVec 7), mbReached s d who = true ∧
      (s.mb d).holder ≠ some who) ∧
    (∃ (s : State) (d : Fin 8), s.alive = true ∧ (s.mb d).st ≠ .busy) ∧
    (∃ (s : State) (m : Fin 10) (p : Nat), ∃ st, ∃ (d : Fin 8), (s.mb m).notify = some (p, st) ∧
      noticeFree s p = true ∧ p < 16 ∧ (s.port p).mem.dom = some d.val) ∧
    (∃ (s : State), s.alive = true ∧ s.fw.boot = .running ∧ s.fw.isOpen = false ∧ s.fw.exch = none ∧
      (∀ m : Fin 10, (s.mb m).waiting = false) ∧ (storedCfg s).isSome = true) ∧
    (∃ (s : State) (p : Fin 20), s.alive = true ∧ s.fw.boot = .running ∧ s.fw.isOpen = false ∧
      s.fw.exch = none ∧ (∀ m : Fin 10, (s.mb m).waiting = false) ∧ storedCfg s = none ∧
      (s.port p).link.st = .held ∧ releasable s p = true) :=
  ⟨⟨crcEmpty, 1, 2, by decide +kernel⟩,
   ⟨crcEmpty, 1, 4, by decide +kernel⟩,
   ⟨{}, 1, by decide +kernel⟩,
   ⟨{ sH with mbs := [(1, { holder := some 5, notify := some (0, 8) })], fw := { boot := .running } }, 1, 0,
     8, 1, by decide +kernel⟩,
   ⟨{ sH with mbs := [(1, { holder := some 5, notify := some (0, 8) })], fw := { boot := .running } },
     by decide +kernel⟩,
   ⟨badNvm, 0, by decide +kernel⟩⟩

theorem witness_CrcUnitsAbsorb :
    (∃ (s : State) (u : Fin 2) (v : BitVec 32), s.alive = true ∧ (s.crcu u).busy = [] ∧ v.getLsbD 8 = true) ∧
    (∃ (s : State) (u : Fin 2) (v : BitVec 32), s.alive = true ∧ (s.crcu u).busy = [] ∧ v.getLsbD 8 = false) ∧
    (∃ (s : State) (u : Fin 2), s.alive = true ∧ (s.crcu u).busy ≠ [] ∧ (s.crcu u).answer = none) :=
  ⟨⟨{}, 0, 0x113, by decide +kernel⟩,
   ⟨{}, 0, 0x13, by decide +kernel⟩,
   ⟨{ crc := [(1, { busy := [1,2] })] }, 1, by decide +kernel⟩⟩

theorem witness_Smb0TargetServes :
    (∃ (s : State), ∃ addr, s.board.held = .none ∧ (s.flt.grave = true ∨ s.inert) ∧ smb0Match s addr = true ∧ s.kt.st = .dormant) ∧
    (∃ (s : State) (w : SmbWrite), s.board.held = .none ∧ (s.flt.grave = true ∨ s.inert) ∧ smb0Match s w.addr = true ∧ w.stop = true ∧
      ((w.pec = none ∧ pecReq s.cfg.eff.smb0 = false) ∨ w.pec = some (pec ([addrW w.addr, 0x10,
      w.count] ++ w.bytes))) ∧ w.count = 3 ∧ w.bytes.length = 3 ∧ (ptrEnd (numAt w.bytes 0 2)).isSome = true ∧
      numAt w.bytes 2 1 ≠ 0) ∧
    (∃ (s : State) (w : SmbWrite), s.board.held = .none ∧ (s.flt.grave = true ∨ s.inert) ∧ smb0Match s w.addr = true ∧ w.stop = true ∧
      ((w.pec = none ∧ pecReq s.cfg.eff.smb0 = false) ∨ w.pec = some (pec ([addrW w.addr, 0x11,
      w.count] ++ w.bytes))) ∧ w.count = 4 ∧ w.bytes.length = 4 ∧ 0x40 ≤ s.smb.ptr ∧ s.smb.ptr + 4 < 0x140 ∧
      s.smb.ptr % 4 = 0 ∧ (s.mb 9).st ≠ .busy ∧ ramWf s.mbram = true) ∧
    (∃ (s : State), ∃ addr stop, s.board.held = .none ∧ (s.flt.grave = true ∨ s.inert) ∧ smb0Match s addr = true ∧ 0x400 ≤ s.smb.ptr ∧
      s.smb.ptr < 0x500 ∧ stop = false) ∧
    (∃ (s : State), ∃ addr stop, let n := min s.smb.rlen (0x500 - s.smb.ptr); s.board.held = .none ∧
      (s.flt.grave = true ∨ s.inert) ∧ smb0Match s addr = true ∧ 0x400 ≤ s.smb.ptr ∧ s.smb.ptr < 0x500 ∧ stop = true ∧
      s.smb.ptr + n < 0x500) :=
  ⟨⟨{ kt := { st := .dormant }, smb := { gated0 := true } }, 0x58, by unfold State.inert; decide +kernel⟩,
   ⟨{}, wr 0x10 [0x3C, 1, 0xFF], by unfold State.inert; decide +kernel⟩,
   ⟨{ smb := { ptr := 0x40 } }, wr 0x11 [0x3C, 1, 0xFF, 7], by unfold State.inert; decide +kernel⟩,
   ⟨{ smb := { ptr := 0x4FF, rlen := 16 } }, 0x58, false, by unfold State.inert; decide +kernel⟩,
   ⟨{ smb := { ptr := 0x400, rlen := 255 } }, 0x58, true, by dsimp only; unfold State.inert; decide +kernel⟩⟩

theorem witness_SidebandAlertsAndAnswers :
    (∃ (s : State), ∃ a, ∃ (others : Byte), s.board.held = .none ∧ s.smb.alert = true ∧ alertAddr s = some a ∧
      2 * a ≤ others.toNat) ∧
    (∃ (s : State), ∃ a, ∃ (others : Byte), s.board.held = .none ∧ s.smb.alert = true ∧ alertAddr s = some a ∧
      others.toNat < 2 * a) ∧
    (∃ (s : State), s.board.held = .none ∧ s.flt.grave = false ∧ s.kt.st = .dormant) ∧
    (∃ (s : State), s.alive = true ∧ s.inert ∧ smb1Gated s = true) ∧
    (∃ (s : State), ∃ addr, ∃ (port : Byte), s.alive = true ∧ s.inert ∧ smb1Gated s = false ∧ smb1Match s addr = true ∧
      port.toNat ≤ 15) :=
  ⟨⟨{ smb := { alert := true } }, 0x58, 0xFF, by decide +kernel⟩,
   ⟨{ smb := { alert := true }, kt := { st := .dormant } }, 0x58, 0x30, by decide +kernel⟩,
   ⟨{ smb := { alert := true }, kt := { st := .dormant } }, by decide +kernel⟩,
   ⟨{ smb := { gated1 := true }, kt := { st := .dormant }, cfg := c1 }, by unfold State.inert; decide +kernel⟩,
   ⟨{ smb := { alert := true, telPort := 15 }, cfg := c1 }, 0x10, 15, by unfold State.inert; decide +kernel⟩⟩

theorem witness_RegulatorsArePolled :
    (∃ (s : State), ∃ n, smbcRuns s = true ∧ s.smb.polling = none ∧ nextReg s = some n) ∧
    (∃ (s : State), ∃ n, smbcRuns s = true ∧ s.smb.polling = some n ∧ s.smb.retries = 0) ∧
    (∃ (s : State), ∃ n, smbcRuns s = true ∧ s.smb.polling = some n ∧ 2 ≤ s.smb.retries) :=
  ⟨⟨rg1, 15, by decide +kernel⟩,
   ⟨{ rg1 with smb := { rg1.smb with polling := some 3 } }, 3, by decide +kernel⟩,
   ⟨{ rg1 with smb := { rg1.smb with polling := some 3, retries := 2 } }, 3, by decide +kernel⟩⟩

theorem witness_ResetsClearAndRelease :
    (∃ (s : State), s.flt.grave = false ∧ s.board.held = .none) ∧
    (∃ (s : State), s.board.held ≠ .none ∧ s.board.pwrOk = true ∧ s.board.sysRstN = true ∧ s.mbs = []) :=
  ⟨⟨{ sH with board := { tap := .extest } }, by decide +kernel⟩,
   ⟨{ board := { held := .sys, pins := { hubId := 5 } } }, by decide +kernel⟩⟩

theorem witness_NcRequestsReachMemory :
    ∃ (s : State) (p : Fin 20) (h : Hdr) (f : ReqF) (data : Line) (op : ReqOp) (sl n tgt q : Nat),
      let d := h.dom.toNat; let r : Req  := ⟨op, p, h, f, reqLine op data, 0⟩; op ∈ [.rdc, .rnc, .wnc, .wrl,
      .atm] ∧ s.sender p h ∧ (s.port p).rx.pmk = [] ∧ s.inert ∧ f.tkv = false ∧
      inAperture (reqAddr r) = false ∧ gated s r = false ∧ badFields r = false ∧ misaligned r = false ∧
      s.homes d f.laddr sl ∧
      mayTake s p (.req op h f (reqLine op data)) = true ∧ s.region d (lineAddr f.laddr 0) = some (.nc, tgt) ∧ tgt ≠ 0x7F ∧ (∀ a,
      s.agent d tgt = some a → a.matc = false) ∧ s.reaches d tgt q ∧ creditFree s q .mrq d = true ∧
      quotaAdmits s sl d false = some n :=
  ⟨sH, 0, h2, f0 lNC, 7, ReqOp.wrl, 0, 0, 3, 1,
    by dsimp only; unfold State.sender State.homes State.reaches State.inert State.delivers; decide +kernel⟩

theorem witness_CoRequestsReadTheDirectory :
    ∃ (s : State) (p : Fin 20) (h : Hdr) (f : ReqF) (data : Line) (op : ReqOp) (sl n tgt q q2 : Nat),
      let d := h.dom.toNat; let r : Req  := ⟨op, p, h, f, reqLine op data, 0⟩; op ∈ [.rds, .rdo, .rdc, .upg,
      .wrl, .atm] ∧ s.sender p h ∧ (s.port p).rx.pmk = [] ∧ s.inert ∧ f.tkv = false ∧
      inAperture (reqAddr r) = false ∧ badFields r = false ∧ misaligned r = false ∧ s.homes d f.laddr sl ∧
      mayTake s p (.req op h f (reqLine op data)) = true ∧
      s.region d (lineAddr f.laddr 0) = some (.co, tgt) ∧ s.localMirrored d = [] ∧ s.arr.tag = [] ∧
      s.arr.owner = [] ∧ s.reaches d (s.dom d).par.dirTgt q ∧ creditFree s q .mrq d = true ∧
      s.reaches d tgt q2 ∧ quotaAdmits s sl d false = some n :=
  ⟨sH, 0, h2, f0 lCO, 7, ReqOp.rds, 0, 0, 3, 1, 1,
    by dsimp only; unfold State.sender State.homes State.reaches State.inert State.delivers; decide +kernel⟩

theorem witness_MasksMeetTheirWrites :
    (∃ (s : State) (p : Fin 20) (h : Hdr) (stream : BitVec 6) (mask : BitVec 64), s.sender p h ∧ s.inert ∧
      mayTake s p (.pmk h stream mask) = true ∧ (s.port p).rx.pmk.length ≤ 1) ∧
    ∃ (s : State) (p : Fin 20) (h ph : Hdr) (mask : BitVec 64) (f : ReqF) (data : Line) (sl n tgt q : Nat),
      let d := h.dom.toNat; let r : Req  := ⟨.wrp, p, h, f, data, mask⟩; s.sender p h ∧ s.inert ∧
      (s.port p).rx.pmk = [(ph, f.stream, mask)] ∧ ph.tid = h.tid ∧ ph.dan = h.dan ∧ ph.dom = h.dom ∧
      mask ≠ 0 ∧ mask ≠ BitVec.allOnes 64 ∧ f.tkv = false ∧ badFields r = false ∧
      inAperture (reqAddr r) = false ∧ mayTake s p (.req .wrp h f data) = true ∧
      reqsAhead s p (.req .wrp h f data) = [] ∧ s.homes d f.laddr sl ∧
      s.region d (lineAddr f.laddr 0) = some (.nc, tgt) ∧ s.reaches d tgt q ∧ creditFree s q .mrq d = true ∧
      quotaAdmits s sl d false = some n :=
  ⟨⟨sH, 0, h2, 0, 3, by unfold State.sender State.inert State.delivers; decide +kernel⟩,
   sH.updRx 0 (fun r => {r with pmk := [(h2, 0, 3)]}), 0, h2, h2, 3, f0 lNC, 7, 0, 0, 3, 1,
    by dsimp only; unfold State.sender State.homes State.reaches State.inert State.delivers; decide +kernel⟩

theorem witness_BarriersAndGates :
    (∃ (s : State) (p : Fin 20) (h : Hdr) (f : ReqF), s.sender p h ∧ (s.port p).rx.pmk = [] ∧
      s.home.merges = [] ∧ mayTake s p (.req .cure h f 0) = true ∧ f.laddr = 0 ∧ f.ofs = 0 ∧ f.sub = 0 ∧ (s.port p).cures.length < 4 ∧
      (∀ e ∈ (s.port p).opens, e.1 ≠ f.stream)) ∧
    (∃ (s : State) (p : Fin 20) (h : Hdr) (f : ReqF), ∃ e, s.sender p h ∧ (s.port p).rx.pmk = [] ∧
      s.home.merges = [] ∧ mayTake s p (.req .cure h f 0) = true ∧ f.laddr = 0 ∧ f.ofs = 0 ∧ f.sub = 0 ∧ (s.port p).cures.length < 4 ∧
      e ∈ (s.port p).opens ∧ e.1 = f.stream ∧ watches s h.dom.toNat < (s.dom h.dom.toNat).par.cq) ∧
    (∃ (s : State) (a : Fin 16) (tid : BitVec 12), ∃ c, s.clocked = true ∧ s.up a = true ∧
      (s.port a).cures.find? (fun c => c.h.tid == tid && c.writes.isEmpty && c.drains.isEmpty) = some c ∧
      (s.port a).mem.dom = some c.h.dom.toNat ∧ (s.port a).mem.sent.isSome = true) ∧
    (∃ (s : State) (a : Fin 16) (stream : BitVec 6) (tid : BitVec 12), ∃ reason,
      let mine := (s.port a).gateBuf.filter fun r => r.f.stream == stream; s.clocked = true ∧
      gateOf (s.port a) stream.toNat = .busy tid ∧ tget none (s.port a).gateEnd stream.toNat = some reason ∧
      retryable reason = false ∧ mine = []) ∧
    (∃ (s : State) (a : Fin 16) (stream : BitVec 6) (tid : BitVec 12), ∃ reason r rest,
      let mine := (s.port a).gateBuf.filter fun r => r.f.stream == stream; s.clocked = true ∧
      gateOf (s.port a) stream.toNat = .busy tid ∧ tget none (s.port a).gateEnd stream.toNat = some reason ∧
      retryable reason = false ∧ mine = r :: rest) ∧
    (∃ (s : State) (a : Fin 16) (stream : BitVec 6) (tid : BitVec 12), ∃ reason,
      let mine := (s.port a).gateBuf.filter fun r => r.f.stream == stream; s.clocked = true ∧
      gateOf (s.port a) stream.toNat = .busy tid ∧ tget none (s.port a).gateEnd stream.toNat = some reason ∧
      retryable reason = true ∧ (∀ r ∈ mine, r.port = a.val)) :=
  ⟨⟨sH, 0, h2, f0 0, by unfold State.sender State.delivers; decide +kernel, rfl, rfl, by decide +kernel,
    rfl, rfl, rfl, by decide, fun _ h => nomatch h⟩,
   ⟨sH.updPort 0 (fun q => {q with opens := [(0,9)]}), 0, h2, f0 0, (((0: BitVec 6),(9 : BitVec 12))),
     by unfold State.sender State.delivers; decide +kernel⟩,
   ⟨sH.updPort 0 (fun q => {q with cures := [⟨h2,0,[],[]⟩], gates := [(0,.busy 5)], gateEnd := [(0, some 0)]}),
     0, 5, ⟨h2,0,[],[]⟩, by decide +kernel⟩,
   ⟨sH.updPort 0 (fun q => {q with cures := [⟨h2,0,[],[]⟩], gates := [(0,.busy 5)], gateEnd := [(0, some 0)]}),
     0, 0, 5, 0, by dsimp only; decide +kernel⟩,
   ⟨sH.updPort 0 (fun q => {q with  gateBuf := [req2 .rnc 0x8000], gates := [(0,.busy 5)], gateEnd := [(0, some 0)]}),
     0, 0, 5, 0, req2 .rnc 0x8000, [], by dsimp only; decide +kernel⟩,
   ⟨sH.updPort 0 (fun q => {q with  gateBuf := [req2 .rnc 0x8000], gates := [(0,.busy 5)], gateEnd := [(0, some 1)]}),
     0, 0, 5, 1, by dsimp only; decide +kernel⟩⟩

theorem witness_WritebacksAreCompletedAtOnce :
    ∃ (s : State) (p : Fin 20) (h : Hdr) (l : LAddr) (op : WbOp) (a : Agent) (sl n tgt q : Nat),
      let d := h.dom.toNat; s.sender p h ∧ s.inert ∧ s.agent d h.dan.toNat = some a ∧ a.kind = .caching ∧
      s.homes d l sl ∧ s.region d (lineAddr l 0) = some (.co, tgt) ∧ s.arr.tag = [] ∧ s.arr.owner = [] ∧
      s.reaches d (s.dom d).par.dirTgt q ∧ creditFree s q .mrq d = true ∧ wbAdmits s sl d = some n ∧
      op = .wbm :=
  ⟨sH, 0, h2, lCO, WbOp.wbm, ag .caching 0, 0, 56, 3, 1,
    by dsimp only; unfold State.sender State.homes State.reaches State.inert State.delivers; decide +kernel⟩

/-- What an answer of candidate c of tracker x finds, in the form that decide reads. -/
def answered (s : S) (p : Fin 20) (f : AnsF) (data : Line) (op : AnsOp) (x : Tracker) (r : Req) : Prop :=
  s.delivers p f.h ∧ (p.val < 16 → (s.port p).mem.dan = f.h.dan.toNat) ∧ s.inert ∧ s.home.wbs = [] ∧
    s.home.proxies = [] ∧ s.mirrored f.h.dom.toNat f.h.dan.toNat = none ∧ htagHub f.htag = s.hubId ∧
    mayTake s p (.ans op f (if op = .srd then data else 0)) = true ∧ s.noHeld ∧
    (s.dom f.h.dom.toNat).st.inService = true ∧ s.trk (htagSlice f.htag) (htagTracker f.htag) = some x ∧
    x.dom = f.h.dom.toNat ∧ x.laddr = f.laddr ∧ x.req = some r

theorem witness_SnoopAnswersAreCollected :
    (∃ (s : State) (p : Fin 20) (f : AnsF) (data : Line) (x : Tracker) (r : Req), answered s p f data .srf x r ∧
      x.awaits = [.snoop f.h.dan.toNat .snf] ∧ x.plain) ∧
    (∃ (s : State) (p : Fin 20) (f : AnsF) (data : Line) (op : AnsOp) (x : Tracker) (r : Req) (o : SnpOp),
      answered s p f data op x r ∧ .snoop f.h.dan.toNat o ∈ x.awaits ∧ .snoop f.h.dan.toNat .snf ∉ x.awaits ∧
      x.owner ≠ some f.h.dan.toNat ∧ x.wbData = none ∧ .snoop 20 .sni ∈ x.awaits ∧ 20 ≠ f.h.dan.toNat ∧
      op = .srd) ∧
    (∃ (s : State) (p : Fin 20) (f : AnsF) (data : Line) (op : AnsOp) (x : Tracker) (r : Req) (o : SnpOp),
      answered s p f data op x r ∧ .snoop f.h.dan.toNat o ∈ x.awaits ∧ .snoop f.h.dan.toNat .snf ∉ x.awaits ∧
      x.owner ≠ some f.h.dan.toNat ∧ x.wbData = none ∧ .snoop 20 .sni ∈ x.awaits ∧ 20 ≠ f.h.dan.toNat ∧
      op ≠ .srd) :=
  ⟨⟨withTrk sH xsf, 0, af 1, 0, xsf, req2 .rds lCO,
    by unfold answered State.delivers State.inert State.noHeld Tracker.plain; decide +kernel⟩,
   ⟨sS, 0, af 2, 9, .srd, xs, req2 .rdo lCO, .sni,
    by unfold answered State.delivers State.inert State.noHeld; decide +kernel⟩,
   ⟨sS, 0, af 0, 9, .sri, xs, req2 .rdo lCO, .sni,
    by unfold answered State.delivers State.inert State.noHeld; decide +kernel⟩⟩

theorem witness_CompletionsFreeWhatWaited :
    (∃ (s : State) (p : Fin 20) (h : Hdr) (l : LAddr) (htag : BitVec 14), ∃ x, let d := h.dom.toNat;
      let sl := htagSlice htag; let n := htagTracker htag; s.delivers p h ∧ htagHub htag = s.hubId ∧
      s.home.wbs = [] ∧ mayTake s p (.mcp h l htag) = true ∧ s.trk sl n = some x ∧ x.dom = d ∧ x.laddr = l ∧ x.phase = .drain ∧ x.awaits = [.mcp] ∧
      x.plain) ∧
    (∃ (s : State) (p : Fin 20) (h : Hdr) (l : LAddr) (htag : BitVec 14) (v : Victim), let d := h.dom.toNat;
      let sl := htagSlice htag; let n := htagTracker htag; s.delivers p h ∧ htagHub htag = s.hubId ∧
      s.home.wbs = [] ∧ mayTake s p (.mcp h l htag) = true ∧ s.trk sl n = none ∧ victimDone s h l htag = some v) ∧
    (∃ (s : State) (p : Fin 20) (h : Hdr) (l : LAddr) (htag : BitVec 14) (m : Merge), let d := h.dom.toNat;
      let sl := htagSlice htag; let n := htagTracker htag; s.delivers p h ∧ htagHub htag = s.hubId ∧
      s.home.wbs = [] ∧ mayTake s p (.mcp h l htag) = true ∧ s.trk sl n = none ∧ s.home.victims = [] ∧
      s.home.merges.find? (fun m => m.dom == d && m.laddr == l && m.drain == 2) = some m) ∧
    (∃ (s : State) (p : Fin 20) (h : Hdr) (l : LAddr) (htag : BitVec 14), ∃ w a, let d := h.dom.toNat;
      let sl := htagSlice htag; let n := htagTracker htag; s.delivers p h ∧ htagHub htag = s.hubId ∧
      s.home.wbs = [] ∧ mayTake s p (.mcp h l htag) = true ∧ s.trk sl n = none ∧ s.home.victims = [] ∧ s.home.merges = [] ∧
      (s.dom d).sweep = some w ∧ w.zero = true ∧ w.outst.find? (fun a => a.toNat / 64 == l.toNat) = some a) :=
  ⟨⟨withTrk sH xm, 1, h2, lCO, tag7, xm, by dsimp only; unfold State.delivers Tracker.plain; decide +kernel⟩,
   ⟨sH.updHome (fun h => {h with victims := [vm]}), 1, h2, (dirLine sH 1 lCO).1, tag7, vm,
     by dsimp only; unfold State.delivers; decide +kernel⟩,
   ⟨(sH.updHome (fun h => {h with merges := [mm]})).updPort 2 (fun q => {q with cures := [⟨h4,0,[],[(3,lNC)]⟩]}),
     1, h2, lNC, tag7, mm, by dsimp only; unfold State.delivers; decide +kernel⟩,
   ⟨sH.updDom 1 (fun q => {q with sweep := some sw}), 1, h2, 1, tag7, sw, 64,
     by dsimp only; unfold State.delivers; decide +kernel⟩⟩

theorem witness_MemoryDataIsTaken :
    (∃ (s : State) (p : Fin 20) (f : DatF) (data : Line), ∃ x r, let d := f.h.dom.toNat; let sl := htagSlice f.htag;
      let n := htagTracker f.htag; s.delivers p f.h ∧ htagHub f.htag = s.hubId ∧ s.inert ∧ s.home.wbs = [] ∧ mayTake s p (.dat .dmm f data) = true ∧
      (s.dom d).st.inService = true ∧ wordTrk s f = none ∧ s.trk sl n = some x ∧ x.dom = d ∧
      x.laddr = f.laddr ∧ x.req = some r ∧ .line ∈ x.awaits ∧ .mat ∉ x.awaits ∧ x.dropLine = false ∧
      x.dirty = false ∧ x.flow ≠ .ncWrp ∧ .snoop 2 .sni ∈ x.awaits) ∧
    (∃ (s : State) (p : Fin 20) (f : DatF) (data : Line) (m : Merge), ∃ rt tgt q, let d := f.h.dom.toNat;
      let sl := htagSlice f.htag; let n := htagTracker f.htag; s.delivers p f.h ∧ htagHub f.htag = s.hubId ∧
      s.inert ∧ s.home.wbs = [] ∧ mayTake s p (.dat .dmm f data) = true ∧ (s.dom d).st.inService = true ∧ s.trk sl n = none ∧
      s.home.merges.find? (fun m => m.dom == d && m.laddr == f.laddr && m.drain == 1) = some m ∧
      s.region d (lineAddr f.laddr 0) = some (rt, tgt) ∧ s.reaches d tgt q) ∧
    (∃ (s : State) (p : Fin 20) (f : DatF) (data : Line), ∃ x r, let d := f.h.dom.toNat; s.delivers p f.h ∧
      htagHub f.htag = s.hubId ∧ s.inert ∧ s.home.wbs = [] ∧ mayTake s p (.dat .dmm f data) = true ∧ (s.dom d).st.inService = true ∧
      wordTrk s f = some x ∧ x.req = some r ∧ r.op = .rds ∧ x.wb = none ∧ x.wbData = none ∧
      x.phase = .dirread ∧ x.awaits = [.word, .line] ∧ x.dropLine = false ∧ f.poi = false ∧ s.arr.tag = [] ∧
      s.arr.owner = [] ∧ s.localMirrored d = [] ∧ lineNum data (dirLine s d x.laddr).2 8 = 0) :=
  ⟨⟨withTrk sH xd, 1, df lCO, 0, xd, req2 .rdo lCO, by dsimp only; unfold State.delivers State.inert; decide +kernel⟩,
   ⟨sH.updHome (fun h => {h with merges := [{ mm with drain := 1 }]}), 1, df lNC, 0, { mm with drain := 1 },
     RType.nc, 3, 1, by dsimp only; unfold State.delivers State.reaches State.inert; decide +kernel⟩,
   ⟨withTrk sH xw, 1, df (dirLine sH 1 lCO).1, 0, xw, req2 .rds lCO,
     by dsimp only; unfold State.delivers State.inert; decide +kernel⟩⟩

theorem witness_MessagesAreHandedOn :
    (∃ (s : State) (p : Fin 20) (f : DatF) (data : Line) (q : Nat), ∃ r, let d := f.h.dom.toNat;
      let dan := f.h.dan.toNat; s.delivers p f.h ∧ htagHub f.htag = s.hubId ∧ f.poi = false ∧
      s.mirrored d dan = none ∧ mayTake s p (.dat .dfw f data) = true ∧ mayPass s p .dat d dan = true ∧
      s.reaches d dan q ∧ s.noHeld ∧
      s.home.fwds.find? (fun r => r.dom == d && r.laddr == f.laddr && r.dan == dan) = some r) ∧
    (∃ (s : State) (p : Fin 20) (f : SnpF), let d := f.h.dom.toNat;
      let o := routePort s (htagHub f.htag) d (40 + s.hubId) true; 16 ≤ p.val ∧ s.delivers p f.h ∧ s.inert ∧
      mayTake s p (.snp f) = true ∧ f.proxy = true ∧ s.localMirrored d = [] ∧ s.up o = true) ∧
    (∃ (s : State) (p : Fin 20) (f : SnpF), ∃ hs n st q, let d := f.h.dom.toNat;
      let u := takeMsg s p (.snp f); 16 ≤ p.val ∧ s.delivers p f.h ∧ s.inert ∧
      mayTake s p (.snp f) = true ∧ f.proxy = true ∧ strHolders u d f.laddr = (hs, false, false, u) ∧
      hs.filter (fun e => e.1 != f.h.dan.toNat) = [(n, st)] ∧ f.op ≠ .snf ∧ s.reaches d n q) ∧
    (∃ (s : State) (p : Fin 20) (m : Msg), ∃ q, let d := m.hdr.dom.toNat; let dan := m.hdr.dan.toNat;
      16 ≤ p.val ∧ s.delivers p m.hdr ∧ mayTake s p m = true ∧ (∃ h r tk v, m = .nak h r tk v) ∧
      s.reaches d dan q ∧ creditFree s q .rsp d = true) ∧
    (∃ (s : State) (p : Fin 20) (m : Msg) (a k : Nat), let d := m.hdr.dom.toNat;
      let o := routePort s a d k false; 16 ≤ p.val ∧ s.delivers p m.hdr ∧ mayTake s p m = true ∧
      m.cls ≠ .req ∧ (∀ f data, m ≠ .dat .dfw f data) ∧ destOf s p m false = some (a, k) ∧ a ≠ s.hubId ∧
      s.up o = true ∧ creditFree s o m.cls d = true) :=
  ⟨⟨sN.updHome (fun h => {h with fwds := [⟨0,1,lCO,2⟩]}), 1, dfwF, 0, 0, ⟨0,1,lCO,2⟩,
    by dsimp only; unfold State.delivers State.reaches State.noHeld; decide +kernel⟩,
   ⟨sN, 16, snF, by dsimp only; unfold State.delivers State.inert; decide +kernel⟩,
   ⟨sMir, 16, snG, [(7, .s)], 7, .s, 3, by dsimp only; unfold State.delivers State.inert State.reaches; decide +kernel⟩,
   ⟨sN, 16, .nak h2 3 0 false, 0, by decide +kernel, by unfold State.delivers; decide +kernel,
     by decide +kernel, ⟨h2, 3, 0, false, rfl⟩, by unfold State.reaches; decide +kernel, by decide +kernel⟩,
   ⟨sN, 16, .cmp ⟨5, 9, 0, 1⟩ 0, 1, 9, by decide +kernel, by unfold State.delivers; decide +kernel,
     by decide +kernel, nofun, nofun, by decide +kernel⟩⟩

theorem witness_DeadlinesOfTheHome :
    (∃ (s : State) (sl : Fin 17) (n : Fin 64) (x : Tracker), ∃ quota k rest last, s.clocked = true ∧
      s.trk sl n = some x ∧ (s.dom x.dom).st.inService = true ∧ s.home.wbs = [] ∧ x.phase = .reserved ∧
      x.tq = some ⟨quota, k :: rest, last⟩ ∧ windowPaused s x = false ∧ rest = []) ∧
    (∃ (s : State) (sl : Fin 17) (n : Fin 64) (x : Tracker), ∃ quota k rest last j, s.clocked = true ∧
      s.trk sl n = some x ∧ (s.dom x.dom).st.inService = true ∧ s.home.wbs = [] ∧ x.phase = .reserved ∧
      x.tq = some ⟨quota, k :: rest, last⟩ ∧ windowPaused s x = false ∧ j ∈ rest ∧ j ≠ k) ∧
    (∃ (s : State) (sl : Fin 17) (n : Fin 64) (x : Tracker), ∃ r, s.clocked = true ∧ s.trk sl n = some x ∧
      (s.dom x.dom).st.inService = true ∧ x.req = some r ∧ unanswered x = true ∧ x.late = false) ∧
    (∃ (s : State) (sl : Fin 17) (n : Fin 64) (x : Tracker) (i : Nat) (a : Await), ∃ c, s.clocked = true ∧
      s.trk sl n = some x ∧ (s.dom x.dom).st.inService = true ∧ x.awaits[i]? = some a ∧
      awaitedFrom s x a = some c) ∧
    (∃ (s : State) (sl : Fin 17) (n : Fin 64) (x : Tracker), s.clocked = true ∧ s.trk sl n = some x ∧
      (s.dom x.dom).st.inService = true ∧ x.phase ≠ .reserved) ∧
    (∃ (s : State), ∃ i, ∃ (m : Merge), ∃ rt c, s.clocked = true ∧ s.merge i = some m ∧ m.drain ≠ 0 ∧
      (s.dom m.dom).st.inService = true ∧ s.region m.dom (lineAddr m.laddr 0) = some (rt, c)) ∧
    (∃ (s : State) (sl : Fin 17) (i : Nat) (v : Victim), s.clocked = true ∧
      (s.home.victims.filter fun v => v.sl == sl.val)[i]? = some v ∧ (s.dom v.dom).st.inService = true) :=
  ⟨⟨withTrk sH xr1, 0, 7, xr1, false, 1, [], 2, by decide +kernel⟩,
   ⟨withTrk sH xr, 0, 7, xr, false, 1, [2], 2, 2, by decide +kernel⟩,
   ⟨sv, 0, 7, xa, req2 .rds lCO, by decide +kernel⟩,
   ⟨sv, 0, 7, xa, 0, Await.snoop 2 .sni, .agent 2, by decide +kernel⟩,
   ⟨sv, 0, 7, xa, by decide +kernel⟩,
   ⟨sv, 3, mm, RType.nc, 3, by decide +kernel⟩,
   ⟨sv, 0, 0, vm, by decide +kernel⟩⟩

/-- The hypotheses of the grant statement. -/
def mayGrant (s : S) (sl : Fin 17) (n : Fin 64) (x : Tracker) (r : Req) : Prop :=
  s.clocked = true ∧ s.trk sl n = some x ∧ x.phase = .grant ∧ x.req = some r ∧ switchHits s sl = false ∧
    s.inert ∧ s.home.wbs = [] ∧ grantCredit s x r = true ∧ r.port < 16 ∧ s.up r.port = true ∧
    (s.port r.port).mem.dom = some r.h.dom.toNat ∧ (s.port r.port).mem.sent.isSome = true ∧
    s.mirrored r.h.dom.toNat (s.port r.port).mem.dan = none ∧ x.poison = false ∧ x.plain ∧ x.awaits = [] ∧
    (x.flow = .read ∨ x.flow = .own ∨ x.flow = .upgrade)

theorem witness_DelayedGrantsArePlaced :
    (∃ (s : State) (sl : Fin 17) (n : Fin 64) (x : Tracker) (r : Req), mayGrant s sl n x r ∧
      nextReady s r.port = some x) ∧
    (∃ (s : State) (sl : Fin 17) (n : Fin 64) (x : Tracker) (r : Req), mayGrant s sl n x r ∧
      x.pacedAt.isSome = true ∧ paceOpen (s.port r.port).fore = false) :=
  ⟨⟨sg, 0, 7, xg, req2 .rdo lCO, by unfold mayGrant State.inert Tracker.plain; decide +kernel⟩,
   ⟨sgc, 0, 7, xg, req2 .rdo lCO, by unfold mayGrant State.inert Tracker.plain; decide +kernel⟩⟩

theorem witness_WaitingTrackersGoOn :
    (∃ (s : State) (sl : Fin 17) (n : Fin 64) (x : Tracker), ∃ w rest q, s.clocked = true ∧
      s.trk sl n = some x ∧ (s.dom x.dom).st.inService = true ∧ switchHits s sl = false ∧ s.inert ∧ s.home.wbs = [] ∧ x.dom < 8 ∧
      x.mrqs = w :: rest ∧ w.f.h.dom.toNat = x.dom ∧ s.reaches x.dom w.dan q ∧
      creditFree s q .mrq x.dom = true) ∧
    (∃ (s : State) (sl : Fin 17) (n : Fin 64) (x : Tracker), ∃ dirty r, s.clocked = true ∧
      s.trk sl n = some x ∧ (s.dom x.dom).st.inService = true ∧ switchHits s sl = false ∧ s.inert ∧ s.home.wbs = [] ∧ x.dom < 8 ∧
      x.fillWait = some (0, dirty) ∧ x.req = some r ∧ r.op = .rds ∧ x.wb = none ∧ x.wbData = none ∧
      x.awaits = [.line] ∧ x.dropLine = false ∧ s.arr.tag = [] ∧ s.arr.owner = [] ∧
      s.localMirrored x.dom = []) ∧
    (∃ (s : State) (sl : Fin 17) (n : Fin 64) (x : Tracker) (r : Req), ∃ tgt q, s.clocked = true ∧
      s.trk sl n = some x ∧ (s.dom x.dom).st.inService = true ∧ switchHits s sl = false ∧ s.inert ∧ s.home.wbs = [] ∧ x.dom < 8 ∧
      x.phase = .collect ∧ x.req = some r ∧ (x.flow = .ncMerge ∨ x.flow = .undecided) ∧
      (x.flow = .ncMerge → ∀ y ∈ s.home.trackers.takeWhile (· != x),
        ¬(y.flow = .ncMerge ∧ y.phase = .collect ∧ y.awaits = [])) ∧ x.awaits = [] ∧
      x.mrqs = [] ∧ r.op ∈ [.rdc, .rnc, .wnc, .wrl] ∧ r.h.dom.toNat = x.dom ∧
      r.h.epoch = (s.dom x.dom).epoch ∧ r.f.laddr = x.laddr ∧ s.home.merges = [] ∧ (s.dom x.dom).par.mbq = 0 ∧
      s.region x.dom (lineAddr x.laddr 0) = some (.nc, tgt) ∧ s.reaches x.dom tgt q ∧
      creditFree s q .mrq x.dom = true) :=
  ⟨⟨withTrk sH xq, 0, 7, xq, ⟨3, wf, 0⟩, [], 1, by unfold State.reaches State.inert; decide +kernel⟩,
   ⟨withTrk sH xf, 0, 7, xf, true, req2 .rds lCO, by unfold State.inert; decide +kernel⟩,
   ⟨withTrk sH xn, 0, 7, xn, req2 .wrl lNC, 3, 1, by unfold State.reaches State.inert; decide +kernel⟩⟩

theorem witness_HoldsAndEntriesEnd :
    (∃ (s : State) (sl : Fin 17) (n : Fin 64) (x : Tracker), ∃ dirty cnt forced, ∃ (r : Req), ∃ rt tgt q,
      ∃ (c : Instr), s.clocked = true ∧ s.inert ∧ s.trk sl n = some x ∧ x.phase = .hold ∧
      x.hold = some (dirty, cnt, forced) ∧ x.req = some r ∧ (s.dom x.dom).st.inService = true ∧ x.plain ∧
      x.awaits = [] ∧ x.poison = false ∧ r.h.dom.toNat = x.dom ∧ s.home.wbs = [] ∧
      s.region x.dom (lineAddr x.laddr 0) = some (rt, tgt) ∧ tgt ≠ 0x7F ∧ s.reaches x.dom tgt q ∧
      creditFree s q .mrq x.dom = true ∧ (c = .holdIdleLimit sl n ∨ c = .holdTimeLimit sl n) ∧
      dirty = false) ∧
    (∃ (s : State) (sl : Fin 17) (n : Fin 64) (x : Tracker), ∃ dirty cnt forced, ∃ (r : Req), ∃ rt tgt q,
      ∃ (c : Instr), s.clocked = true ∧ s.inert ∧ s.trk sl n = some x ∧ x.phase = .hold ∧
      x.hold = some (dirty, cnt, forced) ∧ x.req = some r ∧ (s.dom x.dom).st.inService = true ∧ x.plain ∧
      x.awaits = [] ∧ x.poison = false ∧ r.h.dom.toNat = x.dom ∧ s.home.wbs = [] ∧
      s.region x.dom (lineAddr x.laddr 0) = some (rt, tgt) ∧ tgt ≠ 0x7F ∧ s.reaches x.dom tgt q ∧
      creditFree s q .mrq x.dom = true ∧ (c = .holdIdleLimit sl n ∨ c = .holdTimeLimit sl n) ∧ dirty = true) ∧
    (∃ (s : State) (i : Fin 64) (m : Merge), ∃ rt tgt q, ∃ (c : Instr) (k o : Nat),
      let idle := idleEntries s fun _ => true; s.clocked = true ∧ s.inert ∧ s.merge i = some m ∧ m.drain = 0 ∧
      m.dom < 8 ∧ s.region m.dom (lineAddr m.laddr 0) = some (rt, tgt) ∧ s.reaches m.dom tgt q ∧
      (c = .mergeEntryAge i ∨ (c = .mergePressureDrain ∧ 56 ≤ idle.length ∧ idle.head? = some m)) ∧
      alignedBlock m.valid = some (k, o)) ∧
    (∃ (s : State) (i : Fin 64) (m : Merge), ∃ rt tgt q, ∃ (c : Instr),
      let idle := idleEntries s fun _ => true; s.clocked = true ∧ s.inert ∧ s.merge i = some m ∧ m.drain = 0 ∧
      m.dom < 8 ∧ s.region m.dom (lineAddr m.laddr 0) = some (rt, tgt) ∧ s.reaches m.dom tgt q ∧
      (c = .mergeEntryAge i ∨ (c = .mergePressureDrain ∧ 56 ≤ idle.length ∧ idle.head? = some m)) ∧
      alignedBlock m.valid = none) :=
  ⟨⟨withTrk sH (xh false), 0, 7, xh false, false, 1, false, req2 .atm lCO, RType.co, 3, 1,
    Instr.holdIdleLimit 0 7, by unfold State.reaches State.inert Tracker.plain; decide +kernel⟩,
   ⟨withTrk sH (xh true), 0, 7, xh true, true, 1, false, req2 .atm lCO, RType.co, 3, 1,
     Instr.holdTimeLimit 0 7, by unfold State.reaches State.inert Tracker.plain; decide +kernel⟩,
   ⟨sH.updHome (fun h => {h with merges := [me 0xF]}), 3, me 0xF, RType.nc, 3, 1, Instr.mergeEntryAge 3, 2, 0,
     by dsimp only; unfold State.reaches State.inert; decide +kernel⟩,
   ⟨sH.updHome (fun h => {h with merges := [me 0x7]}), 3, me 0x7, RType.nc, 3, 1, Instr.mergeEntryAge 3,
     by dsimp only; unfold State.reaches State.inert; decide +kernel⟩⟩

theorem witness_SweepsAndQuiescing :
    (∃ (s : State) (d : Fin 8) (mbx : Fin 10), s.clocked = true ∧ (s.dom d).st = .quiescing ∧
      drained s d = true ∧ (s.dom d).sweep = none ∧ (s.dom d).quiesceMbx = some mbx.val ∧
      (s.mb mbx).st = .busy ∧ ramWf s.mbram = true) ∧
    (∃ (s : State) (d : Fin 8), ∃ w q, let par := (s.dom d).par; s.clocked = true ∧ (s.dom d).sweep = some w ∧ s.home.switching ≠ some 16 ∧
      w.zero = true ∧ w.flush = false ∧ w.outst.length < 64 ∧ shareBlock s w.next < dirBlocks par ∧
      s.reaches d par.dirTgt q) ∧
    (∃ (s : State) (d : Fin 8), ∃ w k q, let par := (s.dom d).par; s.clocked = true ∧
      (s.dom d).sweep = some w ∧ s.home.switching ≠ some 16 ∧ w.zero = false ∧ w.flush = false ∧ w.outst.length < 64 ∧
      nextDirty s d w.next = some k ∧ s.inert ∧ chk47 (tget 0 s.arr.tag k) = .clean ∧
      evenOk 5 (tget 0 s.arr.owner k).toNat = true ∧ chk64 (tget 0 s.arr.word k) = .clean ∧
      s.reaches d par.dirTgt q) ∧
    (∃ (s : State) (d : Fin 8), ∃ w, ∃ (mbx : Fin 10), s.clocked = true ∧ (s.dom d).sweep = some w ∧ s.home.switching ≠ some 16 ∧
      w.flush = false ∧ w.mbx = some mbx.val ∧ (s.mb mbx).st = .busy ∧ ramWf s.mbram = true ∧ w.zero = false ∧
      w.outst = [] ∧ nextDirty s d w.next = none) ∧
    (∃ (s : State) (d : Fin 8), ∃ w, ∃ (mbx : Fin 10), let par := (s.dom d).par; s.clocked = true ∧
      (s.dom d).sweep = some w ∧ s.home.switching ≠ some 16 ∧ w.flush = false ∧ w.mbx = some mbx.val ∧ (s.mb mbx).st = .busy ∧
      ramWf s.mbram = true ∧ w.zero = true ∧ w.outst = [] ∧ dirBlocks par ≤ shareBlock s w.next ∧
      (s.dom d).start = none) ∧
    (∃ (s : State) (d : Fin 8), ∃ w, ∃ (mbx : Fin 10), s.clocked = true ∧ (s.dom d).sweep = some w ∧ s.home.switching ≠ some 16 ∧
      w.flush = false ∧ w.mbx = some mbx.val ∧ (s.mb mbx).st = .busy ∧ ramWf s.mbram = true ∧ w.outst ≠ [] ∧
      (s.dom d).st ≠ .quiescing ∧ (s.dom d).start = none) ∧
    (∃ (s : State) (d : Fin 8), ∃ w, s.clocked = true ∧ (s.dom d).sweep = some w ∧ s.home.switching ≠ some 16 ∧ w.outst ≠ [] ∧
      (s.dom d).st = .quiescing) :=
  ⟨⟨sQ, 1, 8, by decide +kernel⟩,
   ⟨withSw (sw1 true [] 3) .created, 1, sw1 true [] 3, 1,
     by dsimp only; unfold State.reaches; decide +kernel⟩,
   ⟨dirtyQ, 1, sw1 false [] 0, 32 * dirSet lCO, 1,
     by dsimp only; unfold State.reaches State.inert; decide +kernel⟩,
   ⟨withSw (sw1 false [] 0) .started, 1, sw1 false [] 0, 8, by decide +kernel⟩,
   ⟨withSw (sw1 true [] 2048) .created, 1, sw1 true [] 2048, 8, by dsimp only; decide +kernel⟩,
   ⟨withSw (sw1 true [64] 2048) .created, 1, sw1 true [64] 2048, 8, by decide +kernel⟩,
   ⟨withSw (sw1 false [64] 0) .quiescing, 1, sw1 false [64] 0, by decide +kernel⟩⟩

theorem witness_StagesOfAStart :
    (∃ (s : State) (d : Fin 8) (p : Fin 20) (n : AssignF) (h base : Nat), s.clocked = true ∧ s.up p = true ∧
      16 ≤ p.val ∧ (base = 40 ∨ base = 48) ∧ h < 8 ∧ h ≠ s.hubId ∧ n.dom.toNat = d.val ∧
      n.dan.toNat = base + h ∧ ((s.dom d).start = none ∨ sameStage n (stageNotice s d 40) = true)) ∧
    (∃ (s : State) (d : Fin 8) (p : Fin 20) (n : AssignF) (h base : Nat), s.clocked = true ∧ s.up p = true ∧
      16 ≤ p.val ∧ (base = 40 ∨ base = 48) ∧ h < 8 ∧ h ≠ s.hubId ∧ n.dom.toNat = d.val ∧
      n.dan.toNat = base + h ∧ (s.dom d).start ≠ none ∧ sameStage n (stageNotice s d 40) = false) ∧
    (∃ (s : State) (d : Fin 8) (p : Fin 20), s.clocked = true ∧ s.up p = true ∧ 16 ≤ p.val ∧
      (s.dom d).start = none ∧ (s.dom d).st.inService = true) ∧
    (∃ (s : State) (d : Fin 8), ∃ j, let again := j.origin = .down ∨ j.origin = .created ∧
      (s.dom d).zeroFlag = false; s.clocked = true ∧ (s.dom d).start = some j ∧ (s.dom d).heldReqs = [] ∧
      j.stage = .waitP ∧ allHubs s (s.dom d).stageP = true ∧ again ∧ (s.dom d).par.twSize ≠ 0) ∧
    (∃ (s : State) (d : Fin 8), ∃ j p, let again := j.origin = .down ∨ j.origin = .created ∧
      (s.dom d).zeroFlag = false; s.clocked = true ∧ (s.dom d).start = some j ∧ (s.dom d).heldReqs = [] ∧
      j.stage = .waitP ∧ allHubs s (s.dom d).stageP = true ∧ ¬again ∧ s.hubs ≠ 1 ∧ p ∈ spanPorts ∧
      s.up p = true) ∧
    (∃ (s : State) (d : Fin 8), ∃ j, ∃ (mbx : Fin 10), s.clocked = true ∧ (s.dom d).start = some j ∧
      (s.dom d).heldReqs = [] ∧ j.stage = .waitR ∧ allHubs s (s.dom d).stageR = true ∧ j.mbx = some mbx.val ∧
      (s.mb mbx).st = .busy ∧ ramWf s.mbram = true) ∧
    (∃ (s : State) (d : Fin 8), ∃ j, ∃ (mbx : Fin 10), s.clocked = true ∧ (s.dom d).start = some j ∧
      (s.dom d).heldReqs = [] ∧ (j.stage = .waitP ∨ j.stage = .waitR) ∧ j.mbx = some mbx.val ∧
      (s.mb mbx).st = .busy ∧ ramWf s.mbram = true) ∧
    (∃ (s : State) (d : Fin 8) (dan : Nat) (a : Agent) (p : Nat), s.alive = true ∧ (s.dom d).downing = true ∧
      dan < 128 ∧ s.agent d dan = some a ∧ a.hub = s.hubId ∧ a.port = some p ∧ s.up p = false) ∧
    (∃ (s : State) (d : Fin 8), ∃ dan a, s.alive = true ∧ (s.dom d).downing = true ∧ dan < 128 ∧
      s.agent d dan = some a ∧ a.hub ≠ s.hubId) :=
  ⟨⟨sN, 1, 16, nA 40 0, 1, 40, by decide +kernel⟩,
   ⟨stS .created .waitP .created, 1, 16, nA 48 9, 1, 48, by decide +kernel⟩,
   ⟨sN, 1, 16, by decide +kernel⟩,
   ⟨stS .created .waitP .created, 1, ⟨.created, .waitP, some 8⟩, by dsimp only; decide +kernel⟩,
   ⟨stS .quiesced .waitP .quiesced, 1, ⟨.quiesced, .waitP, some 8⟩, 16, by dsimp only; decide +kernel⟩,
   ⟨stS .quiesced .waitR .quiesced, 1, ⟨.quiesced, .waitR, some 8⟩, 8, by decide +kernel⟩,
   ⟨stS .created .waitP .created, 1, ⟨.created, .waitP, some 8⟩, 8, by decide +kernel⟩,
   ⟨downS, 1, 2, ag .caching 0, 0, by decide +kernel⟩,
   ⟨downS, 1, 9, aRem, by decide +kernel⟩⟩

end Sys2Proof.Tests
end

section
/-!
SUPPORT. Bits and fields of register values, one rule per register write of Platform.lean, and what they
say together: O31.
-/
namespace Sys2Proof.Machine

/-! ## Fields by their bits -/

theorem testBit_fld (v hi lo i : Nat) :
    (fld v hi lo).testBit i = (decide (i < hi + 1 - lo) && v.testBit (lo + i)) := by
  rw [fld, Nat.testBit_mod_two_pow, Nat.testBit_shiftRight]

/-- Two numbers with the same bits from lo to hi have the same field [hi:lo]. -/
theorem fld_congr {v u hi lo : Nat} (h : ∀ i, lo ≤ i → i ≤ hi → v.testBit i = u.testBit i) :
    fld v hi lo = fld u hi lo := by
  refine Nat.eq_of_testBit_eq fun i => ?_
  rw [testBit_fld, testBit_fld]
  by_cases hi' : i < hi + 1 - lo
  · rw [h (lo + i) (by omega) (by omega)]
  · simp [hi']

/-- A field whose bits are all clear is zero. -/
theorem fld_eq_zero {v hi lo : Nat} (h : ∀ i, lo ≤ i → i ≤ hi → v.testBit i = false) :
    fld v hi lo = 0 := by
  rw [fld_congr (u := 0) (by simpa using h), fld, Nat.zero_shiftRight, Nat.zero_mod]

/-- A replaced field has the bits of its new value; every other bit stands. -/
theorem testBit_setFld (v hi lo x i : Nat) :
    (setFld v hi lo x).testBit i
      = if lo ≤ i ∧ i ≤ hi then x.testBit (i - lo) else v.testBit i := by
  set n := hi + 1 - lo with hn
  set q := v >>> lo / 2 ^ n with hq
  have hv : v = 2 ^ lo * (2 ^ n * q) + 2 ^ lo * fld v hi lo + v % 2 ^ lo := by
    rw [← mul_add, fld, ← hn, Nat.div_add_mod, Nat.shiftRight_eq_div_pow, Nat.div_add_mod]
  have hs : setFld v hi lo x = 2 ^ lo * (2 ^ n * q + x % 2 ^ n) + v % 2 ^ lo := by
    rw [setFld, ← hn, mul_add, mul_comm (fld v hi lo), mul_comm (x % 2 ^ n)]
    omega
  have hlow : v % 2 ^ lo < 2 ^ lo := Nat.mod_lt _ (by positivity)
  have hx : x % 2 ^ n < 2 ^ n := Nat.mod_lt _ (by positivity)
  rw [hs, Nat.testBit_two_pow_mul_add _ hlow]
  by_cases h1 : i < lo
  · rw [if_pos h1, if_neg (by omega), Nat.testBit_mod_two_pow]
    simp [h1]
  · rw [if_neg h1, Nat.testBit_two_pow_mul_add _ hx]
    by_cases h2 : i - lo < n
    · rw [if_pos h2, if_pos (by omega), Nat.testBit_mod_two_pow]
      simp [h2]
    · rw [if_neg h2, if_neg (by omega), hq, ← Nat.shiftRight_eq_div_pow, Nat.testBit_shiftRight,
        Nat.testBit_shiftRight]
      congr 1
      omega

/-! ## The leaky buckets (R335) -/

theorem setBkt_bkt_same (s : State) (m : Nat) (b : Bucket) : (s.setBkt m b).bkt m = b :=
  tget_tset_same _ _ _ _

theorem setBkt_bkt_ne (s : State) {m j : Nat} (b : Bucket) (h : j ≠ m) :
    (s.setBkt m b).bkt j = s.bkt j :=
  tget_tset_ne _ _ _ h.symm

theorem bktWrite_low (s : State) (m : Nat) {p : Part} (v : BitVec 64) (hp : p ≠ .hi) :
    bktWrite s m p v = s.setBkt m
      { s.bkt m with cap := max 1 (fld v.toNat 15 8), per := fld v.toNat 3 0,
                     level := min (s.bkt m).level (max 1 (fld v.toNat 15 8)) } := by
  rw [bktWrite, if_neg hp]

/-! ## The flip-mask (R343) -/

/-- A write of IT_FLIP_CTL reaches the integrity registers alone. -/
theorem flipWrite_integ_only (s : State) (v : BitVec 32) :
    { flipWrite s v with integ := s.integ } = s := by
  unfold flipWrite
  split <;> rfl

theorem flipWrite_ignored {s : State} {v : BitVec 32} (ha : v.getLsbD 31 = true)
    (hm : flipMem (fld v.toNat 27 24) = false) : flipWrite s v = s := by
  simp [flipWrite, ha, hm]

theorem flipWrite_taken {s : State} {v : BitVec 32}
    (h : v.getLsbD 31 = false ∨ flipMem (fld v.toNat 27 24) = true) :
    flipWrite s v = { s with integ := { s.integ with flipCtl := (v &&& 0x8FFFC000#32) |||
      (if s.integ.flipCtl.getLsbD 30 && !v.getLsbD 30 then 0x40000000#32 else 0) } } := by
  have hc : ¬(v.getLsbD 31 && !flipMem (fld v.toNat 27 24)) = true := by
    rcases h with h | h <;> rw [h] <;> simp
  rw [flipWrite, if_neg hc]
  rfl

/-! ## Raw access (R344) -/

/-- A clear code word is a code word. -/
theorem check_zero (ms : List Nat) (n : Nat) : check ms n 0 0 = .clean := by
  have hp : ∀ n, parity n 0 = false := fun n => by
    induction n with
    | zero => rfl
    | succ n ih => simp [parity, ih]
  have hc : chkBits 0 ms = 0 := by
    induction ms with
    | nil => rfl
    | cons m ms ih => simp [chkBits, hp, ih]
  simp [check, hc]

theorem injTake_of_spent {s : State} (h : fld s.integ.injCtl.toNat 31 24 = 0) (m : Nat)
    (d : Option Nat) : injTake s m d = (0, s) := by
  simp [injTake, h]

/-- A checked read of a clear word with no injection left finds nothing. -/
theorem readFw_zero {s : State} {i : Nat} (hw : ramGet s.fwram i = 0)
    (h : fld s.integ.injCtl.toNat 31 24 = 0) : readFw s i = (.clean, s) := by
  have hz : ∀ hi lo, fld (0#39).toNat hi lo = 0 := fun hi lo => fld_eq_zero (by simp)
  simp [readFw, injTake_of_spent h, show ramGet s.fwram i = 0#39 from hw, fld, check_zero]

/-- A raw check that finds nothing reports STAT and SYN as 0. -/
theorem rawCheck_clean {s : State} (hen : rawEn s.integ.rawCtl = true)
    (hm : rawMail s.integ.rawCtl = false) (hr : readFw s (rawIdx s.integ.rawCtl) = (.clean, s)) :
    rawCheck s = { s with integ := { s.integ with
      rawCtl := BitVec.ofNat 32 (setFld (setFld s.integ.rawCtl.toNat 29 28 0) 25 19 0) } } := by
  simp [rawCheck, hen, hm, hr, State.updInteg]

/-- IT_RAW_CTL as a write leaves it, before a check. -/
def rawCtlNext (old v : BitVec 32) : BitVec 32 :=
  (v &&& 0xC00003FF#32) ||| (old &&& 0x33F80000#32)
    ||| (if v.getLsbD 27 then 0 else old &&& 0x08000000#32)

theorem rawCtlWrite_chkrd (s : State) {v : BitVec 32} (h : v.getLsbD 26 = true) :
    rawCtlWrite s v = rawCheck { s with integ := { s.integ with
      rawCtl := rawCtlNext s.integ.rawCtl v } } := by
  rw [rawCtlWrite, if_pos h]
  rfl

/-- EN, TGT and IDX are the bits of the write. -/
theorem getLsbD_rawCtlNext (old v : BitVec 32) {i : Nat} (h : i < 10 ∨ i = 30 ∨ i = 31) :
    (rawCtlNext old v).getLsbD i = v.getLsbD i := by
  have hmask : ∀ i < 32, i < 10 ∨ i = 30 ∨ i = 31 → (0xC00003FF#32).getLsbD i = true ∧
      (0x33F80000#32).getLsbD i = false ∧ (0x08000000#32).getLsbD i = false := by decide
  obtain ⟨h1, h2, h3⟩ := hmask i (by omega) h
  unfold rawCtlNext
  split <;> simp [h1, h2, h3]

theorem rawIdx_congr {v u : BitVec 32} (h : ∀ i < 10, v.getLsbD i = u.getLsbD i) :
    rawIdx v = rawIdx u :=
  fld_congr fun i _ hi => h i (by omega)

/-- STAT and SYN cleared leave every other bit. -/
theorem getLsbD_clearStat (v : BitVec 32) (i : Nat) :
    (BitVec.ofNat 32 (setFld (setFld v.toNat 29 28 0) 25 19 0)).getLsbD i
      = (!decide (28 ≤ i ∧ i ≤ 29 ∨ 19 ≤ i ∧ i ≤ 25) && v.getLsbD i) := by
  rw [BitVec.getLsbD_ofNat, testBit_setFld, testBit_setFld, BitVec.testBit_toNat]
  by_cases h32 : i < 32
  · by_cases h1 : 19 ≤ i ∧ i ≤ 25 <;> by_cases h2 : 28 ≤ i ∧ i ≤ 29 <;> simp [h32, h1, h2]
  · simp [h32, BitVec.getLsbD_of_ge v i (by omega)]

/-- What a checked read of a clear firmware word leaves in IT_RAW_CTL. -/
theorem chkrd_clear {s : State} {v : BitVec 32} (hen : rawEn v = true) (hm : rawMail v = false)
    (hw : ramGet s.fwram (rawIdx v) = 0) (hi : fld s.integ.injCtl.toNat 31 24 = 0) :
    ∃ c : BitVec 32,
      rawCtlWrite s (v ||| 0x04000000#32) = { s with integ := { s.integ with rawCtl := c } } ∧
      rawEn c = true ∧ rawIdx c = rawIdx v ∧ fld c.toNat 29 28 = 0 ∧ fld c.toNat 25 19 = 0 := by
  set n := rawCtlNext s.integ.rawCtl (v ||| 0x04000000#32) with hn
  have hmask : ∀ i < 32, i < 10 ∨ i = 30 ∨ i = 31 → (0x04000000#32).getLsbD i = false := by decide
  have hbit : ∀ i, i < 10 ∨ i = 30 ∨ i = 31 → n.getLsbD i = v.getLsbD i := fun i h => by
    rw [hn, getLsbD_rawCtlNext _ _ h, BitVec.getLsbD_or, hmask i (by omega) h, Bool.or_false]
  have hidx : rawIdx n = rawIdx v := rawIdx_congr fun i h => hbit i (.inl h)
  refine ⟨BitVec.ofNat 32 (setFld (setFld n.toNat 29 28 0) 25 19 0), ?_, ?_, ?_, ?_, ?_⟩
  · rw [rawCtlWrite_chkrd s (by simp)]
    refine rawCheck_clean ((hbit 31 (by decide)).trans hen) ((hbit 30 (by decide)).trans hm) ?_
    exact readFw_zero (by rw [← hidx] at hw; exact hw) hi
  · rw [rawEn, getLsbD_clearStat, hbit 31 (by decide), show v.getLsbD 31 = true from hen]
    rfl
  · rw [← hidx]
    refine rawIdx_congr fun i h => ?_
    rw [getLsbD_clearStat, decide_eq_false (by omega)]
    simp
  · refine fld_eq_zero fun i h1 h2 => ?_
    rw [BitVec.testBit_toNat, getLsbD_clearStat, decide_eq_true (by omega)]
    simp
  · refine fld_eq_zero fun i h1 h2 => ?_
    rw [BitVec.testBit_toNat, getLsbD_clearStat, decide_eq_true (by omega)]
    simp

/-- A raw write to the firmware window stores one word. -/
theorem rawStore_fw {s : State} (hen : rawEn s.integ.rawCtl = true)
    (hm : rawMail s.integ.rawCtl = false) (f : BitVec 39 → BitVec 39) :
    rawStore s f =
      { s with fwram := ramSet s.fwram (rawIdx s.integ.rawCtl) (f (ramGet s.fwram (rawIdx s.integ.rawCtl))) } := by
  simp [rawStore, hen, hm]

/-! ## The fault collector's bits (R369) -/

/-- The bits that a clearing mask reaches: all but 56 and 57. -/
def clearMask (mask : Nat) : BitVec 64 :=
  BitVec.ofNat 64 mask &&& ~~~(BitVec.ofNat 64 (2 ^ 56 + 2 ^ 57))

theorem statusClear_eq (s : State) (mask : Nat) : statusClear s mask
    = { s with flt := { s.flt with status := s.flt.status &&& ~~~clearMask mask,
                                   errPin := s.flt.errPin &&& ~~~clearMask mask } } := rfl

theorem missedClear_eq (s : State) (mask : Nat) : missedClear s mask
    = { s with flt := { s.flt with missed := s.flt.missed &&& ~~~clearMask mask } } := rfl

theorem getLsbD_cleared (x : BitVec 64) (mask i : Nat) :
    (x &&& ~~~clearMask mask).getLsbD i
      = (x.getLsbD i && (decide (i = 56 ∨ i = 57) || !mask.testBit i)) := by
  by_cases h : i < 64
  · have hc : ∀ i < 64, (BitVec.ofNat 64 (2 ^ 56 + 2 ^ 57)).getLsbD i = decide (i = 56 ∨ i = 57) := by
      decide
    simp only [clearMask, BitVec.getLsbD_and, BitVec.getLsbD_not, BitVec.getLsbD_ofNat, h, hc i h,
      decide_true, Bool.true_and]
    cases mask.testBit i <;> simp
  · simp [BitVec.getLsbD_of_ge x i (by omega)]

theorem getLsbD_cleared_fixed (x : BitVec 64) (mask : Nat) {i : Nat} (h : i = 56 ∨ i = 57) :
    (x &&& ~~~clearMask mask).getLsbD i = x.getLsbD i := by
  rw [getLsbD_cleared, decide_eq_true h, Bool.true_or, Bool.and_true]

theorem getLsbD_cleared_free (x : BitVec 64) (mask : Nat) {i : Nat} (h : i < 56 ∨ 58 ≤ i) :
    (x &&& ~~~clearMask mask).getLsbD i = (x.getLsbD i && !mask.testBit i) := by
  rw [getLsbD_cleared, decide_eq_false (by omega), Bool.false_or]

/-! ## Writes by offset (R14) -/

section
variable {o : Nat} (h20 : o ≠ 0x20) (hcrc : o < 0x27000 ∨ 0x27200 ≤ o)
include h20 hcrc

/-! An offset outside MB_STATE and the CRC units names the register listed there. -/

theorem regWrite_of_64 (h : platRegs.find? (fun e => e.1 == o) = some (o, 8)) (s : State) (p : Part)
    (v : BitVec 64) : regWrite s o p v = platWrite s o p v := by
  rw [regWrite, if_neg h20, if_neg (by omega), h]
  rfl

theorem regWrite_of_32 (h : platRegs.find? (fun e => e.1 == o) = some (o, 4)) (s : State)
    (v : BitVec 64) : regWrite s o .full v = platWrite s o .full (v &&& 0xFFFFFFFF#64) := by
  rw [regWrite, if_neg h20, if_neg (by omega), h]
  rfl

theorem regWrite_of_none (h : ∀ e ∈ platRegs, e.1 ≠ o) (s : State) (p : Part) (v : BitVec 64) :
    regWrite s o p v = s := by
  have hn : platRegs.find? (fun e => e.1 == o) = none := by
    simpa [List.find?_eq_none] using h
  rw [regWrite, if_neg h20, if_neg (by omega), hn]

end

/-- The low half of a value is all that a 32-bit register takes. -/
theorem setWidth_low (v : BitVec 64) : (v &&& 0xFFFFFFFF#64).setWidth 32 = v.setWidth 32 := by
  rw [BitVec.setWidth_and, show (0xFFFFFFFF#64).setWidth 32 = BitVec.allOnes 32 by decide,
    BitVec.and_allOnes]

theorem partSet_full (old : Nat) (v : BitVec 64) : BitVec.ofNat 64 (partSet .full old v) = v := by
  simp [partSet, partMask, partVal]

theorem regWrite_ktCause (s : State) (v : BitVec 64) : regWrite s 0x24004 .full v
    = { s with kt := { s.kt with cause := s.kt.cause &&& ~~~(v.setWidth 32) } } := by
  rw [regWrite_of_32 (by decide) (by decide) (by decide), ← setWidth_low v]
  rfl

theorem regWrite_fcPins (s : State) (v : BitVec 64) : regWrite s 0x26018 .full v
    = { s with flt := { s.flt with testErr := v.getLsbD 28 } } := by
  have hb : (v &&& 0xFFFFFFFF#64).getLsbD 28 = v.getLsbD 28 := by simp
  rw [regWrite_of_32 (by decide) (by decide) (by decide), ← hb]
  rfl

theorem regWrite_flipData (s : State) (v : BitVec 64) : regWrite s 0x25088 .full v
    = { s with integ := { s.integ with flipData := v } } := by
  rw [regWrite_of_64 (by decide) (by decide) (by decide)]
  conv_rhs => rw [← partSet_full s.integ.flipData.toNat v]
  rfl

theorem regWrite_flipChk (s : State) (v : BitVec 64) : regWrite s 0x25090 .full v
    = { s with integ := { s.integ with flipChk := v.setWidth 32 &&& 0xFF#32 } } := by
  rw [regWrite_of_32 (by decide) (by decide) (by decide), ← setWidth_low v]
  rfl

theorem regWrite_fcMissed (s : State) (v : BitVec 64) : regWrite s 0x26008 .full v
    = { s with flt := { s.flt with missed := s.flt.missed &&& ~~~clearMask v.toNat } } := by
  rw [regWrite_of_64 (by decide) (by decide) (by decide)]
  rfl

/-! ## The rows of the registers, while the hub clock runs -/

section
variable {s : State} (hc : s.clocked = true)
include hc

theorem exec_itBkt (m : Fin 12) (p : Part) (v : BitVec 64) :
    exec (.itBkt m p v) s = .next (bktWrite s m p v) := if_pos hc
theorem exec_itFlipCtl (v : BitVec 32) : exec (.itFlipCtl v) s = .next (flipWrite s v) := if_pos hc
theorem exec_itInjCtl (v : BitVec 32) : exec (.itInjCtl v) s = .next (injWrite s v) := if_pos hc
theorem exec_chkrd (v : BitVec 32) :
    exec (.chkrd v) s = .next (rawCtlWrite s (v ||| 0x04000000#32)) := if_pos hc
theorem exec_itRawData (v : BitVec 32) : exec (.itRawData v) s = .next (rawDataWrite s v) := if_pos hc
theorem exec_itRawChkb (v : BitVec 32) : exec (.itRawChkb v) s = .next (rawChkbWrite s v) := if_pos hc
theorem exec_fcStatus (p : Part) (v : BitVec 64) :
    exec (.fcStatus p v) s = .next (statusClear s (partVal p v)) := if_pos hc
theorem exec_registerWrite (off : BitVec 18) (p : Part) (v : BitVec 64) :
    exec (.registerWrite off p v) s = .next (regWrite s off.toNat p v) := if_pos hc

end

/-- Settles O31: each clause is the rule of its register's write. -/
theorem registersTakeTheirWrites : Obligations.RegistersTakeTheirWrites := by
  unfold Obligations.RegistersTakeTheirWrites
  intro s hc
  refine ⟨?itBkt, ?itFlipCtl, ?itInjCtl, ?chkrd, ?raw, ?fcStatus, ?ktCause, ?fcPins, ?flipData,
    ?flipChk, ?fcMissed, ?noRegister⟩
  case itBkt =>
    intro m p v hp
    refine ⟨_, exec_itBkt hc m p v, ?_⟩
    rw [bktWrite_low s m v hp]
    exact ⟨setBkt_bkt_same _ _ _, fun j hj => setBkt_bkt_ne _ _ hj, rfl⟩
  case itFlipCtl =>
    intro v
    exact ⟨_, exec_itFlipCtl hc v, flipWrite_integ_only s v, fun ha hm => flipWrite_ignored ha hm,
      fun h => by rw [flipWrite_taken h]⟩
  case itInjCtl => exact fun v => ⟨_, exec_itInjCtl hc v, rfl⟩
  case chkrd =>
    intro v hen hm hw hi
    obtain ⟨c, hwrite, hrest⟩ := chkrd_clear hen hm hw hi
    obtain ⟨hen', hidx, hstat, hsyn⟩ := hrest
    refine ⟨_, exec_chkrd hc v, ?_⟩
    rw [hwrite]
    exact ⟨hen', hidx, hstat, hsyn, rfl⟩
  case raw =>
    intro v hen hm hwf i
    refine ⟨⟨_, exec_itRawData hc v, ?_⟩, _, exec_itRawChkb hc v, ?_⟩
    · rw [rawDataWrite, rawStore_fw hen hm]
      exact ⟨ramGet_ramSet_same hwf _ _, fun j hj => ramGet_ramSet_ne hwf _ hj, rfl⟩
    · rw [rawChkbWrite, rawStore_fw hen hm]
      exact ⟨ramGet_ramSet_same hwf _ _, fun j hj => ramGet_ramSet_ne hwf _ hj, rfl⟩
  case fcStatus =>
    intro p v
    refine ⟨_, exec_fcStatus hc p v, ?_⟩
    rw [statusClear_eq]
    exact ⟨rfl, getLsbD_cleared_fixed _ _ (.inl rfl), getLsbD_cleared_fixed _ _ (.inr rfl),
      fun i hi => getLsbD_cleared_free _ _ hi⟩
  case ktCause => exact fun v => ⟨_, exec_registerWrite hc _ _ v, regWrite_ktCause s v⟩
  case fcPins => exact fun v => ⟨_, exec_registerWrite hc _ _ v, regWrite_fcPins s v⟩
  case flipData => exact fun v => ⟨_, exec_registerWrite hc _ _ v, regWrite_flipData s v⟩
  case flipChk => exact fun v => ⟨_, exec_registerWrite hc _ _ v, regWrite_flipChk s v⟩
  case fcMissed =>
    intro v
    refine ⟨_, (exec_registerWrite hc _ _ v).trans (congrArg _ (regWrite_fcMissed s v)), rfl, ?_⟩
    exact ⟨getLsbD_cleared_fixed _ _ (.inl rfl), getLsbD_cleared_fixed _ _ (.inr rfl),
      fun i hi => getLsbD_cleared_free _ _ hi⟩
  case noRegister =>
    intro off p v h20 hcrc hnone
    rw [exec_registerWrite hc, regWrite_of_none h20 hcrc hnone]

end Sys2Proof.Machine
end

section
/-!
SUPPORT. What an operation on one port leaves of the others; counters, error lines and queued link control.
-/
namespace Sys2Proof.Machine

/-! ## The other ports -/

theorem port_of_ports {s t : State} (h : t.ports = s.ports) (j : Nat) : t.port j = s.port j := by
  rw [State.port, h, State.port]

theorem State.otherPorts.refl (s : State) (p : Nat) : s.otherPorts s p := fun _ _ => rfl

theorem State.otherPorts.trans {s t u : State} {p : Nat} (h : s.otherPorts t p) (k : t.otherPorts u p) :
    s.otherPorts u p := fun j hj => (k j hj).trans (h j hj)

theorem otherPorts_of_ports {s t : State} (h : t.ports = s.ports) (p : Nat) : s.otherPorts t p :=
  fun j _ => port_of_ports h j

@[simp] theorem otherPorts_updPort (s : State) (p : Nat) (f : Port → Port) :
    s.otherPorts (s.updPort p f) p := fun _ hj => s.updPort_port_ne f hj.symm

@[simp] theorem otherPorts_updLink (s : State) (p : Nat) (f : Link → Link) :
    s.otherPorts (s.updLink p f) p := otherPorts_updPort s p _

@[simp] theorem otherPorts_updTx (s : State) (p : Nat) (f : Tx → Tx) :
    s.otherPorts (s.updTx p f) p := otherPorts_updPort s p _

@[simp] theorem otherPorts_updRx (s : State) (p : Nat) (f : Rx → Rx) :
    s.otherPorts (s.updRx p f) p := otherPorts_updPort s p _

@[simp] theorem otherPorts_updMem (s : State) (p : Nat) (f : Member → Member) :
    s.otherPorts (s.updMem p f) p := otherPorts_updPort s p _

@[simp] theorem otherPorts_cntAdd (s : State) (p i n : Nat) : s.otherPorts (cntAdd s p i n) p :=
  otherPorts_updPort s p _

/-! ## Counters and error lines (Table 02-13, R365) -/

@[simp] theorem cntAdd_port_same (s : State) (p i n : Nat) : (cntAdd s p i n).port p
    = { s.port p with cnt := tset (s.port p).cnt i (satAdd 32 (s.cnt p i) n) } :=
  s.updPort_port_same p _

@[simp] theorem cntAdd_cnt_same (s : State) (p i n : Nat) :
    (cntAdd s p i n).cnt p i = satAdd 32 (s.cnt p i) n := by
  rw [State.cnt, cntAdd_port_same, tget_tset_same]

theorem cntAdd_cnt_ne (s : State) (p n : Nat) {i k : Nat} (h : i ≠ k) :
    (cntAdd s p i n).cnt p k = s.cnt p k := by
  rw [State.cnt, cntAdd_port_same, tget_tset_ne _ _ _ h, State.cnt]

/-- A counter is one of its port's table. -/
theorem cnt_of_table {s t : State} {p : Nat} (h : (t.port p).cnt = (s.port p).cnt) (i : Nat) :
    t.cnt p i = s.cnt p i := congrArg (tget 0 · i) h

@[simp] theorem raiseInj_port (s : State) (src : Nat) (dom : Option Nat) (detail : Nat) (inj : Bool)
    (j : Nat) : (raiseInj s src dom detail inj).port j = s.port j := rfl

@[simp] theorem raise_port (s : State) (src : Nat) (dom : Option Nat) (detail : Nat) (j : Nat) :
    (raise s src dom detail).port j = s.port j := rfl

theorem raised_raise (s : State) (src : Nat) (dom : Option Nat) (detail : Nat) :
    (raise s src dom detail).raised src dom :=
  ⟨_, List.mem_append_right _ (List.mem_singleton_self _), rfl, rfl⟩

/-- The error lines of a state are still there in another (R365). -/
def State.linesStand (s t : State) : Prop := ∀ l ∈ s.flt.lines, l ∈ t.flt.lines

theorem State.linesStand.raised {s t : State} (h : s.linesStand t) {src : Nat} {dom : Option Nat}
    (hr : s.raised src dom) : t.raised src dom := by
  obtain ⟨l, hl, hd⟩ := hr
  exact ⟨l, h l hl, hd⟩

theorem State.linesStand.trans {s t u : State} (h : s.linesStand t) (k : t.linesStand u) :
    s.linesStand u := fun l hl => k l (h l hl)

theorem linesStand_of_flt {s t : State} (h : t.flt = s.flt) : s.linesStand t := fun _ hl => h ▸ hl

theorem linesStand_raiseInj (s : State) (src : Nat) (dom : Option Nat) (detail : Nat) (inj : Bool) :
    s.linesStand (raiseInj s src dom detail inj) := fun _ hl => List.mem_append_left _ hl

/-! ## The end of a command leaves the ports and the error lines -/

theorem mbFinish_ports (s : State) (m st de : Nat) (r : List Byte) :
    (mbFinish s m st de r).ports = s.ports := by simp

theorem mbFinish_flt (s : State) (m st de : Nat) (r : List Byte) :
    (mbFinish s m st de r).flt = s.flt := by simp

@[simp] theorem mbFinish_port (s : State) (m st de : Nat) (r : List Byte) (j : Nat) :
    (mbFinish s m st de r).port j = s.port j := port_of_ports (mbFinish_ports s m st de r) j

/-! ## Link control is queued (R296) -/

@[simp] theorem nudge_port_ne (s : State) {p j : Nat} (h : p ≠ j) : (nudge s p).port j = s.port j :=
  s.updLink_port_ne _ h

/-- The port with one more link-control message queued, and the exit that it owes for it. -/
def Port.withCtl (q : Port) (c : LinkCtl) : Port :=
  { q with tx := { q.tx with lcq := q.tx.lcq ++ [c] },
           link := if q.link.st = .simmer ∨ q.link.hs = .entering then { q.link with exitDue := true }
             else q.link }

theorem placeCtl_up {s : State} {p : Nat} (h : s.up p = true) (c : LinkCtl) :
    (placeCtl s p c).port p = (s.port p).withCtl c := by
  rw [placeCtl, if_pos h, nudge, State.updLink_port_same, State.updTx_port_same]
  rfl

theorem placeCtl_down {s : State} {p : Nat} (h : s.up p = false) (c : LinkCtl) :
    placeCtl s p c = s := by rw [placeCtl, h]; rfl

@[simp] theorem placeCtl_port_ne (s : State) {p j : Nat} (c : LinkCtl) (h : p ≠ j) :
    (placeCtl s p c).port j = s.port j := by
  unfold placeCtl
  split
  · rw [nudge_port_ne _ h, s.updTx_port_ne _ h]
  · rfl

@[simp] theorem otherPorts_placeCtl (s : State) (p : Nat) (c : LinkCtl) :
    s.otherPorts (placeCtl s p c) p := fun _ hj => placeCtl_port_ne s c hj.symm

end Sys2Proof.Machine
end

section
/-!
SUPPORT. A port that is held Down, and the rules of Detect, training, replay and Recovery: O18, O19.
-/
namespace Sys2Proof.Machine

/-! ## A port is held Down (R42, R65, R66) -/

@[simp] theorem mbDropPort_port (s : State) (p j : Nat) : (mbDropPort s p).port j = s.port j := rfl

@[simp] theorem dropNotices_port_same (s : State) (p : Nat) :
    (dropNotices s p).port p = { s.port p with hntQ := [] } := by
  unfold dropNotices
  cases hq : (s.port p).hntQ with
  | nil =>
    have hsame : { s.port p with hntQ := [] } = s.port p := by rw [← hq]
    simp [hq, hsame]
  | cons n ns =>
    simp only [mbDropPort_port, hq, List.isEmpty_cons, Bool.false_eq_true, if_false]
    split <;> simp

@[simp] theorem dropNotices_port_ne (s : State) {p j : Nat} (h : p ≠ j) :
    (dropNotices s p).port j = s.port j := by
  unfold dropNotices
  dsimp only
  split
  · rfl
  · split <;> simp [h]

theorem dropNotices_lines (s : State) (p : Nat) : s.linesStand (dropNotices s p) := by
  unfold dropNotices
  dsimp only
  split
  · exact fun _ hl => hl
  · split
    · exact fun _ hl => hl
    · exact linesStand_raiseInj _ 46 none 0 false

@[simp] theorem forgetCredits_port (s : State) (p j : Nat) :
    (forgetCredits s p).port j = s.port j := rfl

/-- What being held makes of a port (R42): the link is Down with its reason, and of the transmitter the flits
sent last stay on record. -/
def heldPort (q : Port) (reason : BitVec 8) : Port :=
  let q := clearLink { q with hntQ := [] }
  { q with
    link := { q.link with st := .held, rate := 0, width := 0, reversed := false, degraded := false,
                          polarity := 0, farCap := none, capAcked := false, peerAck := false,
                          lastDown := reason, hs := .idle, refused := false, ackDue := false,
                          exiting := false, exitDue := false, coeff := none,
                          retrain := none, wakeTrain := false },
    mem := { q.mem with sent := none, relWait := false, relSeq := none, assignQ := none,
                        ignoreCr := false, consent := false } }

@[simp] theorem holdPort_port_same (s : State) (p : Nat) (reason : BitVec 8) :
    (holdPort s p reason).port p = heldPort (s.port p) reason := by
  unfold holdPort
  dsimp only
  rw [State.updPort_port_same]
  split <;> simp [heldPort]

@[simp] theorem holdPort_port_ne (s : State) {p j : Nat} (h : p ≠ j) (reason : BitVec 8) :
    (holdPort s p reason).port j = s.port j := by
  unfold holdPort
  dsimp only
  rw [State.updPort_port_ne _ _ h]
  split <;> simp [h]

theorem holdPort_lines (s : State) (p : Nat) (reason : BitVec 8) :
    s.linesStand (holdPort s p reason) := by
  refine (dropNotices_lines s p).trans (linesStand_of_flt ?_)
  unfold holdPort
  dsimp only
  rw [State.updPort_flt]
  split
  · rw [mbFinish_flt]; rfl
  · rfl

theorem isDown_holdPort (s : State) (p : Nat) (reason : BitVec 8) :
    (holdPort s p reason).isDown p reason := by
  rw [State.isDown, holdPort_port_same]
  exact ⟨rfl, rfl⟩

/-! ## Training (R38 to R43) -/

section
variable {s : State} {p : Fin 20} (hc : s.clocked = true) (hu : portUsed s p = true)
include hc hu

theorem exec_portDetect_found (hd : (s.port p).link.st.detects = true) :
    exec (.portDetect p true) s = .next (s.updLink p fun l => { l with st := .training }) :=
  if_pos ⟨hc, hu, hd⟩

theorem exec_portDetect_none (hd : (s.port p).link.st.detects = true) :
    ∃ t, exec (.portDetect p false) s = .next t ∧ (t.port p).link.st = .noReceiver ∧
      s.otherPorts t p := by
  refine ⟨_, if_pos ⟨hc, hu, hd⟩, ?_, ?_⟩
  · simp
  · refine .trans (otherPorts_of_ports ?_ p) (otherPorts_updLink _ p _)
    split
    · exact mbFinish_ports ..
    · rfl

/-- The row of a training that ends, in a port that trains. -/
theorem exec_trainingComplete (ht : (s.port p).link.st = .training) (r : Trained) :
    exec (.trainingComplete p r) s =
      (let width := formedWidth p r
       let rate := trainedRate (s.port p).link r width
       if r.ending = .loopback then .next (s.updLink p fun l => { l with st := .loopback })
       else if r.ending = .compliance then .next (s.updLink p fun l => { l with st := .compliance })
       else if rate = 0 then .next (trainFail s p 1)
       else if width = 0 then .next (trainFail s p 2)
       else .next (trainUp s p rate width r.wired r)) :=
  if_pos ⟨hc, hu, ht⟩

end

/-- A training that fails leaves the port held and is reported (R42, Table 13-5). -/
theorem trainFail_spec (s : State) (p code : Nat) :
    s.otherPorts (trainFail s p code) p ∧ (trainFail s p code).raised 0 none ∧
      (trainFail s p code).isDown p (s.port p).link.lastDown := by
  refine ⟨?_, ?_, ?_⟩
  · exact fun j hj => by simp [trainFail, hj.symm]
  · exact (holdPort_lines (raise s 0 none _) p (s.port p).link.lastDown).raised (raised_raise s 0 none _)
  · simp [State.isDown, trainFail, heldPort]

/-- The port in L0 as a training leaves it, its CAP queued (R39, R50, R56, R71). -/
def trainedPort (q : Port) (p rate width wired : Nat) (r : Trained) (c : CapF) : Port :=
  let low : Bool := decide (rate < capRate q.link) || decide (width < wired)
  { q with tx := { wire := q.tx.wire, lcq := [.cap c] }, rx := { inbox := q.rx.inbox },
           link := { q.link with st := .l0, rate, width, reversed := r.reversed, degraded := low,
                                 polarity := r.polarity, farCap := none, capAcked := false,
                                 peerAck := false, coeff := none, hs := .idle, refused := false,
                                 exiting := false, exitDue := false,
                                 wakeTrain := q.link.wakeTrain && decide (p < 16) } }

theorem trainUp_port_same (s : State) (p rate width wired : Nat) (r : Trained) :
    let q := trainedPort (s.port p) p rate width wired r (hubCap s p)
    let t := trainUp s p rate width wired r
    (t.port p).link = q.link ∧ (t.port p).tx = q.tx ∧ (t.port p).rx = q.rx := by
  have hcap : ∀ f, hubCap (s.updPort p f) p = hubCap s p := fun _ => rfl
  unfold trainUp
  dsimp only
  rw [hcap]
  split
  · rw [raise_port, cntAdd_port_same, placeCtl_up (by simp [State.up, LinkSt.isUp]),
      State.updPort_port_same]
    simp [Port.withCtl, trainedPort]
  · rw [placeCtl_up (by simp [State.up, LinkSt.isUp]), State.updPort_port_same]
    simp [Port.withCtl, trainedPort]

theorem otherPorts_trainUp (s : State) (p rate width wired : Nat) (r : Trained) :
    s.otherPorts (trainUp s p rate width wired r) p := fun j hj => by
  unfold trainUp
  dsimp only
  split <;> simp [cntAdd, hj.symm]

/-- Settles O18: each end of a training is the rule of its row. -/
theorem linkTrainingReachesL0 : Obligations.LinkTrainingReachesL0 := by
  unfold Obligations.LinkTrainingReachesL0
  intro s p hc hu
  refine ⟨fun hd => ⟨⟨_, exec_portDetect_found hc hu hd, by simp, otherPorts_updLink s p _⟩,
    exec_portDetect_none hc hu hd⟩, fun ht r => ?_⟩
  intro width rate
  have hrow := exec_trainingComplete hc hu ht r
  refine ⟨fun he => ?_, fun he => ?_, fun he h0 => ?_, fun he hr hw => ?_⟩
  · simpa [he] using hrow
  · simpa [he] using hrow
  · have hfail : ∃ code, exec (.trainingComplete p r) s = .next (trainFail s p code) := by
      rw [if_neg (by simp [he]), if_neg (by simp [he])] at hrow
      by_cases hr : rate = 0
      · exact ⟨1, hrow.trans (if_pos hr)⟩
      · exact ⟨2, hrow.trans ((if_neg hr).trans (if_pos (h0.resolve_left hr)))⟩
    obtain ⟨code, h⟩ := hfail
    exact ⟨_, h, trainFail_spec s p code⟩
  · obtain ⟨hlink, htx, hrx⟩ := trainUp_port_same s p rate width r.wired r
    refine ⟨trainUp s p rate width r.wired r, ?_, otherPorts_trainUp s p rate width _ r, ?_⟩
    · simpa [he, rate, width, hr, hw] using hrow
    · simp [hlink, htx, hrx, trainedPort]

/-! ## Replay and Recovery (R53, R54, R66, R74) -/

/-- A Recovery that is no Simmer exit is counted. -/
theorem enterRecovery_spec (s : State) (p : Nat) :
    s.otherPorts (enterRecovery s p) p ∧ ((enterRecovery s p).port p).link.st = .recovery ∧
      (enterRecovery s p).cnt p 7 = satAdd 32 (s.cnt p 7) 1 := by
  refine ⟨.trans (otherPorts_updLink s p _) (otherPorts_cntAdd _ p 7 1), ?_, ?_⟩
  · simp [enterRecovery]
  · rw [enterRecovery, cntAdd_cnt_same]
    simp [State.cnt]

/-- The replay timer with a flit held: a replay, or the Recovery that a fifth would be (R54). -/
theorem startReplay_timer {s : State} {p : Nat} {f : TxFlit} {rest : List TxFlit}
    (hf : (s.port p).tx.replay = f :: rest) :
    startReplay s p true = if (s.port p).tx.replays ≥ 4 then enterRecovery s p
      else cntAdd (cntAdd (s.updTx p fun t => { t with
        replayAt := some f.seq, serving := some (f.seq - 1), replays := t.replays + 1 }) p 5 1) p 6 1 := by
  rw [startReplay, hf]
  rfl

/-- An idle port that asks for Simmer keeps its replay buffer, and its link its state. -/
theorem steepRequest_spec (s : State) (p : Nat) :
    s.otherPorts (steepRequest s p) p ∧
      ((steepRequest s p).port p).link.st = (s.port p).link.st ∧
      ((steepRequest s p).port p).link.exiting = (s.port p).link.exiting ∧
      ((steepRequest s p).port p).tx.replay = (s.port p).tx.replay ∧
      ((steepRequest s p).port p).tx.replays = (s.port p).tx.replays ∧
      ((steepRequest s p).port p).tx.replayAt = (s.port p).tx.replayAt := by
  unfold steepRequest requestSimmer
  dsimp only
  split
  · split
    · exact ⟨.trans (otherPorts_updTx s p _) (otherPorts_updLink _ p _), by simp⟩
    · exact ⟨.refl s p, by simp⟩
  · exact ⟨.refl s p, by simp⟩

/-- The row of a Recovery that ends. -/
theorem exec_recoveryExit {s : State} {p : Fin 20} (hr : (s.port p).link.st = .recovery) :
    exec (.recoveryExit p) s =
      (let u := s.updLink p fun l =>
         { l with st := .l0, exiting := false, exitDue := false, netHigh := false }
       if (s.port p).link.exiting then .next u
       else .next (steepRequest (u.updTx p fun t =>
         { t with replayAt := (t.replay.head?).map TxFlit.seq, serving := none, replays := 0 }) p)) :=
  if_neg (not_not_intro hr)

/-- Settles O19: the replay timer, the two ways into Recovery, and its end. -/
theorem replayAndRecovery : Obligations.ReplayAndRecovery := by
  unfold Obligations.ReplayAndRecovery
  intro s p
  refine ⟨fun f rest hc h0 hf => ?timer, fun h0 => ⟨fun hh => ?idle, ?farEnd⟩, fun hr => ?exit⟩
  case timer =>
    refine ⟨_, if_pos ⟨hc, h0⟩, ?_⟩
    rw [startReplay_timer hf]
    by_cases h4 : (s.port p).tx.replays ≥ 4
    · obtain ⟨ho, hst, hcnt⟩ := enterRecovery_spec s p
      rw [if_pos h4]
      exact ⟨ho, fun h => absurd h (by omega), fun _ => ⟨hst, hcnt⟩⟩
    · rw [if_neg h4]
      refine ⟨fun j hj => by simp [cntAdd, hj.symm], fun _ => ?_, fun h => absurd h (by omega)⟩
      simp [State.cnt]
  case idle => exact ⟨_, if_pos ⟨h0, hh⟩, enterRecovery_spec s p⟩
  case farEnd => exact ⟨_, if_pos h0, enterRecovery_spec s p⟩
  case exit =>
    rw [exec_recoveryExit hr]
    cases he : (s.port p).link.exiting with
    | true => exact ⟨_, rfl, otherPorts_updLink s p _, by simp⟩
    | false =>
      obtain ⟨ho, hst, hex, hrep, hreps, hat⟩ := steepRequest_spec ((s.updLink p fun l =>
        { l with st := .l0, exiting := false, exitDue := false, netHigh := false }).updTx p fun t =>
        { t with replayAt := (t.replay.head?).map TxFlit.seq, serving := none, replays := 0 }) p
      refine ⟨_, rfl, .trans (.trans (otherPorts_updLink s p _) (otherPorts_updTx _ p _)) ho, ?_⟩
      simp [hst, hex, hrep, hreps, hat]

end Sys2Proof.Machine
end

section
/-!
SUPPORT. Entry into Simmer and exit from it, and the wake that an exit is: O22.
-/
namespace Sys2Proof.Machine

/-! ## PM codes (R72, R73) -/

theorem takePm_port_same (s : State) (p : Nat) (v : BitVec 2) : (takePm s p v).port p
    = (let q := s.port p; { q with rx := { q.rx with inbox := q.rx.inbox.erase (.pm v) } }) :=
  s.updRx_port_same p _

theorem otherPorts_takePm (s : State) (p : Nat) (v : BitVec 2) : s.otherPorts (takePm s p v) p :=
  otherPorts_updRx s p _

/-- The messages of a port are no PM codes: taking one leaves the hub as busy as it was (R296). -/
theorem any_msg_erase_pm (l : List Delivered) (v : BitVec 2) :
    ((l.erase (.pm v)).any fun x => match x with
      | .msg _ => true
      | _ => false) = l.any fun x => match x with
      | .msg _ => true
      | _ => false := by
  induction l with
  | nil => rfl
  | cons x l ih =>
    by_cases h : x = .pm v
    · simp [h]
    · rw [List.erase_cons_tail (by simpa using h), List.any_cons, List.any_cons, ih]

@[simp] theorem hubBusy_takePm (s : State) (p : Nat) (v : BitVec 2) :
    hubBusy (takePm s p v) = hubBusy s := by
  have hport : ∀ j, ((takePm s p v).port j).rx.inbox
      = if j = p then ((s.port p).rx.inbox.erase (.pm v)) else (s.port j).rx.inbox := by
    intro j
    by_cases hj : j = p
    · rw [hj, takePm_port_same, if_pos rfl]
    · rw [otherPorts_takePm s p v j hj, if_neg hj]
  unfold hubBusy
  congr 1
  refine List.any_congr rfl fun j => ?_
  rw [hport]
  split
  · next hj => rw [hj]; exact any_msg_erase_pm _ v
  · rfl

/-! ## The handshake (R72, R73) -/

/-- A request that meets an idle port in L0 is accepted or refused (R72, R296). -/
theorem exec_simmerRequest {s : State} {p : Fin 20} (hc : s.clocked = true)
    (h0 : (s.port p).link.st = .l0) (hi : (s.port p).link.hs = .idle) :
    exec (.simmerRequest p) s =
      (let u := takePm s p 1
       if simmerReady (s.port p) && !hubBusy s then
         .next (enterSimmer (u.updTx p fun t => { t with pm := 2, pmSeq := none }) p false)
       else .next ((u.updTx p fun t => { t with pm := 3, pmSeq := none }).updLink p fun l =>
         { l with hs := .idle, refused := true })) := by
  have hcl : (takePm s p 1).clocked = true := hc
  have hready : simmerReady ((takePm s p 1).port p) = simmerReady (s.port p) := by
    rw [takePm_port_same]; rfl
  change execSimmerRequest p s = _
  unfold execSimmerRequest
  simp only [hcl, hready, hubBusy_takePm]
  simp [takePm_port_same, h0, hi]

@[simp] theorem enterSimmer_port_same (s : State) (p : Nat) (req : Bool) :
    (enterSimmer s p req).port p = (let q := s.port p
      { q with link := { q.link with
          hs := .entering, ackDue := req,
          exitDue := q.link.exitDue || !q.tx.q.isEmpty || !q.tx.lcq.isEmpty } }) :=
  s.updLink_port_same p _

theorem otherPorts_enterSimmer (s : State) (p : Nat) (req : Bool) :
    s.otherPorts (enterSimmer s p req) p := otherPorts_updLink s p _

/-- An entry into Steep that is abandoned concerns the Kettle alone (R292). -/
@[simp] theorem abandonSteep_port (s : State) (j : Nat) : (abandonSteep s).port j = s.port j := by
  unfold abandonSteep
  split <;> rfl

/-- A request that ends as refused. -/
theorem simmerRefused_spec (s : State) (p : Nat) :
    s.otherPorts (simmerRefused s p) p ∧ ((simmerRefused s p).port p).link.hs = .idle ∧
      ((simmerRefused s p).port p).link.refused = true := by
  refine ⟨fun j hj => ?_, ?_⟩
  · rw [simmerRefused, abandonSteep_port, s.updLink_port_ne _ hj.symm]
  · simp [simmerRefused]

/-! ## The wake (R293, R305) -/

theorem updLink_port_cnt (s : State) (p : Nat) (f : Link → Link) (j : Nat) :
    ((s.updLink p f).port j).cnt = (s.port j).cnt := by
  by_cases h : p = j
  · rw [h, s.updLink_port_same]
  · rw [s.updLink_port_ne f h]

theorem beginExits_port_cnt (s : State) (j : Nat) : ((beginExits s).port j).cnt = (s.port j).cnt :=
  foldl_frame (fun s => (s.port j).cnt) beginExit (fun s p => updLink_port_cnt s p _ j) allPorts s

theorem beginExits_kt (s : State) : (beginExits s).kt = s.kt :=
  foldl_frame (·.kt) beginExit (fun _ _ => rfl) allPorts s

@[simp] theorem pllStart_port (s : State) (j : Nat) : (pllStart s).port j = s.port j := by
  unfold pllStart
  split <;> rfl

theorem pllStart_kt (s : State) :
    (pllStart s).kt.st = s.kt.st ∧ (pllStart s).kt.cause = s.kt.cause := by
  unfold pllStart
  split <;> exact ⟨rfl, rfl⟩

@[simp] theorem netUpdate_port (s : State) (j : Nat) : (netUpdate s).port j = s.port j := by
  unfold netUpdate
  dsimp only
  (repeat' split) <;> rfl

theorem netUpdate_kt (s : State) :
    (netUpdate s).kt.st = s.kt.st ∧ (netUpdate s).kt.cause = s.kt.cause := by
  unfold netUpdate
  dsimp only
  (repeat' split) <;> exact ⟨rfl, rfl⟩

theorem wakeSteep_port_cnt (s : State) (c j : Nat) :
    ((wakeSteep s c).port j).cnt = (s.port j).cnt := by
  unfold wakeSteep
  dsimp only
  rw [netUpdate_port, pllStart_port, beginExits_port_cnt, addCause, State.updKt_port, State.updKt_port]

theorem wakeDormant_port_cnt (s : State) (c j : Nat) :
    ((wakeDormant s c).port j).cnt = (s.port j).cnt := by
  unfold wakeDormant
  dsimp only
  rw [pllStart_port, State.updSmb_port,
    foldl_frame (fun s => (s.port j).cnt) _ (fun s p => updLink_port_cnt s p _ j) allPorts,
    addCause, State.updKt_port, State.updKt_port]

/-- A wake counts nothing at a port. -/
theorem wake_port_cnt (s : State) (c j : Nat) : ((wake s c).port j).cnt = (s.port j).cnt := by
  unfold wake
  split
  · rfl
  · split
    · exact wakeSteep_port_cnt s c j
    · exact wakeDormant_port_cnt s c j
    · rw [netUpdate_port, State.updKt_port]
    · rfl

/-- A hub in Steep wakes to Warm, and the cause is on record (R293). -/
theorem wake_steep {s : State} (ha : s.alive = true) (hs : s.kt.st = .steep) (c : Nat) :
    (wake s c).kt.st = .warm ∧ (wake s c).kt.cause = s.kt.cause ||| BitVec.ofNat 32 c := by
  have hgo : ¬(s.flt.grave ∨ s.board.held ≠ .none) := by
    simp only [State.alive, Bool.and_eq_true, beq_iff_eq, Bool.not_eq_true'] at ha
    simp [ha.1, ha.2]
  rw [wake, if_neg hgo, hs]
  dsimp only
  obtain ⟨hn1, hn2⟩ := netUpdate_kt
    (pllStart (beginExits (addCause (s.updKt fun k => { k with st := .warm }) c)))
  obtain ⟨hp1, hp2⟩ := pllStart_kt (beginExits (addCause (s.updKt fun k => { k with st := .warm }) c))
  rw [wakeSteep, hn1, hn2, hp1, hp2, beginExits_kt]
  exact ⟨rfl, rfl⟩

/-! ## The exit (R74, R316) -/

/-- A trigger is the forecaster's affair: the link, the counters and the Kettle stand. -/
theorem trigger_rest (s : State) (p : Nat) (large : Bool) (g : Forecast → Forecast) :
    ((trigger s p large g).port p).link = (s.port p).link ∧
      ((trigger s p large g).port p).cnt = (s.port p).cnt ∧ (trigger s p large g).kt = s.kt := by
  unfold trigger
  dsimp only
  split
  · exact ⟨rfl, rfl, rfl⟩
  · generalize (if (s.port p).fore.phase = .watch then watchAdapt (s.port p).fore else _) = f
    split
    · rw [State.updFore_port_same]; exact ⟨rfl, rfl, rfl⟩
    · rw [State.updFore_port_same]; exact ⟨rfl, rfl, rfl⟩

theorem exitTrigger_rest (s : State) (p : Nat) (own : Bool) :
    ((exitTrigger s p own).port p).link = (s.port p).link ∧
      ((exitTrigger s p own).port p).cnt = (s.port p).cnt ∧ (exitTrigger s p own).kt = s.kt := by
  unfold exitTrigger
  split
  · exact trigger_rest s p false _
  · exact ⟨rfl, rfl, rfl⟩

/-- What the hub does with its sleep when a port leaves Simmer: its own exit abandons an entry into Steep,
the far end's wakes it (R292, R293). -/
def exitWake (s : State) (p : Nat) : State :=
  if (s.port p).link.exiting then abandonSteep s else wake s (causePort p)

theorem exitWake_port_cnt (s : State) (p j : Nat) :
    ((exitWake s p).port j).cnt = (s.port j).cnt := by
  unfold exitWake
  split
  · rw [abandonSteep_port]
  · exact wake_port_cnt s _ j

theorem exec_simmerExit {s : State} {p : Fin 20} (hst : (s.port p).link.st = .simmer)
    (ha : s.alive = true) : exec (.simmerExit p) s
      = .next (exitTrigger (simmerUp (exitWake s p) p) p (s.port p).link.exiting) :=
  if_neg (by simp [hst, ha])

theorem exec_simmerExitSlow {s : State} {p : Fin 20} (hst : (s.port p).link.st = .simmer)
    (ha : s.alive = true) : exec (.simmerExitSlow p) s
      = .next (exitTrigger (cntAdd ((exitWake s p).updLink p fun l =>
          { l with st := .recovery, exiting := true,
                   netHigh := (s.port p).link.exiting && l.netHigh }) p 9 1) p
          (s.port p).link.exiting) :=
  if_pos ⟨hst, ha⟩

/-- Settles O22: the handshake row by row, then the exits. -/
theorem simmerIsEnteredAndLeft : Obligations.SimmerIsEnteredAndLeft := by
  unfold Obligations.SimmerIsEnteredAndLeft
  refine ⟨fun s p => ⟨fun h0 => ⟨fun hc hi => ?request, fun hh => ?accept, fun hh hd => ?complete,
      fun hc hp hb hi hr => ?idle⟩, fun b hb => ?refuse, fun hb => ?timeout⟩,
    fun s p hst => ⟨fun ha => ?exit, fun hc he hd => ?start, fun ha => ?slow⟩⟩
  case request =>
    rw [exec_simmerRequest hc h0 hi]
    by_cases hr : (simmerReady (s.port p) && !hubBusy s) = true
    · refine ⟨_, if_pos hr, ?_, ?_, ?_⟩
      · exact .trans (.trans (otherPorts_takePm s p 1) (otherPorts_updTx _ p _))
          (otherPorts_enterSimmer _ p _)
      · simp
      · simp only [Bool.and_eq_true, Bool.not_eq_true'] at hr
        simp [hr]
    · refine ⟨_, if_neg hr, ?_, ?_, ?_⟩
      · exact .trans (.trans (otherPorts_takePm s p 1) (otherPorts_updTx _ p _))
          (otherPorts_updLink _ p _)
      · intro h1 h2
        simp [h1, h2] at hr
      · simp
  case accept =>
    refine ⟨_, if_pos ?_, .trans (otherPorts_takePm s p 2) (otherPorts_enterSimmer _ p _), ?_⟩
    · simp [takePm_port_same, h0, hh]
    · simp [takePm_port_same, h0]
  case complete =>
    refine ⟨_, if_pos ⟨h0, hh, hd⟩, .trans (otherPorts_updLink s p _) (otherPorts_cntAdd _ p 8 1), ?_⟩
    simp [State.cnt]
  case idle =>
    refine ⟨_, if_pos (by simp [hc, hp, hb]), ?_⟩
    rw [requestSimmer, if_pos ⟨h0, hi, hr⟩]
    exact ⟨.trans (otherPorts_updTx s p _) (otherPorts_updLink _ p _), by simp⟩
  case refuse =>
    obtain ⟨ho, hend⟩ := simmerRefused_spec (takePm s p 3) p
    refine ⟨simmerRefused (takePm s p 3) p, ?_, .trans (otherPorts_takePm s p 3) ho, hend⟩
    change execSimmerRefuse p s = _
    unfold execSimmerRefuse
    simp [takePm_port_same, hb]
  case timeout =>
    refine ⟨simmerRefused s p, ?_, simmerRefused_spec s p⟩
    change execSimmerRequestTimeout p s = _
    unfold execSimmerRequestTimeout
    simp [hb]
  case exit =>
    obtain ⟨hl, -, hk⟩ := exitTrigger_rest (simmerUp (exitWake s p) p) p (s.port p).link.exiting
    refine ⟨_, exec_simmerExit hst ha, ?_, ?_, fun hs hex => ?_⟩
    · rw [hl]; simp [simmerUp]
    · rw [hl]; simp [simmerUp]
    · have hkt : (simmerUp (exitWake s p) p).kt = (wake s (causePort p)).kt := by
        rw [exitWake, hex]
        rfl
      rw [hk, hkt]
      exact wake_steep ha hs _
  case start =>
    refine ⟨_, if_pos ⟨hc, hst, by simp [he], hd⟩, otherPorts_updLink s p _, ?_⟩
    rw [beginExit, s.updLink_port_same]
    exact if_pos hst
  case slow =>
    obtain ⟨hl, hcn, -⟩ := exitTrigger_rest (cntAdd ((exitWake s p).updLink p fun l =>
      { l with st := .recovery, exiting := true, netHigh := (s.port p).link.exiting && l.netHigh }) p 9 1)
      p (s.port p).link.exiting
    refine ⟨_, exec_simmerExitSlow hst ha, ?_, ?_, ?_⟩
    · simp [hl]
    · simp [hl]
    · rw [cnt_of_table hcn, cntAdd_cnt_same, State.cnt, updLink_port_cnt, exitWake_port_cnt, State.cnt]

end Sys2Proof.Machine
end

section
/-!
SUPPORT. The flit that goes out: its slots, its credit returns, and what it leaves in the transmitter: O24.
-/
namespace Sys2Proof.Machine

/-! ## The slots of a new flit (R62) -/

theorem Fill.place_slots (f : Fill) (p : Nat) (seq : BitVec 10) (m : Msg) :
    ∃ x, (f.place p seq m).slots = f.slots ++ [x] := ⟨_, rfl⟩

theorem Fill.goOn_slots (f : Fill) : ∃ x, f.goOn.slots = f.slots ++ [x] := by
  unfold Fill.goOn
  split <;> exact ⟨_, rfl⟩

/-- Each step fills one slot, behind those filled before. -/
theorem Fill.step_slots (p : Nat) (seq : BitVec 10) (room only : Bool) (f : Fill) :
    ∃ x, (Fill.step p seq room only f).slots = f.slots ++ [x] := by
  unfold Fill.step
  dsimp only
  split
  · exact f.goOn_slots
  · split
    · exact ⟨_, rfl⟩
    · split
      · exact ⟨_, rfl⟩
      · split
        · exact f.place_slots p seq _
        · split
          · exact f.goOn_slots
          · split
            · exact f.place_slots p seq _
            · exact ⟨_, rfl⟩

/-- Link control goes first into a flit in which nothing is open (R62). -/
theorem Fill.step_ctl (p : Nat) (seq : BitVec 10) (room : Bool) {f : Fill} {c : LinkCtl}
    {rest : List LinkCtl} (hl : f.lcq = c :: rest) (ho : f.opens = []) :
    (Fill.step p seq room false f).slots = f.slots ++ [.ctl c] := by
  simp [Fill.step, hl, ho]

/-- As many slots are filled as steps are made. -/
theorem fillSteps_slots {α : Type} (p : Nat) (seq : BitVec 10) (room only : Bool) (l : List α) (f : Fill) :
    ∃ xs, xs.length = l.length ∧
      (l.foldl (fun f _ => Fill.step p seq room only f) f).slots = f.slots ++ xs := by
  induction l generalizing f with
  | nil => exact ⟨[], rfl, by simp⟩
  | cons a l ih =>
    obtain ⟨x, hx⟩ := Fill.step_slots p seq room only f
    obtain ⟨xs, hlen, hxs⟩ := ih (Fill.step p seq room only f)
    exact ⟨x :: xs, by simp [hlen], by simp [hxs, hx]⟩

/-- The fourteen slots that a port fills, and what it then still has to send. -/
def Port.filled (q : Port) (p : Nat) : Fill :=
  (upto 14).foldl
    (fun f _ => Fill.step p q.tx.seq (decide (q.tx.replay.length ≤ 60)) (q.link.hs == .entering) f)
    { lcq := q.tx.lcq, q := q.tx.q, credits := q.tx.credits, opens := q.tx.opens, slots := [] }

theorem Port.filled_slots_length (q : Port) (p : Nat) : (q.filled p).slots.length = 14 := by
  obtain ⟨xs, hlen, hxs⟩ := fillSteps_slots p q.tx.seq (decide (q.tx.replay.length ≤ 60))
    (q.link.hs == .entering) (upto 14)
    { lcq := q.tx.lcq, q := q.tx.q, credits := q.tx.credits, opens := q.tx.opens, slots := [] }
  rw [Port.filled, hxs]
  simpa [upto] using hlen

theorem Port.filled_slots_ctl {q : Port} {c : LinkCtl} {rest : List LinkCtl} (p : Nat)
    (hl : q.tx.lcq = c :: rest) (ho : q.tx.opens = []) (hh : q.link.hs ≠ .entering) :
    (q.filled p).slots.head? = some (.ctl c) := by
  have hu : upto 14 = 0 :: (upto 13).map (· + 1) := by decide
  obtain ⟨xs, -, hxs⟩ := fillSteps_slots p q.tx.seq (decide (q.tx.replay.length ≤ 60)) false
    ((upto 13).map (· + 1)) (Fill.step p q.tx.seq (decide (q.tx.replay.length ≤ 60)) false
    { lcq := q.tx.lcq, q := q.tx.q, credits := q.tx.credits, opens := q.tx.opens, slots := [] })
  rw [Fill.step_ctl p _ _ hl ho] at hxs
  rw [Port.filled, hu, List.foldl_cons, show (q.link.hs == .entering) = false by simpa using hh, hxs]
  rfl

/-! ## Credit returns (R55) -/

theorem length_takeReturns (p n : Nat) (t : Tbl Nat) : (takeReturns p n t).1.length ≤ n := by
  induction n generalizing t with
  | zero => simp [takeReturns]
  | succ n ih =>
    unfold takeReturns
    split
    · simp
    · next k v _ => simpa using ih (tset t k (v - min v 511))

/-! ## The new flit -/

/-- A request that is not made, or an accept that becomes a refusal, changes the PM code and the handshake
(R72); sequence numbers, queues and the receiver stand. -/
theorem settlePm_spec (s : State) (p : Nat) :
    s.otherPorts (settlePm s p) p ∧
    ((settlePm s p).port p).rx = (s.port p).rx ∧
    (∃ pm, ((settlePm s p).port p).tx = { (s.port p).tx with pm }) ∧
    ((s.port p).link.hs ≠ .entering → ((settlePm s p).port p).link.hs ≠ .entering) := by
  unfold settlePm
  dsimp only
  split
  · exact ⟨.refl s p, rfl, ⟨_, rfl⟩, id⟩
  · split
    · exact ⟨.trans (otherPorts_updTx s p _) (otherPorts_updLink _ p _), by simp⟩
    · split
      · exact ⟨.trans (otherPorts_updTx s p _) (otherPorts_updLink _ p _), by simp⟩
      · exact ⟨.refl s p, rfl, ⟨_, rfl⟩, id⟩

/-- The credit returns of a port's next flit, and what stays owed: none goes while an ASSIGN waits (R70). -/
def Port.creditReturns (q : Port) (p : Nat) : List CreditRet × Tbl Nat :=
  if (q.filled p).lcq.any fun c => match c with
    | .assign _ => decide (p < 16)
    | _ => false
  then ([], q.rx.returns) else takeReturns p 2 q.rx.returns

theorem Port.creditReturns_length (q : Port) (p : Nat) : (q.creditReturns p).1.length ≤ 2 := by
  unfold Port.creditReturns
  split
  · simp
  · exact length_takeReturns p 2 _

/-- The payload flit that a port fills, with the acknowledgement of the moment (R50, R52). -/
def Port.payload (q : Port) (p : Nat) : TxFlit :=
  { idle := false, seq := q.tx.seq, ack := q.rx.seq - 1, ackv := q.rx.any, rpq := q.rx.rpq,
    pm := q.tx.pm, crs := (q.creditReturns p).1, slots := (q.filled p).slots }

theorem Port.payload_fields (q : Port) (p : Nat) :
    (q.payload p).idle = false ∧ (q.payload p).seq = q.tx.seq ∧ (q.payload p).ack = q.rx.seq - 1 ∧
      (q.payload p).ackv = q.rx.any ∧ (q.payload p).rpq = q.rx.rpq ∧ (q.payload p).crs.length ≤ 2 ∧
      (q.payload p).slots = (q.filled p).slots := by
  simp only [Port.payload, q.creditReturns_length p, and_self]

/-- The transmitter once a payload flit has been numbered and is held (R50). -/
def Tx.sent (t : Tx) (f : Fill) (x : TxFlit) : Tx :=
  { t with seq := t.seq + 1, replay := t.replay ++ [x], opens := f.opens, lcq := f.lcq, q := f.q,
           pm := 0, pmSeq := if t.pm = 0 then t.pmSeq else some t.seq, credits := f.credits, wire := [x] }

/-- A new flit is idle, and then it is all that changes, or it is numbered and held (R49, R50). -/
theorem newFlit_cases (s : State) (p : Nat) :
    let u := settlePm s p
    let q := u.port p
    (q.filled p).slots.all TxSlot.isEmpty = true ∧
        newFlit s p = u.updTx p (fun t => { t with wire := [idleFlit q] }) ∨
      ∃ g h, newFlit s p
        = ((u.updTx p fun t => t.sent (q.filled p) (q.payload p)).updRx p g).updMem p h := by
  intro u q
  by_cases hi : (q.tx.opens.isEmpty && q.tx.pm == 0 && (q.creditReturns p).1.isEmpty
      && (q.filled p).slots.all TxSlot.isEmpty) = true
  · refine .inl ⟨(Bool.and_eq_true_iff.1 hi).2, ?_⟩
    unfold newFlit
    dsimp only
    exact if_pos hi
  · -- what becomes of the receiver and of the membership is read off the definition
    right
    apply Exists.intro
    apply Exists.intro
    unfold newFlit
    dsimp only
    exact if_neg hi

/-! ## The row (R49, R52, R53, R60) -/

/-- The held flits that a replay in progress still has to send. -/
def Tx.again (t : Tx) : List TxFlit :=
  match t.replayAt with
  | none => []
  | some n => t.replay.dropWhile fun f => f.seq != n

section
variable {s : State} {p : Fin 20} (hc : s.clocked = true) (h0 : (s.port p).link.st = .l0)
include hc h0

/-- In L0 the row sends a held flit again, an idle one where 64 are held, or a new one. -/
theorem exec_flitTransmit :
    exec (.flitTransmit p) s =
      (let u := s.updLink p fun l => { l with ackDue := false }
       match (s.port p).tx.again with
       | f :: rest => .next (resend u p f rest)
       | [] =>
         if 64 ≤ (s.port p).tx.replay.length then
           .next (u.updTx p fun t => { t with wire := [idleFlit (s.port p)] })
         else .next (newFlit u p)) :=
  if_neg (by simp [hc, h0])

theorem exec_flitTransmit_again {f : TxFlit} {rest : List TxFlit}
    (ha : (s.port p).tx.again = f :: rest) : exec (.flitTransmit p) s
      = .next (resend (s.updLink p fun l => { l with ackDue := false }) p f rest) := by
  rw [exec_flitTransmit hc h0, ha]

theorem exec_flitTransmit_full (ha : (s.port p).tx.again = [])
    (hl : 64 ≤ (s.port p).tx.replay.length) : exec (.flitTransmit p) s
      = .next ((s.updLink p fun l => { l with ackDue := false }).updTx p fun t =>
          { t with wire := [idleFlit (s.port p)] }) := by
  rw [exec_flitTransmit hc h0, ha]
  exact if_pos hl

theorem exec_flitTransmit_new (ha : (s.port p).tx.again = [])
    (hl : (s.port p).tx.replay.length < 64) : exec (.flitTransmit p) s
      = .next (newFlit (s.updLink p fun l => { l with ackDue := false }) p) := by
  rw [exec_flitTransmit hc h0, ha]
  exact if_neg (by omega)

end

/-- What a new flit is, and what it leaves of the transmitter (R49, R50, R52, R55, R60, R62). -/
theorem newFlit_spec (s : State) (p : Nat) :
    s.otherPorts (newFlit s p) p ∧ ∃ f : TxFlit,
      ((newFlit s p).port p).tx.wire = [f] ∧ f.slots.length = 14 ∧ f.ack = (s.port p).rx.seq - 1 ∧
      f.ackv = (s.port p).rx.any ∧ f.rpq = (s.port p).rx.rpq ∧ f.crs.length ≤ 2 ∧
      (f.idle = true → ((newFlit s p).port p).tx.seq = (s.port p).tx.seq ∧
        ((newFlit s p).port p).tx.replay = (s.port p).tx.replay) ∧
      (f.idle = false → f.seq = (s.port p).tx.seq ∧
        ((newFlit s p).port p).tx.seq = (s.port p).tx.seq + 1 ∧
        ((newFlit s p).port p).tx.replay = (s.port p).tx.replay ++ [f]) ∧
      (∀ c rest, (s.port p).tx.lcq = c :: rest → (s.port p).tx.opens = [] →
        (s.port p).link.hs ≠ .entering → f.idle = false ∧ f.slots.head? = some (.ctl c)) := by
  obtain ⟨ho, hrx, ⟨pm, htx⟩, hhs⟩ := settlePm_spec s p
  have hctl : ∀ c rest, (s.port p).tx.lcq = c :: rest → (s.port p).tx.opens = [] →
      (s.port p).link.hs ≠ .entering →
      (((settlePm s p).port p).filled p).slots.head? = some (.ctl c) := fun c rest hl hop hh =>
    Port.filled_slots_ctl p (by rw [htx]; exact hl) (by rw [htx]; exact hop) (hhs hh)
  rcases newFlit_cases s p with ⟨hempty, hnew⟩ | ⟨g, h, hnew⟩
  · rw [hnew]
    refine ⟨ho.trans (otherPorts_updTx _ p _), idleFlit ((settlePm s p).port p), ?_⟩
    refine ⟨by simp, rfl, by rw [idleFlit, hrx], by rw [idleFlit, hrx], by rw [idleFlit, hrx],
      by simp [idleFlit], fun _ => by simp [htx], fun hi => Bool.noConfusion hi, fun c rest hl hop hh => ?_⟩
    have hmem := List.mem_of_head? (hctl c rest hl hop hh)
    exact Bool.noConfusion (List.all_eq_true.1 hempty _ hmem)
  · rw [hnew]
    refine ⟨.trans (.trans (ho.trans (otherPorts_updTx _ p _)) (otherPorts_updRx _ p _))
      (otherPorts_updMem _ p _), ((settlePm s p).port p).payload p, ?_⟩
    obtain ⟨hidle, hseq, hack, hackv, hrpq, hcrs, hslots⟩ := ((settlePm s p).port p).payload_fields p
    rw [hrx] at hack hackv hrpq
    rw [hslots, hidle]
    refine ⟨by simp [Tx.sent], Port.filled_slots_length _ p, hack, hackv, hrpq, hcrs, by simp, fun _ => ?_,
      fun c rest hl hop hh => ⟨rfl, hctl c rest hl hop hh⟩⟩
    simp [Tx.sent, hseq, htx]

/-- Settles O24: a held flit sent again, the idle flit of a full replay buffer, or a new flit. -/
theorem flitsAreTransmitted : Obligations.FlitsAreTransmitted := by
  unfold Obligations.FlitsAreTransmitted
  intro s p hc h0
  refine ⟨fun n f rest hat hdrop => ?_, fun hat => ?_⟩
  · have ha : (s.port p).tx.again = f :: rest := by rw [Tx.again, hat]; exact hdrop
    refine ⟨_, exec_flitTransmit_again hc h0 ha, ?_, ?_⟩
    · exact .trans (otherPorts_updLink s p _) (otherPorts_updTx _ p _)
    · simp [resend]
  · have ha : (s.port p).tx.again = [] := by rw [Tx.again, hat]
    refine ⟨fun hl => ?_, fun hl => ?_⟩
    · refine ⟨_, exec_flitTransmit_full hc h0 ha hl, ?_, ?_⟩
      · exact .trans (otherPorts_updLink s p _) (otherPorts_updTx _ p _)
      · simp
    · obtain ⟨ho, f, hspec⟩ := newFlit_spec (s.updLink p fun l => { l with ackDue := false }) p
      simp only [State.updLink_port_same] at hspec
      exact ⟨_, f, exec_flitTransmit_new hc h0 ha hl, .trans (otherPorts_updLink s p _) ho, hspec⟩

end Sys2Proof.Machine
end

section
/-!
SUPPORT. A port that is held Down stays so while the hub deals with what its loss means for domains, and no
error line goes.
-/
namespace Sys2Proof.Machine

/-! ## What a held port keeps -/

/-- A port that is held keeps its link, and the error lines that have risen stand. -/
def State.keepsHeld (s t : State) (p : Nat) : Prop :=
  (s.port p).link.st = .held → (s.port p).link.hs = .idle →
    (t.port p).link = (s.port p).link ∧ s.linesStand t

variable {s t u : State} {p : Nat}

theorem State.keepsHeld.refl (s : State) (p : Nat) : s.keepsHeld s p := fun _ _ => ⟨rfl, fun _ hl => hl⟩

theorem State.keepsHeld.trans (h : s.keepsHeld t p) (k : t.keepsHeld u p) : s.keepsHeld u p := by
  intro hst hhs
  obtain ⟨hl, hlines⟩ := h hst hhs
  obtain ⟨kl, klines⟩ := k (hl ▸ hst) (hl ▸ hhs)
  exact ⟨kl.trans hl, hlines.trans klines⟩

theorem keepsHeld_of_rest (hp : t.ports = s.ports) (hf : t.flt = s.flt) : s.keepsHeld t p :=
  fun _ _ => ⟨by rw [port_of_ports hp], linesStand_of_flt hf⟩

theorem keepsHeld_updPort (s : State) (p j : Nat) {f : Port → Port} (hf : ∀ q, (f q).link = q.link) :
    s.keepsHeld (s.updPort j f) p := by
  refine fun _ _ => ⟨?_, linesStand_of_flt rfl⟩
  by_cases h : j = p
  · rw [h, s.updPort_port_same, hf]
  · rw [s.updPort_port_ne f h]

theorem keepsHeld_updTx (s : State) (p j : Nat) (f : Tx → Tx) : s.keepsHeld (s.updTx j f) p :=
  keepsHeld_updPort s p j fun _ => rfl

theorem keepsHeld_updRx (s : State) (p j : Nat) (f : Rx → Rx) : s.keepsHeld (s.updRx j f) p :=
  keepsHeld_updPort s p j fun _ => rfl

theorem keepsHeld_updMem (s : State) (p j : Nat) (f : Member → Member) :
    s.keepsHeld (s.updMem j f) p := keepsHeld_updPort s p j fun _ => rfl

theorem keepsHeld_foldl {α : Type} {f : State → α → State}
    (hf : ∀ (s : State) a, s.keepsHeld (f s a) p) (l : List α) (s : State) :
    s.keepsHeld (l.foldl f s) p := by
  induction l generalizing s with
  | nil => exact .refl s p
  | cons a l ih => exact (hf s a).trans (ih (f s a))

/-- An operation that leaves a port alone while it is not up, and other ports always, keeps a held one. -/
theorem keepsHeld_of_up {j : Nat} (hj : s.up j = false → t = s) (ho : s.otherPorts t j)
    (hl : s.linesStand t) : s.keepsHeld t p := by
  intro hst _
  by_cases h : j = p
  · have hdown : s.up j = false := by rw [State.up, h, hst]; rfl
    rw [hj hdown]
    exact ⟨rfl, fun _ hl => hl⟩
  · rw [ho p fun e => h e.symm]
    exact ⟨rfl, hl⟩

theorem keepsHeld_raiseInj (s : State) (p src : Nat) (dom : Option Nat) (detail : Nat) (inj : Bool) :
    s.keepsHeld (raiseInj s src dom detail inj) p :=
  fun _ _ => ⟨rfl, linesStand_raiseInj s src dom detail inj⟩

/-! ## Ports: link control, credits, RELEASE, notices -/

theorem keepsHeld_placeCtl (s : State) (p j : Nat) (c : LinkCtl) : s.keepsHeld (placeCtl s j c) p := by
  refine keepsHeld_of_up (fun h => placeCtl_down h c) (otherPorts_placeCtl s j c) (linesStand_of_flt ?_)
  unfold placeCtl
  split <;> rfl

theorem keepsHeld_returnCredit (s : State) (p j : Nat) (c : Cls) (d : Nat) :
    s.keepsHeld (returnCredit s j c d) p := by
  refine keepsHeld_of_up (j := j) (fun h => by rw [returnCredit, h]; rfl) (fun k hk => ?_)
    (linesStand_of_flt ?_)
  · unfold returnCredit
    split
    · dsimp only
      rw [nudge_port_ne _ hk.symm, s.updRx_port_ne _ hk.symm]
    · rfl
  · unfold returnCredit
    split <;> rfl

theorem keepsHeld_placeRelease (s : State) (p j d : Nat) : s.keepsHeld (placeRelease s j d) p := by
  have hforget : s.keepsHeld (forgetCredits s j) p := keepsHeld_of_rest rfl rfl
  unfold placeRelease
  dsimp only
  split
  · refine .trans ?_ (keepsHeld_updMem _ p j _)
    refine .trans ?_ (keepsHeld_updRx _ p j _)
    refine .trans ?_ (keepsHeld_updTx _ p j _)
    exact hforget.trans (keepsHeld_placeCtl _ p j _)
  · exact hforget.trans (keepsHeld_updMem _ p j _)

theorem keepsHeld_dropNotices (s : State) (p j : Nat) : s.keepsHeld (dropNotices s j) p := by
  refine fun _ _ => ⟨?_, dropNotices_lines s j⟩
  by_cases h : j = p
  · rw [h, dropNotices_port_same]
  · rw [dropNotices_port_ne s h]

theorem keepsHeld_leavePort (s : State) (p j d : Nat) : s.keepsHeld (leavePort s j d) p := by
  unfold leavePort
  refine .trans ?_ (keepsHeld_updPort _ p j fun _ => rfl)
  exact (keepsHeld_placeRelease s p j d).trans (keepsHeld_dropNotices _ p j)

theorem keepsHeld_downPort (s : State) (p d j : Nat) : s.keepsHeld (downPort s d j) p := by
  unfold downPort
  refine .trans ?_ (keepsHeld_updPort _ p j fun _ => rfl)
  exact (keepsHeld_placeRelease s p j d).trans (keepsHeld_of_rest rfl rfl)

/-! ## Domains -/

theorem storeMem_ports_flt (s : State) (m unit k : Nat) (d : Option Nat) :
    (storeMem s m unit k d).ports = s.ports ∧ (storeMem s m unit k d).flt = s.flt := by
  have hflip : (flipTake s m unit d).2.2.ports = s.ports ∧ (flipTake s m unit d).2.2.flt = s.flt := by
    unfold flipTake
    dsimp only
    split <;> exact ⟨rfl, rfl⟩
  unfold storeMem
  dsimp only
  split <;> exact hflip

theorem keepsHeld_setShelf (s : State) (p b : Nat) (o : Option (Nat × Nat)) :
    s.keepsHeld (setShelf s b o) p :=
  keepsHeld_of_rest (storeMem_ports_flt _ 9 0 _ _).1 (storeMem_ports_flt _ 9 0 _ _).2

theorem keepsHeld_putMap (s : State) (p d dan : Nat) (o : Option Agent) (stale : Dom → BitVec 128) :
    s.keepsHeld (putMap s d dan o stale) p :=
  keepsHeld_of_rest (storeMem_ports_flt _ 9 0 _ _).1 (storeMem_ports_flt _ 9 0 _ _).2

theorem keepsHeld_clearShelves (s : State) (p : Nat) (bs : List Nat) : s.keepsHeld (clearShelves s bs) p :=
  keepsHeld_foldl (fun s b => keepsHeld_of_rest (t := clearShelf s b) rfl rfl) bs s

theorem keepsHeld_clearWays (s : State) (p d : Nat) : s.keepsHeld (clearWays s d) p :=
  keepsHeld_of_rest rfl rfl

theorem keepsHeld_ite (c : Prop) [Decidable c] (ht : s.keepsHeld t p) (hu : s.keepsHeld u p) :
    s.keepsHeld (if c then t else u) p := by
  split
  · exact ht
  · exact hu

/-- The shelves of an agent that leaves are cleared and given back, and its map entry ends (R247). -/
theorem keepsHeld_clearAgent (s : State) (p d dan : Nat) (a : Agent) (stale : Dom → BitVec 128) :
    let u := if a.hub = s.hubId then clearShelves s a.shelves else s
    let v := if a.hub = u.hubId then a.shelves.foldl (fun s b => setShelf s b none) u else u
    s.keepsHeld (putMap v d dan none stale) p := by
  intro u v
  have hu : s.keepsHeld u p := keepsHeld_ite _ (keepsHeld_clearShelves s p a.shelves) (.refl s p)
  have hv : u.keepsHeld v p :=
    keepsHeld_ite _ (keepsHeld_foldl (fun s b => keepsHeld_setShelf s p b none) a.shelves u) (.refl u p)
  exact .trans (hu.trans hv) (keepsHeld_putMap v p d dan none stale)

theorem keepsHeld_expel (s : State) (p d dan : Nat) : s.keepsHeld (expel s d dan) p := by
  unfold expel
  split
  · exact .refl s p
  · next a _ =>
    split
    · next j _ =>
      have hleave : s.keepsHeld (mbFreeLock (leavePort s j d) d dan) p :=
        (keepsHeld_leavePort s p j d).trans (keepsHeld_of_rest rfl rfl)
      exact hleave.trans (keepsHeld_clearAgent _ p d dan a _)
    · exact keepsHeld_clearAgent s p d dan a _

theorem keepsHeld_expelAll (s : State) (p d : Nat) (dans : List Nat) : s.keepsHeld (expelAll s d dans) p :=
  keepsHeld_foldl (fun s n => keepsHeld_expel s p d n) dans s

theorem keepsHeld_freeDomain (s : State) (p d : Nat) : s.keepsHeld (freeDomain s d) p := by
  unfold freeDomain
  dsimp only
  refine .trans ?_ (keepsHeld_of_rest rfl rfl)
  refine .trans ?_ (keepsHeld_foldl (fun s x => ?_) _ _)
  · refine .trans ?_ (keepsHeld_of_rest rfl rfl)
    refine .trans ?_ (keepsHeld_foldl (fun s e => keepsHeld_returnCredit s p _ _ _) _ _)
    exact keepsHeld_foldl (fun s w => keepsHeld_returnCredit s p _ _ _) _ _
  · exact keepsHeld_ite _ (keepsHeld_returnCredit s p _ _ _) (.refl s p)

theorem keepsHeld_spanNotice (s : State) (p : Nat) (except : Option Nat) (c : LinkCtl) :
    s.keepsHeld (spanNotice s except c) p :=
  keepsHeld_foldl (fun s j => keepsHeld_ite _ (.refl s p) (keepsHeld_placeCtl s p j c)) spanPorts s

theorem keepsHeld_abortJobs (s : State) (p d : Nat) : s.keepsHeld (abortJobs s d) p := by
  unfold abortJobs
  refine .trans (keepsHeld_of_rest ?_ ?_) (keepsHeld_foldl (fun s m => ?_) _ _)
  · rfl
  · rfl
  · exact keepsHeld_of_rest (mbFinish_ports s m 8 0x206 []) (mbFinish_flt s m 8 0x206 [])

theorem keepsHeld_crcRelease (s : State) (p d : Nat) : s.keepsHeld (crcRelease s d) p :=
  keepsHeld_foldl (fun s u => keepsHeld_ite (s.crcOwner u = some d)
    (keepsHeld_of_rest (t := s.setCrc u {}) rfl rfl) (.refl s p)) [0, 1] s

theorem keepsHeld_dropQueued (s : State) (p d : Nat) : s.keepsHeld (dropQueued s d) p :=
  keepsHeld_foldl (fun s j => keepsHeld_updTx s p j _) spanPorts s

theorem sendDownAfter_lines (s : State) (p : Nat) (first : List TxFlit) (reason : BitVec 8) :
    s.linesStand (sendDownAfter s p first reason) := by
  unfold sendDownAfter
  refine .trans (linesStand_of_flt ?_) (holdPort_lines _ p reason)
  rfl

/-- A link that the hub ends is another one: a held port is not up. -/
theorem keepsHeld_endLink (s : State) (p j : Nat) (reason : BitVec 8) :
    s.keepsHeld (if s.up j then raiseFatal (sendLinkDown s j reason) j reason else s) p := by
  refine keepsHeld_of_up (j := j) (fun h => by rw [h]; rfl) (fun k hk => ?_) ?_
  · split
    · simp [raiseFatal, raiseFatalBy, sendLinkDown, sendDownAfter, cntAdd, hk.symm]
    · rfl
  · split
    · exact (sendDownAfter_lines s j [] reason).trans (linesStand_raiseInj _ 2 _ _ false)
    · exact fun _ hl => hl

theorem keepsHeld_domainDownBy (inj : Bool) (s : State) (p d cause : Nat) (dead : List Nat)
    (src : Option Nat) : s.keepsHeld (domainDownBy inj s d cause dead src) p := by
  unfold domainDownBy
  split
  · exact .refl s p
  · dsimp only
    refine .trans ?_ (keepsHeld_raiseInj _ p 14 _ _ inj)
    refine .trans ?_ (keepsHeld_expelAll _ p d _)
    refine .trans ?_ (keepsHeld_foldl (fun s j => keepsHeld_endLink s p j 7) _ _)
    refine .trans ?_ (keepsHeld_expelAll _ p d dead)
    refine .trans ?_ (keepsHeld_foldl (fun s j => keepsHeld_downPort s p d j) _ _)
    refine .trans ?_ (keepsHeld_crcRelease _ p d)
    refine .trans ?_ (keepsHeld_clearShelves _ p _)
    refine .trans ?_ (keepsHeld_clearWays _ p d)
    refine .trans ?_ (keepsHeld_dropQueued _ p d)
    refine .trans ?_ (keepsHeld_freeDomain _ p d)
    refine .trans ?_ (keepsHeld_abortJobs _ p d)
    refine .trans ?_ (keepsHeld_spanNotice _ p src _)
    exact keepsHeld_of_rest rfl rfl

theorem keepsHeld_domainDown (s : State) (p d cause : Nat) (dead : List Nat) (src : Option Nat) :
    s.keepsHeld (domainDown s d cause dead src) p := keepsHeld_domainDownBy false s p d cause dead src

/-! ## What the loss of a port means (R257, R270) -/

theorem keepsHeld_agentGone (s : State) (p j : Nat) : s.keepsHeld (agentGone s j) p := by
  unfold agentGone
  split
  · exact .refl s p
  · next d _ =>
    dsimp only
    split
    · exact keepsHeld_domainDown s p d 2 _ none
    · exact keepsHeld_domainDown s p d 2 _ none
    · exact keepsHeld_ite _ (keepsHeld_expel s p d _) (keepsHeld_domainDown s p d 2 _ none)
    · exact keepsHeld_expel s p d _
    · exact keepsHeld_ite _ (.refl s p) (keepsHeld_expel s p d _)
    · exact .refl s p

theorem keepsHeld_downConsequences (s : State) (p j : Nat) (q : Port) :
    s.keepsHeld (downConsequences s j q) p := by
  unfold downConsequences
  split
  · exact keepsHeld_agentGone s p j
  · exact (keepsHeld_raiseInj s p 4 none j false).trans
      (keepsHeld_foldl (fun s d => keepsHeld_domainDown s p d 4 [] none) _ _)

/-- A port that goes Down is Down with its reason when all that follows has been dealt with, and the error
lines stand. -/
theorem downConsequences_holdPort (s : State) (p : Nat) (reason : BitVec 8) (q : Port) :
    (downConsequences (holdPort s p reason) p q).isDown p reason ∧
      s.linesStand (downConsequences (holdPort s p reason) p q) := by
  obtain ⟨hst, hre⟩ := isDown_holdPort s p reason
  have hidle : ((holdPort s p reason).port p).link.hs = .idle := by rw [holdPort_port_same]; rfl
  obtain ⟨hl, hlines⟩ := keepsHeld_downConsequences (holdPort s p reason) p p q hst hidle
  refine ⟨?_, (holdPort_lines s p reason).trans hlines⟩
  rw [State.isDown, hl]
  exact ⟨hst, hre⟩

/-- So does one whose link the hub ends with LINK_DOWN (R65). -/
theorem downConsequences_sendDownAfter (s : State) (p : Nat) (first : List TxFlit) (reason : BitVec 8)
    (q : Port) : (downConsequences (sendDownAfter s p first reason) p q).isDown p reason ∧
      s.linesStand (downConsequences (sendDownAfter s p first reason) p q) := by
  unfold sendDownAfter
  obtain ⟨hdown, hlines⟩ := downConsequences_holdPort ((cntAdd s p 11 1).updPort p fun q =>
    { q with tx := { q.tx with
        wire := first ++ (upto 4).map (downFlit q.tx q.rx reason), seq := q.tx.seq + 4 } }) p reason q
  exact ⟨hdown, .trans (linesStand_of_flt rfl) hlines⟩

/-- A hub that ends a link finds it Down with the reason sent (R63, R65). -/
theorem isDown_fatal (s : State) (p : Nat) (reason : BitVec 8) : (fatal s p reason).isDown p reason :=
  (downConsequences_sendDownAfter _ p [] reason _).1

/-- A received LINK_DOWN leaves its reason (R66). -/
theorem isDown_recvDown (s : State) (p : Nat) (reason : BitVec 8) :
    (recvDown s p reason).isDown p reason := (downConsequences_holdPort _ p reason _).1

end Sys2Proof.Machine
end

section
/-!
SUPPORT. What a received flit does: acknowledgements, replay requests, and the walk through its slots: O23.
-/
namespace Sys2Proof.Machine

/-! ## Acknowledgement and replay requests (R51, R52) -/

/-- A receiver that asks for a replay changes nothing but that request, and counts it once. -/
theorem wantReplay_spec (s : State) (p : Nat) :
    s.otherPorts (wantReplay s p) p ∧
      ((wantReplay s p).port p).rx = { (s.port p).rx with rpq := true } ∧
      ((wantReplay s p).port p).tx = (s.port p).tx ∧
      ∀ i, i ≠ 4 → (wantReplay s p).cnt p i = s.cnt p i := by
  unfold wantReplay
  split
  · next h => exact ⟨.refl s p, by rw [← h], rfl, fun _ _ => rfl⟩
  · refine ⟨.trans (otherPorts_updRx s p _) (otherPorts_cntAdd _ p 4 1), by simp, by simp,
      fun i hi => ?_⟩
    rw [cntAdd_cnt_ne _ p 1 hi.symm, State.cnt, State.updRx_port_same]
    rfl

/-- An ACK frees every held flit up to the one it names (R52). -/
theorem ackTo_spec {s : State} {p : Nat} {ack : BitVec 10} {i : Nat}
    (hi : ((s.port p).tx.replay.findIdx? fun f => f.seq == ack) = some i) :
    s.otherPorts (ackTo s p ack) p ∧
      ((ackTo s p ack).port p).tx.replay = (s.port p).tx.replay.drop (i + 1) ∧
      ((ackTo s p ack).port p).tx.replays = 0 ∧ ((ackTo s p ack).port p).rx = (s.port p).rx := by
  unfold ackTo
  dsimp only
  rw [hi]
  exact ⟨.trans (otherPorts_updTx s p _) (otherPorts_updLink _ p _), by simp⟩

/-! ## The walk through the slots (R46, R58 to R64) -/

/-- A slot spells a data message in a data-header slot alone (Table 03-3). -/
theorem isData_of_decodeSlot {d : Bool} {w : BitVec 128} {m : Msg} (h : decodeSlot d w = some m) :
    m.isData = d := by
  unfold decodeSlot at h
  dsimp only at h
  split at h
  · split at h
    · next hd => rw [← Option.some.inj h]; exact hd
    · cases h
  · cases h

/-- Only data is judged by the mode of its SNF (R98). -/
theorem badGst_of_not_data (r : Rx) {m : Msg} (h : m.isData = false) : r.badGst m = false := by
  cases m with
  | dat op f data => exact Bool.noConfusion h
  | _ => rfl

/-- A control slot without a flaw: its message is delivered at the cost of a credit. -/
theorem Walk.start_message {w : Walk} {p : Nat} {cap : Option CapF} {bits : BitVec 128} {m : Msg}
    (seq : BitVec 10) (hm : decodeSlot false bits = some m) (hres : m.reservedValue = false)
    (hfar : mayFar (decide (16 ≤ p)) cap m = true) (hcr : tget 0 w.granted (msgKey p m) ≠ 0)
    (hopen : w.opens = []) (hbad : w.bad = []) :
    w.start p cap seq none bits = { w with
      granted := tset w.granted (msgKey p m) (tget 0 w.granted (msgKey p m) - 1),
      out := w.out ++ [.msg m] } := by
  have hgst : w.rx.badGst m = false := badGst_of_not_data _ (isData_of_decodeSlot hm)
  simp [Walk.start, hm, hres, hfar, hgst, hcr, hopen, hbad, Walk.deliver]

/-- An empty slot changes nothing. -/
theorem Walk.slot_empty (p : Nat) (cap : Option CapF) (seq : BitVec 10) (w : Walk) :
    Walk.slot p cap seq w 0 0 = w := rfl

/-- A flit with one message in slot 0 and thirteen empty slots. -/
theorem Walk.slots_message {w : Walk} {p : Nat} {cap : Option CapF} {f : RawFlit} {bits : BitVec 128}
    {m : Msg} (seq : BitVec 10) (hk : f.kind 0 = 2) (hb : f.slots[0]? = some bits)
    (hrest : ∀ i, 1 ≤ i → i < 14 → f.kind i = 0 ∧ f.slots[i]? = some 0)
    (hm : decodeSlot false bits = some m) (hres : m.reservedValue = false)
    (hfar : mayFar (decide (16 ≤ p)) cap m = true) (hcr : tget 0 w.granted (msgKey p m) ≠ 0)
    (hopen : w.opens = []) (hbad : w.bad = []) :
    w.slots p cap seq f = { w with
      granted := tset w.granted (msgKey p m) (tget 0 w.granted (msgKey p m) - 1),
      out := w.out ++ [.msg m] } := by
  have hu : upto 14 = 0 :: (upto 13).map (· + 1) := by decide
  have hempty : ∀ (v : Walk), ∀ i ∈ (upto 13).map (· + 1),
      Walk.slot p cap seq v (f.kind i).toNat ((f.slots[i]?).getD 0) = v := by
    intro v i hi
    obtain ⟨j, hj, rfl⟩ := List.mem_map.1 hi
    obtain ⟨hk0, hs0⟩ := hrest (j + 1) (by omega) (by have := List.mem_range.1 hj; omega)
    rw [hk0, hs0]
    exact Walk.slot_empty p cap seq v
  have hfirst : Walk.slot p cap seq w (f.kind 0).toNat ((f.slots[0]?).getD 0)
      = w.start p cap seq none bits := by
    rw [hk, hb]
    rfl
  rw [Walk.slots, hu, List.foldl_cons, hfirst, List.foldl_ext _ (fun v _ => v) _ hempty, List.foldl_fixed]
  exact Walk.start_message seq hm hres hfar hcr hopen hbad

theorem Walk.late_of_opens_nil {w : Walk} (h : w.opens = []) (seq : BitVec 10) : w.late seq = w := by
  simp [Walk.late, h]

theorem Walk.reason_of_bad_nil {w : Walk} (h : w.bad = []) : w.reason = 0 := by
  simp [Walk.reason, h]

/-! ## The accepted flit (R51) -/

theorem crFlaws_invalid {c : BitVec 16} (h : crValid c = false) (p : Nat) (t : Tbl Nat) :
    crFlaws p t c = [] := by simp [crFlaws, h]

/-- The expected flit with one message: the receiver moves on, and the message is in the inbox for a credit. -/
theorem acceptFlit_message {s : State} {p : Nat} {f : RawFlit} {bits : BitVec 128} {m : Msg}
    (hpm : f.pm = 0) (hc0 : crValid (f.cr 0) = false) (hc1 : crValid (f.cr 1) = false)
    (hk : f.kind 0 = 2) (hb : f.slots[0]? = some bits)
    (hrest : ∀ i, 1 ≤ i → i < 14 → f.kind i = 0 ∧ f.slots[i]? = some 0)
    (hm : decodeSlot false bits = some m) (hres : m.reservedValue = false)
    (hfar : mayFar (decide (16 ≤ p)) (s.port p).link.farCap m = true)
    (hcr : tget 0 (s.port p).rx.granted (msgKey p m) ≠ 0) (hopen : (s.port p).rx.opens = []) :
    s.otherPorts (acceptFlit s p f) p ∧
      ((acceptFlit s p f).port p).link = (s.port p).link ∧
      ((acceptFlit s p f).port p).rx = { (s.port p).rx with
        seq := (s.port p).rx.seq + 1, any := true, rpq := false,
        granted := tset (s.port p).rx.granted (msgKey p m)
          (tget 0 (s.port p).rx.granted (msgKey p m) - 1),
        inbox := (s.port p).rx.inbox ++ [.msg m] } := by
  unfold acceptFlit
  simp only [hpm, if_true, crFlaws_invalid hc0, crFlaws_invalid hc1, List.append_nil, ite_self]
  rw [Walk.slots_message f.seq hk hb hrest hm hres hfar hcr hopen rfl, Walk.late_of_opens_nil hopen,
    Walk.reason_of_bad_nil rfl, if_pos rfl]
  split
  · exact ⟨.trans (otherPorts_updRx s p _) (otherPorts_updRx _ p _), by simp [hopen]⟩
  · refine ⟨.trans (.trans (otherPorts_updRx s p _) (otherPorts_updTx _ p _))
      (otherPorts_updRx _ p _), ?_⟩
    simp [hopen]

/-! ## The row -/

section
variable {s : State} {p : Fin 20} {f : RawFlit} (hlen : f.slots.length = 14) (hc : s.clocked = true)
  (h0 : (s.port p).link.st = .l0) (hfec : f.fecCorr = 0)
include hlen hc h0 hfec

/-- In L0 the row tells a bad CRC, a reserved FK and a LINK_DOWN from a good flit (R51, R66). -/
theorem exec_flitReceive :
    exec (.flitReceive p f) s =
      if !f.crcOk then .next (if f.fk = 1 then cntAdd s p 1 1 else wantReplay (cntAdd s p 1 1) p)
      else if 2 ≤ f.fk.toNat then .next (fatal s p 1)
      else match (if f.fk = 0 then downSlot f else none) with
        | some r => .next (recvDown s p r)
        | none => .next (goodFlit s p f) := by
  change execFlitReceive p f s = _
  unfold execFlitReceive
  rw [if_neg (not_not_intro hlen), if_neg (by simp [hc, h0]), hfec]
  rfl

theorem exec_flitReceive_good (hcrc : f.crcOk = true) (hfk : f.fk.toNat < 2)
    (hdown : f.fk = 0 → downSlot f = none) :
    exec (.flitReceive p f) s = .next (goodFlit s p f) := by
  have hnone : (if f.fk = 0 then downSlot f else none) = none := by
    split
    · next h => exact hdown h
    · rfl
  rw [exec_flitReceive hlen hc h0 hfec, hcrc, if_neg (by simp), if_neg (by omega), hnone]

end

/-- Settles O23: the flits that are counted, end the link, acknowledge, are dropped, or are accepted. -/
theorem flitsAreReceived : Obligations.FlitsAreReceived := by
  unfold Obligations.FlitsAreReceived
  intro s p f hlen hc h0 hfec
  have hrow := exec_flitReceive hlen hc h0 hfec
  refine ⟨fun hcrc hfk => ?badCrc, fun hcrc hfk => ?reserved, fun r hcrc hfk hd => ?linkDown,
    fun i hcrc hfk hv hq hi => ?ack, fun hcrc hfk hd => ?payload⟩
  case badCrc =>
    obtain ⟨ho, hrx, htx, hcnt⟩ := wantReplay_spec (cntAdd s p 1 1) p
    refine ⟨wantReplay (cntAdd s p 1 1) p, ?_, .trans (otherPorts_cntAdd s p 1 1) ho, ?_, ?_, ?_⟩
    · rw [hrow, hcrc, if_pos (by rfl), if_neg hfk]
    · rw [hcnt 1 (by decide), cntAdd_cnt_same]
    · rw [hrx, cntAdd_port_same]
    · rw [htx, cntAdd_port_same]
  case reserved =>
    refine ⟨fatal s p 1, ?_, isDown_fatal s p 1⟩
    rw [hrow, hcrc, if_neg (by simp), if_pos hfk]
  case linkDown =>
    refine ⟨recvDown s p r, ?_, isDown_recvDown s p r⟩
    rw [hrow, hcrc, if_neg (by simp), if_neg (by simp [hfk]), if_pos hfk, hd]
  case ack =>
    obtain ⟨ho, hack⟩ := ackTo_spec hi
    have hgood : goodFlit s p f = ackTo s p f.ack := by
      simp [goodFlit, hfk, dlfIn, hv, hq]
    have hk0 : ¬f.fk = 0 := by rw [hfk]; decide
    refine ⟨_, exec_flitReceive_good hlen hc h0 hfec hcrc (by simp [hfk]) fun h => absurd h hk0, ?_⟩
    rw [hgood]
    exact ⟨ho, hack⟩
  case payload =>
    have hgood := exec_flitReceive_good hlen hc h0 hfec hcrc (by simp [hfk]) fun _ => hd
    have hk1 : ¬f.fk = 1 := by rw [hfk]; decide
    refine ⟨⟨fun h1 h64 => ?old, fun h64 => ?ahead⟩, ?expected⟩
    case old =>
      refine ⟨_, hgood, ?_⟩
      rw [goodFlit, if_neg hk1, if_neg (by omega), if_pos h64]
      exact ⟨otherPorts_cntAdd s p 3 1, by simp⟩
    case ahead =>
      obtain ⟨ho, hrx, htx, hcnt⟩ := wantReplay_spec (cntAdd s p 2 1) p
      refine ⟨_, hgood, ?_⟩
      rw [goodFlit, if_neg hk1, if_neg (by omega), if_neg (by omega)]
      refine ⟨.trans (otherPorts_cntAdd s p 2 1) ho, ?_, ?_, ?_⟩
      · rw [hcnt 2 (by decide), cntAdd_cnt_same]
      · rw [hrx, cntAdd_port_same]
      · rw [htx, cntAdd_port_same]
    case expected =>
      intro m bits hv hq hseq hpm hc0 hc1 hk hb hm hres hfar hopen hcr hrest
      obtain ⟨ho, hlink, hrx⟩ := acceptFlit_message hpm hc0 hc1 hk hb hrest hm hres hfar hcr hopen
      have haccept : goodFlit s p f = acceptFlit s p f := by
        rw [goodFlit, if_neg hk1, if_pos (by simp [hseq])]
        simp [hlink, h0, dlfIn, hv, hq]
      refine ⟨_, hgood, ?_⟩
      rw [haccept, hrx]
      exact ⟨ho, rfl, rfl, rfl, rfl, tget_tset_same ..⟩


end Sys2Proof.Machine
end

section
/-!
SUPPORT. The capability exchange and the ASSIGN that waited for a RELEASE: O21. A span REQ held for a start,
whose port a failed wake takes Down: O20.
-/
namespace Sys2Proof.Machine

/-! ## Link control that is queued (R64, R296) -/

/-- On one port link control has been queued, and its link owes at most an exit more. -/
def State.queuesCtl (s t : State) (p : Nat) : Prop :=
  s.otherPorts t p ∧ (s.port p).tx.lcq <+: (t.port p).tx.lcq ∧
    ∃ due, (t.port p).link = { (s.port p).link with exitDue := due }

theorem State.queuesCtl.refl (s : State) (p : Nat) : s.queuesCtl s p :=
  ⟨.refl s p, List.prefix_rfl, _, rfl⟩

theorem State.queuesCtl.trans {s t u : State} {p : Nat} (h : s.queuesCtl t p) (k : t.queuesCtl u p) :
    s.queuesCtl u p := by
  obtain ⟨ho, hq, due, hl⟩ := h
  obtain ⟨ko, kq, due', kl⟩ := k
  exact ⟨ho.trans ko, hq.trans kq, due', by rw [kl, hl]⟩

theorem queuesCtl_placeCtl (s : State) (p : Nat) (c : LinkCtl) : s.queuesCtl (placeCtl s p c) p := by
  cases hup : s.up p with
  | false => rw [placeCtl_down hup]; exact .refl s p
  | true =>
    refine ⟨otherPorts_placeCtl s p c, ?_⟩
    rw [placeCtl_up hup, Port.withCtl]
    refine ⟨List.prefix_append _ _, ?_⟩
    dsimp only
    split <;> exact ⟨_, rfl⟩

theorem queuesCtl_updMem (s : State) (p : Nat) (f : Member → Member) : s.queuesCtl (s.updMem p f) p := by
  refine ⟨otherPorts_updMem s p f, ?_⟩
  rw [s.updMem_port_same]
  exact ⟨List.prefix_rfl, _, rfl⟩

theorem queuesCtl_updRx (s : State) (p : Nat) (f : Rx → Rx) : s.queuesCtl (s.updRx p f) p := by
  refine ⟨otherPorts_updRx s p f, ?_⟩
  rw [s.updRx_port_same]
  exact ⟨List.prefix_rfl, _, rfl⟩

theorem queuesCtl_foldl {α : Type} {f : State → α → State} {p : Nat}
    (hf : ∀ (s : State) a, s.queuesCtl (f s a) p) (l : List α) (s : State) :
    s.queuesCtl (l.foldl f s) p := by
  induction l generalizing s with
  | nil => exact .refl s p
  | cons a l ih => exact (hf s a).trans (ih (f s a))

/-- What is placed on a port that is up stands in its queue. -/
theorem mem_lcq_placeCtl {s : State} {p : Nat} (h : s.up p = true) (c : LinkCtl) :
    c ∈ ((placeCtl s p c).port p).tx.lcq := by
  rw [placeCtl_up h]
  exact List.mem_append_right _ (List.mem_singleton_self c)

/-! ## An accepted CAP (R68, R70, R71) -/

theorem queuesCtl_resetReleases (s : State) (p : Nat) : s.queuesCtl (resetReleases s p) p := by
  unfold resetReleases
  split
  · exact .refl s p
  · exact (queuesCtl_foldl (fun s d => queuesCtl_placeCtl s p _) allDoms s).trans (queuesCtl_updMem _ p _)

theorem queuesCtl_spanGrant (s : State) (p : Nat) : s.queuesCtl (spanGrant s p) p := by
  unfold spanGrant
  dsimp only
  split
  · exact queuesCtl_updRx s p _
  · exact .refl s p

/-- A CAP that passes is recorded and acknowledged with result 0. -/
theorem capAccept_spec {s : State} {p : Nat} (hup : s.up p = true) (c : CapF) :
    s.otherPorts (capAccept s p c) p ∧ ((capAccept s p c).port p).link.farCap = some c ∧
      ((capAccept s p c).port p).link.capAcked = true ∧
      ((capAccept s p c).port p).link.st = (s.port p).link.st ∧
      .capAck 0 (BitVec.ofNat 5 p) ∈ ((capAccept s p c).port p).tx.lcq := by
  set a := s.updLink p fun l => { l with farCap := some c, capAcked := true } with ha
  set b := placeCtl a p (.capAck 0 (BitVec.ofNat 5 p)) with hb
  set e := spanGrant (resetReleases b p) p with he
  have hab : a.queuesCtl b p := queuesCtl_placeCtl a p _
  have hbe : b.queuesCtl e p := (queuesCtl_resetReleases b p).trans (queuesCtl_spanGrant _ p)
  have haup : a.up p = true := by
    rw [ha, State.up, s.updLink_port_same]
    exact hup
  have hmem : .capAck 0 (BitVec.ofNat 5 p) ∈ (e.port p).tx.lcq := hbe.2.1.mem (mem_lcq_placeCtl haup _)
  obtain ⟨ho, -, due, hl⟩ := hab.trans hbe
  have hso : s.otherPorts e p := .trans (otherPorts_updLink s p _) ho
  rw [ha, s.updLink_port_same] at hl
  have hcases : capAccept s p c = e ∨ ∃ m r, capAccept s p c
      = mbFinish (e.updLink p fun l => { l with retrain := none }) m 0 0 r := by
    unfold capAccept
    dsimp only
    split
    · exact .inr ⟨_, _, rfl⟩
    · exact .inl rfl
  rcases hcases with heq | ⟨m, r, heq⟩
  · rw [heq]
    exact ⟨hso, by simp [hl], by simp [hl], by simp [hl], hmem⟩
  · rw [heq]
    refine ⟨fun j hj => ?_, ?_⟩
    · rw [mbFinish_port, e.updLink_port_ne _ hj.symm, hso j hj]
    · rw [mbFinish_port, e.updLink_port_same]
      exact ⟨by simp [hl], by simp [hl], by simp [hl], hmem⟩

/-! ## A refused CAP (R68) -/

/-- PORT_ROLE is reported, and the port is Down with the reason of its LINK_DOWN. -/
theorem capRefuse_spec (s : State) (p : Nat) (result : BitVec 8) :
    (capRefuse s p result).raised 3 none ∧
      (capRefuse s p result).isDown p (if result = 2 then 9 else 5) := by
  unfold capRefuse
  dsimp only
  have hrole := raised_raise s 3 none (p + 256 * result.toNat)
  set a := raise s 3 none (p + 256 * result.toNat)
  set reason : BitVec 8 := if result = 2 then 9 else 5
  have hfatal : a.linesStand (raiseFatal a p reason) := linesStand_raiseInj a 2 _ _ false
  obtain ⟨hdown, hlines⟩ := downConsequences_sendDownAfter ((raiseFatal a p reason).updTx p fun t =>
    { t with seq := t.seq + 1 }) p [ackFlit (s.port p) result p] reason (s.port p)
  exact ⟨(hfatal.trans hlines).raised hrole, hdown⟩

/-! ## The rows (R67, R68, R70, R71) -/

@[simp] theorem takeCtl_port_same (s : State) (p : Nat) (c : LinkCtl) : (takeCtl s p c).port p
    = (let q := s.port p; { q with rx := { q.rx with inbox := q.rx.inbox.erase (.ctl c) } }) :=
  s.updRx_port_same p _

theorem otherPorts_takeCtl (s : State) (p : Nat) (c : LinkCtl) : s.otherPorts (takeCtl s p c) p :=
  otherPorts_updRx s p _

theorem takeCtl_up (s : State) (p : Nat) (c : LinkCtl) : (takeCtl s p c).up p = s.up p := by
  simp [State.up]

/-- A first CAP is accepted or refused by its checks. -/
theorem exec_cap {s : State} {p : Fin 20} (hc : s.clocked = true) (hup : s.up p = true)
    (hfar : (s.port p).link.farCap = none) (c : CapF) :
    exec (.cap p c) s =
      (let u := takeCtl s p (.cap c)
       if capResult s p c = 0 then .next (capAccept u p c)
       else .next (capRefuse u p (capResult s p c))) := by
  have hup' : (takeCtl s p (.cap c)).up p = true := (takeCtl_up s p _).trans hup
  have hcl : (takeCtl s p (.cap c)).clocked = true := hc
  change execCap p c s = _
  unfold execCap
  dsimp only
  rw [if_neg (by simp [hup', hcl]), if_neg (by simp [hfar])]
  rfl

/-- A CAP_ACK with result 0, the port's first, completes a span port's exchange. -/
theorem exec_capAck {s : State} {p : Fin 20} (hp : 16 ≤ p.val) (hup : s.up p = true)
    (hpeer : (s.port p).link.peerAck = false) (port : BitVec 5) :
    exec (.capAck p 0 port) s = .next (spanGrant ((takeCtl s p (.capAck 0 port)).updLink p fun l =>
      { l with peerAck := true }) p) :=
  if_pos ⟨hp, (takeCtl_up s p _).trans hup, rfl, by simp [hpeer]⟩

/-- An ASSIGN on a port that is up, with no RELEASE in the way: it is queued, and the credits of an agent port
follow it (R70, Table 03-15). -/
theorem placeAssign_spec {s : State} {p d : Nat} (hd : (s.port p).mem.dom = some d)
    (hrel : (s.port p).mem.relWait = false) (hup : s.up p = true) :
    ((placeAssign s p true).port p).rx.returns = agentCredits ∧
      ∃ x, ((placeAssign s p true).port p).mem.sent = some x ∧ x.dom = BitVec.ofNat 3 d ∧
        x.dan = BitVec.ofNat 7 (s.port p).mem.dan ∧
        .assign x ∈ ((placeAssign s p true).port p).tx.lcq := by
  unfold placeAssign
  rw [hd]
  simp only [hrel, Bool.false_eq_true, if_false, if_true, State.updRx_port_same, State.updMem_port_same,
    true_and]
  exact ⟨_, rfl, rfl, rfl, mem_lcq_placeCtl hup _⟩

theorem placeCtl_port_mem (s : State) (p : Nat) (c : LinkCtl) :
    ((placeCtl s p c).port p).mem = (s.port p).mem := by
  cases hup : s.up p with
  | false => rw [placeCtl_down hup]
  | true => rw [placeCtl_up hup]; rfl

theorem placeAssign_rest {s : State} {p : Nat} (hrel : (s.port p).mem.relWait = false) :
    s.otherPorts (placeAssign s p true) p ∧
      ((placeAssign s p true).port p).mem.relWait = false := by
  unfold placeAssign
  split
  · exact ⟨.refl s p, hrel⟩
  · simp only [hrel, Bool.false_eq_true, if_false, if_true]
    refine ⟨fun j hj => by simp [hj.symm], ?_⟩
    simp only [State.updRx_port_same, State.updMem_port_same, placeCtl_port_mem, hrel]

/-- The credits of a span port follow the second of its two CAP_ACKs (R71, R106). -/
theorem spanGrant_returns {s : State} {p : Nat} (hp : 16 ≤ p) (h1 : (s.port p).link.capAcked = true)
    (h2 : (s.port p).link.peerAck = true) : ((spanGrant s p).port p).rx.returns = spanCredits := by
  rw [spanGrant, if_pos ⟨hp, h1, h2⟩, State.updRx_port_same]

/-- Settles O21: a CAP that passes, one that fails, a CAP_ACK, an ASSIGN that waited. -/
theorem capabilitiesAreExchanged : Obligations.CapabilitiesAreExchanged := by
  unfold Obligations.CapabilitiesAreExchanged
  intro s p
  refine ⟨fun c hc hup hfar => ⟨fun hok => ?accepted, fun hbad => ?refused⟩,
    fun port hp hup hpeer => ?acked, fun a ha => ?assign⟩
  case accepted =>
    obtain ⟨ho, hcap, hack, hst, hmem⟩ := capAccept_spec ((takeCtl_up s p (.cap c)).trans hup) c
    rw [takeCtl_port_same] at hst
    exact ⟨_, (exec_cap hc hup hfar c).trans (if_pos hok), (otherPorts_takeCtl s p _).trans ho, hcap, hack,
      hst, hmem⟩
  case refused =>
    exact ⟨_, (exec_cap hc hup hfar c).trans (if_neg hbad), capRefuse_spec _ p _⟩
  case acked =>
    refine ⟨_, exec_capAck hp hup hpeer port, ?_⟩
    set u := (takeCtl s p (.capAck 0 port)).updLink p fun l => { l with peerAck := true } with hu
    have hlink : (u.port p).link = { (s.port p).link with peerAck := true } := by simp [hu]
    obtain ⟨ho, -, due, hl⟩ := queuesCtl_spanGrant u p
    refine ⟨.trans (.trans (otherPorts_takeCtl s p _) (otherPorts_updLink _ p _)) ho, ?_, fun hack => ?_⟩
    · rw [hl, hlink]
    · exact spanGrant_returns hp (by rw [hlink]; exact hack) (by rw [hlink])
  case assign =>
    set u := s.updMem a fun m => { m with relWait := false, relSeq := none } with hu
    have hmem : (u.port a).mem = { (s.port a).mem with relWait := false, relSeq := none } := by simp [hu]
    have hrow : exec (.assignAfterRelease a) s
        = if (s.port a).mem.assignQ.isSome then .next (placeAssign u a true) else .next u := if_pos ha
    have hso : s.otherPorts u a := otherPorts_updMem s a _
    have hrel : (u.port a).mem.relWait = false := by rw [hmem]
    cases hq : (s.port a).mem.assignQ.isSome with
    | false => exact ⟨u, by rw [hrow, hq]; rfl, hso, hrel, fun d h => Bool.noConfusion h⟩
    | true =>
      obtain ⟨ho, hrel'⟩ := placeAssign_rest hrel
      refine ⟨placeAssign u a true, by rw [hrow, hq]; rfl, hso.trans ho, hrel', fun d _ hd hup => ?_⟩
      have hup' : u.up a = true := by simpa [hu, State.up] using hup
      have hspec := placeAssign_spec (by rw [hmem]; exact hd) hrel hup'
      rw [hmem] at hspec
      exact hspec

/-! ## Span REQs held for a start (R281) -/

/-- Holding a port forgets the credits of what still stood in its receive entries, and no more of the
domains. -/
theorem holdPort_doms (s : State) (p : Nat) (reason : BitVec 8) :
    (holdPort s p reason).doms = tmap s.doms fun _ q => { q with
      heldReqs := q.heldReqs.map fun e => if e.2.port == p then (e.1, { e.2 with port := 20 }) else e } := by
  have hdrop : (dropNotices s p).doms = s.doms := by
    unfold dropNotices
    dsimp only
    (repeat' split) <;> rfl
  unfold holdPort
  dsimp only
  rw [State.updPort_doms]
  split
  · simp [forgetCredits, hdrop]
  · simp [forgetCredits, hdrop]

/-- A request that came by span port S0. -/
def reqOfS0 : Req :=
  { op := .rds, port := 16, h := ⟨0, 0, 0, 0⟩, f := ⟨false, 0, 0, 0, 0, 0, 0⟩, data := 0, mask := 0 }

/-- One of two hubs: span port S0 leaves Simmer by a Recovery, the wake net was high when its exit began, and
domain 0, whose start is in stage R, holds a request of that port (R281). -/
def wakeFailState : State :=
  { cfg := { eff := { n := 2 } },
    ports := [(16, { link := { st := .recovery, exiting := true, netHigh := true } })],
    doms := [(0, { st := .created, start := some ⟨.created, .waitR, none⟩,
                   heldReqs := [(0, reqOfS0)] })] }

/-- Refutes O20: the failed Recovery of a span port that waits for its wake (R303) is claimed to leave every
domain as it was; a request held for a start (R281) that came by that port no longer names it. -/
theorem not_linksEndHeld : ¬ Obligations.LinksEndHeld := by
  unfold Obligations.LinksEndHeld
  intro h
  obtain ⟨-, -, hwake, -⟩ := h wakeFailState 16
  obtain ⟨t, ht, -, hdoms, -⟩ := hwake rfl rfl (by decide) rfl
  have hrow : exec (.recoveryTimeout 16) wakeFailState
      = .next ((holdPort wakeFailState 16 0).updLink 16 fun l =>
          { l with st := .noReceiver, coeff := some (0, 0), wakeTrain := true }) := rfl
  have hheld : (holdPort wakeFailState 16 0).doms ≠ wakeFailState.doms := by
    rw [holdPort_doms]
    decide
  rw [hrow] at ht
  injection ht with ht
  rw [← ht] at hdoms
  exact hheld hdoms

end Sys2Proof.Machine
end

section
/-!
SUPPORT. The Link commands that read and set, from the rule of a command that ends at once: O5.
-/
namespace Sys2Proof.Machine

/-! ## A command that ends at once -/

theorem mb_of_mbs {s t : State} (h : t.mbs = s.mbs) (j : Nat) : t.mb j = s.mb j := by
  rw [State.mb, h, State.mb]

/-- A command whose body leaves the mailboxes alone ends with its body's answer; besides what the body did,
nothing but the mailbox differs. -/
theorem mbRun1_done {s s' : State} {m : Fin 10} {op : Nat} {pl : List Byte} (h : s.holds m op pl)
    {body : State → Option Nat → List Byte → CmdRes} {r : List Byte}
    (hb : body (s.turned m) (some m.val) pl = .done 0 0 r s')
    (hm : s'.mbs = s.mbs) (hr : s'.mbram = s.mbram) (hl : r.length ≤ 256) :
    Host.Outcome.next (mbRun1 s m op body) = (.next (mbFinish s' m 0 0 r) : Out) ∧
      (mbFinish s' m 0 0 r).ended m 0 0 r ∧
      s'.onlyMail (mbFinish s' m 0 0 r) m := by
  refine ⟨congrArg _ (mbRun_done h anyForm rfl noBusy body 0 0 r hb), ?_, ?_⟩
  · exact ended_of h (mb_of_mbs hm m) hr 0 0 r hl (by decide) (by decide)
  · obtain ⟨-, -, -, -, -, -, -, -, -, hw⟩ := h
    exact mbFinish_onlyMail (by rw [hr]; exact hw) 0 0 r hl

/-- The turn that a command takes belongs to its mailbox. -/
theorem onlyMail_of_turned {s t : State} {m : Fin 10} (h : (s.turned m).onlyMail t m) : s.onlyMail t m := by
  obtain ⟨hrest, hmb, hram⟩ := h
  exact ⟨congrArg (fun x => { x with fw := { x.fw with mbTurn := s.fw.mbTurn } }) hrest, hmb, hram⟩

/-- The ports set apart, only a mailbox differs where only it differed from a state with other ports. -/
theorem onlyMail_but_ports {s t : State} {m : Fin 10} {ps : Tbl Port}
    (h : { s with ports := ps }.onlyMail t m) : s.onlyMail { t with ports := s.ports } m := by
  obtain ⟨hrest, hmb, hram⟩ := h
  exact ⟨congrArg (fun x => { x with ports := s.ports }) hrest, hmb, hram⟩

/-- The same of the free values. -/
theorem onlyMail_but_free {s t : State} {m : Fin 10} {n : Nat}
    (h : { s with free := n }.onlyMail t m) : s.onlyMail { t with free := s.free } m := by
  obtain ⟨hrest, hmb, hram⟩ := h
  exact ⟨congrArg (fun x => { x with free := s.free }) hrest, hmb, hram⟩

/-! ## Bytes of an answer -/

@[simp] theorem length_toBytes (n v : Nat) : (toBytes n v).length = n := by simp [toBytes]

theorem ofBytes_toBytes (n v : Nat) : ofBytes (toBytes n v) = v % 2 ^ (8 * n) := by
  induction n generalizing v with
  | zero => simp [toBytes, ofBytes, Nat.mod_one]
  | succ n ih =>
    have hcons : toBytes (n + 1) v = BitVec.ofNat 8 v :: toBytes n (v >>> 8) := by
      simp only [toBytes, List.range_succ_eq_map, List.map_cons, List.map_map]
      congr 1
      refine List.map_congr_left fun i _ => ?_
      rw [Function.comp_apply, ← Nat.shiftRight_add, show 8 + 8 * i = 8 * i.succ by omega]
    rw [hcons, ofBytes, ih, BitVec.toNat_ofNat, Nat.shiftRight_eq_div_pow,
      show 2 ^ (8 * (n + 1)) = 2 ^ 8 * 2 ^ (8 * n) by rw [← pow_add]; congr 1; omega, Nat.mod_mul]
    rfl

/-- Entry i of a response made of four-byte entries. -/
theorem getElem?_flatMap_upto {f : Nat → List Byte} (hf : ∀ i, (f i).length = 4) {n i k : Nat}
    (hi : i < n) (hk : k < 4) : ((upto n).flatMap f)[4 * i + k]? = (f i)[k]? := by
  have hlen : ∀ n, ((upto n).flatMap f).length = 4 * n := fun n => by
    simp [upto, List.length_flatMap, hf, Nat.mul_comm]
  induction n with
  | zero => omega
  | succ n ih =>
    have hsucc : (upto (n + 1)).flatMap f = (upto n).flatMap f ++ f n := by
      simp [upto, List.range_succ]
    rw [hsucc]
    by_cases h : i < n
    · rw [List.getElem?_append_left (by rw [hlen]; omega), ih h]
    · obtain rfl : i = n := by omega
      rw [List.getElem?_append_right (by rw [hlen]; omega), hlen, Nat.add_sub_cancel_left]

theorem numAt_flatMap_toBytes (g : Nat → Nat) {n i : Nat} (hi : i < n) :
    numAt ((upto n).flatMap fun i => toBytes 4 (g i)) (4 * i) 4 = g i % 2 ^ 32 := by
  have hbytes : bytesAt ((upto n).flatMap fun i => toBytes 4 (g i)) (4 * i) 4 = toBytes 4 (g i) := by
    refine List.ext_getElem (by simp [bytesAt]) fun k hk _ => ?_
    have hk4 : k < 4 := by simpa [bytesAt] using hk
    simp only [bytesAt, List.getElem_map, List.getElem_range]
    rw [getElem?_flatMap_upto (fun i => length_toBytes 4 (g i)) hi hk4, List.getElem?_eq_getElem]
    rfl
  rw [numAt, hbytes, ofBytes_toBytes]

/-- The first byte of a response. -/
theorem numAt_toBytes_one (v : Nat) (bs : List Byte) : numAt (toBytes 1 v ++ bs) 0 1 = v % 256 := by
  simp [numAt, bytesAt, toBytes, ofBytes]

/-! ## The bodies -/

theorem length_portBytes (s : State) (p : Nat) : (portBytes s p).length = 8 := rfl

/-- LINK_COUNTERS: the counters, and their clearing (R76). -/
theorem doLinkCounters_of_port {s : State} {pl : List Byte} (hp : byteAt pl 0 ≤ 19) (m : Option Nat) :
    doLinkCounters s m pl = .done 0 0 ((upto 16).flatMap fun i => toBytes 4 (s.cnt (byteAt pl 0) i))
      (if nbit (byteAt pl 1) 0 then s.updPort (byteAt pl 0) fun q => { q with cnt := [] } else s) :=
  if_neg (by omega)

/-- LINK_MARGIN takes a free value, and its STEPS lie within the bounds of the request (R415, log 30). -/
theorem doLinkMargin_of_l0 {s : State} {pl : List Byte} (h0 : byteAt pl 0 ≤ 19) (h1 : byteAt pl 1 ≤ 7)
    (h3 : 1 ≤ byteAt pl 3) (h3' : byteAt pl 3 ≤ 127) (h4 : 1 ≤ byteAt pl 4) (h4' : byteAt pl 4 ≤ 63)
    (hst : (s.port (byteAt pl 0)).link.st = .l0) (hrate : 16 ≤ (s.port (byteAt pl 0)).link.rate)
    (m : Option Nat) :
    ∃ r, doLinkMargin s m pl = .done 0 0 r { s with free := s.free + 1 } ∧ r.length = 4 ∧
      1 ≤ numAt r 0 1 ∧ numAt r 0 1 ≤ byteAt pl 3 := by
  unfold doLinkMargin
  dsimp only
  rw [if_neg (by omega), if_neg (by simp [hst]; omega)]
  split
  · refine ⟨_, rfl, by simp, ?_⟩
    have hmod := Nat.mod_lt (s.nextFree.1.toNat / 2) (show byteAt pl 3 > 0 by omega)
    rw [List.append_assoc, numAt_toBytes_one]
    omega
  · refine ⟨_, rfl, by simp, ?_⟩
    rw [List.append_assoc, numAt_toBytes_one]
    omega

/-- SPAN_SPARE keeps its mode where no domain is in service or on its way out, and no edge is replaced
(R266, R269). -/
theorem doSpanSpare_of_calm {s : State} {pl : List Byte} (h0 : byteAt pl 0 ≤ 2) (h1 : byteAt pl 1 ≤ 2)
    (h2 : byteAt pl 2 ≤ 7) (hcalm : calm s = true) (hedge : byteAt pl 0 = 2 → s.home.s3 ≠ 2)
    (m : Option Nat) :
    ∃ e, doSpanSpare s m pl = .done 0 0 [] (s.updHome fun h =>
      { h with s3 := byteAt pl 0, s3dim := byteAt pl 1, s3edge := e }) := by
  unfold doSpanSpare
  dsimp only
  rw [if_neg (by omega), if_neg (by simp [hcalm]), if_neg (fun h => hedge h.1 h.2.1)]
  exact ⟨_, rfl⟩

/-- Settles O5: each command is its body, which ends at once. -/
theorem linkCommandsReadAndSet : Obligations.LinkCommandsReadAndSet := by
  unfold Obligations.LinkCommandsReadAndSet
  refine ⟨fun s m pl => ⟨fun h => ?status, fun h hp => ?counters⟩,
    fun s m pl => ⟨fun h h0 h1 h3 h3' h4 h4' hst hrate => ?margin,
      fun h h0 h1 h2 hcalm hedge => ?spare⟩⟩
  case status =>
    have hlen : (allPorts.flatMap (portBytes s)).length ≤ 256 := by
      simp [List.length_flatMap, length_portBytes, allPorts, upto]
    obtain ⟨hrun, hend, hmail⟩ := mbRun1_done h (body := doLinkStatus) rfl rfl rfl hlen
    exact ⟨_, hrun, hend, onlyMail_of_turned hmail⟩
  case counters =>
    have hlen : ((upto 16).flatMap fun i => toBytes 4 (s.cnt (byteAt pl 0) i)).length ≤ 256 := by
      simp [List.length_flatMap, upto]
    have hbody := doLinkCounters_of_port (s := s.turned m) hp (some m.val)
    cases hclr : nbit (byteAt pl 1) 0 with
    | false =>
      simp only [hclr, Bool.false_eq_true, if_false] at hbody
      obtain ⟨hrun, hend, hmail⟩ := mbRun1_done h hbody rfl rfl hlen
      exact ⟨_, _, hrun, hend, fun i hi => numAt_flatMap_toBytes _ hi,
        fun _ => onlyMail_of_turned hmail, fun hn => Bool.noConfusion hn⟩
    | true =>
      simp only [hclr, if_true] at hbody
      obtain ⟨hrun, hend, hmail⟩ := mbRun1_done h hbody rfl rfl hlen
      refine ⟨_, _, hrun, hend, fun i hi => numAt_flatMap_toBytes _ hi,
        fun hn => Bool.noConfusion hn, fun _ => ⟨fun i => ?_, fun j hj => ?_, ?_, ?_⟩⟩
      · simp [State.cnt]
      · rw [mbFinish_port, State.updPort_port_ne _ _ hj.symm]
        rfl
      · simp [State.turned]
      · exact onlyMail_of_turned (onlyMail_but_ports hmail)
  case margin =>
    obtain ⟨r, hbody, hlen, hlow, hhigh⟩ :=
      doLinkMargin_of_l0 (s := s.turned m) h0 h1 h3 h3' h4 h4' hst hrate (some m.val)
    obtain ⟨hrun, hend, hmail⟩ := mbRun1_done h hbody rfl rfl (by omega)
    exact ⟨_, r, hrun, hend, hlen, hlow, hhigh, onlyMail_of_turned (onlyMail_but_free hmail)⟩
  case spare =>
    obtain ⟨e, hbody⟩ := doSpanSpare_of_calm (s := s.turned m) h0 h1 h2 hcalm hedge (some m.val)
    obtain ⟨hrun, hend, -⟩ := mbRun1_done h hbody rfl rfl (by simp)
    refine ⟨_, hrun, hend, ?_⟩
    simp [State.turned]

end Sys2Proof.Machine
end

section
/-!
SUPPORT. What is read back from a slot: fields of concatenated bits, codes, the head of a slot, the body of each
message, link control, home tags and tickets (O17).
-/
namespace Sys2Proof
open Machine

/-! ## Fields of concatenated bits -/

/-- A field that lies above the low part. -/
@[simp] theorem extractLsb'_append_above {v w i n : Nat} (hi : BitVec v) (lo : BitVec w) (h : w ≤ i) :
    BitVec.extractLsb' i n (no_index (hi ++ lo)) = hi.extractLsb' (i - w) n :=
  BitVec.extractLsb'_append_eq_of_le h

/-- A field that lies in the low part. -/
@[simp] theorem extractLsb'_append_within {v w i n : Nat} (hi : BitVec v) (lo : BitVec w) (h : i + n ≤ w) :
    BitVec.extractLsb' i n (no_index (hi ++ lo)) = lo.extractLsb' i n :=
  BitVec.extractLsb'_append_eq_of_add_le h

@[simp] theorem bitAt_append_above {v w i : Nat} (hi : BitVec v) (lo : BitVec w) (h : w ≤ i) :
    bitAt (no_index (hi ++ lo)) i = bitAt hi (i - w) := by
  rw [bitAt, BitVec.getLsbD_append, if_neg (by omega), bitAt]

@[simp] theorem bitAt_append_within {v w i : Nat} (hi : BitVec v) (lo : BitVec w) (h : i < w) :
    bitAt (no_index (hi ++ lo)) i = bitAt lo i := by
  rw [bitAt, BitVec.getLsbD_append, if_pos h, bitAt]

@[simp] theorem bitAt_boolBit (b : Bool) : bitAt (boolBit b) 0 = b := by cases b <;> rfl

@[simp] theorem bitAt_zero (w i : Nat) : bitAt (0#w) i = false := BitVec.getLsbD_zero

/-! ## Codes (R47, R85, R92, R93, R95, R97) -/

@[simp] theorem Cls.ofCode_code (c : Cls) : Cls.ofCode c.code = some c := by cases c <;> rfl
@[simp] theorem ReqOp.ofCode_code (o : ReqOp) : ReqOp.ofCode o.code = some o := by cases o <;> rfl
@[simp] theorem SnpOp.ofCode_code (o : SnpOp) : SnpOp.ofCode o.code = some o := by cases o <;> rfl
@[simp] theorem MrqOp.ofCode_code (o : MrqOp) : MrqOp.ofCode o.code = some o := by cases o <;> rfl
@[simp] theorem AnsOp.ofCode_code (o : AnsOp) : AnsOp.ofCode o.code = some o := by cases o <;> rfl
@[simp] theorem DatOp.ofCode_code (o : DatOp) : DatOp.ofCode o.code = some o := by cases o <;> rfl

/-- The code of PMK is no other REQ's. -/
theorem ReqOp.code_ne_pmk (o : ReqOp) : o.code ≠ 7#4 := by cases o <;> decide

/-- The codes of CMP, NAK, MCP and HNT are no snoop answer's. -/
theorem AnsOp.code_ne_other (o : AnsOp) :
    o.code ≠ 1#4 ∧ o.code ≠ 2#4 ∧ o.code ≠ 8#4 ∧ o.code ≠ 9#4 := by cases o <;> decide

/-! ## The head and the body of a slot (Table 03-2) -/

theorem encodeSlot_cls (m : Msg) : (encodeSlot m).extractLsb' 0 3 = m.cls.code := by
  simp [encodeSlot, prefixBits]

theorem encodeSlot_opc (m : Msg) : (encodeSlot m).extractLsb' 3 4 = m.opc := by
  simp [encodeSlot, prefixBits]

@[simp] theorem slotHdr_encodeSlot (m : Msg) : slotHdr (encodeSlot m) = m.hdr := by
  simp [slotHdr, encodeSlot, prefixBits]

/-- A field above the head is one of the body. -/
@[simp] theorem encodeSlot_body (m : Msg) (i n : Nat) (h : 37 ≤ i) :
    (encodeSlot m).extractLsb' i n = m.bodyBits.extractLsb' (i - 37) n :=
  extractLsb'_append_above m.bodyBits _ h

@[simp] theorem bitAt_encodeSlot_body (m : Msg) (i : Nat) (h : 37 ≤ i) :
    bitAt (encodeSlot m) i = bitAt m.bodyBits (i - 37) := bitAt_append_above m.bodyBits _ h

/-- The line of the classes whose body begins with a home tag. -/
@[simp] theorem slotLaddr_encodeSlot (m : Msg) :
    slotLaddr (encodeSlot m) = m.bodyBits.extractLsb' 14 46 := encodeSlot_body m 51 46 (by omega)

@[simp] theorem slotHtag_encodeSlot (m : Msg) : slotHtag (encodeSlot m) = m.bodyBits.extractLsb' 0 14 :=
  encodeSlot_body m 37 14 (by omega)

@[simp] theorem slotReqF_encodeSlot (op : ReqOp) (h : Hdr) (f : ReqF) (d : Line) :
    slotReqF (encodeSlot (.req op h f d)) = f := by
  simp [slotReqF, Msg.bodyBits]

/-- Of the snoop answers SRD alone brings a line. -/
@[simp] theorem isData_ans (op : AnsOp) (f : AnsF) (d : Line) : (Msg.ans op f d).isData = (op == .srd) := by
  cases op <;> rfl

/-- A snoop answer has the NST and the POI of a slot: none where its opcode uses no NST, and no POI at all
(R95, Table 03-11). -/
theorem AnsF.of_slot {op : AnsOp} {f : AnsF} (hnst : op.usesNst = true ∨ f.nst = 0) (hpoi : f.poi = false) :
    ({ h := f.h, nst := if op.usesNst = true then f.nst else 0, laddr := f.laddr, htag := f.htag,
       poi := false } : AnsF) = f := by
  rw [← hpoi]
  split
  · rfl
  · rw [← hnst.resolve_left ‹_›]

/-! ## Messages (Tables 03-2 to 03-12) -/

/-- The class and the opcode of the head lead to the constructor, whose fields stand in the body. -/
theorem decodeSlot_encodeSlot (m : Msg)
    (hans : ∀ op f d, m = .ans op f d → (op.usesNst = true ∨ f.nst = 0) ∧ f.poi = false) :
    decodeSlot m.isData (encodeSlot m) = some (m.withData 0) := by
  unfold decodeSlot
  rw [encodeSlot_cls, encodeSlot_opc, Cls.ofCode_code]
  cases m with
  | req op h f d => simp [Msg.cls, Msg.opc, Msg.hdr, Msg.isData, Msg.withData, op.code_ne_pmk]
  | wb op h l d =>
    cases op <;> simp [Msg.cls, Msg.opc, Msg.hdr, Msg.isData, Msg.withData, Msg.bodyBits]
  | ans op f d =>
    obtain ⟨hnst, hpoi⟩ := hans op f d rfl
    obtain ⟨hcmp, hnak, hmcp, hhnt⟩ := op.code_ne_other
    simpa [Msg.cls, Msg.opc, Msg.hdr, Msg.withData, Msg.bodyBits, hcmp, hnak, hmcp, hhnt]
      using AnsF.of_slot hnst hpoi
  | pmk _ _ _ | snp _ | mrq _ _ | cmp _ _ | nak _ _ _ _ | mcp _ _ _ | hnt _ _ _ _ _ | dat _ _ _ =>
    simp [Msg.cls, Msg.opc, Msg.hdr, Msg.isData, Msg.withData, Msg.bodyBits]

/-! ## Link control (Table 02-8) -/

theorem decodeCtl_encodeCtl (span : Bool) (c : LinkCtl) (h : match c with
      | .cap _ | .linkDown _ => True
      | .pwi _ => span = false
      | _ => span = true) : decodeCtl span (encodeCtl c) = some c := by
  have hbit : bitAt (1#8) 0 = true := rfl
  cases c <;> simp_all [decodeCtl, encodeCtl]

/-! ## Home tags and tickets (R83) -/

theorem htag_mkHtag {hub sl t : Nat} (hh : hub < 8) (hs : sl < 17) (ht : t < 64) :
    htagHub (mkHtag hub sl t) = hub ∧ htagSlice (mkHtag hub sl t) = sl ∧
      htagTracker (mkHtag hub sl t) = t := by
  simp [htagHub, htagSlice, htagTracker, mkHtag]
  omega

theorem ticket_mkTicket {hub sl t k : Nat} (hh : hub < 8) (hs : sl < 17) (ht : t < 64) (hk : k < 4) :
    ticketHub (mkTicket hub sl t k) = hub ∧ ticketSlice (mkTicket hub sl t k) = sl ∧
      ticketTracker (mkTicket hub sl t k) = t ∧ ticketPlace (mkTicket hub sl t k) = k := by
  simp [ticketHub, ticketSlice, ticketTracker, ticketPlace, mkTicket]
  omega

/-- Settles O17: messages, link control, and the tags, each read back by its fields. -/
theorem slotsReadBackAsWritten : Obligations.SlotsReadBackAsWritten := by
  unfold Obligations.SlotsReadBackAsWritten
  refine ⟨decodeSlot_encodeSlot, decodeCtl_encodeCtl, fun hub sl t k hh hs ht hk => ?_⟩
  obtain ⟨hhub, hsl, htr⟩ := htag_mkHtag hh hs ht
  exact ⟨hhub, hsl, htr, ticket_mkTicket hh hs ht hk⟩

end Sys2Proof
end

section
/-!
SUPPORT. Stored data without a difference and with neither injection nor flip-mask armed (R343, R345): checked
reads find nothing and service writes leave nothing behind.
-/
namespace Sys2Proof.Machine

section
variable {s t : State} (h : s.inert)
include h

theorem State.inert.of_arrays (ha : t.arr = s.arr) (hi : t.integ = s.integ) : t.inert := by
  unfold State.inert
  rwa [ha, hi]

theorem State.inert.injTake (m : Nat) (d : Option Nat) : injTake s m d = (0, s) :=
  injTake_of_spent h.2.1 m d

theorem State.inert.flipTake (m u : Nat) (d : Option Nat) : flipTake s m u d = (0, 0, s) := by
  simp [Machine.flipTake, h.2.2]

theorem State.inert.dropErr (m k : Nat) : dropErr s m k = s := by
  have herr : (s.arr.err.filter fun e => e.1 != (m, k)) = s.arr.err := by rw [h.1]; rfl
  rw [Machine.dropErr, State.updArr, herr]

theorem State.inert.errOf (m k : Nat) : errOf s m k = (0, 0) := by
  rw [Machine.errOf, h.1]
  rfl

theorem State.inert.useMem (m unit k : Nat) (d : Option Nat) (scope : Nat) :
    useMem s m unit k d scope = (false, 0, s) := by
  simp [Machine.useMem, h.injTake, h.dropErr, h.errOf]

theorem State.inert.storeMem (m unit k : Nat) (d : Option Nat) : storeMem s m unit k d = s := by
  simp [Machine.storeMem, h.flipTake, h.dropErr]

theorem State.inert.storeLine (m unit k : Nat) (d : Option Nat) : storeLine s m unit k d = s := by
  unfold Machine.storeLine
  induction upto 8 with
  | nil => rfl
  | cons i l ih => rw [List.foldl_cons, h.storeMem, ih]

theorem State.inert.useLine (m unit k : Nat) (d : Option Nat) :
    useLine s m unit k d = (false, 0, s) := by
  unfold Machine.useLine
  induction upto 8 with
  | nil => rfl
  | cons i l ih => simpa [h.useMem] using ih

theorem State.inert.useCfgs (d : Nat) (l : List Nat) : useCfgs s d l = (false, s) := by
  induction l with
  | nil => rfl
  | cons k l ih => simpa [Machine.useCfgs, useCfg, h.useMem] using ih

theorem State.inert.useRegions (d : Nat) (l : List Nat) : useRegions s d l = (false, s) := by
  induction l with
  | nil => rfl
  | cons i l ih => simpa [Machine.useRegions, useRegion, h.useMem] using ih

theorem State.inert.useWbCfg (w : WbEntry) : useWbCfg s w = (false, s) := by
  simp [Machine.useWbCfg, h.useRegions, h.useCfgs]

theorem State.inert.storeGot (x : Tracker) : storeGot s x = s := h.storeLine _ _ _ _

/-! ### The directory cache (R125) -/

/-- A clear way is read as one that holds nothing. -/
theorem State.inert.readTag_clear {k : Nat} (ht : tget 0#47 s.arr.tag k = 0) (ho : tget 0#5 s.arr.owner k = 0)
    (spare : Bool) (f : Finder) : readTag s k spare f = (0, false, false, s) := by
  have hown : evenOk 5 0 = true := by decide
  have hmasks : check masks47 40 0 0 = .clean := check_zero _ _
  simp [readTag, ht, ho, h.injTake, fld, hown, hmasks]

theorem State.inert.readSet_empty (ht : s.arr.tag = []) (ho : s.arr.owner = []) (set : Nat) :
    readSet s set = (List.replicate 16 0, false, s) := by
  have hclear := fun k => h.readTag_clear (k := k) (by rw [ht]; rfl) (by rw [ho]; rfl) false .demand
  have hfold : ∀ (l : List Nat) (ts : List (BitVec 40)), l.foldl (fun (ts, corr, s) i =>
      let (t, c, b, s) := readTag s (wayKey set (s.physWay i)) false .demand
      (ts ++ [if b then 0 else t], corr || c, s)) (ts, false, s)
        = (ts ++ List.replicate l.length 0, false, s) := fun l => by
    induction l with
    | nil => simp
    | cons i l ih =>
      intro ts
      simp only [List.foldl_cons, hclear, Bool.false_eq_true, if_false, Bool.or_self, ih,
        List.length_cons, List.replicate_succ, List.append_assoc, List.singleton_append]
  exact hfold (upto 16) []

/-- An empty directory cache answers no lookup (R124). -/
theorem State.inert.dirLookup_empty (ht : s.arr.tag = []) (ho : s.arr.owner = []) {d : Nat}
    (hd : stopped s d = false) (l : LAddr) : dirLookup s d l = ({}, s) := by
  have hnone : (List.replicate 16 (0 : BitVec 40)).findIdx?
      (fun t => tagV t && tagDom t == d && tagAtag t == dirTag l) = none :=
    List.findIdx?_eq_none_iff.2 fun t ht => by rw [List.eq_of_mem_replicate ht]; simp [tagV]
  simp only [dirLookup, h.readSet_empty ht ho, hd, hnone, Bool.false_eq_true, if_false]

end

end Sys2Proof.Machine
end

section
/-!
SUPPORT. Messages that are placed: what the steps on the way to it leave of a hub, and what each of them places.
-/
namespace Sys2Proof.Machine

/-! ## Messages placed (R61, R101, R107) -/

/-- The messages of a list of placings that go to one port, in order. -/
def postsTo (l : List (Nat × Msg)) (j : Nat) : List Msg := (l.filter fun e => e.1 == j).map Prod.snd

theorem postsTo_append (l k : List (Nat × Msg)) (j : Nat) :
    postsTo (l ++ k) j = postsTo l j ++ postsTo k j := by simp [postsTo]

theorem postsTo_singleton_same (p : Nat) (m : Msg) : postsTo [(p, m)] p = [m] := by simp [postsTo]

theorem postsTo_singleton_ne {p j : Nat} (h : p ≠ j) (m : Msg) : postsTo [(p, m)] j = [] := by
  simp [postsTo, h]

/-- t is s with the messages of l placed, each behind what its port still has to send. Beside that, only ports of
P, the statistics of domain d and the free values differ, and at no port the credits held, the membership or the
state of the link; no PMK comes to wait anywhere. -/
structure State.Posts (s t : State) (P : List Nat) (d : Nat) (l : List (Nat × Msg)) : Prop where
  rest : { t with ports := s.ports, doms := s.doms, free := s.free } = s
  others : ∀ j, j ∉ P → t.port j = s.port j
  tx : ∀ j, (t.port j).tx = { (s.port j).tx with q := (s.port j).tx.q ++ postsTo l j }
  mem : ∀ j, (t.port j).mem = (s.port j).mem
  link : ∀ j, (t.port j).link.st = (s.port j).link.st
  dom : ∀ e, t.dom e = { s.dom e with stats := (t.dom e).stats }
  doms : ∀ e, e ≠ d → t.dom e = s.dom e
  pmk : ∀ j, (t.port j).rx.pmk.Sublist (s.port j).rx.pmk

theorem State.Posts.refl (s : State) (P : List Nat) (d : Nat) : s.Posts s P d [] :=
  ⟨rfl, fun _ _ => rfl, fun _ => by simp [postsTo], fun _ => rfl, fun _ => rfl, fun _ => rfl, fun _ _ => rfl,
    fun _ => .refl _⟩

theorem State.Posts.trans {s t u : State} {P : List Nat} {d : Nat} {l k : List (Nat × Msg)}
    (h : s.Posts t P d l) (g : t.Posts u P d k) : s.Posts u P d (l ++ k) where
  rest := (congrArg (fun x => { x with ports := s.ports, doms := s.doms, free := s.free }) g.rest).trans h.rest
  others j hj := (g.others j hj).trans (h.others j hj)
  tx j := by rw [g.tx, h.tx, postsTo_append, List.append_assoc]
  mem j := (g.mem j).trans (h.mem j)
  link j := (g.link j).trans (h.link j)
  dom e := by rw [g.dom, h.dom]
  doms e he := (g.doms e he).trans (h.doms e he)
  pmk j := (g.pmk j).trans (h.pmk j)

/-- After steps that place nothing. -/
theorem State.Posts.after {s t u : State} {P : List Nat} {d : Nat} {l : List (Nat × Msg)}
    (h : s.Posts t P d []) (g : t.Posts u P d l) : s.Posts u P d l := h.trans g

theorem posts_ite {s t u : State} {P : List Nat} {d : Nat} {l : List (Nat × Msg)} {c : Prop} [Decidable c]
    (ht : s.Posts t P d l) (hu : s.Posts u P d l) : s.Posts (if c then t else u) P d l := by
  split <;> assumption

/-! ### What a placing leaves -/

section
variable {s t : State} {P : List Nat} {d : Nat} {l : List (Nat × Msg)} (h : s.Posts t P d l)
include h

theorem State.Posts.home : t.home = s.home := (congrArg State.home h.rest :)
theorem State.Posts.arr : t.arr = s.arr := (congrArg State.arr h.rest :)
theorem State.Posts.integ : t.integ = s.integ := (congrArg State.integ h.rest :)
theorem State.Posts.hubId : t.hubId = s.hubId := (congrArg State.hubId h.rest :)
theorem State.Posts.homeHub (a : LAddr) : t.homeHub a = s.homeHub a := (congrArg (State.homeHub · a) h.rest :)
theorem State.Posts.physSlice (a : LAddr) : t.physSlice a = s.physSlice a :=
  (congrArg (State.physSlice · a) h.rest :)
theorem State.Posts.region (e a : Nat) : t.region e a = s.region e a :=
  (congrArg (State.region · e a) h.rest :)
theorem State.Posts.trk (sl n : Nat) : t.trk sl n = s.trk sl n := (congrArg (State.trk · sl n) h.rest :)

theorem State.Posts.homeOnly : s.homeOnly t :=
  (congrArg (fun x : State => { x with home := s.home, arr := s.arr, integ := s.integ }) h.rest :)

theorem State.Posts.inert (hs : s.inert) : t.inert := hs.of_arrays h.arr h.integ

theorem State.Posts.up (j : Nat) : t.up j = s.up j := (congrArg LinkSt.isUp (h.link j) :)

theorem State.Posts.dom_st (e : Nat) : (t.dom e).st = (s.dom e).st := (congrArg Dom.st (h.dom e) :)
theorem State.Posts.dom_par (e : Nat) : (t.dom e).par = (s.dom e).par := (congrArg Dom.par (h.dom e) :)
theorem State.Posts.dom_epoch (e : Nat) : (t.dom e).epoch = (s.dom e).epoch :=
  (congrArg Dom.epoch (h.dom e) :)
theorem State.Posts.dom_start (e : Nat) : (t.dom e).start = (s.dom e).start :=
  (congrArg Dom.start (h.dom e) :)

theorem State.Posts.dom_map (e : Nat) : (t.dom e).map = (s.dom e).map := (congrArg Dom.map (h.dom e) :)

theorem State.Posts.stopped (e : Nat) : stopped t e = stopped s e := by
  rw [Machine.stopped, h.dom_st, Machine.stopped]

theorem State.Posts.discards (x : Hdr) : discards t x = discards s x := by
  simp only [Machine.discards, h.dom_st, h.dom_start, h.dom_epoch]

theorem State.Posts.silent (e : Nat) : silent t e = silent s e := by
  rw [Machine.silent, h.dom_st, h.dom_start, Machine.silent]

theorem State.Posts.agent (e n : Nat) : t.agent e n = s.agent e n := by
  rw [State.agent, h.dom_map, State.agent]

theorem State.Posts.mirrored (e n : Nat) : t.mirrored e n = s.mirrored e n := by
  simp only [State.mirrored, h.agent, h.hubId]

theorem State.Posts.agentPort (e n : Nat) : t.agentPort e n = s.agentPort e n := by
  simp only [State.agentPort, h.agent, h.hubId]

theorem State.Posts.rqstOf (e n : Nat) : rqstOf t e n = rqstOf s e n := by
  simp only [Machine.rqstOf, h.agent, h.hubId]

theorem State.Posts.dirLine (e : Nat) (a : LAddr) : dirLine t e a = dirLine s e a := by
  simp only [Machine.dirLine, h.dom_par]

theorem State.Posts.routePort (a e k : Nat) (placing : Bool) :
    routePort t a e k placing = routePort s a e k placing := by
  simp only [Machine.routePort, h.hubId, h.home]

theorem State.Posts.quotaAdmits (sl e : Nat) (b : Bool) : quotaAdmits t sl e b = quotaAdmits s sl e b := by
  simp only [Machine.quotaAdmits, freeTracker, usedTrk, poolUsed, poolSize, hasQuotaTicket, h.trk, h.home, h.dom_par]
  rfl

theorem State.Posts.wbAdmits (sl e : Nat) : wbAdmits t sl e = wbAdmits s sl e := by
  simp only [Machine.wbAdmits, freeWbTrk, h.trk, h.home, h.dom_st]

theorem State.Posts.reaches {e dan q : Nat} (hr : s.reaches e dan q) : t.reaches e dan q := by
  obtain ⟨hport, hq, hup, hdom, hdan, hsent⟩ := hr
  exact ⟨by rw [h.agentPort, hport], hq, by rw [h.up, hup], by rw [h.mem, hdom], by rw [h.mem, hdan],
    by rw [h.mem, hsent]⟩

theorem State.Posts.delivers {p : Nat} {x : Hdr} (hd : s.delivers p x) : t.delivers p x := by
  obtain ⟨hclk, hup, hdis, hmem⟩ := hd
  exact ⟨(congrArg State.clocked h.rest :).trans hclk, by rw [h.up, hup], by rw [h.discards, hdis],
    by rw [h.mem]; exact hmem⟩

theorem State.Posts.homes {e sl : Nat} {a : LAddr} (hh : s.homes e a sl) : t.homes e a sl := by
  obtain ⟨hhub, hsl, hrest⟩ := hh
  exact ⟨by rw [h.homeHub, h.hubId, hhub], by rw [h.physSlice, hsl], by rw [h.home, h.dom_par]; exact hrest⟩

/-- A credit is free still where no message placed spends one of its kind. -/
theorem State.Posts.creditFree {q : Nat} {c : Cls} {e : Nat}
    (hl : ∀ m ∈ postsTo l q, msgKey q m ≠ creditKey q c e) : creditFree t q c e = creditFree s q c e := by
  have hnone : ((postsTo l q).filter fun m => msgKey q m == creditKey q c e) = [] :=
    List.filter_eq_nil_iff.2 fun m hm => by simpa using hl m hm
  simp only [Machine.creditFree, creditsFree, h.tx, List.filter_append, hnone, List.append_nil]

theorem State.Posts.placed_of_single {q : Nat} {m : Msg} (hl : l = [(q, m)]) : s.placed t q m := by
  rw [State.placed, h.tx, hl, postsTo_singleton_same]

end

/-! ### What places nothing -/

section
variable {s : State} {P : List Nat} {d p : Nat}

/-- A change of one port that leaves its transmitter, its membership and the state of its link. -/
theorem posts_updPort {f : Port → Port} (hp : p ∈ P) (htx : (f (s.port p)).tx = (s.port p).tx)
    (hmem : (f (s.port p)).mem = (s.port p).mem) (hlink : (f (s.port p)).link.st = (s.port p).link.st)
    (hpmk : (f (s.port p)).rx.pmk.Sublist (s.port p).rx.pmk) :
    s.Posts (s.updPort p f) P d [] := by
  have hcase : ∀ j, (s.updPort p f).port j = s.port j ∨ p = j ∧ (s.updPort p f).port j = f (s.port j) :=
    fun j => by
      by_cases hj : p = j
      · exact .inr ⟨hj, hj ▸ s.updPort_port_same p f⟩
      · exact .inl (s.updPort_port_ne f hj)
  refine ⟨rfl, fun j hj => s.updPort_port_ne f fun hpj => hj (hpj ▸ hp), fun j => ?_, fun j => ?_,
    fun j => ?_, fun _ => rfl, fun _ _ => rfl, fun j => ?_⟩
  all_goals
    rcases hcase j with h | ⟨rfl, h⟩ <;> rw [h]
  · simp [postsTo]
  · simp [postsTo, htx]
  · exact hmem
  · exact hlink
  · exact hpmk

theorem posts_nudge (hp : p ∈ P) : s.Posts (nudge s p) P d [] := by
  unfold nudge State.updLink
  refine posts_updPort hp rfl rfl ?_ (.refl _)
  dsimp only
  split <;> rfl

theorem posts_updRx (hp : p ∈ P) (f : Rx → Rx) (hpmk : ∀ r, (f r).pmk.Sublist r.pmk) :
    s.Posts (s.updRx p f) P d [] :=
  posts_updPort hp rfl rfl rfl (hpmk _)

theorem posts_updFore (hp : p ∈ P) (f : Forecast → Forecast) : s.Posts (s.updFore p f) P d [] :=
  posts_updPort hp rfl rfl rfl (.refl _)

theorem answered_pmk (r : Rx) (m : Msg) : (r.answered m).pmk = r.pmk := by
  unfold Rx.answered
  split <;> rfl

theorem posts_takeMsg (hp : p ∈ P) (m : Msg) : s.Posts (takeMsg s p m) P d [] := by
  refine posts_updRx hp _ fun r => ?_
  dsimp only
  split
  all_goals
    simp only [answered_pmk]
    exact .refl _

theorem posts_returnCredit (hp : p ∈ P) (c : Cls) (e : Nat) : s.Posts (returnCredit s p c e) P d [] := by
  unfold returnCredit
  split
  · refine (posts_updRx hp _ ?_).after (posts_nudge hp)
    exact fun _ => .refl _
  · exact .refl s P d

theorem posts_statAdd (i : Nat) : s.Posts (statAdd s d i) P d [] := by
  refine ⟨rfl, fun _ _ => rfl, fun j => by simp [statAdd, postsTo], fun _ => rfl, fun _ => rfl, fun e => ?_,
    fun e he => s.updDom_dom_ne _ he.symm, fun _ => .refl _⟩
  by_cases he : d = e
  · subst he
    rw [statAdd, s.updDom_dom_same]
  · rw [statAdd, s.updDom_dom_ne _ he]

theorem posts_nextFree : s.Posts s.nextFree.2 P d [] :=
  ⟨rfl, fun _ _ => rfl, fun j => by simp [postsTo, State.port], fun _ => rfl, fun _ => rfl, fun _ => rfl,
    fun _ _ => rfl, fun _ => .refl _⟩

/-! ### The forecaster at a delivery (R316, R317) -/

theorem posts_wbDelivered (hp : p ∈ P) : s.Posts (wbDelivered s p) P d [] := posts_updFore hp _

theorem posts_trigger (hp : p ∈ P) (large : Bool) (g : Forecast → Forecast) :
    s.Posts (trigger s p large g) P d [] :=
  posts_ite (.refl s P d)
    (posts_ite (posts_nextFree.after (posts_updFore hp _)) (posts_updFore hp _))

theorem posts_growLarge (hp : p ∈ P) : s.Posts (growLarge s p) P d [] := by
  have hgrow : s.Posts (s.updFore p fun f => { f with large := true }) P d [] := posts_updFore hp _
  exact hgrow.after (posts_ite (posts_nextFree.after (posts_ite (posts_updFore hp _) (.refl _ P d)))
    (.refl _ P d))

theorem posts_reqDelivered (hp : p ∈ P) : s.Posts (reqDelivered s p) P d [] :=
  (posts_updFore hp _).after
    (posts_ite (posts_trigger hp _ _) (posts_ite (posts_growLarge hp) (.refl _ P d)))

/-! ### What places a message -/

theorem posts_queueMsg (hp : p ∈ P) (hup : s.up p = true) (m : Msg) :
    s.Posts (queueMsg s p m) P d [(p, m)] := by
  have hq : s.Posts (s.updTx p fun t => { t with q := t.q ++ [m] }) P d [(p, m)] := by
    have hcase : ∀ j, p ≠ j → (s.updTx p fun t => { t with q := t.q ++ [m] }).port j = s.port j :=
      fun j hj => s.updTx_port_ne _ hj
    refine ⟨rfl, fun j hj => hcase j fun hpj => hj (hpj ▸ hp), fun j => ?_, fun j => ?_, fun j => ?_,
      fun _ => rfl, fun _ _ => rfl, fun j => ?_⟩
    all_goals
      by_cases hj : p = j
      · subst hj
        rw [s.updTx_port_same]
        try rw [postsTo_singleton_same]
      · rw [hcase j hj]
        try simp [postsTo_singleton_ne hj]
  rw [queueMsg, if_pos hup]
  exact hq.trans (posts_nudge hp)

theorem posts_noteAsk (hp : p ∈ P) (m : Msg) : s.Posts (noteAsk s p m) P d [] := by
  unfold noteAsk
  split
  · split
    · refine posts_updRx hp _ ?_
      exact fun _ => .refl _
    · exact .refl s P d
  · split
    · refine posts_updRx hp _ ?_
      exact fun _ => .refl _
    · exact .refl s P d
  · exact .refl s P d

end

/-- What the attach hub counts and notes of a message before it queues it: a final answer and a grant
(R101, R227, R230, R321). -/
def noteSent (s : State) (p : Nat) (m : Msg) : State :=
  let d := m.hdr.dom.toNat
  let s := match finalReason m with
    | some r =>
      let s := statAdd s d 1
      let s := if r = 0 then s else statAdd s d (7 + r.toNat)
      s.updPort p fun q => noteAnswer q m.hdr.tid r
    | none => s
  if isGrant m then s.updFore p fun f => { f with count := f.count + 1 } else s

section
variable {s : State} {P : List Nat} {p : Nat} {m : Msg}

theorem posts_noteSent (hp : p ∈ P) : s.Posts (noteSent s p m) P m.hdr.dom.toNat [] := by
  have hcount : ∀ u : State, u.Posts (if isGrant m then u.updFore p fun f => { f with count := f.count + 1 }
      else u) P m.hdr.dom.toNat [] := fun u => posts_ite (posts_updFore hp _) (.refl u P _)
  unfold noteSent
  cases finalReason m with
  | none => exact hcount s
  | some r =>
    exact (posts_statAdd 1).after
      ((posts_ite (.refl _ P _) (posts_statAdd _)).after ((posts_updPort hp rfl rfl rfl (.refl _)).after (hcount _)))

theorem posts_sent (hp : p ∈ P) (hup : s.up p = true) :
    s.Posts (noteAsk (queueMsg (noteSent s p m) p m) p m) P m.hdr.dom.toNat [(p, m)] :=
  (posts_noteSent hp).after
    ((posts_queueMsg hp (by rw [(posts_noteSent hp).up, hup]) m).trans (posts_noteAsk hp m))

/-- A message toward the agent of a port that holds its domain's ASSIGN, and whose Strainer it does not fill, is
noted and queued (R101, R133, R321). -/
theorem placeAgent_eq (hdom : (s.port p).mem.dom = some m.hdr.dom.toNat)
    (hsent : (s.port p).mem.sent.isSome = true) (hup : s.up p = true)
    (hfill : isGrant m = true → s.mirrored m.hdr.dom.toNat (s.port p).mem.dan = none) :
    placeAgent s p m = noteAsk (queueMsg (noteSent s p m) p m) p m := by
  have hskip : ∀ (o : Option LAddr) (a : Option Agent) (f : LAddr → Agent → State) (u : State),
      o = none ∨ a = none → (match o, a with | some l, some b => f l b | _, _ => u) = u := fun o a f u h => by
    rcases h with rfl | rfl
    · rfl
    · cases o <;> rfl
  have hmir := (posts_sent (m := m) (List.mem_singleton_self p) hup).mirrored m.hdr.dom.toNat (s.port p).mem.dan
  unfold placeAgent
  dsimp only
  rw [if_neg (by simp [hdom, hup, Option.isSome_iff_ne_none.1 hsent])]
  refine hskip _ _ _ _ ?_
  by_cases hg : isGrant m = true
  · exact .inr (hmir.trans (hfill hg))
  · exact .inl (if_neg fun h => hg h.1)

theorem posts_placeAgent (hp : p ∈ P) (hdom : (s.port p).mem.dom = some m.hdr.dom.toNat)
    (hsent : (s.port p).mem.sent.isSome = true) (hup : s.up p = true)
    (hfill : isGrant m = true → s.mirrored m.hdr.dom.toNat (s.port p).mem.dan = none) :
    s.Posts (placeAgent s p m) P m.hdr.dom.toNat [(p, m)] := by
  rw [placeAgent_eq hdom hsent hup hfill]
  exact posts_sent hp hup

/-- A message over the span network leaves by its route's port, unless its domain is silent (R199, R265). -/
theorem posts_placeSpan {a k : Nat} {placing : Bool} (hd : silent s m.hdr.dom.toNat = false)
    (hp : routePort s a m.hdr.dom.toNat k placing = p) (hup : s.up p = true) (hP : p ∈ P) :
    s.Posts (placeSpan s a k placing m) P m.hdr.dom.toNat [(p, m)] := by
  subst hp
  rw [placeSpan, hd, if_neg Bool.false_ne_true, if_pos hup]
  exact posts_queueMsg hP hup m

end

/-! ### Agents of this hub (R114) -/

section
variable {s : State} {d dan q : Nat}

theorem agent_of_agentPort (h : s.agentPort d dan = some q) :
    ∃ a, s.agent d dan = some a ∧ a.hub = s.hubId ∧ a.port = some q := by
  unfold State.agentPort at h
  split at h
  next a ha =>
    split at h
    · exact ⟨a, ha, ‹_›, h⟩
    · cases h
  · cases h

theorem sendAgent_of_agentPort (h : s.agentPort d dan = some q) (m : Msg) :
    sendAgent s d dan m = placeAgent s q m := by
  obtain ⟨a, ha, hhub, hport⟩ := agent_of_agentPort h
  simp only [sendAgent, ha, hhub, hport, if_true]

theorem outPort_of_agentPort (h : s.agentPort d dan = some q) : outPort s d dan = some q := by
  obtain ⟨a, ha, hhub, hport⟩ := agent_of_agentPort h
  simp only [outPort, ha, hhub, hport, if_true]

theorem agentHub_of_agentPort (h : s.agentPort d dan = some q) : agentHub s d dan = some s.hubId := by
  obtain ⟨a, ha, hhub, -⟩ := agent_of_agentPort h
  rw [agentHub, ha, Option.map_some, hhub]

/-- A message toward an agent within reach is placed on its port. -/
theorem posts_sendAgent {P : List Nat} {m : Msg} (h : s.reaches d dan q) (hP : q ∈ P)
    (hd : m.hdr.dom.toNat = d) (hfill : isGrant m = true → s.mirrored d dan = none) :
    s.Posts (sendAgent s d dan m) P d [(q, m)] := by
  obtain ⟨hport, -, hup, hdom, hdan, hsent⟩ := h
  subst hd
  rw [sendAgent_of_agentPort hport]
  exact posts_placeAgent hP hdom hsent hup (by rwa [hdan])

/-- An MRQ of a tracker that has none waiting goes at once where a credit is free (R157). -/
theorem trkMrq_of_credit {x : Tracker} {f : MrqF} (h : s.agentPort x.dom dan = some q) (hx : x.mrqs = [])
    (hc : creditFree s q .mrq x.dom = true) (hpoi : f.poi = false) (data : Line) :
    trkMrq s x dan f data = (x, sendAgent s x.dom dan (.mrq f data)) := by
  simp [trkMrq, outPort_of_agentPort h, hx, hc, sendMrq, hpoi]

end

/-! ### Messages delivered (R66, R80, R82) -/

/-- A message that its domain and its sender may send is taken (R84). -/
theorem enter_of_delivers {s : State} {p : Nat} {m : Msg} (h : s.delivers p m.hdr)
    (hdan : p < 16 → namesSender m = true → (s.port p).mem.dan = m.hdr.dan.toNat) (l : LAddr) :
    enter s p m l = .take (takeMsg s p m) := by
  obtain ⟨-, -, hdis, hmem⟩ := h
  have hdis' : discards (takeMsg s p m) m.hdr = false := hdis
  unfold enter
  dsimp only
  split
  · next hp =>
    obtain ⟨hdom, hsent⟩ := hmem hp
    obtain ⟨a, ha⟩ := Option.isSome_iff_exists.1 hsent
    rw [hdom, ha]
    dsimp only
    rw [if_neg, hdis', if_neg Bool.false_ne_true]
    rintro (hne | ⟨hname, hne⟩)
    · exact hne rfl
    · exact hne (hdan hp hname).symm
  · rw [hdis', if_neg Bool.false_ne_true]

theorem State.delivers.taken {s : State} {p : Nat} {h : Hdr} (hd : s.delivers p h) : discards s h = false := by
  obtain ⟨-, -, hdis, -⟩ := hd
  exact hdis

theorem silent_of_discards {s : State} {h : Hdr} (hd : discards s h = false) :
    silent s h.dom.toNat = false := by
  simp only [discards, Bool.or_eq_false_iff] at hd
  exact hd.1.2

end Sys2Proof.Machine
end

section
/-!
SUPPORT. Trackers: what storing and freeing one leaves, the writeback store and the held snoops when they are
empty, the recording of a grant. The answers of memory and of snooped agents at the home (O52, O51).
-/
namespace Sys2Proof.Machine

/-! ## Trackers (R146, R148) -/

theorem mem_of_trk {s : State} {sl n : Nat} {x : Tracker} (h : s.trk sl n = some x) :
    x ∈ s.home.trackers ∧ x.sl = sl ∧ x.num = n := by
  have hkey := List.find?_some h
  simp only [Bool.and_eq_true, beq_iff_eq] at hkey
  exact ⟨List.mem_of_find?_eq_some h, hkey⟩

/-- Storing a tracker changes the list of trackers alone. -/
theorem putTrk_eq (s : State) (x : Tracker) :
    ∃ ts, putTrk s x = s.updHome fun h => { h with trackers := ts } := by
  unfold putTrk
  split
  · split <;> exact ⟨_, rfl⟩
  · exact ⟨s.home.trackers, rfl⟩

theorem putTrk_of_new {s : State} {x : Tracker} (hd : (s.dom x.dom).st.inService = true)
    (hx : s.trk x.sl x.num = none) :
    putTrk s x = s.updHome fun h => { h with trackers := h.trackers ++ [x] } := by
  simp [putTrk, hd, hx]

theorem trk_updHome_append (s : State) {x : Tracker} (hx : s.trk x.sl x.num = none) :
    (s.updHome fun h => { h with trackers := h.trackers ++ [x] }).trk x.sl x.num = some x := by
  have hx' : (s.home.trackers.find? fun y => y.sl == x.sl && y.num == x.num) = none := hx
  simp [State.trk, List.find?_append, hx']

/-- The tracker found under a number of a list in which another of that number has been replaced. -/
theorem find?_map_replace (l : List Tracker) (x : Tracker) (i k : Nat) :
    ((l.map fun y => if y.sl == x.sl && y.num == x.num then x else y).find? fun y => y.sl == i && y.num == k)
      = (l.find? fun y => y.sl == i && y.num == k).map
          fun y => if y.sl == x.sl && y.num == x.num then x else y := by
  rw [List.find?_map]
  congr 2
  funext y
  simp only [Function.comp_apply]
  split
  · next h =>
    simp only [Bool.and_eq_true, beq_iff_eq] at h
    rw [h.1, h.2]
  · rfl

theorem trk_putTrk_same {s : State} {x y : Tracker} (hd : (s.dom x.dom).st.inService = true)
    (hy : s.trk x.sl x.num = some y) : (putTrk s x).trk x.sl x.num = some x := by
  obtain ⟨-, hsl, hnum⟩ := mem_of_trk hy
  have hfind : (s.home.trackers.find? fun z => z.sl == x.sl && z.num == x.num) = some y := hy
  rw [putTrk, if_pos hd, if_pos (by rw [hy]; rfl), State.trk, State.updHome_home]
  dsimp only
  rw [find?_map_replace, hfind]
  simp [hsl, hnum]

theorem otherTrks_putTrk (s : State) {x y : Tracker} (hy : s.trk x.sl x.num = some y) :
    s.otherTrks (putTrk s x) x.sl x.num := fun i k hik => by
  unfold putTrk
  split
  · rw [if_pos (by rw [hy]; rfl), State.trk, State.updHome_home]
    dsimp only
    rw [find?_map_replace, State.trk]
    cases hz : s.home.trackers.find? fun y => y.sl == i && y.num == k with
    | none => rfl
    | some z =>
      obtain ⟨-, hsl, hnum⟩ := mem_of_trk (s := s) hz
      rw [Option.map_some, if_neg]
      simp only [Bool.and_eq_true, beq_iff_eq]
      exact fun h => hik ⟨hsl.symm.trans h.1, hnum.symm.trans h.2⟩
  · rfl

theorem trk_dropTrk_same (s : State) (sl n : Nat) : (dropTrk s sl n).trk sl n = none := by
  simp only [State.trk, dropTrk, State.updHome_home, List.find?_filter, List.find?_eq_none]
  intro x _ hx
  simp only [Bool.and_eq_true, Bool.not_eq_true', beq_iff_eq, decide_eq_true_eq] at hx
  simp [hx.2] at hx

theorem otherTrks_dropTrk (s : State) (sl n : Nat) : s.otherTrks (dropTrk s sl n) sl n := fun i k hik => by
  simp only [State.trk, dropTrk, State.updHome_home, List.find?_filter]
  congr 1
  funext x
  rw [Bool.eq_iff_iff]
  simp only [Bool.and_eq_true, Bool.not_eq_true', Bool.and_eq_false_iff, beq_eq_false_iff_ne, beq_iff_eq,
    decide_eq_true_eq, and_iff_right_iff_imp]
  rintro ⟨rfl, rfl⟩
  exact not_and_or.1 hik

/-! ## The writeback store and held snoops, when empty (R150, R201) -/

theorem serveStore_of_empty {s : State} (h : s.home.wbs = []) : serveStore s = s := by
  rw [serveStore, h]
  rfl

theorem retryAllHeld_of_noHeld {s : State} (h : s.noHeld) : retryAllHeld s = s := by
  rw [retryAllHeld, List.filter_eq_nil_iff.2 fun x hx => by simp [h x hx]]
  rfl

theorem noHeld_putTrk {s : State} (h : s.noHeld) {x : Tracker} (hx : x.heldSnoops = []) :
    (putTrk s x).noHeld := by
  unfold putTrk State.noHeld
  split
  · split
    · intro y hy
      obtain ⟨z, hz, rfl⟩ := List.mem_map.1 hy
      split
      · exact hx
      · exact h z hz
    · intro y hy
      rcases List.mem_append.1 hy with hy | hy
      · exact h y hy
      · rwa [List.mem_singleton.1 hy]
  · exact h

/-! ## A tracker freed (R149, R170) -/

/-- With nothing awaited and nothing kept, a tracker that has done its work is FREE. -/
theorem settle_of_plain {x : Tracker} (hx : x.plain) (ha : x.awaits = []) (s : State) :
    settle x s = dropTrk s x.sl x.num := by
  obtain ⟨hown, htq, hmrqs⟩ := hx
  simp [settle, ha, hmrqs, freeTrk, hown, htq]

/-! ## The recording of a grant (R160) -/

/-- Nothing but the stored arrays and their integrity differs. -/
def State.arraysOnly (s t : State) : Prop := { t with arr := s.arr, integ := s.integ } = s

theorem State.arraysOnly.trans {s t u : State} (h : s.arraysOnly t) (g : t.arraysOnly u) : s.arraysOnly u := by
  unfold State.arraysOnly at h g ⊢
  exact (congrArg (fun x : State => { x with arr := s.arr, integ := s.integ }) g :).trans h

theorem arraysOnly_flipTake (s : State) (m u : Nat) (d : Option Nat) :
    s.arraysOnly (flipTake s m u d).2.2 := by
  unfold flipTake
  dsimp only
  split <;> rfl

theorem arraysOnly_writeTag (s : State) (k : Nat) (t : BitVec 40) : s.arraysOnly (writeTag s k t) :=
  (arraysOnly_flipTake s 2 0 (some (tagDom t))).trans rfl

theorem arraysOnly_writeWord (s : State) (k d : Nat) (w : BitVec 56) : s.arraysOnly (writeWord s k d w) :=
  (arraysOnly_flipTake s 3 0 (some d)).trans rfl

/-- A grant is recorded in the tracker's word and in the stored arrays. -/
theorem recordGrant_spec (x : Tracker) (s : State) (r : Req) (g : BitVec 2) (clear : Bool) :
    ∃ w u, recordGrant x s r g clear = ({ x with word := w }, u) ∧ s.arraysOnly u := by
  unfold recordGrant
  split
  · unfold setWord
    split
    · exact ⟨_, _, rfl, (arraysOnly_writeTag s _ _).trans (arraysOnly_writeWord _ _ _ _)⟩
    · exact ⟨_, _, rfl, rfl⟩
  · exact ⟨x.word, s, rfl, rfl⟩

/-! ## MCPs (R83, R149, R175, R237, R262) -/

section
variable {s : State} {p : Nat} {h : Hdr} {l : LAddr} {htag : BitVec 14}

/-- The MCP of a tracker in DRAIN that awaits nothing else frees it (R149). -/
theorem mcpHome_tracker {x : Tracker} (hx : s.trk (htagSlice htag) (htagTracker htag) = some x)
    (hd : x.dom = h.dom.toNat) (hl : x.laddr = l) (hph : x.phase = .drain) (ha : x.awaits = [.mcp])
    (hplain : x.plain) (hw : s.home.wbs = []) :
    mcpHome s h l htag = dropTrk s x.sl x.num := by
  have htrk : (answerTrk s h l htag fun x => x.awaits.contains .mcp && x.laddr == l) = some x := by
    simp [answerTrk, hx, hd, hl, ha]
  simp only [mcpHome, htrk, onMcp, hph]
  exact (congrArg serveStore (settle_of_plain (x := { x with phase := .drain, awaits := x.awaits.erase .mcp })
    hplain (by rw [ha]; rfl) s)).trans
    (serveStore_of_empty (s := dropTrk s x.sl x.num) hw)

/-- No tracker awaits it. -/
theorem answerTrk_of_free (hx : s.trk (htagSlice htag) (htagTracker htag) = none) (ok : Tracker → Bool) :
    answerTrk s h l htag ok = none := by rw [answerTrk, hx]

theorem mcpHome_victim (hx : s.trk (htagSlice htag) (htagTracker htag) = none) {v : Victim}
    (hv : victimDone s h l htag = some v) :
    mcpHome s h l htag = s.updHome fun k => { k with victims := k.victims.erase v } := by
  simp only [mcpHome, answerTrk_of_free hx, hv]

theorem victimDone_of_empty (hv : s.home.victims = []) : victimDone s h l htag = none := by
  rw [victimDone, hv]
  rfl

theorem mcpHome_merge (hx : s.trk (htagSlice htag) (htagTracker htag) = none) (hv : s.home.victims = [])
    {m : Merge} (hm : s.home.merges.find? (fun m => m.dom == h.dom.toNat && m.laddr == l && m.drain == 2)
      = some m) : mcpHome s h l htag = mergeDone s m := by
  simp only [mcpHome, answerTrk_of_free hx, victimDone_of_empty hv, hm]

theorem mcpHome_sweep (hx : s.trk (htagSlice htag) (htagTracker htag) = none) (hv : s.home.victims = [])
    (hm : s.home.merges = []) {w : Sweep} (hw : (s.dom h.dom.toNat).sweep = some w) (hz : w.zero = true)
    {a : BitVec 52} (ha : w.outst.find? (fun a => a.toNat / 64 == l.toNat) = some a) :
    mcpHome s h l htag
      = s.updDom h.dom.toNat fun q => { q with sweep := some { w with outst := w.outst.erase a } } := by
  simp only [mcpHome, answerTrk_of_free hx, victimDone_of_empty hv, hm, List.find?_nil, hw, ha]
  simp [sweepEnd, hz]

end

/-- A freed entry is gone, the others stand, and no CURE waits for its drain any more (R237). -/
theorem mergeDone_spec (s : State) (m : Merge) :
    (mergeDone s m).merge m.id = none ∧ (∀ j, j ≠ m.id → (mergeDone s m).merge j = s.merge j) ∧
      ∀ j, ∀ c ∈ ((mergeDone s m).port j).cures, (m.id, m.laddr) ∉ c.drains := by
  refine ⟨?_, fun j hj => ?_, fun j c hc => ?_⟩
  · simp only [State.merge, mergeDone, State.updHome_home, List.find?_filter, List.find?_eq_none]
    simp
  · simp only [State.merge, mergeDone, State.updHome_home, List.find?_filter]
    congr 1
    funext y
    by_cases hy : y.id = j
    · simpa [hy] using hj
    · simp [hy]
  · rw [State.port, mergeDone, tget_tmap _ _ _ _ rfl] at hc
    obtain ⟨b, -, rfl⟩ := List.mem_map.1 hc
    simp

/-- The row of an MCP of this hub. -/
theorem exec_mcp {s : State} {p : Fin 20} {h : Hdr} {l : LAddr} {htag : BitVec 14} (hd : s.delivers p h)
    (hhub : htagHub htag = s.hubId) (hm : mayTake s p (.mcp h l htag) = true) :
    exec (.mcp p h l htag) s
      = .next (mcpHome (returnCredit (takeMsg s p (.mcp h l htag)) p .rsp h.dom.toNat) h l htag) := by
  have hent := enter_of_delivers (m := .mcp h l htag) hd (fun _ hn => Bool.noConfusion hn) l
  have hhub' : htagHub htag = (takeMsg s p (.mcp h l htag)).hubId := hhub
  show execMcp p h l htag s = _
  simp only [execMcp, hm, hent, Bool.not_true, Bool.false_eq_true, if_false]
  rw [if_neg (not_not.2 hhub')]

/-- Settles O52: the MCP meets a tracker, else a victim, an entry that drains, or a sweep. -/
theorem completionsFreeWhatWaited : Obligations.CompletionsFreeWhatWaited := by
  unfold Obligations.CompletionsFreeWhatWaited
  intro s p h l htag d sl n hdel hhub hwbs hmay
  have hpost : s.Posts (returnCredit (takeMsg s p (.mcp h l htag)) p .rsp d) [p.val] d [] :=
    (posts_takeMsg (List.mem_singleton_self _) _).after (posts_returnCredit (List.mem_singleton_self _) _ _)
  refine ⟨_, exec_mcp hdel hhub hmay, ?_⟩
  have hsweep : ((returnCredit (takeMsg s p (.mcp h l htag)) p .rsp d).dom d).sweep = (s.dom d).sweep :=
    (congrArg Dom.sweep (hpost.dom d) :)
  generalize returnCredit (takeMsg s p (.mcp h l htag)) p .rsp d = u at *
  have hport : s.otherPorts u p := fun j hj => hpost.others j (by simpa using hj)
  refine ⟨fun x hx hxd hxl hph ha hplain => ?tracker, fun hx => ⟨fun v hv => ?victim,
    fun m hv hm => ?merge, fun w a hv hm hw hz ha => ?sweep⟩⟩
  case tracker =>
    obtain ⟨-, hsl, hnum⟩ := mem_of_trk hx
    rw [mcpHome_tracker (by rw [hpost.trk]; exact hx) hxd hxl hph ha hplain (by rw [hpost.home, hwbs]), hsl, hnum]
    refine ⟨trk_dropTrk_same u sl n, fun i k hik => ?_, hport, hpost.homeOnly⟩
    rw [otherTrks_dropTrk u sl n i k hik, hpost.trk]
  case victim =>
    have hv' : victimDone u h l htag = some v := by
      simpa only [victimDone, hpost.home, hpost.dirLine] using hv
    rw [mcpHome_victim (by rw [hpost.trk]; exact hx) hv', State.updHome_home, hpost.home]
    exact ⟨rfl, hport, hpost.homeOnly⟩
  case merge =>
    rw [mcpHome_merge (by rw [hpost.trk]; exact hx) (by rw [hpost.home, hv]) (by rw [hpost.home, hm])]
    obtain ⟨hgone, hstay, hcures⟩ := mergeDone_spec u m
    exact ⟨hgone, fun j hj => (hstay j hj).trans (by rw [State.merge, hpost.home, State.merge]), hcures,
      hpost.homeOnly⟩
  case sweep =>
    rw [mcpHome_sweep (by rw [hpost.trk]; exact hx) (by rw [hpost.home, hv]) (by rw [hpost.home, hm])
      (hsweep.trans hw) hz ha]
    exact ⟨by rw [u.updDom_dom_same], hpost.home, hport, hpost.homeOnly⟩

end Sys2Proof.Machine
end

section
/-!
SUPPORT. Snoop answers at the home: one that is collected while another is awaited, and the SRF that ends a forward
(O51).
-/
namespace Sys2Proof.Machine

/-! ## An answer that is collected (R95, R102, R160) -/

/-- What still awaits a snoop answer goes on waiting. -/
theorem progress_of_snoop {x : Tracker} {s : State} {r : Req} (hr : x.req = some r)
    (hd : stopped s x.dom = false) {k : Nat} {op : SnpOp} (ha : .snoop k op ∈ x.awaits) :
    progress x s = putTrk s x := by
  have hmem : Await.snoop k op ∈ blocking x := List.mem_filter.2 ⟨ha, by simp⟩
  have hne : (blocking x).isEmpty = false := by
    cases hb : blocking x with
    | nil => rw [hb] at hmem; cases hmem
    | cons => rfl
  simp [progress, hr, hd, hne]

/-- The awaited answers without those of a candidate. -/
def Tracker.awaitsBut (x : Tracker) (c : Nat) : List Await :=
  x.awaits.filter fun a => match a with | .snoop k _ => k != c | _ => true

theorem Tracker.otherSnoop.awaitsBut {x : Tracker} {c : Nat} (h : x.otherSnoop c) :
    ∃ k op, .snoop k op ∈ x.awaitsBut c := by
  obtain ⟨k, op, hmem, hne⟩ := h
  exact ⟨k, op, List.mem_filter.2 ⟨hmem, by simpa using hne⟩⟩

/-- The tracker once candidate c has been heard: it is awaited no more (R160). -/
def Tracker.heard (x : Tracker) (c : Nat) (op : AnsOp) : Tracker :=
  { x with held := x.held || op != .srm, awaits := x.awaitsBut c }

/-- Who gave the line up and who keeps it, after an answer of candidate c with NST (R160). -/
def Tracker.noted (x : Tracker) (c : Nat) (gone kept : Prop) [Decidable gone] [Decidable kept] : Tracker :=
  { x with gone := if gone then x.gone ++ [c] else x.gone, kept := if kept then x.kept ++ [c] else x.kept }

theorem noteNst_eq (x : Tracker) (c : Nat) (nst : BitVec 2) :
    noteNst x c nst = x.noted c (nst = 0) (nst = 1) := by
  unfold noteNst Tracker.noted
  split
  · next h => subst h; rfl
  · split <;> rfl

/-- NST of an SRD: I gives the line up, S and F keep it. -/
theorem noteSrd_eq (x : Tracker) (c : Nat) (nst : BitVec 2) :
    (if nst = 0 then { x with gone := x.gone ++ [c] } else if nst = 3 then x
      else { x with kept := x.kept ++ [c] }) = x.noted c (nst = 0) (nst = 1 ∨ nst = 2) := by
  have hnst : nst = 0 ∨ nst = 1 ∨ nst = 2 ∨ nst = 3 := by revert nst; decide
  rcases hnst with rfl | rfl | rfl | rfl <;> rfl

/-- The tracker with the line of an SRD: an atomic placed at memory comes home with it (R160, R213). -/
def Tracker.brought (x : Tracker) (atmp : BitVec 2) (c : Nat) (poi : Bool) (data : Line) : Tracker :=
  { x with
    got := some data, dirty := true, poison := poi,
    flow := if x.flow = .atmMem then .atmHome true else match x.flow with
      | .atmHome _ => if atmp = 0 then x.flow else .atmHome true
      | f => f,
    owner := if x.owner.isSome then x.owner else some c,
    dropLine := x.dropLine || x.awaits.contains .line }

/-- SRI or SRM of one that is not the recorded owner, with no WBM absorbed and no SNF of it outstanding. -/
theorem homeAnswer_gives_up {s : State} {x : Tracker} {op : AnsOp} {c : Nat} (hop : op = .sri ∨ op = .srm)
    (hno : x.awaits.contains (.snoop c .snf) = false) (hown : x.owner ≠ some c) (hwb : x.wbData = none)
    (r : Req) (nst : BitVec 2) (poi : Bool) (data : Line) : homeAnswer s x r op c nst poi data
      = chainOn ((x.heard c op).noted c True False) s r c false := by
  rcases hop with rfl | rfl
  all_goals
    unfold homeAnswer
    simp only [hno]
    split
    · next hsome => rw [hwb] at hsome; cases hsome
    · rw [if_neg fun h => hown h.1]
      rfl

theorem homeAnswer_srd (s : State) (x : Tracker) (r : Req) (c : Nat) (nst : BitVec 2) (poi : Bool) (data : Line) :
    ∃ atmp, let y := ((x.heard c .srd).noted c (nst = 0) (nst = 1 ∨ nst = 2)).brought atmp c poi data
      homeAnswer s x r .srd c nst poi data = progress y (storeGot s y) := by
  refine ⟨(s.dom x.dom).par.atmp, ?_⟩
  rw [← noteSrd_eq]
  have hdom : ((if nst = 0 then { x.heard c .srd with gone := (x.heard c .srd).gone ++ [c] }
      else if nst = 3 then x.heard c .srd
      else { x.heard c .srd with kept := (x.heard c .srd).kept ++ [c] }) : Tracker).dom = x.dom := by
    split
    · rfl
    · split <;> rfl
  rw [← hdom]
  rfl

/-- What an answer of candidate c leaves in its tracker, whose other answers are still to come (R160). -/
structure Collected (x y : Tracker) (c : Nat) (op : AnsOp) (f : AnsF) (data : Line) : Prop where
  place : y.sl = x.sl ∧ y.num = x.num ∧ y.dom = x.dom ∧ y.heldSnoops = x.heldSnoops
  awaits : y.awaits = x.awaitsBut c
  gone : y.gone = if op = .sri ∨ op = .srm ∨ f.nst = 0 then x.gone ++ [c] else x.gone
  kept : y.kept = if op ≠ .sri ∧ op ≠ .srm ∧ (f.nst = 1 ∨ op = .srd ∧ f.nst = 2) then x.kept ++ [c] else x.kept
  data : op = .srd → y.got = some data ∧ y.dirty = true ∧ y.poison = f.poi
  noData : op ≠ .srd → y.got = x.got ∧ y.dirty = x.dirty ∧ y.poison = x.poison
  rest : y.req = x.req ∧ y.phase = x.phase

/-- An answer without data changes what is noted of its sender alone. -/
theorem collected_noted {x : Tracker} {c : Nat} {op : AnsOp} {f : AnsF} {data : Line} (hop : op ≠ .srd)
    {gone kept : Prop} [Decidable gone] [Decidable kept]
    (hgone : gone ↔ op = .sri ∨ op = .srm ∨ f.nst = 0) (hkept : kept ↔ op ≠ .sri ∧ op ≠ .srm ∧ f.nst = 1) :
    Collected x ((x.heard c op).noted c gone kept) c op f data := by
  refine ⟨⟨rfl, rfl, rfl, rfl⟩, rfl, ?_, ?_, fun h => absurd h hop, fun _ => ⟨rfl, rfl, rfl⟩, rfl, rfl⟩
  · simp only [Tracker.noted, hgone]
    rfl
  · simp only [Tracker.noted, hkept, hop, false_and, or_false]
    rfl

theorem homeAnswer_collects {s : State} {x : Tracker} {r : Req} {op : AnsOp} {c : Nat} {f : AnsF} {data : Line}
    (hs : s.inert) (hr : x.req = some r) (hd : stopped s x.dom = false)
    (hsnf : .snoop c .snf ∉ x.awaits) (hown : x.owner ≠ some c) (hwb : x.wbData = none) (ho : x.otherSnoop c) :
    ∃ y, homeAnswer s x r op c f.nst f.poi data = putTrk s y ∧ Collected x y c op f data := by
  have hno : x.awaits.contains (.snoop c .snf) = false := by simpa using hsnf
  obtain ⟨k, o, hmem⟩ := ho.awaitsBut
  have hgo : ∀ y : Tracker, y.req = x.req → y.dom = x.dom → y.awaits = x.awaitsBut c →
      progress y s = putTrk s y := fun y hyr hyd hya =>
    progress_of_snoop (hyr.trans hr) (by rw [hyd, hd]) (by rw [hya]; exact hmem)
  have hchain : ∀ y : Tracker, y.req = x.req → y.dom = x.dom → y.awaits = x.awaitsBut c →
      chainOn y s r c false = putTrk s y := hgo
  cases op with
  | sri | srm =>
    refine ⟨_, ?_, collected_noted (gone := True) (kept := False) (by decide) (by simp) (by simp)⟩
    rw [homeAnswer_gives_up (by simp) hno hown hwb]
    exact hchain _ rfl rfl rfl
  | srs =>
    refine ⟨_, ?_, collected_noted (gone := f.nst = 0) (kept := f.nst = 1) (by decide) (by simp) (by simp)⟩
    unfold homeAnswer
    simp only [hno]
    rw [noteNst_eq]
    exact hchain ((x.heard c .srs).noted c (f.nst = 0) (f.nst = 1)) rfl rfl rfl
  | srf =>
    refine ⟨_, ?_, collected_noted (gone := f.nst = 0) (kept := f.nst = 1) (by decide) (by simp) (by simp)⟩
    unfold homeAnswer
    simp only [hno, Bool.false_eq_true, if_false]
    rw [noteNst_eq]
    exact hgo ((x.heard c .srf).noted c (f.nst = 0) (f.nst = 1)) rfl rfl rfl
  | srd =>
    obtain ⟨atmp, hsrd⟩ := homeAnswer_srd s x r c f.nst f.poi data
    refine ⟨((x.heard c .srd).noted c (f.nst = 0) (f.nst = 1 ∨ f.nst = 2)).brought atmp c f.poi data, ?_,
      ⟨rfl, rfl, rfl, rfl⟩, rfl, ?_, ?_, fun _ => ⟨rfl, rfl, rfl⟩, fun h => absurd rfl h, rfl, rfl⟩
    · rw [hsrd, hs.storeGot]
      exact hgo (Tracker.brought (Tracker.noted _ c (f.nst = 0) (f.nst = 1 ∨ f.nst = 2)) atmp c _ _) rfl rfl rfl
    · simp [Tracker.brought, Tracker.noted, Tracker.heard]
    · simp [Tracker.brought, Tracker.noted, Tracker.heard]

/-! ## The SRF of a forward (R160, R167, R201) -/

/-- The forward record that an SRF opens, unless its DFW has gone already (R201). -/
def openFwd (s : State) (x : Tracker) (r : Req) : State :=
  if x.dfw then s
  else s.updHome fun h => { h with fwds := h.fwds ++ [⟨x.sl, x.dom, x.laddr, r.h.dan.toNat⟩] }

/-- The grant is recorded, the forward record opened, and the tracker settled. -/
theorem onSrf_eq (s : State) (x : Tracker) (r : Req) : ∃ w u, s.arraysOnly u ∧
    onSrf s x r = serveStore (settle { x with word := w, heldSnoops := [] } (openFwd u x r)) := by
  have hgoal : ∀ g : Tracker × State, (∃ w u, g = ({ x with word := w }, u) ∧ s.arraysOnly u) →
      ∃ w u, s.arraysOnly u ∧ (match g with
          | (x, s) => serveStore (settle { x with heldSnoops := [] } (openFwd s x r)))
        = serveStore (settle { x with word := w, heldSnoops := [] } (openFwd u x r)) := fun g hg => by
    obtain ⟨w, u, rfl, hu⟩ := hg
    exact ⟨w, u, hu, rfl⟩
  unfold onSrf
  refine hgoal _ ?_
  split <;> exact recordGrant_spec x s r _ _

theorem openFwd_rest (s : State) (x : Tracker) (r : Req) :
    openFwd s x r = s.updHome fun h => { h with
      fwds := h.fwds ++ if x.dfw then [] else [⟨x.sl, x.dom, x.laddr, r.h.dan.toNat⟩] } := by
  unfold openFwd
  split
  · simp only [List.append_nil]
    rfl
  · rfl

theorem State.homeOnly.trans {s t u : State} (h : s.homeOnly t) (g : t.homeOnly u) : s.homeOnly u := by
  unfold State.homeOnly at h g ⊢
  exact (congrArg (fun w : State =>
    { w with
      ports := s.ports, doms := s.doms, home := s.home, arr := s.arr, integ := s.integ, free := s.free }) g :).trans h

theorem State.arraysOnly.homeOnly {s t : State} (h : s.arraysOnly t) : s.homeOnly t :=
  (congrArg (fun w : State =>
    { w with
      ports := s.ports, doms := s.doms, home := s.home, arr := s.arr, integ := s.integ, free := s.free }) h :)

/-- A tracker that awaited the SRF of its forward alone is freed (R149, R160). -/
theorem homeAnswer_srf_ends {s : State} {x : Tracker} {r : Req} {c : Nat} (hx : x.awaits = [.snoop c .snf])
    (hplain : x.plain) (hw : s.home.wbs = []) (nst : BitVec 2) (poi : Bool) (data : Line) :
    ∃ u, s.arraysOnly u ∧
      homeAnswer s x r .srf c nst poi data = dropTrk (openFwd u x r) x.sl x.num := by
  have hsnf : x.awaits.contains (.snoop c .snf) = true := by rw [hx]; simp
  have hnone : x.awaitsBut c = [] := by rw [Tracker.awaitsBut, hx]; simp
  obtain ⟨w, u, hu, hsrf⟩ := onSrf_eq s ((x.heard c .srf).noted c (nst = 0) (nst = 1)) r
  have hhome : u.home = s.home := (congrArg State.home hu :)
  refine ⟨u, hu, ?_⟩
  unfold homeAnswer
  simp only [hsnf, if_true]
  rw [noteNst_eq]
  refine hsrf.trans ((congrArg serveStore (settle_of_plain (x := { (x.heard c .srf).noted c (nst = 0) (nst = 1)
    with word := w, heldSnoops := [] }) hplain hnone _)).trans (serveStore_of_empty ?_))
  rw [openFwd_rest, dropTrk, State.updHome_home, State.updHome_home, hhome, hw]

/-! ## The rows (R95, R102) -/

theorem returnCredit_doms (s : State) (p : Nat) (c : Cls) (d : Nat) : (returnCredit s p c d).doms = s.doms := by
  unfold returnCredit
  split <;> rfl

/-- An answer of this hub, of no mirrored agent here and to no proxy snoop, reaches the home. -/
theorem ansRow_of_home {s : State} {p : Nat} {op : AnsOp} {f : AnsF} {data : Line} (hdel : s.delivers p f.h)
    (hdan : p < 16 → (s.port p).mem.dan = f.h.dan.toNat) (hprox : s.home.proxies = [])
    (hmir : s.mirrored f.h.dom.toNat f.h.dan.toNat = none) (hhub : htagHub f.htag = s.hubId)
    (hm : mayTake s p (.ans op f data) = true) : ansRow s p op f data
      = answerHome (returnCredit (takeMsg s p (.ans op f data)) p .rsp f.h.dom.toNat) op f data := by
  have hpost : s.Posts (takeMsg s p (.ans op f data)) [p] 0 [] := posts_takeMsg (List.mem_singleton_self p) _
  have hent := enter_of_delivers (m := .ans op f data) hdel (fun hp _ => hdan hp) f.laddr
  generalize hu : takeMsg s p (.ans op f data) = u at *
  have hnote : noteEntry u f.h.dom.toNat f.h.dan.toNat op f = u := by rw [noteEntry, hpost.mirrored, hmir]
  obtain ⟨-, -, hdis, -⟩ := hdel
  simp only [ansRow, hm, hent, hnote, ite_self, hpost.home, hprox, List.find?_nil, hpost.discards, hdis,
    hpost.hubId, hhub, Bool.not_true, Bool.false_eq_true, if_false, ne_eq, not_true_eq_false]
  rfl

theorem answerHome_of_asked {s : State} {op : AnsOp} {f : AnsF} {data : Line} {x : Tracker} {r : Req}
    (hx : s.trk (htagSlice f.htag) (htagTracker f.htag) = some x) (hr : x.req = some r)
    (hd : x.dom = f.h.dom.toNat) (hl : x.laddr = f.laddr) {o : SnpOp} (ha : .snoop f.h.dan.toNat o ∈ x.awaits) :
    answerHome s op f data
      = serveStore (retryAllHeld (homeAnswer s x r op f.h.dan.toNat f.nst f.poi data)) := by
  have hasked : (x.awaits.any fun a => match a with
      | .snoop c _ => c == f.h.dan.toNat
      | _ => false) = true := List.any_eq_true.2 ⟨_, ha, by simp⟩
  simp only [answerHome, hx, hr]
  exact if_pos ⟨hd, hl, hasked⟩

theorem exec_ansCmd (s : State) (op : AnsOp) (p : Fin 20) (f : AnsF) (data : Line) :
    exec (ansCmd op p f data) s = .next (ansRow s p op f (if op = .srd then data else 0)) := by
  cases op <;> rfl

/-- Settles O51: the SRF of a forward frees its tracker, any other answer is collected. -/
theorem snoopAnswersAreCollected : Obligations.SnoopAnswersAreCollected := by
  unfold Obligations.SnoopAnswersAreCollected
  intro s p f data op x r d c sl n hdel hdan hin hwbs hprox hmir hhub hmay hheld hsvc hx hxd hxl hr
  have hrow := ansRow_of_home hdel hdan hprox hmir hhub hmay
  have hpost : s.Posts (returnCredit (takeMsg s p (.ans op f (if op = .srd then data else 0))) p .rsp d)
      [p.val] d [] :=
    (posts_takeMsg (List.mem_singleton_self _) _).after (posts_returnCredit (List.mem_singleton_self _) _ _)
  have hdoms : (returnCredit (takeMsg s p (.ans op f (if op = .srd then data else 0))) p .rsp d).doms = s.doms :=
    returnCredit_doms _ _ _ _
  generalize returnCredit (takeMsg s p (.ans op f (if op = .srd then data else 0))) p .rsp d = u at *
  have hport : s.otherPorts u p := fun j hj => hpost.others j (by simpa using hj)
  have hq : (u.port p).tx.q = (s.port p).tx.q := by rw [hpost.tx]; simp [postsTo]
  have hux : u.trk sl n = some x := by rw [hpost.trk, hx]
  obtain ⟨hxmem, hxsl, hxnum⟩ := mem_of_trk hx
  refine ⟨fun hop ha hplain => ?srf, fun hask hsnf hown hwb ho => ?collect⟩
  case srf =>
    subst hop
    obtain ⟨v, hv, hend⟩ := homeAnswer_srf_ends (s := u) (r := r) ha hplain (by rw [hpost.home, hwbs]) f.nst f.poi 0
    have hvhome : v.home = s.home := (congrArg State.home hv :).trans hpost.home
    have hdhome : (dropTrk (openFwd v x r) sl n).home = { s.home with
        trackers := s.home.trackers.filter (fun y => !(y.sl == sl && y.num == n))
        fwds := s.home.fwds ++ if x.dfw then [] else [⟨sl, d, f.laddr, r.h.dan.toNat⟩] } := by
      rw [openFwd_rest, dropTrk, State.updHome_home, State.updHome_home, hvhome, hxsl, hxd, hxl]
    have hdone : ansRow s p .srf f 0 = dropTrk (openFwd v x r) sl n := by
      rw [← hxsl, ← hxnum] at hdhome ⊢
      have hnoheld : (dropTrk (openFwd v x r) x.sl x.num).noHeld := fun y hy => by
        rw [hdhome] at hy
        exact hheld y (List.mem_filter.1 hy).1
      calc ansRow s p .srf f 0
        _ = serveStore (retryAllHeld (homeAnswer u x r .srf c f.nst f.poi 0)) :=
          hrow.trans (answerHome_of_asked hux hr hxd hxl (o := .snf) (by rw [ha]; simp [c]))
        _ = dropTrk (openFwd v x r) x.sl x.num := by
          rw [hend, retryAllHeld_of_noHeld hnoheld, serveStore_of_empty (by rw [hdhome, hwbs])]
    have hports : (dropTrk (openFwd v x r) sl n).ports = u.ports := by
      rw [openFwd_rest]
      exact (congrArg State.ports hv :)
    have hpeq : ∀ j, (dropTrk (openFwd v x r) sl n).port j = u.port j := fun j => by rw [State.port, hports]; rfl
    refine ⟨_, (exec_ansCmd s .srf p f 0).trans (by rw [← hdone]; rfl), trk_dropTrk_same _ sl n,
      by rw [hdhome], ?_, fun j hj => (hpeq j).trans (hport j hj), by rw [hpeq, hq], ?_, ?_⟩
    · intro i k hik
      rw [otherTrks_dropTrk _ sl n i k hik, State.trk, openFwd_rest, State.updHome_home, hvhome]
      rfl
    · rw [openFwd_rest]
      exact (congrArg State.doms hv :).trans hdoms
    · rw [openFwd_rest]
      exact hpost.homeOnly.trans hv.homeOnly
  case collect =>
    obtain ⟨o, hask⟩ := hask
    obtain ⟨y, hhome, hy⟩ := homeAnswer_collects (op := op) (f := f) (data := if op = .srd then data else 0)
      (hpost.inert hin) hr (by rw [hpost.stopped, stopped, hxd, hsvc]; rfl) hsnf hown hwb ho
    obtain ⟨hysl, hynum, hydom, hyheld⟩ := hy.place
    have hnoheld : u.noHeld := by unfold State.noHeld; rw [hpost.home]; exact hheld
    have hdone : ansRow s p op f (if op = .srd then data else 0) = putTrk u y := by
      rw [hrow, answerHome_of_asked hux hr hxd hxl hask, hhome,
        retryAllHeld_of_noHeld (noHeld_putTrk hnoheld (hyheld.trans (hheld x hxmem))), serveStore_of_empty]
      obtain ⟨ts, hts⟩ := putTrk_eq u y
      rw [hts, State.updHome_home, hpost.home, hwbs]
    have hyd : (u.dom y.dom).st.inService = true := by
      rw [hydom, hpost.dom_st, hxd]
      exact hsvc
    have hyx : u.trk y.sl y.num = some x := by rw [hysl, hynum, hxsl, hxnum, hux]
    have hsame := trk_putTrk_same hyd hyx
    have hother := otherTrks_putTrk u hyx
    obtain ⟨ts, hts⟩ := putTrk_eq u y
    rw [hysl, hynum, hxsl, hxnum] at hsame hother
    refine ⟨putTrk u y, y, (exec_ansCmd s op p f data).trans (by rw [hdone]), ?_⟩
    refine ⟨hsame, hy.awaits, hy.gone, hy.kept, fun h => ?_, hy.noData, hy.rest.1.trans hr, hy.rest.2,
      fun i k hik => (hother i k hik).trans (hpost.trk i k), by rw [hts]; exact hport, by rw [hts]; exact hq,
      by rw [hts]; exact hdoms, by rw [hts]; exact hpost.homeOnly⟩
    have hdata := hy.data h
    rwa [if_pos h] at hdata

end Sys2Proof.Machine
end

section
/-!
SUPPORT. Messages between agents and hubs: a DFW at the home, proxy snoops, and what passes through (O54).
-/
namespace Sys2Proof.Machine

/-! ## Messages that pass through (R271, R272) -/

/-- A message whose destination its slot or this hub's tables tell goes on, unless this hub is the destination and
has a row that takes it. -/
theorem passOn_of_dest {s : State} {p : Nat} {m : Msg} (hp : 16 ≤ p) (hdel : s.delivers p m.hdr)
    (hreq : m.cls ≠ .req) (hdfw : ∀ f data, m ≠ .dat .dfw f data) {a k : Nat}
    (hdest : destOf s p m false = some (a, k)) (hhub : a = s.hubId → hubTakes m = false) :
    passOn s p m = goOn (takeMsg s p m) p m a k := by
  have hent := enter_of_delivers hdel (fun h => absurd h (by omega)) 0
  have hnot : ¬(a = s.hubId ∧ hubTakes m = true) := fun h => by simp [hhub h.1] at h
  cases m with
  | req | pmk => exact absurd rfl hreq
  | snp | hnt => cases hdest
  | wb | mrq | cmp | nak | ans | mcp => simp only [passOn, hdest, hent, if_neg hnot]
  | dat op f data =>
    cases op with
    | dfw => exact absurd rfl (hdfw f data)
    | dsh | dow | dmm => simp only [passOn, hdest, hent, if_neg hnot]

/-- A message whose destination is another hub goes out toward it, where its credit is free (R61, R271). -/
theorem posts_goOn_hub {s : State} {p : Nat} {m : Msg} {a k : Nat} (hp : 16 ≤ p) (ha : a ≠ s.hubId)
    (hsil : silent s m.hdr.dom.toNat = false)
    (hup : s.up (routePort s a m.hdr.dom.toNat k false) = true)
    (hfree : creditFree s (routePort s a m.hdr.dom.toNat k false) m.cls m.hdr.dom.toNat = true) :
    s.Posts (goOn s p m a k) [p, routePort s a m.hdr.dom.toNat k false] m.hdr.dom.toNat
      [(routePort s a m.hdr.dom.toNat k false, m)] := by
  have hret : s.Posts (returnCredit s p m.cls m.hdr.dom.toNat) [p, routePort s a m.hdr.dom.toNat k false]
      m.hdr.dom.toNat [] := posts_returnCredit (by simp) _ _
  simp only [goOn, forward, if_neg ha, if_neg (Nat.not_lt.2 hp), hfree, Bool.true_or, if_true]
  exact hret.after (posts_placeSpan (by rw [hret.silent, hsil]) (hret.routePort _ _ _ _) (by rw [hret.up, hup])
    (by simp))

/-- A message for an agent of this hub is placed on its port, where its credit is free (R272). -/
theorem posts_goOn_agent {s : State} {p q : Nat} {m : Msg} {dan : Nat} (hr : s.reaches m.hdr.dom.toNat dan q)
    (hfree : creditFree s q m.cls m.hdr.dom.toNat = true) (hm : isGrant m = false) :
    s.Posts (goOn s p m s.hubId dan) [p, q] m.hdr.dom.toNat [(q, m)] := by
  have hret : s.Posts (returnCredit s p m.cls m.hdr.dom.toNat) [p, q] m.hdr.dom.toNat [] :=
    posts_returnCredit (by simp) _ _
  obtain ⟨hport, -, hup, hdom, -, hsent⟩ := hr
  simp only [goOn, deliverAgent, if_true, hport, hfree, Bool.true_or]
  exact hret.after (posts_placeAgent (by simp) (by rw [hret.mem, hdom]) (by rw [hret.mem, hsent])
    (by rw [hret.up, hup]) (by simp [hm]))

/-- The row of a message that passes through (R271, R272). -/
theorem exec_passOn {s : State} {p : Fin 20} {m : Msg} (hp : 16 ≤ p.val) (hm : mayTake s p m = true)
    (hdel : s.delivers p m.hdr) (hreq : m.cls ≠ .req) (hdfw : ∀ f data, m ≠ .dat .dfw f data) {a k : Nat}
    (hdest : destOf s p m false = some (a, k)) (hhub : a = s.hubId → hubTakes m = false) :
    exec (.passOn p m) s = .next (goOn (takeMsg s p m) p m a k) := by
  have hrow : execPassOn p m s = .next (passOn s p m) := by
    have hlt := Nat.not_lt.2 hp
    cases m with
    | req | pmk => exact absurd rfl hreq
    | snp | hnt => cases hdest
    | wb | mrq | cmp | nak | ans | mcp | dat => exact if_neg (by simp [hm, hlt])
  rw [← passOn_of_dest hp hdel hreq hdfw hdest hhub]
  exact hrow

theorem passed_to_hub {s : State} {p : Fin 20} {m : Msg} (hp : 16 ≤ p.val) (hdel : s.delivers p m.hdr)
    (hm : mayTake s p m = true) {a k : Nat} (hreq : m.cls ≠ .req) (hdfw : ∀ f data, m ≠ .dat .dfw f data)
    (hdest : destOf s p m false = some (a, k)) (ha : a ≠ s.hubId)
    (hup : s.up (routePort s a m.hdr.dom.toNat k false) = true)
    (hfree : creditFree s (routePort s a m.hdr.dom.toNat k false) m.cls m.hdr.dom.toNat = true) :
    ∃ t, exec (.passOn p m) s = .next t ∧ s.placed t (routePort s a m.hdr.dom.toNat k false) m ∧
      t.home = s.home ∧ s.homeOnly t := by
  have htake : s.Posts (takeMsg s p m) [p.val, routePort s a m.hdr.dom.toNat k false] m.hdr.dom.toNat [] :=
    posts_takeMsg (by simp) m
  have hgo := posts_goOn_hub (s := takeMsg s p m) (k := k) hp ha
    (by rw [htake.silent, silent_of_discards hdel.taken]) (by rw [htake.routePort, htake.up, hup])
    (by rw [htake.routePort, htake.creditFree (by simp [postsTo]), hfree])
  rw [htake.routePort] at hgo
  have hall := htake.after hgo
  exact ⟨_, exec_passOn hp hm hdel hreq hdfw hdest fun h => absurd h ha, hall.placed_of_single rfl, hall.home,
    hall.homeOnly⟩

theorem passed_to_agent {s : State} {p : Fin 20} {m : Msg} (hp : 16 ≤ p.val) (hdel : s.delivers p m.hdr)
    (hm : mayTake s p m = true) {q : Nat} (hans : (∃ h r tk v, m = .nak h r tk v) ∨ ∃ h, m = .cmp h 0)
    (hr : s.reaches m.hdr.dom.toNat m.hdr.dan.toNat q) (hfree : creditFree s q .rsp m.hdr.dom.toNat = true) :
    ∃ t, exec (.passOn p m) s = .next t ∧ s.placed t q m ∧ t.home = s.home ∧ s.homeOnly t := by
  have htake : s.Posts (takeMsg s p m) [p.val, q] m.hdr.dom.toNat [] := posts_takeMsg (by simp) m
  have hhub := agentHub_of_agentPort hr.1
  have hkind : m.cls = .rsp ∧ isGrant m = false ∧ hubTakes m = false ∧ (∀ f data, m ≠ .dat .dfw f data) ∧
      destOf s p m false = some (s.hubId, m.hdr.dan.toNat) := by
    rcases hans with ⟨h, r, tk, v, rfl⟩ | ⟨h, rfl⟩
    all_goals exact ⟨rfl, rfl, rfl, by simp, (congrArg (Option.map _) hhub :)⟩
  obtain ⟨hcls, hgrant, hnot, hdfw, hdest⟩ := hkind
  have hall := htake.after (posts_goOn_agent (p := p) (htake.reaches hr)
    (by rw [htake.creditFree (by simp [postsTo]), hcls, hfree]) hgrant)
  exact ⟨_, exec_passOn hp hm hdel (by simp [hcls]) hdfw hdest fun _ => hnot, hall.placed_of_single rfl, hall.home,
    hall.homeOnly⟩

/-! ## A DFW at the home (R201) -/

theorem mayPass_of_reaches {s : State} {p q d dan : Nat} (h : s.agentPort d dan = some q) (c : Cls) :
    mayPass s p c d dan = (decide (p < 16) || (creditFree s q c d || !s.up q)) := by
  rw [mayPass, outPort_of_agentPort h]

/-- A DFW ends the forward record of its line and its requester; where none is, its tracker notes it. -/
theorem homeDfw_spec {s : State} {p : Nat} {f : DatF} {data : Line}
    (hmay : mayPass s p .dat f.h.dom.toNat f.h.dan.toNat = true) (hpoi : f.poi = false) {u : State}
    (hu : sendAgent (returnCredit s p .dat f.h.dom.toNat) f.h.dom.toNat f.h.dan.toNat (.dat .dfw f data) = u) :
    (∀ r, (u.home.fwds.find? fun r => r.dom == f.h.dom.toNat && r.laddr == f.laddr && r.dan == f.h.dan.toNat)
        = some r → homeDfw s p f data = retryAllHeld (u.updHome fun h => { h with fwds := h.fwds.erase r })) ∧
      ((u.home.fwds.find? fun r => r.dom == f.h.dom.toNat && r.laddr == f.laddr && r.dan == f.h.dan.toNat)
        = none → ∃ ts, homeDfw s p f data = u.updHome fun h => { h with trackers := ts }) := by
  refine ⟨fun r hr => ?_, fun hnone => ?_⟩
  · simp only [homeDfw, hmay, hpoi, Bool.not_true, Bool.false_eq_true, if_false, hu, hr]
  · simp only [homeDfw, hmay, hpoi, Bool.not_true, Bool.false_eq_true, if_false, hu, hnone]
    split
    · split
      · exact putTrk_eq u _
      · exact ⟨u.home.trackers, rfl⟩
    · exact ⟨u.home.trackers, rfl⟩

theorem exec_dfw {s : State} {p : Fin 20} {f : DatF} {data : Line} (hdel : s.delivers p f.h)
    (hhub : htagHub f.htag = s.hubId) (hm : mayTake s p (.dat .dfw f data) = true) :
    exec (.dfw p f data) s = .next (homeDfw (takeMsg s p (.dat .dfw f data)) p f data) := by
  have hent := enter_of_delivers (m := .dat .dfw f data) hdel (fun _ hn => Bool.noConfusion hn) f.laddr
  have hhub' : htagHub f.htag = (takeMsg s p (.dat .dfw f data)).hubId := hhub
  show execDfw p f data s = _
  simp only [execDfw, hm, hent, Bool.not_true, Bool.false_eq_true, if_false]
  rw [if_pos hhub']

/-- The home hands a DFW on to the requester. -/
theorem dfw_handed_on {s : State} {p : Fin 20} {f : DatF} {data : Line} {q : Nat} (hdel : s.delivers p f.h)
    (hhub : htagHub f.htag = s.hubId) (hpoi : f.poi = false) (hmir : s.mirrored f.h.dom.toNat f.h.dan.toNat = none)
    (hm : mayTake s p (.dat .dfw f data) = true) (hmay : mayPass s p .dat f.h.dom.toNat f.h.dan.toNat = true)
    (hr : s.reaches f.h.dom.toNat f.h.dan.toNat q) (hheld : s.noHeld) :
    ∃ t, exec (.dfw p f data) s = .next t ∧ s.placed t q (.dat .dfw f data) ∧ s.homeOnly t ∧
      (∀ j, j ≠ p.val → j ≠ q → t.port j = s.port j) ∧
      ∀ r, s.home.fwds.find? (fun r => r.dom == f.h.dom.toNat && r.laddr == f.laddr && r.dan == f.h.dan.toNat)
        = some r → t.home = { s.home with fwds := s.home.fwds.erase r } := by
  have htake : s.Posts (takeMsg s p (.dat .dfw f data)) [p.val, q] f.h.dom.toNat [] := posts_takeMsg (by simp) _
  have hmay' : mayPass (takeMsg s p (.dat .dfw f data)) p .dat f.h.dom.toNat f.h.dan.toNat = true := by
    rw [mayPass_of_reaches (htake.reaches hr).1, htake.creditFree (by simp [postsTo]), htake.up,
      ← mayPass_of_reaches hr.1, hmay]
  have hret := htake.after (posts_returnCredit (p := p.val) (by simp) .dat f.h.dom.toNat)
  have hpost := hret.after (posts_sendAgent (m := .dat .dfw f data) (hret.reaches hr) (by simp) rfl
    fun _ => (hret.mirrored _ _).trans hmir)
  obtain ⟨hsome, hnone⟩ := homeDfw_spec (data := data) hmay' hpoi rfl
  refine ⟨_, exec_dfw hdel hhub hm, ?_⟩
  generalize sendAgent (returnCredit (takeMsg s p (.dat .dfw f data)) p .dat f.h.dom.toNat) f.h.dom.toNat
    f.h.dan.toNat (.dat .dfw f data) = u at *
  rw [hpost.home] at hsome hnone
  have hothers : ∀ j, j ≠ p.val → j ≠ q → u.port j = s.port j := fun j hjp hjq => hpost.others j (by simp [hjp, hjq])
  have hplaced := hpost.placed_of_single rfl
  cases hrec : s.home.fwds.find? fun r => r.dom == f.h.dom.toNat && r.laddr == f.laddr && r.dan == f.h.dan.toNat with
  | some r =>
    rw [hsome r hrec, retryAllHeld_of_noHeld fun x hx => hheld x (by rwa [← hpost.home])]
    refine ⟨hplaced, hpost.homeOnly, hothers, fun r' hr' => ?_⟩
    obtain rfl := Option.some.inj hr'
    rw [State.updHome_home, hpost.home]
  | none =>
    obtain ⟨ts, hts⟩ := hnone hrec
    rw [hts]
    exact ⟨hplaced, hpost.homeOnly, hothers, fun r hr => nomatch hr⟩

/-! ## Proxy snoops (R165) -/

/-- The row of a proxy snoop. -/
theorem exec_proxySnoop {s : State} {p : Fin 20} {f : SnpF} (hp : 16 ≤ p.val) (hdel : s.delivers p f.h)
    (hprox : f.proxy = true) (hm : mayTake s p (.snp f) = true) :
    exec (.proxySnoop p f) s = .next (proxySnoop (takeMsg s p (.snp f)) p f) := by
  have hent := enter_of_delivers (m := .snp f) hdel (fun h => absurd h (by omega)) f.laddr
  show execProxySnoop p f s = _
  unfold execProxySnoop
  dsimp only
  rw [if_neg (by simp [hm, hprox, hp]), hent]

/-- No local mirrored agent holds the line: the hub answers for them. -/
theorem proxySnoop_of_none {s : State} {p : Nat} {f : SnpF} (hs : s.inert)
    (hnone : s.localMirrored f.h.dom.toNat = []) : proxySnoop s p f = proxyReply s p f .srm 0 false 0 := by
  have hhold : strHolders s f.h.dom.toNat f.laddr = ([], false, false, s) := by
    rw [strHolders, hnone]
    rfl
  cases hop : f.op <;> simp [proxySnoop, hs.useCfgs, hhold, hop]

/-- The answer to a proxy snoop goes out toward the line's home (R165). -/
theorem posts_proxyReply {s : State} {p o : Nat} {f : SnpF} (hsil : silent s f.h.dom.toNat = false)
    (ho : routePort s (htagHub f.htag) f.h.dom.toNat (40 + s.hubId) true = o) (hup : s.up o = true) (op : AnsOp)
    (nst : BitVec 2) (poi : Bool) (data : Line) :
    s.Posts (proxyReply s p f op nst poi data) [p, o] f.h.dom.toNat
      [(o, .ans op { h := { f.h with dan := BitVec.ofNat 7 (40 + s.hubId) }, nst := if op.usesNst then nst else 0,
                     laddr := f.laddr, htag := f.htag, poi } data)] :=
  (posts_placeSpan (m := .ans op _ data) hsil ho hup (by simp)).trans (posts_returnCredit (by simp) _ _)

/-- One holder beside the requester: it is snooped. -/
theorem proxySnoop_of_holder {s : State} {p : Nat} {f : SnpF} (hs : s.inert) {hs' : List (Nat × HSt)} {n : Nat}
    {st : HSt} (hhold : strHolders s f.h.dom.toNat f.laddr = (hs', false, false, s))
    (hone : hs'.filter (fun e => e.1 != f.h.dan.toNat) = [(n, st)]) (hop : f.op ≠ .snf) :
    proxySnoop s p f = sendAgent (statAdd (s.updHome fun h =>
      { h with proxies := h.proxies ++ [⟨p, f, [n], none, 0, false⟩] }) f.h.dom.toNat 5) f.h.dom.toNat n
        (.snp { f with proxy := false }) := by
  cases hf : f.op with
  | snf => exact absurd hf hop
  | _ => simp [proxySnoop, hs.useCfgs, hhold, hone, hf]

/-- Settles O54. -/
theorem messagesAreHandedOn : Obligations.MessagesAreHandedOn := by
  unfold Obligations.MessagesAreHandedOn
  intro s p
  refine ⟨fun f data q hdel hhub hpoi hmir hm hmay hr hheld => dfw_handed_on hdel hhub hpoi hmir hm hmay hr hheld,
    fun f hp hdel hin hm hprox => ⟨fun hnone hup => ?none, fun hs n st q hhold hone hop hr => ?holder⟩,
    fun m hp hdel hm => ⟨fun q hans hr hfree => passed_to_agent hp hdel hm hans hr hfree,
      fun a k hreq hdfw hdest ha hup hfree => passed_to_hub hp hdel hm hreq hdfw hdest ha hup hfree⟩⟩
  all_goals
    have htake : ∀ P, p.val ∈ P → s.Posts (takeMsg s p (.snp f)) P f.h.dom.toNat [] := fun _ hP => posts_takeMsg hP _
  case none =>
    have hrep := posts_proxyReply (s := takeMsg s p (.snp f)) (p := p) (f := f) (silent_of_discards hdel.taken) rfl
      (by rw [(htake [p.val] (by simp)).up]; exact hup) .srm 0 false 0
    have hall := (htake _ (by simp)).after hrep
    exact ⟨_, (exec_proxySnoop hp hdel hprox hm).trans
      (by rw [proxySnoop_of_none ((htake [p.val] (by simp)).inert hin) hnone]), hall.home, hall.homeOnly,
      hall.placed_of_single rfl⟩
  case holder =>
    have hsnoop := proxySnoop_of_holder (p := p) ((htake [p.val] (by simp)).inert hin) hhold hone hop
    generalize hv : (takeMsg s p (.snp f)).updHome (fun h =>
      { h with proxies := h.proxies ++ [⟨p, f, [n], none, 0, false⟩] }) = v at hsnoop
    have hstat : v.Posts (statAdd v f.h.dom.toNat 5) [p.val, q] f.h.dom.toNat [] := posts_statAdd 5
    have hreach : v.reaches f.h.dom.toNat n q := by
      rw [← hv]
      exact (htake [p.val] (by simp)).reaches hr
    have hall := hstat.after (posts_sendAgent (m := .snp { f with proxy := false }) (hstat.reaches hreach) (by simp)
      rfl (fun h => nomatch h))
    have hplaced := hall.placed_of_single rfl
    refine ⟨_, (exec_proxySnoop hp hdel hprox hm).trans (by rw [hsnoop]), ?_, ?_, ?_⟩
    · have hq : (v.port q).tx.q = (s.port q).tx.q := by
        rw [← hv]
        exact (congrArg Tx.q ((htake [p.val] (by simp)).tx q)).trans (List.append_nil _)
      rw [State.placed, hplaced, hq]
    · rw [hall.home, ← hv]
      rfl
    · have hsv : s.homeOnly v := by
        rw [← hv]
        exact (htake [p.val] (by simp)).homeOnly
      exact hsv.trans hall.homeOnly

end Sys2Proof.Machine
end

section
/-!
SUPPORT. A writeback of a caching agent at its home, whose directory word is not in the cache (O50).
-/
namespace Sys2Proof.Machine

/-! ## The writeback store (R150) -/

/-- A header of a domain's epoch that is taken. -/
theorem epoch_of_discards {s : State} {h : Hdr} (hd : discards s h = false) :
    h.epoch = (s.dom h.dom.toNat).epoch := by
  simp only [discards, Bool.or_eq_false_iff, bne_eq_false_iff_eq] at hd
  exact hd.2

theorem hdr_eq_hubHdr {s : State} {h : Hdr} (hd : h.epoch = (s.dom h.dom.toNat).epoch) :
    { hubHdr s h.dom.toNat with tid := h.tid, dan := h.dan } = h := by
  cases h
  simp only [hubHdr, BitVec.ofNat_toNat, BitVec.setWidth_eq, ← hd]

/-- An entry of an agent port that leaves the store frees its credit and has its CMP at once (R91, R150). -/
theorem wbLeave_of_owed {s : State} {w : WbEntry} (hs : s.inert) (howed : w.owed = true) (hp : w.port < 16)
    (hep : w.h.epoch = (s.dom w.h.dom.toNat).epoch) : wbLeave s w = (false, w, placeAgent
      (returnCredit (s.updHome fun h => { h with wbs := h.wbs.erase w }) w.port .wb w.h.dom.toNat)
      w.port (.cmp w.h 0)) := by
  have hline : (if w.op = .wbm then useLine s 4 ((s.physSlice w.laddr).getD 0) (wbLine w.num)
      (some w.h.dom.toNat) else (false, 0, s)) = (false, 0, s) := by
    split
    · exact hs.useLine _ _ _ _
    · rfl
  have hcmp : wbCmp (returnCredit (s.updHome fun h => { h with wbs := h.wbs.erase w }) w.port .wb w.h.dom.toNat) w
      = placeAgent (returnCredit (s.updHome fun h => { h with wbs := h.wbs.erase w }) w.port .wb w.h.dom.toNat)
        w.port (.cmp w.h 0) := by
    have hret := (posts_returnCredit (s := s.updHome fun h => { h with wbs := h.wbs.erase w }) (d := 0)
      (List.mem_singleton_self w.port) .wb w.h.dom.toNat).dom_epoch w.h.dom.toNat
    have hep' : w.h.epoch = ((s.updHome fun h => { h with wbs := h.wbs.erase w }).dom w.h.dom.toNat).epoch := hep
    simp only [wbCmp, if_pos hp, hret, ← hep']
  unfold wbLeave
  dsimp only
  rw [hline]
  dsimp only
  rw [if_neg Bool.false_ne_true, if_pos howed, hcmp, show w.data ^^^ (0 : Line) = w.data from BitVec.xor_zero]

/-- The tracker of a writeback whose directory word is being read (R157). -/
def readingWord (sl n : Nat) (w : WbEntry) (now : Nat) : Tracker :=
  { sl, num := n, dom := w.h.dom.toNat, laddr := w.laddr, phase := .dirread, flow := .writeback, taken := now,
    awaits := [.word], wb := some w }

/-- With the directory cache and the victims empty, a writeback reads its line's word (R157, R191). -/
theorem wbLookup_of_miss {s : State} {w : WbEntry} {sl n q now : Nat} (hs : s.inert) (htag : s.arr.tag = [])
    (hown : s.arr.owner = []) (hst : (s.dom w.h.dom.toNat).st = .started) (hv : s.home.victims = [])
    (hep : w.h.epoch = (s.dom w.h.dom.toNat).epoch) (hfree : s.trk sl n = none)
    (hr : s.reaches w.h.dom.toNat (s.dom w.h.dom.toNat).par.dirTgt q)
    (hc : creditFree s q .mrq w.h.dom.toNat = true) {P : List Nat} (hP : q ∈ P) :
    ∃ u, s.Posts u P w.h.dom.toNat [(q, .mrq (mkMrq s w.h .mrd 3 (dirLine s w.h.dom.toNat w.laddr).2
        (dirLine s w.h.dom.toNat w.laddr).1 sl n false) 0)] ∧
      wbLookup s { sl, num := n, dom := w.h.dom.toNat, laddr := w.laddr, phase := .lookup, flow := .writeback,
                   taken := now } w
        = u.updHome fun h => { h with trackers := h.trackers ++ [readingWord sl n w now] } := by
  have hstop : stopped s w.h.dom.toNat = false := by rw [stopped, hst]; rfl
  have hvic : victimOf s sl w.h.dom.toNat w.laddr = none := by rw [victimOf, hv]; rfl
  have hmrq := trkMrq_of_credit
    (x := { sl, num := n, dom := w.h.dom.toNat, laddr := w.laddr, phase := .dirread, flow := .writeback,
            taken := now, awaits := [.word] })
    (f := mkMrq s w.h .mrd 3 (dirLine s w.h.dom.toNat w.laddr).2 (dirLine s w.h.dom.toNat w.laddr).1 sl n false)
    hr.1 rfl hc rfl 0
  have hpost := posts_sendAgent (m := .mrq (mkMrq s w.h .mrd 3 (dirLine s w.h.dom.toNat w.laddr).2
    (dirLine s w.h.dom.toNat w.laddr).1 sl n false) 0) hr hP rfl (fun h => nomatch h)
  refine ⟨_, hpost, ?_⟩
  have hput := putTrk_of_new (x := readingWord sl n w now) (by rw [readingWord, hpost.dom_st, hst]; rfl)
    (by rw [hpost.trk]; exact hfree)
  rw [← hput]
  unfold wbLookup
  dsimp only
  rw [State.inert.dirLookup_empty hs htag hown hstop]
  dsimp only
  rw [if_neg Bool.false_ne_true, hvic]
  dsimp only
  rw [hdr_eq_hubHdr hep, hmrq]
  rfl

/-! ## A writeback at its home -/

/-- A writeback of a caching agent of port w.port, of a CO line whose word the cache holds not: slice sl may take it
into tracker n, and port q leads to the target of the domain's directory. -/
structure WbMisses (s : State) (w : WbEntry) (sl n q : Nat) : Prop where
  inert : s.inert
  tag : s.arr.tag = []
  owner : s.arr.owner = []
  victims : s.home.victims = []
  started : (s.dom w.h.dom.toNat).st = .started
  epoch : w.h.epoch = (s.dom w.h.dom.toNat).epoch
  owed : w.owed = true
  port : w.port < 16
  up : s.up w.port = true
  memDom : (s.port w.port).mem.dom = some w.h.dom.toNat
  memSent : (s.port w.port).mem.sent.isSome = true
  free : s.trk sl n = none
  reaches : s.reaches w.h.dom.toNat (s.dom w.h.dom.toNat).par.dirTgt q
  credit : creditFree s q .mrq w.h.dom.toNat = true
  region : ∃ tgt, s.region w.h.dom.toNat (lineAddr w.laddr 0) = some (.co, tgt)
  rqst : rqstOf s w.h.dom.toNat w.h.dan.toNat = .tracked w.h.dan.toNat

theorem WbMisses.entered {s u : State} {w : WbEntry} {sl n q d : Nat} {P : List Nat} (h : WbMisses s w sl n q)
    (hu : s.Posts u P d []) (ws : List WbEntry) :
    WbMisses (u.updHome fun k => { k with wbs := ws }) w sl n q where
  inert := hu.inert h.inert
  tag := (congrArg Arrays.tag hu.arr).trans h.tag
  owner := (congrArg Arrays.owner hu.arr).trans h.owner
  victims := (congrArg Home.victims hu.home).trans h.victims
  started := (hu.dom_st _).trans h.started
  epoch := h.epoch.trans (hu.dom_epoch _).symm
  owed := h.owed
  port := h.port
  up := (hu.up _).trans h.up
  memDom := (congrArg Member.dom (hu.mem _)).trans h.memDom
  memSent := by
    show (u.port w.port).mem.sent.isSome = true
    rw [hu.mem, h.memSent]
  free := (hu.trk _ _).trans h.free
  reaches := by
    show u.reaches w.h.dom.toNat (u.dom w.h.dom.toNat).par.dirTgt q
    rw [hu.dom_par]
    exact hu.reaches h.reaches
  credit := (hu.creditFree (by simp [postsTo])).trans h.credit
  region := h.region.imp fun _ hr => (hu.region _ _).trans hr
  rqst := (hu.rqstOf _ _).trans h.rqst

/-- A CMP spends no MRQ credit of an agent port. -/
theorem msgKey_cmp_ne {p q : Nat} {h : Hdr} {g : BitVec 2} {d : Nat} (hq : q < 16) :
    ∀ m ∈ postsTo [(p, .cmp h g)] q, msgKey q m ≠ creditKey q .mrq d := fun m hm => by
  by_cases hpq : p = q
  · rw [hpq, postsTo_singleton_same, List.mem_singleton] at hm
    subst hm
    simp only [msgKey, creditKey, if_pos hq]
    exact (by decide : Cls.rsp.code.toNat ≠ Cls.mrq.code.toNat)
  · rw [postsTo_singleton_ne hpq] at hm
    cases hm

/-- The MRQ that reads the directory word of an entry's line (R157). -/
def wordRead (s : State) (w : WbEntry) (sl n : Nat) : Msg :=
  .mrq (mkMrq s w.h .mrd 3 (dirLine s w.h.dom.toNat w.laddr).2 (dirLine s w.h.dom.toNat w.laddr).1 sl n false) 0

theorem WbMisses.wbTake {s : State} {w : WbEntry} {sl n q : Nat} (h : WbMisses s w sl n q) :
    ∃ u now, (s.updHome fun k => { k with wbs := k.wbs.erase w }).Posts u [w.port, q] w.h.dom.toNat
        [(w.port, .cmp w.h 0), (q, wordRead s w sl n)] ∧
      Machine.wbTake s w sl n = u.updHome fun k => { k with trackers := k.trackers ++ [readingWord sl n w now] } := by
  obtain ⟨tgt, hreg⟩ := h.region
  obtain ⟨-, hq, -⟩ := h.reaches
  have hleave : (s.updHome fun k => { k with wbs := k.wbs.erase w }).Posts
      (placeAgent (returnCredit (s.updHome fun h => { h with wbs := h.wbs.erase w }) w.port .wb w.h.dom.toNat)
        w.port (.cmp w.h 0)) [w.port, q] w.h.dom.toNat [(w.port, .cmp w.h 0)] := by
    have hret := posts_returnCredit (s := s.updHome fun h => { h with wbs := h.wbs.erase w }) (P := [w.port, q])
      (d := w.h.dom.toNat) (p := w.port) (by simp) .wb w.h.dom.toNat
    exact hret.after (posts_placeAgent (m := .cmp w.h 0) (by simp) (by rw [hret.mem]; exact h.memDom)
      (by rw [hret.mem]; exact h.memSent) (by rw [hret.up]; exact h.up) (fun h => nomatch h))
  have hwl := wbLeave_of_owed h.inert h.owed h.port h.epoch
  generalize placeAgent (returnCredit (s.updHome fun h => { h with wbs := h.wbs.erase w }) w.port .wb
    w.h.dom.toNat) w.port (.cmp w.h 0) = v at *
  have hst : (v.dom w.h.dom.toNat).st = .started := (hleave.dom_st _).trans h.started
  obtain ⟨u, hu, hlook⟩ := wbLookup_of_miss (s := v) (w := w) (sl := sl) (n := n) (q := q) (now := v.uptime)
    (hleave.inert h.inert) (by rw [hleave.arr]; exact h.tag) (by rw [hleave.arr]; exact h.owner) hst
    (by rw [hleave.home]; exact h.victims) (by rw [hleave.dom_epoch]; exact h.epoch)
    (by rw [hleave.trk]; exact h.free) (by rw [hleave.dom_par]; exact hleave.reaches h.reaches)
    (by rw [hleave.creditFree (msgKey_cmp_ne hq)]; exact h.credit)
    (P := [w.port, q]) (by simp)
  have hrqst : rqstOf v w.h.dom.toNat w.h.dan.toNat = .tracked w.h.dan.toNat := (hleave.rqstOf _ _).trans h.rqst
  have hreg' : v.region w.h.dom.toNat (lineAddr w.laddr 0) = some (.co, tgt) := (hleave.region _ _).trans hreg
  have hread : wordRead v w sl n = wordRead s w sl n := by
    have hline : dirLine v w.h.dom.toNat w.laddr = dirLine s w.h.dom.toNat w.laddr := hleave.dirLine _ _
    have hhub : v.hubId = s.hubId := hleave.hubId
    simp only [wordRead, mkMrq, hline, hhub]
  refine ⟨u, v.uptime, ?_, ?_⟩
  · rw [← hread]
    exact hleave.trans hu
  · unfold Machine.wbTake
    rw [h.inert.useWbCfg]
    dsimp only
    rw [if_neg Bool.false_ne_true, hwl]
    dsimp only
    rw [if_neg (by simp [stopped, hst]; decide), hreg', hrqst]
    exact hlook

/-- No window, no tracker of the line and a free tracker: a writeback is taken at its slice (R150, R348). -/
theorem wbTry_of_homes {s : State} {w : WbEntry} {sl n : Nat} (hh : s.homes w.h.dom.toNat w.laddr sl)
    (hadm : wbAdmits s sl w.h.dom.toNat = some n) : wbTry s w = wbTake s w sl n := by
  obtain ⟨-, hsl, hsw, htrk, -⟩ := hh
  have hhits : switchHits s sl = false := by rw [switchHits, hsw]
  have hlive : (s.home.trackers.find? fun x => x.dom == w.h.dom.toNat && x.laddr == w.laddr && x.live
      && (x.sl == sl || drains s x.sl)) = none :=
    List.find?_eq_none.2 fun x hx hb => by
      simp only [Bool.and_eq_true, beq_iff_eq] at hb
      exact htrk x hx hb.1.1
  simp only [wbTry, hsl, hhits, hlive, hadm, Bool.false_eq_true, if_false]

theorem trk_of_wbAdmits {s : State} {sl d n : Nat} (h : wbAdmits s sl d = some n) : s.trk sl n = none := by
  unfold wbAdmits at h
  dsimp only at h
  split at h
  · next t rest hfree =>
    split at h
    · have hmem : t ∈ freeWbTrk s sl := by rw [hfree]; exact List.mem_cons_self
      obtain rfl := Option.some.inj h
      simpa using (List.mem_filter.1 hmem).2
    · cases h
  · cases h

/-- A writeback of a sender may always be taken where no window is open (R61, R348). -/
theorem mayTake_wb {s : State} {p : Nat} {op : WbOp} {h : Hdr} {l : LAddr} {data : Line}
    (hdel : s.delivers p h) (hsw : s.home.switching = none) : mayTake s p (.wb op h l data) = true := by
  obtain ⟨hclk, hup, -⟩ := hdel
  simp [mayTake, stands, inOrder, barred, hclk, hup, hsw]

/-- The entry that a writeback makes in the store (R150). -/
def wbEntry (s : State) (p : Nat) (op : WbOp) (h : Hdr) (l : LAddr) (data : Line) : WbEntry :=
  { num := freeWb s, owed := true, port := p, op, h, laddr := l, data, had := 0 }

/-- The store is served with its one entry. -/
theorem serveStore_of_entered {s : State} (hw : s.home.wbs = []) (w : WbEntry) :
    serveStore (s.updHome fun k => { k with wbs := k.wbs ++ [w] })
      = wbTry (s.updHome fun k => { k with wbs := [w] }) w := by
  rw [serveStore, State.updHome_home, hw]
  simp only [State.updHome, hw, List.nil_append]
  rfl

theorem State.inert.updHome {s : State} (h : s.inert) (f : Home → Home) : (s.updHome f).inert := h

/-- A writeback of an agent that no Strainer covers enters the store, which is then served (R150, R316). -/
theorem wbRow_of_sender {s : State} {p : Nat} {op : WbOp} {h : Hdr} {l : LAddr} {data : Line}
    (hs : s.sender p h) (hin : s.inert) (hsw : s.home.switching = none) (hhub : s.homeHub l = s.hubId)
    (hmir : s.mirrored h.dom.toNat h.dan.toNat = none) (P : List Nat) (hP : p ∈ P) :
    ∃ u, s.Posts u P h.dom.toNat [] ∧ wbRow s p op h l data
      = wbTry (u.updHome fun k => { k with wbs := [wbEntry u p op h l data] }) (wbEntry u p op h l data) := by
  obtain ⟨hp, hdel, hdan, -, hcons, hwbs, -⟩ := hs
  have hfore : ∃ v, s.Posts v P h.dom.toNat [] ∧ (if p < 16 ∧ foreRuns s p then wbDelivered s p else s) = v :=
    ⟨_, posts_ite (posts_wbDelivered hP) (.refl s P _), rfl⟩
  obtain ⟨v, hv, hvr⟩ := hfore
  have hent := enter_of_delivers (m := .wb op h l data) (hv.delivers hdel)
    (fun _ _ => by rw [hv.mem]; exact hdan) l
  have hu := hv.after (posts_takeMsg hP (.wb op h l data))
  generalize takeMsg v p (.wb op h l data) = u at hent hu
  have hdrop : dropConsent u p (.wb op h l data) l = u := by
    rw [dropConsent, hu.mem, hcons, if_neg Bool.false_ne_true]
  have htake : takeEntry u h.dom.toNat h.dan.toNat l = (0, u) := by rw [takeEntry, hu.mirrored, hmir]
  have hdis : discards u h = false := (hu.discards h).trans hdel.taken
  have hhub' : u.homeHub l = u.hubId := by rw [hu.homeHub, hu.hubId, hhub]
  have hstat := hu.after (posts_statAdd (s := u) (P := P) (d := h.dom.toNat) 21)
  have hempty : (statAdd u h.dom.toNat 21).home.wbs = [] := by rw [hstat.home, hwbs]
  refine ⟨_, hstat, ?_⟩
  unfold wbRow
  dsimp only
  rw [mayTake_wb hdel hsw, Bool.not_true, if_neg Bool.false_ne_true, hvr, hent]
  dsimp only
  rw [if_pos hp, hdrop, if_pos hp, htake]
  dsimp only
  rw [hdis, if_neg Bool.false_ne_true, if_neg (not_not.2 hhub'), ((hstat.inert hin).updHome _).storeLine, ite_self]
  exact serveStore_of_entered hempty _

theorem exec_wb (s : State) (op : WbOp) (p : Fin 20) (h : Hdr) (l : LAddr) (data : Line) :
    exec (if op = .wbm then .wbm p h l data else .evc p h l) s
      = .next (wbRow s p op h l (if op = .wbm then data else 0)) := by
  cases op <;> rfl

theorem rqstOf_of_caching {s : State} {d dan : Nat} {a : Agent} (ha : s.agent d dan = some a)
    (hk : a.kind = .caching) : rqstOf s d dan = .tracked dan := by simp only [rqstOf, ha, hk]

/-- An entry that enters an empty store and leaves it leaves nothing behind. -/
theorem updHome_wbs_erase {s : State} (hw : s.home.wbs = []) (w : WbEntry) :
    ((s.updHome fun k => { k with wbs := [w] }).updHome fun k => { k with wbs := k.wbs.erase w }) = s := by
  have hhome : { s.home with wbs := [] } = s.home := by rw [← hw]
  simp only [State.updHome, List.erase_cons_head, hhome]

/-- Settles O50: the writeback enters the store, leaves it with its CMP, and its tracker reads the word. -/
theorem writebacksAreCompletedAtOnce : Obligations.WritebacksAreCompletedAtOnce := by
  unfold Obligations.WritebacksAreCompletedAtOnce
  intro s p h l data op a sl n tgt q d w hs hin hag hkind hh hreg htag hown hr hc hadm
  have hexec := exec_wb s op p h l data
  generalize hline : (if op = .wbm then data else 0) = line at hexec
  have hmir : s.mirrored d h.dan.toNat = none := by simp [State.mirrored, hag, hkind]
  have ⟨hhub, _, hsw, _, hvic, _⟩ := hh
  obtain ⟨u, hu, hrow⟩ := wbRow_of_sender (op := op) (l := l) (data := line) hs hin
    hsw hhub hmir [p.val, q] (by simp)
  obtain ⟨hp, ⟨hclk, hup, hdis, hmem⟩, hdan, hst, hcons, hwbs, hprox⟩ := hs
  have hmiss : WbMisses s (wbEntry u p op h l line) sl n q :=
    { inert := hin, tag := htag, owner := hown, victims := hvic, started := hst
      epoch := epoch_of_discards hdis, owed := rfl, port := hp, up := hup, memDom := (hmem hp).1
      memSent := (hmem hp).2, free := trk_of_wbAdmits hadm, reaches := hr, credit := hc, region := ⟨tgt, hreg⟩
      rqst := rqstOf_of_caching hag hkind }
  have hread : wordRead u (wbEntry u p op h l line) sl n
      = .mrq (mkMrq s h .mrd 3 w.2 w.1 sl n false) 0 := by
    have hdl : dirLine u d l = w := hu.dirLine d l
    simp only [wordRead, wbEntry, mkMrq, hu.hubId]
    rw [hdl]
  have hempty : u.home.wbs = [] := by rw [hu.home, hwbs]
  have hhome : (u.updHome fun k => { k with wbs := [wbEntry u p op h l line] }).homes d l sl :=
     hu.homes hh
  have htry := wbTry_of_homes (w := wbEntry u p op h l line) hhome ((hu.wbAdmits sl d).trans hadm)
  obtain ⟨v, now, hv, htake⟩ := (hmiss.entered hu [_]).wbTake
  rw [updHome_wbs_erase hempty] at hv
  have hpost : s.Posts v [p.val, q] d [(p.val, .cmp h 0), (q, .mrq (mkMrq s h .mrd 3 w.2 w.1 sl n false) 0)] := by
    rw [← hread]
    exact hu.after hv
  refine ⟨_, readingWord sl n (wbEntry u p op h l line) now,
    postsTo [(q, .mrq (mkMrq s h .mrd 3 w.2 w.1 sl n false) 0)] p, wbEntry u p op h l line,
    hexec.trans (congrArg Host.Outcome.next (hrow.trans (htry.trans htake))), ?_, ?_, ?_,
    rfl, rfl, rfl, rfl, rfl, rfl, rfl, fun hop => hline.symm.trans (if_pos hop), ?_, hpost.homeOnly,
    fun j hjp hjq => ?_, ?_⟩
  · refine (congrArg Tx.q (hpost.tx p)).trans ?_
    rw [← List.singleton_append, postsTo_append, postsTo_singleton_same]
    rfl
  · rw [State.updHome_home, hpost.home]
  · exact trk_updHome_append v (by rw [hpost.trk]; exact trk_of_wbAdmits hadm)
  · refine (congrArg (_ ∈ Tx.q ·) (hpost.tx q)).mpr ?_
    simp [postsTo]
  · exact hpost.others j (by simp [hjp, hjq])
  · exact hpost.doms

end Sys2Proof.Machine
end

section
/-!
SUPPORT. A PMK at its port, and its WRP: a request of an agent on its way to its line, and the lookup of a line that
nothing is at work on (O48).
-/
namespace Sys2Proof.Machine

/-! ## The PMK of a WRP (R89) -/

/-- The next request of an agent port ends the wait of the PMK that stands there. -/
theorem matchPmk_of_next {s : State} {p d : Nat} {m : Msg} (hp : p < 16) (hahead : reqsAhead s p m = [])
    (hlen : (s.port p).rx.pmk.length ≤ 1) {P : List Nat} (hP : p ∈ P) :
    ∃ u, s.Posts u P d [] ∧ (u.port p).rx.pmk = [] ∧
      matchPmk s p m = ((s.port p).rx.pmk.head?.bind (maskFor · m), u) := by
  have hdec : decide (p < 16) = true := by simpa using hp
  cases hpmk : (s.port p).rx.pmk with
  | nil => exact ⟨s, .refl s P d, hpmk, by simp [matchPmk, hpmk]⟩
  | cons e rest =>
    have hrest : rest = [] := by
      rw [hpmk, List.length_cons] at hlen
      exact List.length_eq_zero_iff.1 (by omega)
    subst hrest
    have herase : s.Posts (s.updRx p fun r => { r with pmk := r.pmk.erase e }) P d [] :=
      posts_updRx hP _ fun r => List.erase_sublist
    have hret := posts_returnCredit (s := s.updRx p fun r => { r with pmk := r.pmk.erase e }) (P := P) (d := d)
      hP .req e.1.dom.toNat
    refine ⟨_, herase.after hret, List.eq_nil_of_sublist_nil ?_, ?_⟩
    · have hsub := hret.pmk p
      rw [State.updRx_port_same] at hsub
      dsimp only at hsub
      rwa [hpmk, List.erase_cons_head] at hsub
    · simp [matchPmk, hpmk, hahead, hdec]

theorem State.Posts.pmk_nil {s t : State} {P : List Nat} {d p : Nat} {l : List (Nat × Msg)} (h : s.Posts t P d l)
    (hs : (s.port p).rx.pmk = []) : (t.port p).rx.pmk = [] := by
  have hsub := h.pmk p
  rw [hs] at hsub
  exact List.eq_nil_of_sublist_nil hsub

/-- The row of a PMK of a sender (R89). -/
theorem exec_pmk {s : State} {p : Fin 20} {h : Hdr} {stream : BitVec 6} {mask : BitVec 64} (hs : s.sender p h)
    (hm : mayTake s p (.pmk h stream mask) = true) (hlen : (s.port p).rx.pmk.length ≤ 1) :
    ∃ u, s.Posts u [p.val] h.dom.toNat [] ∧ (u.port p).rx.pmk = [] ∧ exec (.pmk p h stream mask) s
      = .next (u.updRx p fun r => { r with pmk := r.pmk ++ [(h, stream, mask)] }) := by
  obtain ⟨hp, ⟨-, hup, hdis, hmem⟩, hdan, -, hcons, -⟩ := hs
  obtain ⟨hdom, hsent⟩ := hmem hp
  have hahead : reqsAhead s p (.pmk h stream mask) = [] := by
    simp only [mayTake, inOrder, Bool.and_eq_true, List.isEmpty_iff] at hm
    obtain ⟨⟨⟨-, hfirst⟩, -⟩, -⟩ := hm
    exact hfirst
  obtain ⟨u, hu, hnil, hmatch⟩ := matchPmk_of_next (d := h.dom.toNat) hp hahead hlen (List.mem_singleton_self p.val)
  obtain ⟨v, hv, hdeliv⟩ : ∃ v, (if p.val < 16 ∧ foreRuns (takeMsg u p (.pmk h stream mask)) p
      then reqDelivered (takeMsg u p (.pmk h stream mask)) p else takeMsg u p (.pmk h stream mask)) = v ∧
      u.Posts v [p.val] h.dom.toNat [] :=
    ⟨_, rfl, (posts_takeMsg (List.mem_singleton_self _) _).after
      (posts_ite (posts_reqDelivered (List.mem_singleton_self _)) (.refl _ _ _))⟩
  have hdrop : dropConsent v p (.pmk h stream mask) 0 = v := by
    rw [dropConsent, (hu.after hdeliv).mem, hcons, if_neg Bool.false_ne_true]
  have hstat := hdeliv.after (posts_statAdd (P := [p.val]) (d := h.dom.toNat) 0)
  have hall := hu.after hstat
  refine ⟨_, hall, hstat.pmk_nil hnil, ?_⟩
  show execPmk p h stream mask s = _
  unfold execPmk
  dsimp only
  rw [hm, Bool.not_true, if_neg Bool.false_ne_true, hmatch, hdom,
    if_neg (by simp [Option.isSome_iff_ne_none.1 hsent]), if_pos hp, if_pos hp, hv, hdrop, Option.getD_some,
    hall.discards, hdis, if_neg (by simp)]

/-! ## A request of an agent on its way to its line (R146, R221) -/

theorem hdr_eq_own {h : Hdr} {dan d : Nat} {e : BitVec 8} (hdan : dan = h.dan.toNat) (hd : d = h.dom.toNat)
    (he : e = h.epoch) : ({ tid := h.tid, dan := BitVec.ofNat 7 dan, epoch := e, dom := BitVec.ofNat 3 d } : Hdr)
      = h := by
  subst hdan hd he
  simp

/-- A WRP whose PMK stands at its port is served with that PMK's mask (R89). -/
theorem agentReq_of_mask {s : State} {p : Nat} {h ph : Hdr} {f : ReqF} {data : Line} {mask : BitVec 64}
    (hs : s.sender p h) (hpmk : (s.port p).rx.pmk = [(ph, f.stream, mask)]) (hfit : pmkFits ph f.stream h f = true)
    (hahead : reqsAhead s p (.req .wrp h f data) = []) {P : List Nat} (hP : p ∈ P) :
    ∃ u, s.Posts u P h.dom.toNat [] ∧ (u.port p).rx.pmk = [] ∧
      agentReq s p .wrp h f data = agentServe u ⟨.wrp, p, h, f, data, mask⟩ := by
  obtain ⟨hp, ⟨-, hup, hdis, hmem⟩, hdan, -, hcons, -⟩ := hs
  obtain ⟨hdom, hsent⟩ := hmem hp
  obtain ⟨a, ha⟩ := Option.isSome_iff_exists.1 hsent
  obtain ⟨u, hu, hnil, hmatch⟩ := matchPmk_of_next (d := h.dom.toNat) (m := .req .wrp h f data) hp hahead
    (by rw [hpmk]; exact Nat.le_refl 1) hP
  have hmask : ((s.port p).rx.pmk.head?.bind (maskFor · (.req .wrp h f data))) = some mask := by
    simp [hpmk, maskFor, hfit]
  rw [hmask] at hmatch
  obtain ⟨v, hv, hdeliv⟩ : ∃ v, (if foreRuns (takeMsg u p (.req .wrp h f data)) p
      then reqDelivered (takeMsg u p (.req .wrp h f data)) p else takeMsg u p (.req .wrp h f data)) = v ∧
      u.Posts v P h.dom.toNat [] :=
    ⟨_, rfl, (posts_takeMsg hP _).after (posts_ite (posts_reqDelivered hP) (.refl _ _ _))⟩
  have hret := hdeliv.after (posts_returnCredit hP .req h.dom.toNat)
  have hdrop : dropConsent (returnCredit v p .req h.dom.toNat) p (.req .wrp h f data) f.laddr
      = returnCredit v p .req h.dom.toNat := by
    rw [dropConsent, (hu.after hret).mem, hcons, if_neg Bool.false_ne_true]
  have hstat := hret.after (posts_statAdd (P := P) (d := h.dom.toNat) 0)
  have hall := hu.after hstat
  refine ⟨_, hall, hstat.pmk_nil hnil, ?_⟩
  unfold agentReq
  dsimp only
  rw [hmatch, hdom, ha]
  dsimp only
  rw [hv, hdrop, if_neg (by simp [hdan]), hall.discards, hdis, if_neg Bool.false_ne_true, if_neg (by simp),
    hdr_eq_own hdan rfl ((hall.dom_epoch _).trans (epoch_of_discards hdis).symm)]
  rfl

/-- A WRP of an agent of a STARTED domain goes to its home, which is this hub, beside no order gate (R221). -/
theorem agentServe_of_home {s u : State} {r : Req} (hop : r.op = .wrp)
    (hu : (s.updPort r.port fun q => { q with opens := q.opens ++ [(r.f.stream, r.h.tid)] }) = u)
    (hst : (u.dom r.h.dom.toNat).st = .started) (hhub : u.homeHub r.f.laddr = u.hubId)
    (haper : inAperture (reqAddr r) = false) : agentServe s r = homeReq u r := by
  have hgate : gated u r = false := by simp [gated, isDev, hop]
  unfold agentServe
  dsimp only
  rw [hop, if_neg (show ¬ReqOp.wrp = .cure by decide), if_neg (show ¬ReqOp.wrp = .upg by decide),
    if_pos (show isWrite .wrp = true from rfl), hu, if_neg (not_not.2 hst), hgate, if_neg Bool.false_ne_true, route,
    haper, if_neg Bool.false_ne_true, if_pos hhub]

/-- A request whose fields and region allow it comes to its lookup (R146). -/
theorem homeReq_of_allowed {s : State} {r : Req} {rt : RType} {tgt : Nat} (hs : s.inert)
    (hbad : badFields r = false) (hreg : s.region r.h.dom.toNat (lineAddr r.f.laddr 0) = some (rt, tgt))
    (hallow : opAllowed s r rt = true) (hal : misaligned r = false) : homeReq s r = lookup s r rt := by
  unfold homeReq
  dsimp only
  rw [hbad, if_neg Bool.false_ne_true, hs.useRegions]
  dsimp only
  rw [if_neg Bool.false_ne_true, hs.useCfgs]
  dsimp only
  rw [if_neg Bool.false_ne_true, hreg]
  dsimp only
  rw [hallow, Bool.not_true, if_neg Bool.false_ne_true, hal, if_neg Bool.false_ne_true]

/-- Nothing is at work on the line and no ticket is presented: a free tracker serves the request (R147, R148). -/
theorem lookup_of_idle {s : State} {r : Req} {rt : RType} {sl n : Nat} (hh : s.homes r.h.dom.toNat r.f.laddr sl)
    (hst : (s.dom r.h.dom.toNat).st = .started) (htkv : r.f.tkv = false)
    (hadm : quotaAdmits s sl r.h.dom.toNat false = some n) :
    lookup s r rt = serve s (newTrk s r sl n none) r rt := by
  obtain ⟨-, hsl, hsw, htrk, -⟩ := hh
  have hhits : switchHits s sl = false := by rw [switchHits, hsw]
  have hnone : ∀ g : Tracker → Bool, (∀ x, g x = true → x.dom = r.h.dom.toNat ∧ x.laddr = r.f.laddr) →
      s.home.trackers.find? g = none := fun g hg => List.find?_eq_none.2 fun x hx hb => htrk x hx (hg x hb)
  have hold : (s.home.trackers.any fun x => x.dom == r.h.dom.toNat && x.laddr == r.f.laddr && x.live
      && x.sl != sl && drains s x.sl) = false :=
    List.any_eq_false.2 fun x hx hb => by
      simp only [Bool.and_eq_true, beq_iff_eq] at hb
      obtain ⟨⟨⟨hline, -⟩, -⟩, -⟩ := hb
      exact htrk x hx hline
  have htick : ticketTrk s r sl = none := by simp [ticketTrk, htkv]
  unfold lookup
  dsimp only
  rw [hsl]
  dsimp only
  rw [hhits, if_neg Bool.false_ne_true, if_neg (not_not.2 hst), hold, if_neg Bool.false_ne_true,
    hnone _ (by simp +contextual), hnone _ (by simp +contextual), htick]
  dsimp only
  rw [hadm]

theorem trk_of_quotaAdmits {s : State} {sl d n : Nat} {b : Bool} (h : quotaAdmits s sl d b = some n) :
    s.trk sl n = none := by
  have hfree : freeTracker s sl = some n := by
    unfold quotaAdmits at h
    dsimp only at h
    split at h
    · cases h
    · next t ht =>
      rw [ht]
      split at h
      · exact h
      · split at h
        · exact h
        · cases h
  simpa using List.find?_some hfree

/-- The tracker of a WRP of an NC line that is being read (R233). -/
def readingLine (sl n : Nat) (r : Req) (now : Nat) : Tracker :=
  { sl, num := n, dom := r.h.dom.toNat, laddr := r.f.laddr, phase := .collect, flow := .ncWrp, req := some r,
    awaits := [.line], taken := now }

/-- A WRP of an NC line that no merge buffer holds reads the line first (R233). -/
theorem serve_ncWrp {s : State} {r : Req} {sl n tgt q : Nat} (hs : s.inert) (hop : r.op = .wrp) (hz : r.mask ≠ 0)
    (ho : r.mask ≠ BitVec.allOnes 64) (hst : (s.dom r.h.dom.toNat).st = .started)
    (hh : s.homes r.h.dom.toNat r.f.laddr sl) (hfree : s.trk sl n = none)
    (hreg : s.region r.h.dom.toNat (lineAddr r.f.laddr 0) = some (.nc, tgt))
    (hep : r.h.epoch = (s.dom r.h.dom.toNat).epoch) (hr : s.reaches r.h.dom.toNat tgt q)
    (hc : creditFree s q .mrq r.h.dom.toNat = true) {P : List Nat} (hP : q ∈ P) :
    ∃ u, s.Posts u P r.h.dom.toNat [(q, .mrq (mkMrq s r.h .mrd 6 0 r.f.laddr sl n false) 0)] ∧
      serve s (newTrk s r sl n none) r .nc
        = u.updHome fun h => { h with trackers := h.trackers ++ [readingLine sl n r s.uptime] } := by
  obtain ⟨-, -, -, -, -, hmerges, hmbq⟩ := hh
  have htgt : lineTgt s (newTrk s r sl n none) = tgt := by
    have : s.region (newTrk s r sl n none).dom (lineAddr (newTrk s r sl n none).laddr 0) = some (.nc, tgt) := hreg
    rw [lineTgt, this]
  have hhdr : reqHdr s r = r.h := by rw [reqHdr, ← hep]
  have hmrq := trkMrq_of_credit (x := newTrk s r sl n none)
    (f := mkMrq s r.h .mrd 6 0 r.f.laddr sl n false) hr.1 rfl hc rfl 0
  have hpost := posts_sendAgent (m := .mrq (mkMrq s r.h .mrd 6 0 r.f.laddr sl n false) 0) hr hP rfl
    (fun h => nomatch h)
  refine ⟨_, hpost, ?_⟩
  have hput := putTrk_of_new (x := readingLine sl n r s.uptime) (by rw [readingLine, hpost.dom_st, hst]; rfl)
    (by rw [hpost.trk]; exact hfree)
  rw [← hput]
  have hserve : serve s (newTrk s r sl n none) r .nc = ncLookup s (newTrk s r sl n none) r .nc := by
    unfold serve
    dsimp only
    rw [hs.storeLine, ite_self, if_neg fun hall : r.op = .wrp ∧ r.mask = BitVec.allOnes 64 => ho hall.2,
      if_neg (show ¬r.op = .atm by simp [hop])]
    rfl
  have hmerge : s.mergeOf (newTrk s r sl n none).dom (newTrk s r sl n none).laddr = none := by
    rw [State.mergeOf, hmerges]
    rfl
  rw [hserve]
  unfold ncLookup
  rw [if_neg fun h : r.op = .wrp ∧ r.mask = 0 => hz h.2, if_neg (by simp [mergeEligible, hmbq]), if_pos rfl, hmerge]
  dsimp only
  unfold ncStart
  dsimp only
  rw [hop, hhdr, htgt]
  exact congrArg (fun e : Tracker × State =>
    putTrk e.2 { e.1 with flow := .ncWrp, awaits := [.line], phase := .collect }) hmrq

/-- A WRP of a sender to an NC line of this hub that nothing is at work on. -/
theorem agentReq_ncWrp {s : State} {p : Nat} {h ph : Hdr} {f : ReqF} {data : Line} {mask : BitVec 64}
    {sl n tgt q : Nat} (hs : s.sender p h) (hin : s.inert) (hpmk : (s.port p).rx.pmk = [(ph, f.stream, mask)])
    (hfit : pmkFits ph f.stream h f = true) (hz : mask ≠ 0) (ho : mask ≠ BitVec.allOnes 64) (htkv : f.tkv = false)
    (hbad : badFields ⟨.wrp, p, h, f, data, mask⟩ = false)
    (haper : inAperture (reqAddr ⟨.wrp, p, h, f, data, mask⟩) = false)
    (hahead : reqsAhead s p (.req .wrp h f data) = []) (hh : s.homes h.dom.toNat f.laddr sl)
    (hreg : s.region h.dom.toNat (lineAddr f.laddr 0) = some (.nc, tgt)) (hr : s.reaches h.dom.toNat tgt q)
    (hc : creditFree s q .mrq h.dom.toNat = true) (hadm : quotaAdmits s sl h.dom.toNat false = some n) :
    ∃ u now, s.Posts u [p, q] h.dom.toNat [(q, .mrq (mkMrq s h .mrd 6 0 f.laddr sl n false) 0)] ∧
      (u.port p).rx.pmk = [] ∧ agentReq s p .wrp h f data
        = u.updHome fun k =>
          { k with trackers := k.trackers ++ [readingLine sl n ⟨.wrp, p, h, f, data, mask⟩ now] } := by
  obtain ⟨v, hv, hnil, hreq⟩ := agentReq_of_mask hs hpmk hfit hahead (P := [p, q]) (by simp)
  obtain ⟨hp, ⟨-, -, hdis, -⟩, -, hst, -⟩ := hs
  obtain ⟨w, hw, hopen⟩ : ∃ w, (v.updPort p fun k => { k with opens := k.opens ++ [(f.stream, h.tid)] }) = w ∧
      v.Posts w [p, q] h.dom.toNat [] := ⟨_, rfl, posts_updPort (by simp) rfl rfl rfl (.refl _)⟩
  have hall := hv.after hopen
  have hst' : (w.dom h.dom.toNat).st = .started := (hall.dom_st _).trans hst
  have hreg' : w.region h.dom.toNat (lineAddr f.laddr 0) = some (.nc, tgt) := (hall.region _ _).trans hreg
  have hadm' : quotaAdmits w sl h.dom.toNat false = some n := (hall.quotaAdmits _ _ _).trans hadm
  obtain ⟨u, hu, hserve⟩ := serve_ncWrp (r := ⟨.wrp, p, h, f, data, mask⟩) (hall.inert hin) rfl hz ho hst'
    (hall.homes hh) (trk_of_quotaAdmits hadm') hreg'
    ((epoch_of_discards hdis).trans (hall.dom_epoch _).symm) (hall.reaches hr)
    ((hall.creditFree (by simp [postsTo])).trans hc) (P := [p, q]) (by simp)
  have hread : mkMrq w h .mrd 6 0 f.laddr sl n false = mkMrq s h .mrd 6 0 f.laddr sl n false := by
    simp only [mkMrq, hall.hubId]
  refine ⟨u, w.uptime, ?_, hu.pmk_nil (hopen.pmk_nil hnil), ?_⟩
  · rw [← hread]
    exact hall.after hu
  · calc agentReq s p .wrp h f data
      _ = homeReq w ⟨.wrp, p, h, f, data, mask⟩ := hreq.trans (agentServe_of_home
        (r := ⟨.wrp, p, h, f, data, mask⟩) rfl hw hst' (by rw [hall.homeHub, hall.hubId]; exact hh.1) haper)
      _ = lookup w ⟨.wrp, p, h, f, data, mask⟩ .nc :=
        homeReq_of_allowed (r := ⟨.wrp, p, h, f, data, mask⟩) (hall.inert hin) hbad hreg' rfl rfl
      _ = _ := (lookup_of_idle (r := ⟨.wrp, p, h, f, data, mask⟩) (hall.homes hh) hst' htkv hadm').trans hserve

/-! ## The rows (R89, R107, R151) -/

/-- A REQ notes its port's turn at the slice that it goes to (R151). -/
theorem noteTurn_eq {s : State} {p : Nat} {op : ReqOp} {h : Hdr} {f : ReqF} {sl : Nat}
    (hsl : reqLane s p op h f = sl) : ∃ tn, noteTurn s p op h f = (s.updHome fun k => { k with turn := tn }) ∧
      (sl < 17 → tn = tset s.home.turn sl p) := by
  subst hsl
  unfold noteTurn
  dsimp only
  split
  · exact ⟨_, rfl, fun _ => rfl⟩
  · next hlt => exact ⟨s.home.turn, rfl, fun h => absurd h hlt⟩

theorem exec_wrp {s : State} {p : Fin 20} {h : Hdr} {f : ReqF} {data : Line} (hp : p.val < 16)
    (hm : mayTake s p (.req .wrp h f data) = true) (hw : s.home.wbs = []) :
    exec (.wrp p h f data) s = .next (serveStore (agentReq (noteTurn s p .wrp h f) p .wrp h f data)) := by
  have hturn : (noteTurn s p .wrp h f).home.wbs = [] := by
    obtain ⟨tn, htn, -⟩ := noteTurn_eq (s := s) (p := p) (op := .wrp) (h := h) (f := f) rfl
    rw [htn, State.updHome_home, hw]
  show Host.Outcome.next (reqRow s p .wrp h f data) = _
  rw [reqRow, hm, Bool.not_true, if_neg Bool.false_ne_true]
  dsimp only
  rw [if_pos hp, serveStore_of_empty hturn]

/-- Settles O48: the PMK waits, and its WRP takes its mask along to the line's read. -/
theorem masksMeetTheirWrites : Obligations.MasksMeetTheirWrites := by
  unfold Obligations.MasksMeetTheirWrites
  intro s p h hs hin
  refine ⟨fun stream mask hm hlen => ?pmk, fun ph mask f data sl n tgt q hpmk htid hdan hdom hz ho htkv hbad haper
    hm hahead hh hreg hr hc hadm => ?wrp⟩
  case pmk =>
    obtain ⟨u, hu, hnil, hexec⟩ := exec_pmk hs hm hlen
    refine ⟨_, hexec, ?_, hu.home, fun j hj => ?_, ?_, hu.homeOnly⟩
    · rw [State.updRx_port_same]
      simp [hnil]
    · rw [State.updRx_port_ne _ _ (Ne.symm hj), hu.others j (by simpa using hj)]
    · rw [State.updRx_port_same]
      exact (congrArg Tx.q (hu.tx p)).trans (List.append_nil _)
  case wrp =>
    have ⟨hhub, hslice, _⟩ := hh
    have ⟨hp, _, _, _, _, hwbs, _⟩ := hs
    have hlane : reqLane s p .wrp h f = sl := by
      have haper' : toAper p f = false := by rw [toAper, Bool.and_eq_false_iff]; exact .inr haper
      rw [reqLane, haper', if_neg (by simp), if_pos hhub, hslice, Option.getD_some]
    obtain ⟨tn, hturn, htn⟩ := noteTurn_eq hlane
    have hrow := exec_wrp hp hm hwbs
    rw [hturn] at hrow
    obtain ⟨u, now, hu, hnil, hreq⟩ := agentReq_ncWrp (s := s.updHome fun k => { k with turn := tn }) (data := data)
      hs hin hpmk (by simp [pmkFits, htid, hdan, hdom]) hz ho htkv hbad haper hahead hh hreg hr hc hadm
    have huhome : u.home = { s.home with turn := tn } := hu.home
    refine ⟨_, readingLine sl n ⟨.wrp, p, h, f, data, mask⟩ now, hrow.trans (congrArg Host.Outcome.next
      ((congrArg serveStore hreq).trans (serveStore_of_empty ?_))), ?_, rfl, rfl, rfl, hnil, ?_, fun hlt => ?_,
      hu.placed_of_single rfl, State.homeOnly.trans (t := s.updHome fun k => { k with turn := tn }) rfl hu.homeOnly⟩
    · rw [State.updHome_home, huhome]
      exact hwbs
    · exact trk_updHome_append u (by rw [hu.trk]; exact trk_of_quotaAdmits hadm)
    · rw [State.updHome_home, huhome]
    · rw [State.updHome_home, huhome]
      exact htn hlt

end Sys2Proof.Machine
end

section
/-!
SUPPORT. The Config commands for regions, costs and rate caps: what their bodies answer and write, and O4.
-/
namespace Sys2Proof.Machine

/-! ## A row of a table, and the tail of an answer -/

/-- Keys b to b + n - 1 written one after the other read what was written for them. -/
theorem tget_foldl_tset {α : Type} (d : α) (t : Tbl α) (b : Nat) (f : Nat → α) {n c : Nat} (hc : c < n) :
    tget d ((upto n).foldl (fun t c => tset t (b + c) (f c)) t) (b + c) = f c := by
  induction n with
  | zero => omega
  | succ n ih =>
    rw [upto, List.range_succ, List.foldl_append]
    simp only [List.foldl_cons, List.foldl_nil]
    by_cases h : c < n
    · rw [tget_tset_ne _ _ _ (by omega)]
      exact ih h
    · obtain rfl : c = n := by omega
      exact tget_tset_same ..

theorem bytesAt_append (a b : List Byte) : bytesAt (a ++ b) a.length b.length = b := by
  refine List.ext_getElem (by simp [bytesAt]) fun i _ hi => ?_
  simp [bytesAt, hi]

/-- The number at the end of an answer. -/
theorem numAt_append_toBytes (a : List Byte) (n v : Nat) :
    numAt (a ++ toBytes n v) a.length n = v % 2 ^ (8 * n) := by
  have hbytes := bytesAt_append a (toBytes n v)
  rw [length_toBytes] at hbytes
  rw [numAt, hbytes, ofBytes_toBytes]

/-! ## A row of costs (R143, R408) -/

theorem arraysOnly_updArr (s : State) (f : Arrays → Arrays) : s.arraysOnly (s.updArr f) := rfl

theorem arraysOnly_dropErr (s : State) (m k : Nat) : s.arraysOnly (dropErr s m k) := arraysOnly_updArr s _

theorem arraysOnly_storeMem (s : State) (m unit k : Nat) (d : Option Nat) :
    s.arraysOnly (storeMem s m unit k d) := by
  have hdrop := (arraysOnly_flipTake s m unit d).trans (arraysOnly_dropErr _ m k)
  unfold storeMem
  dsimp only
  split
  · exact hdrop
  · exact hdrop.trans (arraysOnly_updArr _ _)

/-- The parts of the state that a change of the arrays alone leaves as they were. -/
theorem State.arraysOnly.parts {s t : State} (h : s.arraysOnly t) : t.ports = s.ports ∧ t.doms = s.doms ∧
    t.cfg = s.cfg ∧ t.mbs = s.mbs ∧ t.mbram = s.mbram := by
  rw [← (h : { t with arr := s.arr, integ := s.integ } = s)]
  exact ⟨rfl, rfl, rfl, rfl, rfl⟩

theorem dom_of_doms {s t : State} (h : t.doms = s.doms) (d : Nat) : t.dom d = s.dom d := by
  rw [State.dom, h, State.dom]

/-- The row reads back as the costs it was written with. -/
theorem proxSetRow_prox (s : State) (d dan row : Nat) {c : Nat} (hc : c < 48) :
    tget 3 ((proxSetRow s d dan row).dom d).prox (48 * dan + c) = BitVec.ofNat 3 (row / 8 ^ c) := by
  unfold proxSetRow
  obtain ⟨-, hdoms, -⟩ := (arraysOnly_storeMem (s.updDom d _) 9 0 (keyProx d dan) (some d)).parts
  rw [dom_of_doms hdoms, State.updDom_dom_same]
  dsimp only
  exact tget_foldl_tset 3 _ _ _ hc

/-- The ports, the configuration and the mailboxes stand when a row of costs is written. -/
theorem proxSetRow_rest (s : State) (d dan row : Nat) : (proxSetRow s d dan row).ports = s.ports ∧
    (proxSetRow s d dan row).cfg = s.cfg ∧ (proxSetRow s d dan row).mbs = s.mbs ∧
    (proxSetRow s d dan row).mbram = s.mbram := by
  obtain ⟨hports, -, hrest⟩ := (arraysOnly_storeMem (s.updDom d _) 9 0 (keyProx d dan) (some d)).parts
  exact ⟨hports, hrest⟩

/-! ## The end of a command leaves the domains and the configuration -/

theorem mbFinish_doms (s : State) (m st de : Nat) (r : List Byte) :
    (mbFinish s m st de r).doms = s.doms := by simp

theorem mbFinish_cfg (s : State) (m st de : Nat) (r : List Byte) :
    (mbFinish s m st de r).cfg = s.cfg := by simp

/-! ## Only the mailbox, the configuration set apart -/

theorem onlyMail_but_cfg {s t : State} {m : Fin 10} {c : Cfg}
    (h : { s with cfg := c }.onlyMail t m) : s.onlyMail { t with cfg := s.cfg } m := by
  obtain ⟨hrest, hmb, hram⟩ := h
  exact ⟨congrArg (fun x => { x with cfg := s.cfg }) hrest, hmb, hram⟩

/-! ## The bodies -/

/-- The state with entry i of the staged region table replaced. -/
def State.stageRegion (s : State) (i : Nat) (e : BitVec 128) : State :=
  { s with cfg := { s.cfg with staged := { s.cfg.staged with region := tset s.cfg.staged.region i e } } }

theorem regionAt_stageRegion_same (s : State) (i : Nat) (e : BitVec 128) :
    regionAt (s.stageRegion i e).cfg.staged i = e := tget_tset_same ..

theorem regionAt_stageRegion_ne (s : State) {i j : Nat} (e : BitVec 128) (h : i ≠ j) :
    regionAt (s.stageRegion i e).cfg.staged j = regionAt s.cfg.staged j := tget_tset_ne _ _ _ h

/-- REGION_SET stages the entry without its reserved bits (R136, R405). -/
theorem doRegionSet_of_unlocked {s : State} {pl : List Byte} (hi : byteAt pl 0 ≤ 63)
    (hl : s.cfg.lock.getLsbD 1 = false) (m : Option Nat) :
    doRegionSet s m pl
      = .done 0 0 [] (s.stageRegion (byteAt pl 0) (BitVec.ofNat 128 (numAt pl 4 16) &&& rgMask)) := by
  unfold doRegionSet
  dsimp only
  rw [if_neg (by omega), regionsLocked, hl, if_neg Bool.false_ne_true]
  rfl

/-- REGION_GET answers four bytes and the entry that is asked for, and changes nothing (R405). -/
theorem doRegionGet_of_sel {s : State} {pl : List Byte} (hi : byteAt pl 0 ≤ 63) (hsel : byteAt pl 1 ≤ 1)
    (m : Option Nat) : ∃ a : List Byte, a.length = 4 ∧ doRegionGet s m pl = .done 0 0
      (a ++ toBytes 16 (regionAt (if byteAt pl 1 = 0 then s.cfg.eff else s.cfg.staged) (byteAt pl 0)).toNat)
      s := by
  unfold doRegionGet
  dsimp only
  rw [if_neg (by omega), ← apply_ite (regionAt · (byteAt pl 0))]
  exact ⟨_, by simp, rfl⟩

/-- PROXIMITY_SET with READ answers the row of its first requester. -/
theorem doProximitySet_read {s : State} {pl : List Byte}
    (hdom : (s.dom (byteAt pl 0 % 8)).st ≠ .none) (hread : nbit (byteAt pl 3) 0 = true)
    (hcount : byteAt pl 2 ≠ 0) (hlast : byteAt pl 1 + byteAt pl 2 ≤ 128) (m : Option Nat) :
    doProximitySet s m pl
      = .done 0 0 (toBytes 18 (proxRow s (byteAt pl 0 % 8) (byteAt pl 1))) s := by
  unfold doProximitySet
  dsimp only
  rw [if_neg (by simp [hdom]; omega), if_pos hread]
  rfl

/-- PROXIMITY_SET for one requester writes its row (R408). -/
theorem doProximitySet_write {s : State} {pl : List Byte} (hfirst : byteAt pl 1 ≤ 127)
    (hdom : (s.dom (byteAt pl 0 % 8)).st ≠ .none) (hread : nbit (byteAt pl 3) 0 = false)
    (hl : s.cfg.lock.getLsbD 1 = false) (hcount : byteAt pl 2 = 1) (m : Option Nat) :
    doProximitySet s m pl
      = .done 0 0 [] (proxSetRow s (byteAt pl 0 % 8) (byteAt pl 1) (numAt pl 4 18)) := by
  unfold doProximitySet
  dsimp only
  rw [if_neg (by simp [hdom]; omega), hread, if_neg Bool.false_ne_true, regionsLocked, hl,
    if_neg Bool.false_ne_true, hcount]
  rfl

/-- PORT_CONFIG caps the rate of its port (R408). -/
theorem doPortConfig_of_unlocked {s : State} {pl : List Byte} (hp : byteAt pl 0 ≤ 19) (hcap : byteAt pl 1 ≤ 2)
    (hl : s.cfg.lock.getLsbD 0 = false) (m : Option Nat) :
    doPortConfig s m pl = .done 0 0 [] (s.updLink (byteAt pl 0) fun l =>
      { l with rateCap := BitVec.ofNat 2 (byteAt pl 1) }) := by
  unfold doPortConfig
  dsimp only
  rw [if_neg (by omega), itemsLocked, hl, if_neg Bool.false_ne_true]
  rfl

/-- Settles O4: each command is its body, which ends at once. -/
theorem regionsCostsAndCaps : Obligations.RegionsCostsAndCaps := by
  unfold Obligations.RegionsCostsAndCaps
  refine ⟨fun s m pl hi => ⟨fun h hl => ?set, fun h hsel => ?get⟩,
    fun s m pl => ⟨fun h hfirst hdom => ⟨fun hread hcount hlast => ?row, fun hread hl hcount => ?costs⟩,
      fun h hp hcap hl => ?cap⟩⟩
  case set =>
    obtain ⟨hrun, hend, hmail⟩ :=
      mbRun1_done h (doRegionSet_of_unlocked (s := s.turned m) hi hl (some m.val)) rfl rfl (by simp)
    refine ⟨_, hrun, hend, ?_⟩
    rw [mbFinish_cfg]
    exact ⟨rfl, rfl, regionAt_stageRegion_same .., fun j hj => regionAt_stageRegion_ne _ _ hj.symm,
      onlyMail_of_turned (onlyMail_but_cfg hmail)⟩
  case get =>
    obtain ⟨a, ha, hbody⟩ := doRegionGet_of_sel (s := s.turned m) hi hsel (some m.val)
    obtain ⟨hrun, hend, hmail⟩ := mbRun1_done h hbody rfl rfl (by simp [ha])
    refine ⟨_, _, hrun, hend, onlyMail_of_turned hmail, by simp [ha], ?_⟩
    rw [← ha, numAt_append_toBytes]
    exact Nat.mod_eq_of_lt (BitVec.isLt _)
  case row =>
    obtain ⟨hrun, hend, hmail⟩ := mbRun1_done h
      (doProximitySet_read (s := s.turned m) hdom hread hcount hlast (some m.val)) rfl rfl (by simp)
    exact ⟨_, hrun, hend, onlyMail_of_turned hmail⟩
  case costs =>
    have hbody := doProximitySet_write (s := s.turned m) hfirst hdom hread hl hcount (some m.val)
    obtain ⟨hports, hcfg, hmbs, hmbram⟩ :=
      proxSetRow_rest (s.turned m) (byteAt pl 0 % 8) (byteAt pl 1) (numAt pl 4 18)
    obtain ⟨hrun, hend, -⟩ := mbRun1_done h hbody hmbs hmbram (by simp)
    refine ⟨_, hrun, hend, (mbFinish_ports ..).trans hports, (mbFinish_cfg ..).trans hcfg, fun c hc => ?_⟩
    rw [dom_of_doms (mbFinish_doms ..)]
    exact proxSetRow_prox _ _ _ _ hc
  case cap =>
    obtain ⟨hrun, hend, hmail⟩ :=
      mbRun1_done h (doPortConfig_of_unlocked (s := s.turned m) hp hcap hl (some m.val)) rfl rfl (by simp)
    refine ⟨_, hrun, hend, fun j hj => ?_, ?_, onlyMail_of_turned (onlyMail_but_ports hmail)⟩
    · rw [mbFinish_port, State.updLink_port_ne _ _ hj.symm]
      rfl
    · rw [mbFinish_port, State.updLink_port_same]
      rfl

end Sys2Proof.Machine
end

section
/-!
SUPPORT. A delayed grant that is placed: what leaves its port's list, and what the end of a read, an own or an
upgrade leaves of the hub (O56).
-/
namespace Sys2Proof.Machine

/-! ## The delayed grants of a port (R173, R322) -/

/-- The delayed grants of a port, in ready order, and how many were forced. -/
def Port.delays (q : Port) : List (Nat × Nat) × Nat := (q.ready, q.fore.paceForced)

theorem delays_noteSent (s : State) (p : Nat) (m : Msg) :
    ((noteSent s p m).port p).delays = (s.port p).delays := by
  have hcount : ∀ u : State, ((if isGrant m then u.updFore p fun f => { f with count := f.count + 1 }
      else u).port p).delays = (u.port p).delays := fun u => by
    split
    · rw [State.updFore_port_same]
      rfl
    · rfl
  unfold noteSent
  refine (hcount _).trans ?_
  cases finalReason m with
  | none => rfl
  | some r =>
    dsimp only
    rw [State.updPort_port_same]
    split <;> rfl

theorem delays_queueMsg (s : State) (p : Nat) (m : Msg) :
    ((queueMsg s p m).port p).delays = (s.port p).delays := by
  unfold queueMsg
  split
  · rw [nudge, State.updLink_port_same, State.updTx_port_same]
    rfl
  · rfl

theorem delays_noteAsk (s : State) (p : Nat) (m : Msg) :
    ((noteAsk s p m).port p).delays = (s.port p).delays := by
  unfold noteAsk
  split
  · split
    · rw [State.updRx_port_same]
      rfl
    · rfl
  · split
    · rw [State.updRx_port_same]
      rfl
    · rfl
  · rfl

/-- A grant that leaves its port's list, with the delay that pacing gave it on record (R328). -/
def leaveReady (s : State) (p : Nat) (x : Tracker) : State :=
  match x.pacedAt with
  | some t => (dropReady s p x.sl x.num).updFore p fun f =>
      { f with longest := max f.longest (125 * ((dropReady s p x.sl x.num).uptime - t)) }
  | none => dropReady s p x.sl x.num

theorem placeReady_eq {s : State} {p : Nat} {x : Tracker} {r : Req} (hr : x.req = some r) :
    placeReady s p x = placeGrant (leaveReady s p x) x r := by
  unfold placeReady
  rw [hr]
  rfl

theorem posts_leaveReady {s : State} {P : List Nat} {p d : Nat} (hp : p ∈ P) (x : Tracker) :
    s.Posts (leaveReady s p x) P d [] := by
  have hdrop : s.Posts (dropReady s p x.sl x.num) P d [] := posts_updPort hp rfl rfl rfl (.refl _)
  unfold leaveReady
  split
  · exact hdrop.after (posts_updFore hp _)
  · exact hdrop

theorem delays_leaveReady (s : State) (p : Nat) (x : Tracker) : ((leaveReady s p x).port p).delays
    = ((s.port p).ready.filter fun e => e != (x.sl, x.num), (s.port p).fore.paceForced) := by
  have hdrop : ((dropReady s p x.sl x.num).port p).delays
      = ((s.port p).ready.filter fun e => e != (x.sl, x.num), (s.port p).fore.paceForced) := by
    rw [dropReady, s.updPort_port_same]
    rfl
  unfold leaveReady
  split
  · rw [State.updFore_port_same, ← hdrop]
    rfl
  · exact hdrop

/-! ## The end of a read, an own or an upgrade (Table 05-5) -/

theorem finalMsg_hdr (s : State) (x : Tracker) (r : Req) : (finalMsg s x r).hdr = reqHdr s r := by
  unfold finalMsg
  dsimp only
  split <;> rfl

theorem State.Posts.finalMsg {s t : State} {P : List Nat} {d : Nat} {l : List (Nat × Msg)} (h : s.Posts t P d l)
    (x : Tracker) (r : Req) : finalMsg t x r = finalMsg s x r := by
  simp only [Machine.finalMsg, mkDat, reqHdr, shareGst, h.hubId, h.dom_epoch, h.dom_par]

theorem State.inert.useGot {s : State} (h : s.inert) (x : Tracker) : useGot x s = (false, x, s) := by
  unfold Machine.useGot
  split
  · rfl
  · next g hg =>
    rw [h.useLine]
    dsimp only
    rw [show g ^^^ (0 : Line) = g from BitVec.xor_zero, ← hg]

/-- The flows whose grant leaves the line's word and the tracker alone to end. -/
def Tracker.endsPlain (x : Tracker) : Prop := x.flow = .read ∨ x.flow = .own ∨ x.flow = .upgrade

theorem State.inert.useFinal {s : State} (h : s.inert) {x : Tracker} (hx : x.endsPlain) (r : Req) :
    useFinal x s r = (false, x, r, s) := by
  unfold Machine.useFinal
  rcases hx with hf | hf | hf
  all_goals simp only [hf, h.useGot, Bool.false_eq_true, if_false]

theorem afterGrant_ends {x : Tracker} (hx : x.endsPlain) (s : State) (r : Req) (g : BitVec 2) :
    ∃ w u, s.arraysOnly u ∧ afterGrant s x r g = settle { x with word := w } u := by
  obtain ⟨w, u, hrec, hu⟩ := recordGrant_spec x s r 3 false
  rcases hx with hf | hf | hf
  · have hend : afterGrant s x r g = settle x s := by simp only [afterGrant, hf]
    exact ⟨x.word, s, rfl, hend⟩
  · exact ⟨w, u, hu, by simp only [afterGrant, hf, hrec]⟩
  · exact ⟨w, u, hu, by simp only [afterGrant, hf, hrec]⟩

/-- A grant on record that waits for the agent port that its request came by, with nothing else awaited. -/
structure GrantWaits (s : State) (x : Tracker) (r : Req) : Prop where
  trk : s.trk x.sl x.num = some x
  req : x.req = some r
  inert : s.inert
  wbs : s.home.wbs = []
  port : r.port < 16
  up : s.up r.port = true
  memDom : (s.port r.port).mem.dom = some r.h.dom.toNat
  memSent : (s.port r.port).mem.sent.isSome = true
  mirrored : s.mirrored r.h.dom.toNat (s.port r.port).mem.dan = none
  poison : x.poison = false
  plain : x.plain
  awaits : x.awaits = []
  ends : x.endsPlain

/-- Its message is placed and its tracker freed (R149, R160). -/
theorem GrantWaits.placeGrant {s u : State} {x : Tracker} {r : Req} (h : GrantWaits s x r)
    (hu : s.Posts u [r.port] r.h.dom.toNat []) :
    ∃ v w, s.Posts v [r.port] r.h.dom.toNat [(r.port, finalMsg s x r)] ∧
      (v.port r.port).delays = (u.port r.port).delays ∧ v.arraysOnly w ∧
      placeGrant u x r = dropTrk w x.sl x.num := by
  have hdom : (Machine.finalMsg s x r).hdr.dom.toNat = r.h.dom.toNat := by rw [finalMsg_hdr]; rfl
  have hup : u.up r.port = true := by rw [hu.up, h.up]
  have heq := placeAgent_eq (s := u) (m := Machine.finalMsg s x r) (by rw [hu.mem, h.memDom, hdom])
    (by rw [hu.mem, h.memSent]) hup (fun _ => by rw [hu.mirrored, hu.mem, hdom, h.mirrored])
  have hpost := hu.after (hdom ▸ posts_sent (m := Machine.finalMsg s x r) (List.mem_singleton_self r.port) hup)
  rw [← heq] at hpost
  obtain ⟨w, v, hv, hafter⟩ := afterGrant_ends h.ends (placeAgent u r.port (Machine.finalMsg s x r)) r
    (grantOf (Machine.finalMsg s x r))
  refine ⟨_, v, hpost, ?_, hv, ?_⟩
  · rw [heq, delays_noteAsk, delays_queueMsg, delays_noteSent]
  · unfold Machine.placeGrant
    rw [(hu.inert h.inert).useFinal h.ends]
    dsimp only
    rw [if_neg Bool.false_ne_true, h.poison, if_neg Bool.false_ne_true, hu.finalMsg, answerReq, if_pos h.port,
      hafter]
    exact settle_of_plain (x := { x with word := w }) h.plain h.awaits v

/-- The grant leaves its port's list and is placed; `u` is s but for its port. -/
theorem GrantWaits.placeReady {s u : State} {x : Tracker} {r : Req} (h : GrantWaits s x r)
    (hu : s.Posts u [r.port] r.h.dom.toNat []) (hready : (u.port r.port).ready = (s.port r.port).ready) :
    let t := serveStore (placeReady u r.port x)
    s.placed t r.port (finalMsg s x r) ∧ t.trk x.sl x.num = none ∧ (x.sl, x.num) ∉ (t.port r.port).ready ∧
      s.otherTrks t x.sl x.num ∧ s.otherPorts t r.port ∧ s.homeOnly t ∧
      (t.port r.port).fore.paceForced = (u.port r.port).fore.paceForced := by
  obtain ⟨v, w, hv, hdel, hw, hgrant⟩ :=
    h.placeGrant (hu.after (posts_leaveReady (List.mem_singleton_self _) x))
  have hhome : w.home = s.home := (congrArg State.home hw :).trans hv.home
  have hport : ∀ j, w.port j = v.port j := fun j => (congrArg (State.port · j) hw :)
  have hend : serveStore (Machine.placeReady u r.port x) = dropTrk w x.sl x.num := by
    rw [placeReady_eq h.req, hgrant]
    exact serveStore_of_empty (by rw [dropTrk, State.updHome_home, hhome, h.wbs])
  have hdelays : ((dropTrk w x.sl x.num).port r.port).delays
      = ((s.port r.port).ready.filter fun e => e != (x.sl, x.num), (u.port r.port).fore.paceForced) := by
    rw [← hready, ← delays_leaveReady, ← hdel, ← hport]
    rfl
  have hlist := congrArg Prod.fst hdelays
  rw [hend]
  refine ⟨(congrArg (Tx.q ∘ Port.tx) (hport r.port)).trans (hv.placed_of_single rfl), trk_dropTrk_same w x.sl x.num, ?_,
    fun i k hik => ?_, fun j hj => (hport j).trans (hv.others j (by simpa using hj)), hv.homeOnly.trans hw.homeOnly,
    congrArg Prod.snd hdelays⟩
  · rw [show ((dropTrk w x.sl x.num).port r.port).ready = _ from hlist]
    simp
  · rw [otherTrks_dropTrk w x.sl x.num i k hik, State.trk, hhome]
    rfl

/-- Settles O56: both rows place the grant alike; the forced one is counted first. -/
theorem delayedGrantsArePlaced : Obligations.DelayedGrantsArePlaced := by
  unfold Obligations.DelayedGrantsArePlaced
  intro s sl n x r m d hclk hx hph hr hsw hin hwbs hcred hp hup hdom hsent hmir hpoi hplain haw hflow gives
  obtain ⟨-, hsl, hnum⟩ := mem_of_trk hx
  have hwaits : GrantWaits s x r :=
    ⟨by rw [hsl, hnum, hx], hr, hin, hwbs, hp, hup, hdom, hsent, hmir, hpoi, hplain, haw, hflow⟩
  refine ⟨fun hnext => ?placement, fun hpaced hopen => ?forced⟩
  case placement =>
    have hexec : exec (.grantPlacement sl n) s = .next (serveStore (placeReady s r.port x)) := by
      show execGrantPlacement sl n s = _
      simp only [execGrantPlacement, hclk, hsw, hx, hph, hr, Bool.not_false, Bool.and_self, hnext, if_true,
        if_neg (Nat.not_le.2 hp)]
    obtain ⟨hplaced, hfree, hlist, hothers, hports, honly, -⟩ := hwaits.placeReady (.refl s _ _) rfl
    rw [hsl, hnum] at hfree hlist hothers
    exact ⟨_, hexec, hplaced, hfree, hlist, hothers, hports, honly⟩
  case forced =>
    have hexec : exec (.paceForced sl n) s = .next (serveStore (placeReady
        (s.updFore r.port fun f => { f with paceForced := bump f.paceForced }) r.port x)) := by
      show execPaceForced sl n s = _
      simp only [execPaceForced, hclk, hsw, hx, hph, hr, hp, hpaced, hopen, hcred, Bool.not_false, and_self, if_true]
    obtain ⟨hplaced, hfree, hlist, hothers, hports, honly, hforced⟩ :=
      hwaits.placeReady (posts_updFore (List.mem_singleton_self _) fun f => { f with paceForced := bump f.paceForced })
        (by rw [State.updFore_port_same])
    rw [hsl, hnum] at hfree hlist hothers
    refine ⟨_, hexec, ⟨hplaced, hfree, hlist, hothers, hports, honly⟩, hforced.trans ?_⟩
    rw [State.updFore_port_same]

end Sys2Proof.Machine
end

section
/-!
SUPPORT. Trackers that go on: a read whose directory word names no holder, an MRQ that has its credit, a
non-coherent request (O57), and the data that memory brings (O53).
-/
namespace Sys2Proof.Machine

/-! ## Trackers stored -/

/-- A tracker stored in place of the one under its number: the list of trackers alone changes. -/
theorem putTrk_in_place {s u : State} {x y : Tracker} (hhome : u.home = s.home) (hw : s.home.wbs = [])
    (hd : (u.dom y.dom).st.inService = true) (hx : s.trk y.sl y.num = some x) :
    ∃ ts, serveStore (putTrk u y) = (u.updHome fun h => { h with trackers := ts }) ∧
      (u.updHome fun h => { h with trackers := ts }).trk y.sl y.num = some y ∧
      s.otherTrks (u.updHome fun h => { h with trackers := ts }) y.sl y.num := by
  have hx' : u.trk y.sl y.num = some x := by rw [State.trk, hhome]; exact hx
  have hsame := trk_putTrk_same hd hx'
  have hother := otherTrks_putTrk u hx'
  obtain ⟨ts, hts⟩ := putTrk_eq u y
  rw [hts] at hsame hother
  refine ⟨ts, ?_, hsame, fun i k hik => ?_⟩
  · rw [hts]
    exact serveStore_of_empty (by rw [State.updHome_home, hhome, hw])
  · rw [hother i k hik, State.trk, hhome, State.trk]

/-- What still awaits an answer that its grant needs goes on waiting. -/
theorem progress_of_line {x : Tracker} {s : State} {r : Req} (hr : x.req = some r) (hd : stopped s x.dom = false)
    (ha : .line ∈ x.awaits) (hdrop : x.dropLine = false) : progress x s = putTrk s x := by
  have hmem : Await.line ∈ blocking x := List.mem_filter.2 ⟨ha, by simp [hdrop]⟩
  have hne : (blocking x).isEmpty = false := by
    rw [List.isEmpty_eq_false_iff]
    exact List.ne_nil_of_mem hmem
  simp [progress, hr, hd, hne]

theorem stopped_of_inService {s : State} {d : Nat} (h : (s.dom d).st.inService = true) : stopped s d = false := by
  rw [stopped, h]
  rfl

theorem State.Posts.localMirrored {s t : State} {P : List Nat} {d : Nat} {l : List (Nat × Msg)}
    (h : s.Posts t P d l) (e : Nat) : t.localMirrored e = s.localMirrored e := by
  simp only [State.localMirrored, State.dans, h.agent, h.hubId]

theorem strHolders_of_none {s : State} {d : Nat} (h : s.localMirrored d = []) (l : LAddr) :
    strHolders s d l = ([], false, false, s) := by
  rw [strHolders, h]
  rfl

/-! ## A fill of an empty directory cache (R124, R126, R128) -/

theorem State.inert.updArr {s : State} (h : s.inert) {f : Arrays → Arrays} (hf : (f s.arr).err = s.arr.err) :
    (s.updArr f).inert := ⟨hf.trans h.1, h.2⟩

theorem State.inert.writeTag {s : State} (h : s.inert) (k : Nat) (t : BitVec 40) : writeTag s k t
    = s.updArr fun r => { r with tag := tset r.tag k (enc47 t)
                                 owner := tset r.owner k (encOwner (tagV t) (tagDom t)) } := by
  have hzero : enc47 t ^^^ BitVec.ofNat 47 (0 % 2 ^ 40 + 2 ^ 40 * (0 % 128)) = enc47 t := BitVec.xor_zero
  simp only [Machine.writeTag, h.flipTake, hzero]

theorem State.inert.writeWord {s : State} (h : s.inert) (k d : Nat) (w : BitVec 56) : writeWord s k d w
    = s.updArr fun r => { r with word := tset r.word k (enc64 w) } := by
  have hzero : enc64 w ^^^ BitVec.ofNat 64 (0 % 2 ^ 56 + 2 ^ 56 * (0 % 256)) = enc64 w := BitVec.xor_zero
  simp only [Machine.writeWord, h.flipTake, hzero]

theorem setWidth_enc47 (t : BitVec 40) : (enc47 t).setWidth 40 = t := by
  refine BitVec.eq_of_getLsbD_eq fun i hi => ?_
  rw [BitVec.getLsbD_setWidth, decide_eq_true hi, Bool.true_and]
  exact BitVec.getLsbD_append.trans (if_pos hi)

/-- A tracker whose word has been filled into the first way of its set. -/
def Tracker.inFirstWay (x : Tracker) (w : BitVec 56) : Tracker :=
  { x with word := w, wordAt := .way 0, fillWait := none }

/-- The directory cache with a tracker's word in the first way of its set. -/
def fillFirst (s : State) (x : Tracker) (w : BitVec 56) (dirty : Bool) : State :=
  let k := wayKey (dirSet x.laddr) (s.physWay 0)
  touchWay (writeWord (writeTag s k (mkTag dirty x.dom (dirTag x.laddr))) k x.dom w) x.laddr 0

theorem arraysOnly_touchWay (s : State) (l : LAddr) (i : Nat) : s.arraysOnly (touchWay s l i) := rfl

theorem arraysOnly_fillFirst (s : State) (x : Tracker) (w : BitVec 56) (dirty : Bool) :
    s.arraysOnly (fillFirst s x w dirty) :=
  ((arraysOnly_writeTag s _ _).trans (arraysOnly_writeWord _ _ _ w)).trans (arraysOnly_touchWay _ _ 0)

/-- An empty directory cache takes a word into its set's first way. -/
theorem dirFill_of_empty {s : State} {x : Tracker} (hs : s.inert) (htag : s.arr.tag = [])
    (hown : s.arr.owner = []) (hd : stopped s x.dom = false) (w : BitVec 56) (dirty : Bool) :
    dirFill s x w dirty = (true, x.inFirstWay w, fillFirst s x w dirty) := by
  have hat : fillAt s x.sl x.laddr (List.replicate 16 0) = .way 0 none := rfl
  unfold dirFill
  dsimp only
  rw [hs.readSet_empty htag hown]
  dsimp only
  rw [hd, if_neg Bool.false_ne_true, hat]
  dsimp only
  rw [hd, if_neg Bool.false_ne_true]
  rfl

theorem inWay_fillFirst {s : State} (hs : s.inert) (x : Tracker) (w : BitVec 56) (dirty : Bool) :
    (fillFirst s x w dirty).inWay (x.inFirstWay w) dirty := by
  have htag : ∀ k, (writeTag s k (mkTag dirty x.dom (dirTag x.laddr))).inert := fun k => by
    rw [hs.writeTag]
    exact hs.updArr rfl
  refine ⟨0, rfl, ?_⟩
  unfold fillFirst
  dsimp only
  rw [(htag _).writeWord, hs.writeTag]
  exact (congrArg (BitVec.setWidth 40)
    (tget_tset_same 0 s.arr.tag (wayKey (dirSet x.laddr) (s.physWay 0)) _)).trans (setWidth_enc47 _)

/-! ## A read whose word names no holder (R158, R169) -/

/-- A tracker of an RDS that is about to learn its line's word, with the line itself on the way; no local agent can
hold the line. -/
structure ReadsUnheld (s : State) (x : Tracker) (r : Req) : Prop where
  inService : (s.dom x.dom).st.inService = true
  mirrored : s.localMirrored x.dom = []
  req : x.req = some r
  op : r.op = .rds
  wb : x.wb = none
  wbData : x.wbData = none
  awaits : x.awaits = [.line]
  drop : x.dropLine = false

/-- The tracker of an RDS that no holder is snooped for and that collects its line. -/
def Tracker.sharing (x : Tracker) : Tracker :=
  { x with phase := .collect, fwd := none, held := false, flow := .share }

/-- The word 0 names no holder (R117). -/
theorem holdersOf_zero (s : State) (d : Nat) : holdersOf s d 0 [] = some [] := by
  have hbits : wBits 0#56 = [] := by decide
  have hbit : ∀ c, wBit 0#56 c = false := fun c => by simp [wBit, nbit]
  have hst : wSt 0#56 = 0 := by decide
  have hfwd : wFwd 0#56 = 0 := by decide
  simp [holdersOf, wordValid, hbits, hbit, hst, hfwd]

/-- A read without holders collects the line that is on the way. -/
theorem decideFlow_rds_paired {s : State} {x : Tracker} {r : Req} (hop : r.op = .rds) :
    decideFlow x s r [] [] true = progress x.sharing s := by
  unfold decideFlow
  rw [hop]
  rfl

theorem ReadsUnheld.decideLate {s : State} {x : Tracker} {r : Req} (h : ReadsUnheld s x r) :
    decideLate s { x with phase := .collect } r 0 [] true = putTrk s x.sharing := by
  have hwait : progress x.sharing s = putTrk s x.sharing :=
    progress_of_line (x := x.sharing) h.req (stopped_of_inService h.inService)
      (by rw [Tracker.sharing, h.awaits]; exact List.mem_singleton_self _) h.drop
  have hnone : (if x.wbOwned then x.wbData.map Prod.fst else
      ((([] : List Holder).find? fun e => (decide (e.cand < 40) && x.absorbed.contains e.cand) && e.st == .m).map
        Holder.cand)) = none := by
    rw [h.wbData]
    exact ite_self none
  unfold Machine.decideLate
  rw [holdersOf_zero]
  dsimp only
  rw [hnone]
  exact (decideFlow_rds_paired h.op).trans hwait

theorem ReadsUnheld.wordReady {s : State} {x : Tracker} {r : Req} (h : ReadsUnheld s x r) :
    wordReady s x 0 = putTrk s x.sharing := by
  have hpaired : x.awaits.contains .line = true := by rw [h.awaits]; rfl
  unfold Machine.wordReady
  split
  · next hwb => rw [h.wb] at hwb; cases hwb
  · next r' _ hreq =>
    obtain rfl := Option.some.inj (h.req.symm.trans hreq)
    rw [strHolders_of_none h.mirrored]
    dsimp only
    rw [if_neg Bool.false_ne_true]
    split
    · next hsome => rw [h.wbData] at hsome; cases hsome
    · rw [hpaired, Bool.true_or]
      exact h.decideLate
  · next hreq => rw [h.req] at hreq; cases hreq

/-- Its word filled, the read goes on to collect its line. -/
theorem ReadsUnheld.filled {s : State} {x z : Tracker} {r : Req} (h : ReadsUnheld s x r) (hs : s.inert)
    (htag : s.arr.tag = []) (hown : s.arr.owner = []) (hw : s.home.wbs = []) (hx : s.trk x.sl x.num = some z)
    (dirty : Bool) : ∃ u t, dirFill s x 0 dirty = (true, x.inFirstWay 0, u) ∧
      serveStore (Machine.wordReady u (x.inFirstWay 0) 0) = t ∧ t.trk x.sl x.num = some (x.inFirstWay 0).sharing ∧
      t.inWay (x.inFirstWay 0).sharing dirty ∧ s.otherTrks t x.sl x.num ∧ t.ports = s.ports ∧ s.homeOnly t := by
  have hu := arraysOnly_fillFirst s x 0 dirty
  have hway := inWay_fillFirst hs x 0 dirty
  have hfill := dirFill_of_empty hs htag hown (stopped_of_inService h.inService) 0 dirty
  generalize fillFirst s x 0 dirty = u at *
  have hd : (u.dom x.dom).st.inService = true :=
    (congrArg (fun v => (State.dom v x.dom).st.inService) hu :).trans h.inService
  have hready : ReadsUnheld u (x.inFirstWay 0) r :=
    ⟨hd, (congrArg (State.localMirrored · x.dom) hu :).trans h.mirrored, h.req, h.op, h.wb, h.wbData, h.awaits, h.drop⟩
  obtain ⟨ts, hts, hsame, hother⟩ := putTrk_in_place (u := u) (y := (x.inFirstWay 0).sharing)
    (congrArg State.home hu :) hw hd hx
  exact ⟨u, _, hfill, by rw [hready.wordReady, hts], hsame, hway, hother, (congrArg State.ports hu :), hu.homeOnly⟩

/-! ## An MRQ of a tracker or of the hub itself (R83, R157) -/

/-- Poison passed on is reported; the message is sent all the same (R98). -/
theorem sendMrq_eq (s : State) (d dan : Nat) (f : MrqF) (data : Line) :
    ∃ fl, sendMrq s d dan f data = sendAgent { s with flt := fl } d dan (.mrq f data) := by
  unfold sendMrq
  dsimp only
  split
  · exact ⟨_, rfl⟩
  · exact ⟨s.flt, rfl⟩

/-- An MRQ is no final answer, so it counts in no statistics. -/
theorem doms_sendAgent_mrq {s : State} {d dan q : Nat} {f : MrqF} (h : s.reaches d dan q) (hd : f.h.dom.toNat = d)
    (data : Line) : (sendAgent s d dan (.mrq f data)).doms = s.doms := by
  obtain ⟨hport, -, hup, hdom, -, hsent⟩ := h
  have hqueue : ∀ u : State, (queueMsg u q (.mrq f data)).doms = u.doms := fun u => by
    unfold queueMsg
    split <;> rfl
  have hask : ∀ u : State, (noteAsk u q (.mrq f data)).doms = u.doms := fun u => by
    unfold noteAsk
    dsimp only
    split <;> rfl
  subst hd
  rw [sendAgent_of_agentPort hport, placeAgent_eq (m := .mrq f data) hdom hsent hup (fun h => nomatch h),
    hask, hqueue]
  rfl

/-- The row of a tracker's MRQ whose port has a credit. -/
theorem exec_mrqPlacement {s : State} {sl : Fin 17} {n : Fin 64} {x : Tracker} {w : MrqWait} {rest : List MrqWait}
    {q : Nat} (hclk : s.clocked = true) (hx : s.trk sl n = some x) (hw : x.mrqs = w :: rest)
    (hport : s.agentPort x.dom w.dan = some q) (hc : creditFree s q .mrq x.dom = true) :
    exec (.mrqPlacement sl n) s
      = .next (sendMrq (putTrk s { x with mrqs := rest }) x.dom w.dan w.f w.data) := by
  show execMrqPlacement sl n s = _
  simp only [execMrqPlacement, hclk, hx]
  split
  · next w' rest' hcons =>
    obtain ⟨rfl, rfl⟩ := List.cons.inj (hw.symm.trans hcons)
    simp only [outPort_of_agentPort hport, hc, Bool.true_or, if_true]
  · next hnil => rw [hw] at hnil; cases hnil

/-- A tracker's MRQ is sent with its credit (R157). -/
theorem mrq_sent_with_credit {s : State} {sl : Fin 17} {n : Fin 64} {x : Tracker} (hclk : s.clocked = true)
    (hx : s.trk sl n = some x) (hd : (s.dom x.dom).st.inService = true) {w : MrqWait} {rest : List MrqWait} {q : Nat}
    (hw : x.mrqs = w :: rest) (hdom : w.f.h.dom.toNat = x.dom) (hr : s.reaches x.dom w.dan q)
    (hc : creditFree s q .mrq x.dom = true) : ∃ t, exec (.mrqPlacement sl n) s = .next t ∧
      s.placed t q (.mrq w.f w.data) ∧ t.trk sl n = some { x with mrqs := rest } ∧ s.otherTrks t sl n ∧
      s.otherPorts t q ∧ t.doms = s.doms := by
  obtain ⟨-, hsl, hnum⟩ := mem_of_trk hx
  have hx' : s.trk x.sl x.num = some x := by rw [hsl, hnum, hx]
  have hsame := trk_putTrk_same (x := { x with mrqs := rest }) hd hx'
  have hother := otherTrks_putTrk (x := { x with mrqs := rest }) s hx'
  obtain ⟨ts, hts⟩ := putTrk_eq s { x with mrqs := rest }
  obtain ⟨fl, hsend⟩ := sendMrq_eq (putTrk s { x with mrqs := rest }) x.dom w.dan w.f w.data
  rw [hts] at hsame hother hsend
  have hpost := posts_sendAgent (m := .mrq w.f w.data)
    (s := { s.updHome (fun h => { h with trackers := ts }) with flt := fl }) hr (List.mem_singleton_self q) hdom
    (fun h => nomatch h)
  have hdoms := doms_sendAgent_mrq (s := { s.updHome (fun h => { h with trackers := ts }) with flt := fl }) hr hdom
    w.data
  refine ⟨_, (exec_mrqPlacement hclk hx hw hr.1 hc).trans (by rw [hts, hsend]), hpost.placed_of_single rfl, ?_, ?_,
    fun j hj => hpost.others j (by simpa using hj), hdoms⟩
  · rw [hpost.trk, ← hsl, ← hnum]
    exact hsame
  · intro i k hik
    rw [hpost.trk]
    exact hother i k (by rwa [hsl, hnum])

end Sys2Proof.Machine
end

section
/-!
SUPPORT. A request to a non-coherent line that sends its MRQ, and trackers that waited (O57).
-/
namespace Sys2Proof.Machine

/-! ## The MRQ of a non-coherent request (R172, R233) -/

theorem State.inert.useData {s : State} (h : s.inert) {x : Tracker} {r : Req} (hr : x.req = some r) :
    useData x s r = (false, x, r, s) := by
  have hdata : r.data ^^^ (0 : Line) = r.data := BitVec.xor_zero
  unfold Machine.useData
  rw [h.useLine]
  dsimp only
  rw [hdata, ← hr]

/-- Tracker x of request r, with no MRQ waiting: port q leads to the memory agent tgt of its line, and holds a
credit. -/
structure NcReady (s : State) (x : Tracker) (r : Req) (tgt q : Nat) : Prop where
  inert : s.inert
  req : x.req = some r
  dom : r.h.dom.toNat = x.dom
  line : r.f.laddr = x.laddr
  epoch : r.h.epoch = (s.dom x.dom).epoch
  target : lineTgt s x = tgt
  mrqs : x.mrqs = []
  reaches : s.reaches x.dom tgt q
  credit : creditFree s q .mrq x.dom = true

/-- What the start of a non-coherent request leaves in its tracker, which awaits its line or the MCP of its write. -/
structure NcStarted (x y : Tracker) (r : Req) : Prop where
  place : y.sl = x.sl ∧ y.num = x.num ∧ y.dom = x.dom ∧ y.laddr = x.laddr
  req : y.req = some r
  phase : y.phase = .collect
  awaits : y.awaits = if r.op = .wnc ∨ r.op = .wrl then [.mcp] else [.line]

theorem ncMrq_hdr (s : State) (r : Req) (sl n : Nat) : (ncMrq s r sl n).1.h = r.h := by
  unfold ncMrq
  dsimp only
  split <;> rfl

theorem NcReady.reqHdr {s : State} {x : Tracker} {r : Req} {tgt q : Nat} (h : NcReady s x r tgt q) :
    reqHdr s r = r.h := by rw [Machine.reqHdr, h.dom, ← h.epoch]

theorem NcReady.trkMrq {s : State} {x : Tracker} {r : Req} {tgt q : Nat} (h : NcReady s x r tgt q) (op : MrqOp)
    (sz ofs : Nat) (data : Line) : trkMrq s x tgt (mkMrq s r.h op sz ofs x.laddr x.sl x.num false) data
      = (x, sendAgent s x.dom tgt (.mrq (mkMrq s r.h op sz ofs r.f.laddr x.sl x.num false) data)) := by
  rw [h.line]
  exact trkMrq_of_credit h.reaches.1 h.mrqs h.credit rfl data

theorem NcReady.ncStart {s : State} {x : Tracker} {r : Req} {tgt q : Nat} (h : NcReady s x r tgt q)
    (hop : r.op ∈ [.rdc, .rnc, .wnc, .wrl]) : ∃ y, NcStarted x y r ∧ ncStart s x r
      = putTrk (sendAgent s x.dom tgt (.mrq (ncMrq s r x.sl x.num).1 (ncMrq s r x.sl x.num).2)) y := by
  have hstart : ∀ fl a, a = (if r.op = .wnc ∨ r.op = .wrl then [Await.mcp] else [.line]) →
      NcStarted x { x with flow := fl, awaits := a, phase := .collect } r :=
    fun _ _ ha => ⟨⟨rfl, rfl, rfl, rfl⟩, h.req, rfl, ha⟩
  simp only [List.mem_cons, List.not_mem_nil, or_false] at hop
  unfold Machine.ncStart
  dsimp only
  rw [h.target, h.reqHdr]
  rcases hop with hop | hop | hop | hop
  all_goals simp only [hop, ncMrq, reqBytes, h.inert.useData h.req, h.trkMrq, Bool.false_eq_true, if_false]
  · exact ⟨_, hstart .read [.line] (by rw [hop]; rfl), rfl⟩
  · exact ⟨_, hstart .read [.line] (by rw [hop]; rfl), rfl⟩
  · exact ⟨_, hstart .devWrite [.mcp] (by rw [hop]; rfl), rfl⟩
  · exact ⟨_, hstart .ncWrl [.mcp] (by rw [hop]; rfl), rfl⟩

/-- With merging off and the buffer empty, a request to an NC line starts at once (R233, R238). -/
theorem ncLookup_of_unmerged {s : State} {r : Req} (hop : r.op ≠ .wrp) (hmerges : s.home.merges = [])
    (hmbq : (s.dom r.h.dom.toNat).par.mbq = 0) (x : Tracker) : ncLookup s x r .nc = ncStart s x r := by
  have hnone : s.mergeOf x.dom x.laddr = none := by rw [State.mergeOf, hmerges]; rfl
  unfold ncLookup
  rw [if_neg fun h => hop h.1, if_neg (by simp [mergeEligible, hmbq]), if_pos rfl, hnone]

/-! ## The rows of trackers that waited -/

/-- A tracker whose drain is over, and whose turn it is, is looked up again (R235, R238). -/
theorem exec_drainWaiterResume {s : State} {sl : Fin 17} {n : Fin 64} {x : Tracker} {r : Req}
    (hclk : s.clocked = true) (hsw : switchHits s sl = false) (hx : s.trk sl n = some x)
    (hph : x.phase = .collect) (hr : x.req = some r) (hflow : x.flow = .ncMerge ∨ x.flow = .undecided)
    (hfirst : x.flow = .ncMerge → ∀ y ∈ s.home.trackers.takeWhile (· != x),
      ¬(y.flow = .ncMerge ∧ y.phase = .collect ∧ y.awaits = []))
    (haw : x.awaits = []) (hmrqs : x.mrqs = []) (hop : r.op ≠ .atm) : exec (.drainWaiterResume sl n) s
      = .next (serveStore (ncLookup s { x with phase := .lookup, flow := .undecided } r .nc)) := by
  have hturn : (x.flow != .ncMerge || ((s.home.trackers.takeWhile fun y => y != x).filter fun y =>
      y.flow == .ncMerge && y.phase == .collect && y.awaits.isEmpty).isEmpty) = true := by
    rw [Bool.or_eq_true, bne_iff_ne, List.isEmpty_iff, List.filter_eq_nil_iff]
    by_cases hm : x.flow = .ncMerge
    · exact .inr fun y hy => by simpa [and_assoc] using hfirst hm y hy
    · exact .inl hm
  have hwaited : (x.flow == .ncMerge || x.flow == .undecided || r.op == .atm) = true := by
    rcases hflow with h | h
    all_goals
      rw [h]
      rfl
  show execDrainWaiterResume sl n s = _
  simp only [execDrainWaiterResume, hclk, hsw, hx, hph, hr, Bool.not_false, Bool.and_self]
  rw [hwaited, hturn, if_pos (by rw [haw, hmrqs]; rfl), if_neg hop]

/-- Settles O57: an MRQ goes with its credit, a fill finds the first way, a drained request starts anew. -/
theorem waitingTrackersGoOn : Obligations.WaitingTrackersGoOn := by
  unfold Obligations.WaitingTrackersGoOn
  intro s sl n x hclk hx hd hsw hin hwbs _
  obtain ⟨-, hsl, hnum⟩ := mem_of_trk hx
  have hx' : s.trk x.sl x.num = some x := by rw [hsl, hnum, hx]
  refine ⟨fun w rest q hw hdom hr hc => mrq_sent_with_credit hclk hx hd hw hdom hr hc,
    fun dirty r hfill hr hop hwb hwd haw hdrop htag hown hmir => ?fill,
    fun r tgt q hph hr hflow hfirst haw hmrqs hop hdom hep hline hmerges hmbq hreg hreach hc => ?drained⟩
  case fill =>
    obtain ⟨u, t, hdir, hend, htrk, hway, hother, hports, honly⟩ := ReadsUnheld.filled (x := x) (r := r)
      ⟨hd, hmir, hr, hop, hwb, hwd, haw, hdrop⟩ hin htag hown hwbs hx' dirty
    rw [hsl, hnum] at htrk hother
    refine ⟨t, _, ?_, htrk, rfl, rfl, rfl, haw, hway, hother, hports, honly⟩
    show execDirectoryFillResume sl n s = _
    simp only [execDirectoryFillResume, hclk, hsw, hx, hfill, hdir, hend, Bool.not_false, Bool.and_self, if_true]
  case drained =>
    have hne : ∀ o ∈ [ReqOp.rdc, .rnc, .wnc, .wrl], o ≠ .atm ∧ o ≠ .wrp := by decide
    have hready : NcReady s { x with phase := .lookup, flow := .undecided } r tgt q :=
      ⟨hin, hr, hdom, hline, hep, by rw [lineTgt, hreg], hmrqs, hreach, hc⟩
    obtain ⟨y, hy, hstart⟩ := hready.ncStart hop
    obtain ⟨hysl, hynum, hydom, -⟩ := hy.place
    have hpost := posts_sendAgent (m := .mrq (ncMrq s r x.sl x.num).1 (ncMrq s r x.sl x.num).2) hreach
      (List.mem_singleton_self q) ((congrArg (fun h : Hdr => h.dom.toNat) (ncMrq_hdr s r _ _)).trans hdom)
      (fun h => nomatch h)
    obtain ⟨ts, hts, htrk, hother⟩ := putTrk_in_place (y := y) hpost.home hwbs
      (by rw [hydom, hpost.dom_st]; exact hd) (by rw [hysl, hynum]; exact hx')
    have hexec := exec_drainWaiterResume hclk hsw hx hph hr hflow hfirst haw hmrqs (hne _ hop).1
    rw [ncLookup_of_unmerged (hne _ hop).2 hmerges (by rw [hdom, hmbq]), hstart, hts] at hexec
    rw [hysl, hynum] at htrk hother
    rw [← hsl, ← hnum]
    exact ⟨_, y, hexec, htrk, hy.phase, hy.req, hy.awaits, hpost.placed_of_single rfl, hother,
      fun j hj => hpost.others j (by simpa using hj), hpost.homeOnly⟩

end Sys2Proof.Machine
end

section
/-!
SUPPORT. What memory brings: a tracker's line, the rest of a merge-buffer entry's line, a directory word (O53).
-/
namespace Sys2Proof.Machine

/-! ## The rows (R83, R157) -/

/-- The state in which the data of a DMM is served. -/
def dmmTaken (s : State) (p : Nat) (f : DatF) (data : Line) : State :=
  returnCredit (takeMsg s p (.dat .dmm f data)) p .dat f.h.dom.toNat

theorem posts_dmmTaken (s : State) (p : Nat) (f : DatF) (data : Line) :
    s.Posts (dmmTaken s p f data) [p] f.h.dom.toNat [] :=
  (posts_takeMsg (List.mem_singleton_self p) _).after (posts_returnCredit (List.mem_singleton_self p) _ _)

theorem State.Posts.wordTrk {s t : State} {P : List Nat} {d : Nat} {l : List (Nat × Msg)} (h : s.Posts t P d l)
    (f : DatF) : wordTrk t f = wordTrk s f := by
  simp only [Machine.wordTrk, answerTrk, h.trk, h.dirLine]

/-- The row of a DMM of this hub that brings no directory word. -/
theorem exec_dmm {s : State} {p : Fin 20} {f : DatF} {data : Line} (hd : s.delivers p f.h)
    (hhub : htagHub f.htag = s.hubId) (hm : mayTake s p (.dat .dmm f data) = true) (hw : wordTrk s f = none) :
    exec (.dmm p f data) s = .next (dmmHome (dmmTaken s p f data) f data) := by
  have hent := enter_of_delivers (m := .dat .dmm f data) hd (fun _ hn => Bool.noConfusion hn) f.laddr
  have hhub' : htagHub f.htag = (takeMsg s p (.dat .dmm f data)).hubId := hhub
  show execDmm p f data s = _
  unfold execDmm
  dsimp only
  rw [if_neg (by simp [hm, hw]), hent]
  dsimp only
  rw [if_neg (not_not.2 hhub')]
  rfl

/-- The row of a DMM that brings a tracker of this hub its directory word. -/
theorem exec_directoryWordDmm {s : State} {p : Fin 20} {f : DatF} {data : Line} {x : Tracker}
    (hd : s.delivers p f.h) (hhub : htagHub f.htag = s.hubId) (hm : mayTake s p (.dat .dmm f data) = true)
    (hw : wordTrk s f = some x) : exec (.directoryWordDmm p f data) s
      = .next (serveStore (onWord (dmmTaken s p f data) x f.poi data)) := by
  have hent := enter_of_delivers (m := .dat .dmm f data) hd (fun _ hn => Bool.noConfusion hn) f.laddr
  have hw' : wordTrk (dmmTaken s p f data) f = some x := by rw [(posts_dmmTaken s p f data).wordTrk, hw]
  show execDirectoryWordDmm p f data s = _
  unfold execDirectoryWordDmm
  dsimp only
  rw [if_neg (by simp [hm, hw, hhub]), hent]
  exact congrArg (fun o => (match o with
    | some x => Host.Outcome.next (serveStore (onWord (dmmTaken s p f data) x f.poi data))
    | none => Host.Outcome.next (dmmTaken s p f data) : Out)) hw'

/-! ## A tracker's line (R157, R169) -/

/-- The line that a tracker collects while it still awaits a snoop answer. -/
theorem onLine_of_snoop {s : State} {x : Tracker} {r : Req} (hs : s.inert) (hd : stopped s x.dom = false)
    (hr : x.req = some r) (hdrop : x.dropLine = false) (hdirty : x.dirty = false) (hflow : x.flow ≠ .ncWrp)
    {k : Nat} {o : SnpOp} (ha : .snoop k o ∈ x.awaits) (poi : Bool) (data : Line) : onLine s x poi data
      = putTrk s { x with awaits := x.awaits.erase .line, got := some data, poison := poi } := by
  have hmem : .snoop k o ∈ x.awaits.erase .line := (List.mem_erase_of_ne (by simp)).2 ha
  unfold onLine
  dsimp only
  refine (if_neg (by simp [hdrop, hdirty])).trans ?_
  simp only [hs.storeGot]
  split
  · next hf _ => exact absurd hf hflow
  · exact progress_of_snoop (x := { x with awaits := x.awaits.erase .line, got := some data, poison := poi }) hr hd
      hmem

theorem dmmHome_tracker {s : State} {f : DatF} {data : Line} {x : Tracker}
    (hx : s.trk (htagSlice f.htag) (htagTracker f.htag) = some x) (hd : x.dom = f.h.dom.toNat)
    (hl : x.laddr = f.laddr) (hline : .line ∈ x.awaits) (hmat : .mat ∉ x.awaits) :
    dmmHome s f data = serveStore (onLine s x f.poi data) := by
  have htrk : (answerTrk s f.h f.laddr f.htag fun x =>
      x.laddr == f.laddr && (x.awaits.contains .line || x.awaits.contains .mat)) = some x := by
    simp [answerTrk, hx, hd, hl, hline]
  simp only [dmmHome, htrk]
  rw [if_neg (by simpa using hmat)]

/-! ## The rest of an entry's line (R237, R239) -/

theorem merge_putMerge_same {s : State} {m : Merge} (hm : (s.merge m.id).isSome = true) :
    (putMerge s m).merge m.id = some m := by
  obtain ⟨y, hy⟩ := Option.isSome_iff_exists.1 hm
  have hfind : (s.home.merges.find? fun y => y.id == m.id) = some y := hy
  have hid : y.id = m.id := by simpa using List.find?_some hfind
  have hcomp : ((fun y => y.id == m.id) ∘ fun y => if y.id == m.id then m else y)
      = fun y : Merge => y.id == m.id := by
    funext z
    by_cases hz : z.id = m.id
    · simp [hz]
    · simp [hz]
  rw [State.merge, putMerge, State.updHome_home]
  dsimp only
  rw [List.find?_map, hcomp, hfind]
  simp [hid]

theorem merge_isSome_of_mem {s : State} {m : Merge} (hm : m ∈ s.home.merges) : (s.merge m.id).isSome = true :=
  List.find?_isSome.2 ⟨m, hm, beq_self_eq_true _⟩

theorem State.inert.useMerge {s : State} (h : s.inert) (m : Merge) : useMerge s m = (false, m, putMerge s m) := by
  have hdata : m.data ^^^ (0 : Line) = m.data := BitVec.xor_zero
  unfold Machine.useMerge
  rw [h.useLine]
  dsimp only
  rw [hdata]

/-- An MRQ of the hub's own names no requester and no tracker that is fixed (R83, R93). -/
theorem hubMrq_eq (s : State) (d dan : Nat) (op : MrqOp) (sz ofs : Nat) (l : LAddr) (sl : Nat) (poi : Bool)
    (data : Line) : ∃ fl h n, h.dom = BitVec.ofNat 3 d ∧ hubMrq s d dan op sz ofs l sl poi data
      = sendAgent { s.nextFree.2 with flt := fl } d dan (.mrq (mkMrq s h op sz ofs l sl n poi) data) := by
  obtain ⟨fl, hsend⟩ := sendMrq_eq s.nextFree.2 d dan (mkMrq s
    { hubHdr s d with tid := s.nextFree.1.extractLsb' 0 12, dan := s.nextFree.1.extractLsb' 12 7 }
    op sz ofs l sl (s.nextFree.1.extractLsb' 19 6).toNat poi) data
  exact ⟨fl, _, _, rfl, hsend⟩

/-- It leaves by the port of an agent within reach. -/
theorem posts_hubMrq {s : State} {d dan q : Nat} (hr : s.reaches d dan q) (hd : d < 8) (op : MrqOp) (sz ofs : Nat)
    (l : LAddr) (sl : Nat) (poi : Bool) (data : Line) : ∃ fl h n,
      { s with flt := fl }.Posts (hubMrq s d dan op sz ofs l sl poi data) [q] d
        [(q, .mrq (mkMrq s h op sz ofs l sl n poi) data)] := by
  obtain ⟨fl, h, n, hdom, hsend⟩ := hubMrq_eq s d dan op sz ofs l sl poi data
  have hfree : { s with flt := fl }.Posts { s.nextFree.2 with flt := fl } [q] d [] := posts_nextFree
  have hdom' : h.dom.toNat = d := by
    rw [hdom, BitVec.toNat_ofNat]
    exact Nat.mod_eq_of_lt hd
  refine ⟨fl, h, n, ?_⟩
  rw [hsend]
  exact hfree.after (posts_sendAgent (m := .mrq (mkMrq s h op sz ofs l sl n poi) data) (hfree.reaches hr)
    (List.mem_singleton_self q) hdom' (fun h => nomatch h))

/-- An entry with the rest of its line, which is being written back (R237, R239). -/
def Merge.completed (m : Merge) (poi : Bool) (data : Line) : Merge :=
  { m with data := mergeLine m.valid m.data data, poison := m.poison || poi, drain := 2 }

/-- Memory's data completes an entry, whose line is then written. -/
theorem mergeData_eq {s : State} (hs : s.inert) {m : Merge} {rt : RType} {tgt : Nat}
    (hreg : s.region m.dom (lineAddr m.laddr 0) = some (rt, tgt)) (poi : Bool) (data : Line) : mergeData s m poi data
      = hubMrq (putMerge (putMerge s m) (m.completed poi data)) m.dom tgt .mwr 6 0 m.laddr m.sl (m.poison || poi)
        (mergeLine m.valid m.data data) := by
  have hreg' : (putMerge (putMerge s m) (m.completed poi data)).region m.dom (lineAddr m.laddr 0) = some (rt, tgt) :=
    hreg
  unfold mergeData
  rw [hs.useMerge]
  dsimp only
  rw [if_neg Bool.false_ne_true]
  rw [← Merge.completed, hreg']

theorem mergeData_spec {s : State} {m : Merge} (hs : s.inert) (hm : m ∈ s.home.merges) (hd : m.dom < 8) {rt : RType}
    {tgt q : Nat} (hreg : s.region m.dom (lineAddr m.laddr 0) = some (rt, tgt)) (hr : s.reaches m.dom tgt q)
    (poi : Bool) (data : Line) : ∃ h n, (mergeData s m poi data).merge m.id = some (m.completed poi data) ∧
      s.placed (mergeData s m poi data) q (.mrq (mkMrq s h .mwr 6 0 m.laddr m.sl n (m.poison || poi))
        (mergeLine m.valid m.data data)) := by
  have hkept : (putMerge s m).merge m.id = some m := merge_putMerge_same (merge_isSome_of_mem hm)
  have hdone : (putMerge (putMerge s m) (m.completed poi data)).merge m.id = some (m.completed poi data) :=
    merge_putMerge_same (m := m.completed poi data) (Option.isSome_iff_exists.2 ⟨m, hkept⟩)
  obtain ⟨fl, h, n, hpost⟩ := posts_hubMrq (s := putMerge (putMerge s m) (m.completed poi data)) (q := q) hr hd
    .mwr 6 0 m.laddr m.sl (m.poison || poi) (mergeLine m.valid m.data data)
  rw [← mergeData_eq hs hreg] at hpost
  refine ⟨h, n, ?_, hpost.placed_of_single rfl⟩
  rw [State.merge, hpost.home]
  exact hdone

theorem dmmHome_merge {s : State} {f : DatF} {data : Line} {m : Merge}
    (hx : s.trk (htagSlice f.htag) (htagTracker f.htag) = none)
    (hm : s.home.merges.find? (fun m => m.dom == f.h.dom.toNat && m.laddr == f.laddr && m.drain == 1) = some m) :
    dmmHome s f data = mergeData s m f.poi data := by
  simp only [dmmHome, answerTrk_of_free hx, hm]

/-! ## A directory word (R117, R169) -/

theorem State.inert.checkWord_zero {s : State} (h : s.inert) (d sl : Nat) :
    checkWord s d sl 0 = (0, false, false, s) := by
  have hclean : check masks64 56 0 0 = .clean := check_zero _ _
  simp [checkWord, h.injTake, fld, hclean]

/-- A clean word of zeros that memory brings is filled, and its tracker goes on. -/
theorem onWord_of_zero {s u : State} {x y : Tracker} {data : Line} (hs : s.inert)
    (hzero : lineNum data (dirLine s x.dom x.laddr).2 8 = 0)
    (hfill : dirFill s { x with awaits := x.awaits.erase .word } 0 false = (true, y, u)) :
    onWord s x false data = wordReady u y 0 := by
  have hcheck : checkWord s x.dom x.sl (BitVec.ofNat 64 (lineNum data (dirLine s x.dom x.laddr).2 8))
      = (0, false, false, s) := by
    rw [hzero]
    exact hs.checkWord_zero _ _
  unfold onWord
  dsimp only
  rw [hcheck]
  dsimp only
  rw [if_neg Bool.false_ne_true, if_neg Bool.false_ne_true, hfill]
  rfl

theorem trk_of_wordTrk {s : State} {f : DatF} {x : Tracker} (h : wordTrk s f = some x) :
    s.trk (htagSlice f.htag) (htagTracker f.htag) = some x ∧ x.dom = f.h.dom.toNat := by
  unfold wordTrk answerTrk at h
  split at h
  · next y hy =>
    dsimp only at h
    split at h
    · next hok =>
      obtain rfl := Option.some.inj h
      exact ⟨hy, hok.1⟩
    · cases h
  · cases h

theorem State.Posts.placed_after {s u t : State} {P : List Nat} {d q : Nat} {m : Msg} (h : s.Posts u P d [])
    (hp : u.placed t q m) : s.placed t q m := by
  rw [State.placed, hp, h.tx]
  exact congrArg (· ++ [m]) (List.append_nil _)

/-- Settles O53: a DMM meets a tracker, an entry that drains, or a tracker whose word is being read. -/
theorem memoryDataIsTaken : Obligations.MemoryDataIsTaken := by
  unfold Obligations.MemoryDataIsTaken
  intro s p f data d sl n hdel hhub hin hwbs hmay hsvc
  have hpost := posts_dmmTaken s p f data
  have hdmm := exec_dmm (p := p) (data := data) hdel hhub hmay
  have hword := fun x => exec_directoryWordDmm (x := x) (p := p) (data := data) hdel hhub hmay
  generalize dmmTaken s p f data = u at *
  have hport : s.otherPorts u p := fun j hj => hpost.others j (by simpa using hj)
  have hsvc' : (u.dom d).st.inService = true := by rw [hpost.dom_st]; exact hsvc
  refine ⟨fun x r hw hx hxd hxl hr hline hmat hdrop hdirty hflow hsnoop => ?line,
    fun m rt tgt q hx hm hreg hreach => ?merge,
    fun x r hw hr hop hwb hwd hph haw hdrop hpoi htag hown hmir hzero => ?word⟩
  case line =>
    obtain ⟨k, o, hsnoop⟩ := hsnoop
    obtain ⟨-, hsl, hnum⟩ := mem_of_trk hx
    obtain ⟨ts, hts, htrk, hother⟩ := putTrk_in_place (s := s) (u := u) (x := x)
      (y := { x with awaits := x.awaits.erase .line, got := some data, poison := f.poi }) hpost.home hwbs
      (by rw [hxd]; exact hsvc') (by rw [hsl, hnum, hx])
    refine ⟨_, (hdmm hw).trans ?_, (congrArg₂ (State.trk _) hsl hnum).symm.trans htrk, ?_, hport, hpost.homeOnly⟩
    · rw [dmmHome_tracker (by rw [hpost.trk]; exact hx) hxd hxl hline hmat, onLine_of_snoop (hpost.inert hin)
        (stopped_of_inService (by rw [hxd]; exact hsvc')) hr hdrop hdirty hflow hsnoop, hts]
    · rw [hsl, hnum] at hother
      exact hother
  case merge =>
    have hfind := List.find?_some hm
    simp only [Bool.and_eq_true, beq_iff_eq] at hfind
    obtain ⟨⟨hmd, hml⟩, -⟩ := hfind
    have hum : u.home.merges.find? (fun m => m.dom == d && m.laddr == f.laddr && m.drain == 1) = some m := by
      rw [hpost.home, hm]
    obtain ⟨h, k, hmerge, hplaced⟩ := mergeData_spec (s := u) (m := m) (q := q) (hpost.inert hin)
      (List.mem_of_find?_eq_some hum) (by rw [hmd]; exact f.h.dom.isLt) (by rw [hpost.region, hmd, hml]; exact hreg)
      (by rw [hmd]; exact hpost.reaches hreach) f.poi data
    exact ⟨_, mkMrq u h .mwr 6 0 m.laddr m.sl k (m.poison || f.poi), (hdmm (answerTrk_of_free hx _)).trans
      (by rw [dmmHome_merge (by rw [hpost.trk]; exact hx) hum]), hmerge, hpost.placed_after hplaced, rfl, rfl, rfl, hml,
      rfl⟩
  case word =>
    obtain ⟨hx, hxd⟩ := trk_of_wordTrk hw
    obtain ⟨-, hsl, hnum⟩ := mem_of_trk hx
    have hreads : ReadsUnheld u { x with awaits := x.awaits.erase .word } r :=
      { inService := by show (u.dom x.dom).st.inService = true; rw [hxd]; exact hsvc'
        mirrored := by show u.localMirrored x.dom = []; rw [hpost.localMirrored, hxd]; exact hmir
        req := hr, op := hop, wb := hwb, wbData := hwd, awaits := by rw [haw]; rfl, drop := hdrop }
    obtain ⟨v, t, hfill, hend, htrk, hway, hother, hports, honly⟩ := hreads.filled (z := x) (hpost.inert hin)
      (by rw [hpost.arr, htag]) (by rw [hpost.arr, hown]) (by rw [hpost.home, hwbs])
      (by rw [hpost.trk, ← hx, ← hsl, ← hnum]) false
    have hon := onWord_of_zero (s := u) (x := x) (data := data) (hpost.inert hin)
      (by rw [hpost.dirLine, hxd]; exact hzero) hfill
    refine ⟨t, _, (hword x hw).trans ?_, (congrArg₂ (State.trk t) hsl hnum).symm.trans htrk, hr, rfl, rfl, ?_, hway,
      fun i k hik => ?_, fun j hj => ?_, hpost.homeOnly.trans honly⟩
    · rw [hpoi, hon, hend]
    · exact hreads.awaits
    · rw [hother i k (by rw [hsl, hnum]; exact hik), hpost.trk]
    · rw [State.port, hports]
      exact hport j hj

end Sys2Proof.Machine
end

section
/-!
SUPPORT. A request of an agent that takes a tracker at its home here (O46, O47).
-/
namespace Sys2Proof.Machine

/-! ## On its way to its line (R80, R146, R151, R221) -/

/-- A request at its home: its domain is STARTED, slice sl serves its line, which nothing is at work on and which
belongs to a region of type rt and target tgt, and its quota admits it to tracker n. -/
structure AtHome (s : State) (r : Req) (sl n tgt : Nat) (rt : RType) : Prop where
  inert : s.inert
  started : (s.dom r.h.dom.toNat).st = .started
  epoch : r.h.epoch = (s.dom r.h.dom.toNat).epoch
  homes : s.homes r.h.dom.toNat r.f.laddr sl
  region : s.region r.h.dom.toNat (lineAddr r.f.laddr 0) = some (rt, tgt)
  admits : quotaAdmits s sl r.h.dom.toNat false = some n

theorem State.Posts.atHome {s t : State} {P : List Nat} {d : Nat} {l : List (Nat × Msg)} (h : s.Posts t P d l)
    {r : Req} {sl n tgt : Nat} {rt : RType} (hr : AtHome s r sl n tgt rt) : AtHome t r sl n tgt rt where
  inert := h.inert hr.inert
  started := (h.dom_st _).trans hr.started
  epoch := hr.epoch.trans (h.dom_epoch _).symm
  homes := h.homes hr.homes
  region := (h.region _ _).trans hr.region
  admits := (h.quotaAdmits _ _ _).trans hr.admits

/-- The turns of the slices are nothing to a request at its home. -/
theorem AtHome.turned {s : State} {r : Req} {sl n tgt : Nat} {rt : RType} (h : AtHome s r sl n tgt rt) (tn : Tbl Nat) :
    AtHome (s.updHome fun k => { k with turn := tn }) r sl n tgt rt :=
  ⟨h.inert, h.started, h.epoch, h.homes, h.region, h.admits⟩

/-- A request that region type rt allows, with no ticket, its fields in order, and not for an order gate. -/
structure WellFormed (s : State) (r : Req) (rt : RType) : Prop where
  single : r.op ≠ .wrp ∧ r.op ≠ .cure
  mask : r.mask = 0
  ticket : r.f.tkv = false
  aperture : inAperture (reqAddr r) = false
  ungated : gated s r = false
  fields : badFields r = false
  aligned : misaligned r = false
  allowed : ∀ u, opAllowed u r rt = true

theorem State.Posts.gated {s t : State} {P : List Nat} {d : Nat} {l : List (Nat × Msg)} (h : s.Posts t P d l)
    (r : Req) : gated t r = gated s r := by simp only [Machine.gated, h.region]

/-- A request that needs no PMK is served as it came (R89). -/
theorem agentReq_of_sender {s : State} {r : Req} (hs : s.sender r.port r.h) (hpmk : (s.port r.port).rx.pmk = [])
    (hop : r.op ≠ .wrp) (hmask : r.mask = 0) {P : List Nat} (hP : r.port ∈ P) :
    ∃ u, s.Posts u P r.h.dom.toNat [] ∧ agentReq s r.port r.op r.h r.f r.data = agentServe u r := by
  obtain ⟨hp, ⟨-, hup, hdis, hmem⟩, hdan, -, hcons, -⟩ := hs
  obtain ⟨hdom, hsent⟩ := hmem hp
  obtain ⟨a, ha⟩ := Option.isSome_iff_exists.1 hsent
  obtain ⟨v, hv, hdeliv⟩ : ∃ v, (if foreRuns (takeMsg s r.port (.req r.op r.h r.f r.data)) r.port
      then reqDelivered (takeMsg s r.port (.req r.op r.h r.f r.data)) r.port
      else takeMsg s r.port (.req r.op r.h r.f r.data)) = v ∧ s.Posts v P r.h.dom.toNat [] :=
    ⟨_, rfl, (posts_takeMsg hP _).after (posts_ite (posts_reqDelivered hP) (.refl _ _ _))⟩
  have hret := hdeliv.after (posts_returnCredit hP .req r.h.dom.toNat)
  have hdrop : dropConsent (returnCredit v r.port .req r.h.dom.toNat) r.port (.req r.op r.h r.f r.data) r.f.laddr
      = returnCredit v r.port .req r.h.dom.toNat := by
    rw [dropConsent, hret.mem, hcons, if_neg Bool.false_ne_true]
  have hall := hret.after (posts_statAdd (P := P) (d := r.h.dom.toNat) 0)
  have hmatch : matchPmk s r.port (.req r.op r.h r.f r.data) = (none, s) := by simp [matchPmk, hpmk]
  refine ⟨_, hall, ?_⟩
  unfold agentReq
  dsimp only
  rw [hmatch, hdom, ha]
  dsimp only
  rw [hv, hdrop, if_neg (by simp [hdan]), hall.discards, hdis, if_neg Bool.false_ne_true, if_neg (fun h => hop h.1),
    hdr_eq_own hdan rfl ((hall.dom_epoch _).trans (epoch_of_discards hdis).symm), Option.getD_none, ← hmask]

/-- A request of an agent of a STARTED domain goes to its home, which is this hub, beside no order gate (R221). -/
theorem agentServe_of_wellFormed {s : State} {r : Req} {sl n tgt : Nat} {rt : RType} (h : AtHome s r sl n tgt rt)
    (hr : WellFormed s r rt) {P : List Nat} (hP : r.port ∈ P) :
    ∃ u, s.Posts u P r.h.dom.toNat [] ∧ agentServe s r = homeReq u r := by
  obtain ⟨v, hv, hopens⟩ : ∃ v, (if isWrite r.op then s.updPort r.port fun q =>
      { q with opens := q.opens ++ [(r.f.stream, r.h.tid)] } else s) = v ∧ s.Posts v P r.h.dom.toNat [] :=
    ⟨_, rfl, posts_ite (posts_updPort hP rfl rfl rfl (.refl _)) (.refl _ _ _)⟩
  obtain ⟨u, hu, hupgs⟩ : ∃ u, (if r.op = .upg then v.updPort r.port fun q =>
      { q with upgs := q.upgs ++ [(r.h.tid, r.f.laddr)] } else v) = u ∧ v.Posts u P r.h.dom.toNat [] :=
    ⟨_, rfl, posts_ite (posts_updPort hP rfl rfl rfl (.refl _)) (.refl _ _ _)⟩
  have hall := hopens.after hupgs
  obtain ⟨hhub, -⟩ := (hall.atHome h).homes
  refine ⟨u, hall, ?_⟩
  unfold agentServe
  dsimp only
  rw [hv, hu, if_neg hr.single.2, if_neg (not_not.2 (hall.atHome h).started), hall.gated, hr.ungated,
    if_neg Bool.false_ne_true, route, hr.aperture, if_neg Bool.false_ne_true, if_pos hhub]

/-- A request of a sender is served with the tracker that its quota admits it to (R146 to R148). -/
theorem agentReq_of_atHome {s : State} {r : Req} {sl n tgt : Nat} {rt : RType} (hs : s.sender r.port r.h)
    (hpmk : (s.port r.port).rx.pmk = []) (h : AtHome s r sl n tgt rt) (hr : WellFormed s r rt) {P : List Nat}
    (hP : r.port ∈ P) : ∃ u, s.Posts u P r.h.dom.toNat [] ∧
      agentReq s r.port r.op r.h r.f r.data = serve u (newTrk u r sl n none) r rt := by
  obtain ⟨v, hv, hreq⟩ := agentReq_of_sender hs hpmk hr.single.1 hr.mask hP
  obtain ⟨u, hu, hserve⟩ := agentServe_of_wellFormed (hv.atHome h)
    { hr with ungated := (hv.gated r).trans hr.ungated } hP
  have hall := hv.after hu
  have hhome := hall.atHome h
  refine ⟨u, hall, ?_⟩
  calc agentReq s r.port r.op r.h r.f r.data
    _ = homeReq u r := hreq.trans hserve
    _ = lookup u r rt := homeReq_of_allowed hhome.inert hr.fields hhome.region (hr.allowed u) hr.aligned
    _ = _ := lookup_of_idle hhome.homes hhome.started hr.ticket hhome.admits

/-! ## The row (R151) -/

theorem exec_reqCmd (op : ReqOp) (p : Fin 20) (h : Hdr) (f : ReqF) (data : Line) (s : State) :
    exec (reqCmd op p h f data) s = .next (reqRow s p op h f (reqLine op data)) := by cases op <;> rfl

/-- t is s after a request from port p has taken tracker x of slice sl and placed the messages of l. Beside these,
only ports of P and the statistics of domain d differ, and the turn of slice sl. -/
structure State.Took (s t : State) (p sl : Nat) (x : Tracker) (P : List Nat) (d : Nat) (l : List (Nat × Msg)) :
    Prop where
  trk : t.trk x.sl x.num = some x
  home : t.home = { s.home with trackers := s.home.trackers ++ [x], turn := t.home.turn }
  turn : sl < 17 → t.home.turn = tset s.home.turn sl p
  queue : ∀ j, (t.port j).tx.q = (s.port j).tx.q ++ postsTo l j
  only : s.homeOnly t
  others : ∀ j, j ∉ P → t.port j = s.port j
  doms : ∀ e, e ≠ d → t.dom e = s.dom e

/-- A request of a sender is served in a state u in which only the turn of its slice has moved and its port has been
dealt with; the tracker x that its service adds is what the row adds. -/
theorem exec_reqCmd_of_atHome {s : State} {p : Fin 20} {h : Hdr} {f : ReqF} {data : Line} {op : ReqOp}
    {sl n tgt : Nat} {rt : RType} (hs : s.sender p h) (hpmk : (s.port p).rx.pmk = [])
    (hm : mayTake s p (.req op h f (reqLine op data)) = true)
    (hh : AtHome s ⟨op, p, h, f, reqLine op data, 0⟩ sl n tgt rt)
    (hr : WellFormed s ⟨op, p, h, f, reqLine op data, 0⟩ rt) {P : List Nat} (hP : p.val ∈ P) :
    ∃ tn u, (s.updHome fun k => { k with turn := tn }).Posts u P h.dom.toNat [] ∧
      AtHome u ⟨op, p, h, f, reqLine op data, 0⟩ sl n tgt rt ∧
      ∀ v x l, u.Posts v P h.dom.toNat l → x.sl = sl → x.num = n →
        serve u (newTrk u ⟨op, p, h, f, reqLine op data, 0⟩ sl n none) ⟨op, p, h, f, reqLine op data, 0⟩ rt
          = (v.updHome fun k => { k with trackers := k.trackers ++ [x] }) →
        ∃ t, exec (reqCmd op p h f data) s = .next t ∧ s.Took t p sl x P h.dom.toNat l := by
  have ⟨hp, _, _, _, _, hwbs, _⟩ := hs
  obtain ⟨hhub, hslice, -⟩ := hh.homes
  have hlane : reqLane s p op h f = sl := by
    have haper : toAper p f = false := by
      rw [toAper, Bool.and_eq_false_iff]
      exact .inr hr.aperture
    rw [reqLane, haper, if_neg (by simp [hr.single.2]), if_pos hhub, hslice, Option.getD_some]
  obtain ⟨tn, hturn, htn⟩ := noteTurn_eq hlane
  obtain ⟨u, hu, hreq⟩ := agentReq_of_atHome (s := s.updHome fun k => { k with turn := tn })
    (r := ⟨op, p, h, f, reqLine op data, 0⟩) hs hpmk (hh.turned tn) { hr with ungated := hr.ungated } hP
  refine ⟨tn, u, hu, hu.atHome (hh.turned tn), fun v x l hv hsl hnum hserve =>
    ⟨v.updHome fun k => { k with trackers := k.trackers ++ [x] }, ?_, ?_⟩⟩
  · have hempty : (v.updHome fun k => { k with trackers := k.trackers ++ [x] }).home.wbs = [] := by
      rw [State.updHome_home, hv.home, hu.home]
      exact hwbs
    rw [exec_reqCmd, reqRow, hm, Bool.not_true, if_neg Bool.false_ne_true]
    dsimp only
    rw [if_pos hp, hturn, serveStore_of_empty (s := s.updHome fun k => { k with turn := tn }) hwbs]
    exact congrArg Host.Outcome.next
      ((congrArg serveStore (hreq.trans hserve)).trans (serveStore_of_empty hempty))
  · have hall := hu.after hv
    have hhome : v.home = { s.home with turn := tn } := hall.home
    exact {
      trk := trk_updHome_append v (by rw [hall.trk, hsl, hnum]; exact trk_of_quotaAdmits hh.admits)
      home := by rw [State.updHome_home, hhome]
      turn := by
        rw [State.updHome_home, hhome]
        exact htn
      queue := fun j => congrArg Tx.q (hall.tx j)
      only := State.homeOnly.trans (t := s.updHome fun k => { k with turn := tn }) rfl hall.homeOnly
      others := hall.others
      doms := hall.doms }

end Sys2Proof.Machine
end

section
/-!
SUPPORT. A request to a non-coherent line (O46).
-/
namespace Sys2Proof.Machine

/-! ## An ATM at a target that carries out none (R212, R213, R233) -/

/-- The line of a request is read with the MRQ credit that is free (R157). -/
theorem NcReady.readLine {s : State} {x : Tracker} {r : Req} {tgt q : Nat} (h : NcReady s x r tgt q)
    (htgt : tgt ≠ 0x7F) : readLine x s r = ({ x with phase := .collect, awaits := x.awaits ++ [.line] },
      sendAgent s x.dom tgt (.mrq (mkMrq s r.h .mrd 6 0 r.f.laddr x.sl x.num false) 0)) := by
  have hready : NcReady s { x with phase := .collect } r tgt q :=
    ⟨h.inert, h.req, h.dom, h.line, h.epoch, h.target, h.mrqs, h.reaches, h.credit⟩
  unfold Machine.readLine
  dsimp only
  rw [h.target, if_neg htgt, h.reqHdr]
  exact congrArg (fun e : Tracker × State => ({ e.1 with awaits := e.1.awaits ++ [Await.line] }, e.2))
    (hready.trkMrq .mrd 6 0 0)

/-- The tracker of an ATM that is carried out at the home, of whose line no holder is on record. -/
def Tracker.atmHere (x : Tracker) (forced : Bool) : Tracker :=
  { x with fwd := none, held := false, gone := [], flow := .atmHome forced, owner := none, phase := .collect,
           dropLine := false }

/-- An ATM that its lookup has placed at the home, and whose line no holder has, reads the line. -/
theorem decideFlow_atmHome (s : State) (x : Tracker) {r : Req} (hop : r.op = .atm) (forced : Bool) :
    decideFlow { x with flow := .atmHome forced } s r [] [] false
      = progress (readLine (x.atmHere forced) s r).1 (readLine (x.atmHere forced) s r).2 := by
  simp [decideFlow, hop, atmDecided, decideWrite, snoopAll, snoopOrder, Tracker.atmHere]

/-- A target that carries out no atomics leaves an ATM to the home (R213). -/
theorem atmLookupFlow_of_matc {s : State} {x : Tracker}
    (h : ∀ a, s.agent x.dom (lineTgt s x) = some a → a.matc = false) :
    atmLookupFlow s x = .atmHome ((s.dom x.dom).par.atmp.toNat != 0) := by
  cases ha : s.agent x.dom (lineTgt s x) with
  | none => simp [atmLookupFlow, atmPlacement, ha]
  | some a => simp [atmLookupFlow, atmPlacement, ha, h a ha]

theorem NcReady.ncStart_atm {s : State} {x : Tracker} {r : Req} {tgt q : Nat} (h : NcReady s x r tgt q)
    (hop : r.op = .atm) (htgt : tgt ≠ 0x7F) (haw : x.awaits = []) (hd : (s.dom x.dom).st.inService = true)
    (forced : Bool) : ∃ y, NcStarted x y r ∧ Machine.ncStart s { x with flow := .atmHome forced } r
      = putTrk (sendAgent s x.dom tgt (.mrq (ncMrq s r x.sl x.num).1 (ncMrq s r x.sl x.num).2)) y := by
  have hready : NcReady s (x.atmHere forced) r tgt q :=
    ⟨h.inert, h.req, h.dom, h.line, h.epoch, h.target, h.mrqs, h.reaches, h.credit⟩
  have hread := hready.readLine htgt
  have hmrq : ncMrq s r x.sl x.num = (mkMrq s r.h .mrd 6 0 r.f.laddr x.sl x.num false, 0) := by
    rw [ncMrq, hop]
  have hpost := posts_sendAgent (m := .mrq (mkMrq s r.h .mrd 6 0 r.f.laddr x.sl x.num false) 0) h.reaches
    (List.mem_singleton_self q) h.dom (fun h => nomatch h)
  have hstart : ∀ y, Machine.ncStart s y r = decideFlow y s r [] [] false := fun y => by
    unfold Machine.ncStart
    dsimp only
    rw [hop]
  refine ⟨{ x.atmHere forced with awaits := x.awaits ++ [.line] }, ⟨⟨rfl, rfl, rfl, rfl⟩, h.req, rfl, ?_⟩, ?_⟩
  · rw [haw, hop]
    rfl
  · rw [hstart, decideFlow_atmHome s x hop, hread, hmrq]
    exact progress_of_line (x := { x.atmHere forced with awaits := x.awaits ++ [.line] }) h.req
      (stopped_of_inService ((congrArg DomSt.inService (hpost.dom_st _)).trans hd)) (by simp) rfl

/-! ## Its service -/

/-- A request to an NC line with its tracker taken starts at once, for an ATM with its placement decided (R212). -/
theorem serve_nc {s : State} {r : Req} (hs : s.inert) (hop : r.op ≠ .wrp) (hmerges : s.home.merges = [])
    (hmbq : (s.dom r.h.dom.toNat).par.mbq = 0) (x : Tracker) : serve s x r .nc
      = ncStart s (if r.op = .atm then { x with req := some r, flow := atmLookupFlow s { x with req := some r } }
          else { x with req := some r }) r := by
  unfold serve
  dsimp only
  rw [hs.storeLine, ite_self, if_neg fun h : r.op = .wrp ∧ r.mask = BitVec.allOnes 64 => hop h.1]
  exact ncLookup_of_unmerged hop hmerges hmbq _

/-- The tracker that a request takes at its lookup starts it (R172, R233). -/
theorem AtHome.serve_nc {s : State} {r : Req} {sl n tgt q : Nat} (h : AtHome s r sl n tgt .nc)
    (hop : r.op ∈ [.rdc, .rnc, .wnc, .wrl, .atm]) (htgt : tgt ≠ 0x7F)
    (hmatc : ∀ a, s.agent r.h.dom.toNat tgt = some a → a.matc = false) (hreach : s.reaches r.h.dom.toNat tgt q)
    (hc : creditFree s q .mrq r.h.dom.toNat = true) : ∃ y, NcStarted (newTrk s r sl n none) y r ∧
      serve s (newTrk s r sl n none) r .nc
        = putTrk (sendAgent s r.h.dom.toNat tgt (.mrq (ncMrq s r sl n).1 (ncMrq s r sl n).2)) y := by
  obtain ⟨-, -, -, -, -, hmerges, hmbq⟩ := h.homes
  have hsvc : (s.dom r.h.dom.toNat).st.inService = true := by rw [h.started]; rfl
  have hlineTgt : lineTgt s (newTrk s r sl n none) = tgt := by
    have hreg : s.region (newTrk s r sl n none).dom (lineAddr (newTrk s r sl n none).laddr 0) = some (.nc, tgt) :=
      h.region
    rw [lineTgt, hreg]
  have hready : ∀ fl, NcReady s { newTrk s r sl n none with flow := fl } r tgt q := fun _ =>
    ⟨h.inert, rfl, rfl, rfl, h.epoch, hlineTgt, rfl, hreach, hc⟩
  have hwrp : r.op ≠ .wrp := fun hw => absurd (hw ▸ hop) (by decide)
  rw [Machine.serve_nc h.inert hwrp hmerges hmbq]
  by_cases hatm : r.op = .atm
  · have hflow := atmLookupFlow_of_matc (x := newTrk s r sl n none) (by rw [hlineTgt]; exact hmatc)
    rw [if_pos hatm]
    exact hflow ▸ (hready .undecided).ncStart_atm hatm htgt rfl hsvc _
  · rw [if_neg hatm]
    have hop' : r.op ∈ [.rdc, .rnc, .wnc, .wrl] := by simpa [hatm] using hop
    exact (hready .undecided).ncStart hop'

theorem State.Posts.ncMrq {s t : State} {P : List Nat} {d : Nat} {l : List (Nat × Msg)} (h : s.Posts t P d l)
    (r : Req) (sl n : Nat) : ncMrq t r sl n = ncMrq s r sl n := by
  simp only [Machine.ncMrq, mkMrq, h.hubId]

theorem opAllowed_nc (s : State) {r : Req} (hop : r.op ∈ [.rdc, .rnc, .wnc, .wrl, .atm]) :
    opAllowed s r .nc = true := by
  unfold opAllowed
  simp only [List.mem_cons, List.not_mem_nil, or_false] at hop
  rcases hop with h | h | h | h | h
  all_goals
    rw [h]

/-- Settles O46: the request takes its tracker, which sends its MRQ with the credit that is free. -/
theorem ncRequestsReachMemory : Obligations.NcRequestsReachMemory := by
  unfold Obligations.NcRequestsReachMemory
  intro s p h f data op sl n tgt q hop d r hs hpmk hin htkv haper hgate hbad hal hh hm hreg htgt hmatc hreach hc hadm
  have ⟨_, ⟨_, _, hdis, _⟩, _, hst, _⟩ := hs
  have hhome : AtHome s r sl n tgt .nc := ⟨hin, hst, epoch_of_discards hdis, hh, hreg, hadm⟩
  have hsingle : ∀ o ∈ [ReqOp.rdc, .rnc, .wnc, .wrl, .atm], o ≠ .wrp ∧ o ≠ .cure := by decide
  obtain ⟨tn, u, hu, huhome, hrow⟩ := exec_reqCmd_of_atHome (data := data) hs hpmk hm hhome
    ⟨hsingle op hop, rfl, htkv, haper, hgate, hbad, hal, fun u => opAllowed_nc u hop⟩ (P := [p.val, q]) (by simp)
  have hcredit : creditFree u q .mrq d = true := (hu.creditFree (by simp [postsTo])).trans hc
  obtain ⟨x, hx, hserve⟩ := huhome.serve_nc hop htgt (fun a ha => hmatc a ((hu.agent _ _).symm.trans ha))
    (hu.reaches hreach) hcredit
  have hpost := posts_sendAgent (P := [p.val, q]) (m := .mrq (ncMrq u r sl n).1 (ncMrq u r sl n).2)
    (hu.reaches hreach) (by simp) (congrArg (fun h : Hdr => h.dom.toNat) (ncMrq_hdr u r sl n)) (fun h => nomatch h)
  obtain ⟨hsl, hnum, hdom, hline⟩ := hx.place
  rw [putTrk_of_new (by rw [hdom]; exact (congrArg DomSt.inService ((hpost.dom_st d).trans huhome.started)))
    (by rw [hpost.trk, hsl, hnum]; exact trk_of_quotaAdmits huhome.admits)] at hserve
  obtain ⟨t, hexec, htook⟩ := hrow _ x _ hpost hsl hnum hserve
  refine ⟨t, x, hexec, ?_, htook.home, htook.turn, hdom, hline, hx.req, hx.phase, hx.awaits, ?_, htook.only,
    fun j hp hq => htook.others j (by simp [hp, hq]), htook.doms⟩
  · exact (congrArg₂ (State.trk t) hsl hnum).symm.trans htook.trk
  · rw [State.placed, htook.queue, postsTo_singleton_same, hu.ncMrq]
    rfl

end Sys2Proof.Machine
end

section
/-!
SUPPORT. A request to a coherent line whose directory word the cache misses (O47).
-/
namespace Sys2Proof.Machine

/-! ## An MRQ of a tracker, whatever its port's credits (R157) -/

/-- Tracker x with other MRQs waiting. -/
def Tracker.withMrqs (x : Tracker) (ws : List MrqWait) : Tracker := { x with mrqs := ws }

/-- The MRQ goes to the port of its agent, or it waits in its tracker. -/
theorem trkMrq_goes_or_waits {s : State} {x : Tracker} {dan q : Nat} {f : MrqF} (h : s.reaches x.dom dan q)
    (hd : f.h.dom.toNat = x.dom) (hpoi : f.poi = false) (data : Line) {P : List Nat} (hP : q ∈ P) :
    ∃ ws v l, trkMrq s x dan f data = (x.withMrqs ws, v) ∧ s.Posts v P x.dom l ∧
      (⟨dan, f, data⟩ ∈ ws ∨ l = [(q, .mrq f data)]) := by
  have ⟨hport, _, hup, _⟩ := h
  by_cases hfree : x.mrqs.isEmpty = true ∧ creditFree s q .mrq x.dom = true
  · obtain ⟨hnone, hc⟩ := hfree
    exact ⟨x.mrqs, _, _, trkMrq_of_credit hport (List.isEmpty_iff.1 hnone) hc hpoi data,
      posts_sendAgent (m := .mrq f data) h hP hd (fun h => nomatch h), .inr rfl⟩
  · refine ⟨x.mrqs ++ [⟨dan, f, data⟩], s, [], ?_, .refl s P x.dom, .inl (by simp)⟩
    have hwaits : (x.mrqs.isEmpty && (creditFree s q .mrq x.dom || !s.up q)) = false := by
      rw [hup, Bool.not_true, Bool.or_false, Bool.and_eq_false_iff]
      simpa [or_iff_not_imp_left] using hfree
    simp only [trkMrq, outPort_of_agentPort hport, hwaits]
    rfl

/-! ## The lookup (R151, R168, R169) -/

/-- No word of a line of domain d is at this hub: no local agent can hold a line, and the directory cache is empty.
Port q leads to the memory agent of the directory and holds a credit, port q2 to the memory agent tgt of the line. -/
structure DirMisses (s : State) (d tgt q q2 : Nat) : Prop where
  mirrored : s.localMirrored d = []
  tag : s.arr.tag = []
  owner : s.arr.owner = []
  dir : s.reaches d (s.dom d).par.dirTgt q
  credit : creditFree s q .mrq d = true
  target : s.reaches d tgt q2

theorem State.Posts.dirMisses {s t : State} {P : List Nat} {d tgt q q2 : Nat} (h : s.Posts t P d [])
    (hs : DirMisses s d tgt q q2) : DirMisses t d tgt q q2 where
  mirrored := (h.localMirrored d).trans hs.mirrored
  tag := (congrArg Arrays.tag h.arr).trans hs.tag
  owner := (congrArg Arrays.owner h.arr).trans hs.owner
  dir := by
    rw [h.dom_par]
    exact h.reaches hs.dir
  credit := (h.creditFree (by simp [postsTo])).trans hs.credit
  target := h.reaches hs.target

/-- What a request that misses its directory word awaits: a read awaits its line with it (R169). -/
def missAwaits (r : Req) : List Await := if r.op = .rds ∨ r.op = .rdo ∨ r.op = .rdc then [.word, .line] else [.word]

/-- The MRQ that reads the directory word of the line of a request (R121, R168). -/
def wordMrq (s : State) (r : Req) (sl n : Nat) : MrqF :=
  let w := dirLine s r.h.dom.toNat r.f.laddr
  mkMrq s r.h .mrd 3 w.2 w.1 sl n false

/-- The MRQ that reads the line of a request (R169). -/
def lineMrq (s : State) (r : Req) (sl n : Nat) : MrqF := mkMrq s r.h .mrd 6 0 r.f.laddr sl n false

theorem State.Posts.wordMrq {s t : State} {P : List Nat} {d : Nat} {l : List (Nat × Msg)} (h : s.Posts t P d l)
    (r : Req) (sl n : Nat) : wordMrq t r sl n = wordMrq s r sl n := by
  simp only [Machine.wordMrq, mkMrq, h.dirLine, h.hubId]

theorem State.Posts.lineMrq {s t : State} {P : List Nat} {d : Nat} {l : List (Nat × Msg)} (h : s.Posts t P d l)
    (r : Req) (sl n : Nat) : lineMrq t r sl n = lineMrq s r sl n := by
  simp only [Machine.lineMrq, mkMrq, h.hubId]

/-- Tracker x while it reads its line's word. -/
def Tracker.readingWord (x : Tracker) : Tracker := { x with phase := .dirread, awaits := [.word] }

/-- Tracker x while it awaits what a awaits, with ws waiting for credits. -/
def Tracker.missing (x : Tracker) (a : List Await) (ws : List MrqWait) : Tracker :=
  { x with phase := .dirread, awaits := a, mrqs := ws }

/-- The read of a line that goes together with the read of its word (R169). -/
def pairRead (s : State) (x : Tracker) (tgt : Nat) (f : MrqF) : State :=
  let (y, s) := trkMrq s x tgt f 0
  putTrk s { y with awaits := y.awaits ++ [.line] }

/-- A miss reads the directory word, which leaves state v; RDS, RDO and RDC then read their line too. -/
theorem coLookup_eq {s v : State} {x : Tracker} {r : Req} (hs : s.inert) (hmir : s.localMirrored x.dom = [])
    (htag : s.arr.tag = []) (hown : s.arr.owner = []) (hst : stopped s x.dom = false) (hop : r.op ≠ .wrp)
    (hvic : victimOf (statAdd s x.dom 4) x.sl x.dom x.laddr = none)
    (hword : trkMrq (statAdd s x.dom 4) x.readingWord ((statAdd s x.dom 4).dom x.dom).par.dirTgt
      (mkMrq (statAdd s x.dom 4) (reqHdr (statAdd s x.dom 4) r) .mrd 3 (dirLine (statAdd s x.dom 4) x.dom x.laddr).2
        (dirLine (statAdd s x.dom 4) x.dom x.laddr).1 x.sl x.num false) 0 = (x.readingWord, v)) : coLookup s x r
      = if r.op = .rds ∨ r.op = .rdo ∨ r.op = .rdc then
          pairRead v x.readingWord (lineTgt v x.readingWord) (mkMrq v (reqHdr v r) .mrd 6 0 x.laddr x.sl x.num false)
        else putTrk v x.readingWord := by
  rw [Tracker.readingWord] at hword
  unfold coLookup
  dsimp only
  rw [strHolders_of_none hmir]
  dsimp only
  rw [hs.dirLookup_empty htag hown hst]
  dsimp only
  rw [hvic, if_neg (by simp)]
  dsimp only
  rw [hword]
  dsimp only
  by_cases hpair : r.op = .rds ∨ r.op = .rdo ∨ r.op = .rdc
  · rw [if_pos hpair, if_pos (by simpa [hop, or_assoc] using hpair)]
    rfl
  · rw [if_neg hpair, if_neg (by simpa [hop, or_assoc] using hpair)]
    rfl

/-- The word is read with the credit that is free, and a read's line with it. -/
theorem coLookup_of_miss {s : State} {x : Tracker} {r : Req} {tgt q q2 : Nat} (hs : s.inert)
    (hm : DirMisses s x.dom tgt q q2) (hvic : s.home.victims = []) (hst : stopped s x.dom = false)
    (htgt : lineTgt s x = tgt) (hdom : r.h.dom.toNat = x.dom) (hladdr : r.f.laddr = x.laddr)
    (hep : r.h.epoch = (s.dom x.dom).epoch) (hmrqs : x.mrqs = []) (hop : r.op ≠ .wrp) {P : List Nat} (hq : q ∈ P)
    (hq2 : q2 ∈ P) : ∃ ws v l,
      s.Posts v P x.dom ((q, .mrq (wordMrq s r x.sl x.num) 0) :: l) ∧
      coLookup s x r = putTrk v (x.missing (missAwaits r) ws) ∧
      (.line ∈ missAwaits r →
        ⟨tgt, lineMrq s r x.sl x.num, 0⟩ ∈ ws ∨ l = [(q2, .mrq (lineMrq s r x.sl x.num) 0)]) := by
  have hstat := posts_statAdd (s := s) (P := P) (d := x.dom) 4
  have heq := fun v hvic hword => coLookup_eq (v := v) hs hm.mirrored hm.tag hm.owner hst hop hvic hword
  generalize statAdd s x.dom 4 = u at hstat heq
  have hmu := hstat.dirMisses hm
  have hhdr : ∀ v, (v.dom x.dom).epoch = (s.dom x.dom).epoch → reqHdr v r = r.h := fun v hv => by
    rw [reqHdr, hdom, hv, ← hep]
  have hword : mkMrq u (reqHdr u r) .mrd 3 (dirLine u x.dom x.laddr).2 (dirLine u x.dom x.laddr).1 x.sl x.num false
      = wordMrq s r x.sl x.num := by
    rw [hhdr u (hstat.dom_epoch _), ← hstat.wordMrq, wordMrq, hdom, hladdr]
  have hmrq := trkMrq_of_credit (x := x.readingWord) (f := wordMrq s r x.sl x.num) hmu.dir.1 hmrqs hmu.credit rfl 0
  have hsent : s.Posts (sendAgent u x.readingWord.dom (u.dom x.dom).par.dirTgt (.mrq (wordMrq s r x.sl x.num) 0)) P
      x.dom [(q, .mrq (wordMrq s r x.sl x.num) 0)] :=
    hstat.after (posts_sendAgent (m := .mrq (wordMrq s r x.sl x.num) 0) hmu.dir hq hdom (fun h => nomatch h))
  generalize sendAgent u x.readingWord.dom (u.dom x.dom).par.dirTgt (.mrq (wordMrq s r x.sl x.num) 0) = v
    at hsent hmrq
  have hline : mkMrq v (reqHdr v r) .mrd 6 0 x.laddr x.sl x.num false = lineMrq s r x.sl x.num := by
    rw [hhdr v (hsent.dom_epoch _), ← hsent.lineMrq, lineMrq, hladdr]
  have htgt' : lineTgt v x.readingWord = tgt := by
    rw [← htgt, lineTgt, hsent.region, lineTgt]
    rfl
  rw [heq v (by rw [victimOf, hstat.home, hvic]; rfl) (by rw [hword, hmrq]), hline, htgt']
  by_cases hpair : r.op = .rds ∨ r.op = .rdo ∨ r.op = .rdc
  · obtain ⟨ws, t, l, hsecond, hpost, hgoes⟩ := trkMrq_goes_or_waits (s := v) (f := lineMrq s r x.sl x.num)
      (x := x.readingWord) (hsent.reaches hm.target) hdom rfl 0 hq2
    rw [if_pos hpair, pairRead, hsecond, missAwaits, if_pos hpair]
    exact ⟨ws, t, l, hsent.trans hpost, rfl, fun _ => hgoes⟩
  · rw [if_neg hpair, missAwaits, if_neg hpair]
    exact ⟨[], v, [], hsent, by rw [Tracker.missing, ← hmrqs, Tracker.readingWord], fun h => by simp at h⟩

/-! ## Its service -/

theorem opAllowed_co (s : State) {r : Req} (hop : r.op ∈ [.rds, .rdo, .rdc, .upg, .wrl, .atm]) :
    opAllowed s r .co = true := by
  unfold opAllowed
  simp only [List.mem_cons, List.not_mem_nil, or_false] at hop
  rcases hop with h | h | h | h | h | h
  all_goals
    rw [h]

/-- A request to a CO line with its tracker taken is looked up, for an ATM with its placement decided (R212). -/
theorem serve_co {s : State} {r : Req} (hs : s.inert) (hop : r.op ≠ .wrp) (x : Tracker) :
    ∃ fl, serve s x r .co = coLookup s { x with req := some r, flow := fl } r := by
  refine ⟨if r.op = .atm then atmLookupFlow s { x with req := some r } else x.flow, ?_⟩
  unfold serve
  dsimp only
  rw [hs.storeLine, ite_self, if_neg fun h : r.op = .wrp ∧ r.mask = BitVec.allOnes 64 => hop h.1]
  rw [if_neg fun h : r.op = .wrp ∧ r.mask = 0 => hop h.1]
  by_cases hatm : r.op = .atm
  · rw [if_pos hatm, if_pos hatm]
    rfl
  · rw [if_neg hatm, if_neg hatm]
    rfl

/-- The tracker that a request takes at its lookup reads the directory word (R168, R169). -/
theorem AtHome.serve_co {s : State} {r : Req} {sl n tgt q q2 : Nat} (h : AtHome s r sl n tgt .co)
    (hm : DirMisses s r.h.dom.toNat tgt q q2) (hop : r.op ≠ .wrp) {P : List Nat} (hq : q ∈ P) (hq2 : q2 ∈ P) :
    ∃ x v l, s.Posts v P r.h.dom.toNat ((q, .mrq (wordMrq s r sl n) 0) :: l) ∧
      serve s (newTrk s r sl n none) r .co = (v.updHome fun k => { k with trackers := k.trackers ++ [x] }) ∧
      (x.sl = sl ∧ x.num = n) ∧ x.req = some r ∧ x.phase = .dirread ∧ x.awaits = missAwaits r ∧
      (.line ∈ x.awaits → ⟨tgt, lineMrq s r sl n, 0⟩ ∈ x.mrqs ∨ l = [(q2, .mrq (lineMrq s r sl n) 0)]) := by
  obtain ⟨-, -, -, -, hvic, -⟩ := h.homes
  have hsvc : (s.dom r.h.dom.toNat).st.inService = true := congrArg DomSt.inService h.started
  obtain ⟨fl, hserve⟩ := Machine.serve_co h.inert hop (newTrk s r sl n none)
  have htgt : lineTgt s { newTrk s r sl n none with flow := fl } = tgt := by
    have hreg : s.region (newTrk s r sl n none).dom (lineAddr (newTrk s r sl n none).laddr 0) = some (.co, tgt) :=
      h.region
    rw [lineTgt, hreg]
  obtain ⟨ws, v, l, hpost, hlook, hline⟩ := coLookup_of_miss (x := { newTrk s r sl n none with flow := fl })
    h.inert hm hvic (stopped_of_inService hsvc) htgt rfl rfl h.epoch rfl hop hq hq2
  have hput := putTrk_of_new (s := v)
    (x := { newTrk s r sl n none with flow := fl, phase := .dirread, awaits := missAwaits r, mrqs := ws })
    ((congrArg DomSt.inService (hpost.dom_st _)).trans hsvc) ((hpost.trk _ _).trans (trk_of_quotaAdmits h.admits))
  exact ⟨_, v, l, hpost, hserve.trans (hlook.trans hput), ⟨rfl, rfl⟩, rfl, rfl, rfl, hline⟩

/-- Settles O47: the request takes its tracker, which reads the directory word and, for a read, the line. -/
theorem coRequestsReadTheDirectory : Obligations.CoRequestsReadTheDirectory := by
  unfold Obligations.CoRequestsReadTheDirectory
  intro s p h f data op sl n tgt q q2 hop d r w hs hpmk hin htkv haper hbad hal hh hm hreg hmir htag hown hdir hc
    htgt hadm
  have ⟨_, ⟨_, _, hdis, _⟩, _, hst, _⟩ := hs
  have hhome : AtHome s r sl n tgt .co := ⟨hin, hst, epoch_of_discards hdis, hh, hreg, hadm⟩
  have hops : ∀ o ∈ [ReqOp.rds, .rdo, .rdc, .upg, .wrl, .atm],
      (o ≠ .wrp ∧ o ≠ .cure) ∧ (o == .rnc || o == .wnc) = false := by decide
  obtain ⟨hsingle, hdev⟩ := hops op hop
  have hgate : gated s r = false := by rw [gated, isDev, hdev, Bool.false_and]
  obtain ⟨tn, u, hu, huhome, hrow⟩ := exec_reqCmd_of_atHome (data := data) hs hpmk hm hhome
    ⟨hsingle, rfl, htkv, haper, hgate, hbad, hal, fun u => opAllowed_co u hop⟩ (P := [p.val, q, q2]) (by simp)
  have hmiss := hu.dirMisses (d := d) (tgt := tgt) (q := q) (q2 := q2) ⟨hmir, htag, hown, hdir, hc, htgt⟩
  obtain ⟨x, v, l, hpost, hserve, ⟨hsl, hnum⟩, hxr, hxp, hxa, hline⟩ := huhome.serve_co hmiss hsingle.1
    (P := [p.val, q, q2]) (by simp) (by simp)
  obtain ⟨t, hexec, htook⟩ := hrow v x _ hpost hsl hnum hserve
  rw [hu.lineMrq] at hline
  rw [hu.wordMrq] at htook
  refine ⟨t, x, postsTo l q, hexec, (congrArg₂ (State.trk t) hsl hnum).symm.trans htook.trk, htook.home, htook.turn,
    hxr, hxp, hxa, ?_, fun hmem => (hline hmem).imp_right fun hl => ?_, htook.only,
    fun j hp hq hq2 => htook.others j (by simp [hp, hq, hq2]), htook.doms⟩
  · rw [htook.queue, ← List.singleton_append, postsTo_append, postsTo_singleton_same]
    rfl
  · rw [htook.queue, ← List.singleton_append, postsTo_append, hl, postsTo_singleton_same]
    exact List.mem_append_right _ (List.mem_append_right _ (List.mem_singleton_self _))

end Sys2Proof.Machine
end

section
/-!
SUPPORT. A domain that has gone down stays so while the hub deals with what that means, its trackers go and no
error line does. The deadlines of the home (O55).
-/
namespace Sys2Proof.Machine

/-! ## What dealing with a domain down keeps (R199, R258) -/

/-- A domain is in the state it was, its down processing and its cause with it; no tracker has been added, and the
error lines that have risen stand. -/
structure State.DownStands (s t : State) (d : Nat) : Prop where
  st : (t.dom d).st = (s.dom d).st
  downing : (t.dom d).downing = (s.dom d).downing
  cause : (t.dom d).cause = (s.dom d).cause
  trackers : ∀ x ∈ t.home.trackers, x ∈ s.home.trackers
  lines : s.linesStand t

variable {s t u : State} {d : Nat}

theorem State.DownStands.refl (s : State) (d : Nat) : s.DownStands s d :=
  ⟨rfl, rfl, rfl, fun _ hx => hx, fun _ hl => hl⟩

theorem State.DownStands.trans (h : s.DownStands t d) (k : t.DownStands u d) : s.DownStands u d :=
  ⟨k.st.trans h.st, k.downing.trans h.downing, k.cause.trans h.cause, fun x hx => h.trackers x (k.trackers x hx),
    h.lines.trans k.lines⟩

theorem State.DownStands.domDown (h : s.DownStands t d) {cause : Nat} (hd : s.domDown d cause) :
    t.domDown d cause := by
  obtain ⟨hst, hdowning, hcause, hnone⟩ := hd
  exact ⟨h.st.trans hst, h.downing.trans hdowning, h.cause.trans hcause, fun x hx => hnone x (h.trackers x hx)⟩

theorem downStands_of_rest (hd : t.doms = s.doms) (hh : t.home.trackers = s.home.trackers) (hf : t.flt = s.flt) :
    s.DownStands t d := by
  have hdom := dom_of_doms hd d
  exact ⟨by rw [hdom], by rw [hdom], by rw [hdom], fun _ hx => hh ▸ hx, linesStand_of_flt hf⟩

theorem downStands_updDom (s : State) (d j : Nat) {f : Dom → Dom}
    (hf : ∀ q, (f q).st = q.st ∧ (f q).downing = q.downing ∧ (f q).cause = q.cause) :
    s.DownStands (s.updDom j f) d := by
  obtain ⟨hst, hdowning, hcause⟩ :
      ((s.updDom j f).dom d).st = (s.dom d).st ∧ ((s.updDom j f).dom d).downing = (s.dom d).downing ∧
        ((s.updDom j f).dom d).cause = (s.dom d).cause := by
    by_cases h : j = d
    · rw [h, s.updDom_dom_same]
      exact hf _
    · rw [s.updDom_dom_ne f h]
      exact ⟨rfl, rfl, rfl⟩
  exact ⟨hst, hdowning, hcause, fun _ hx => hx, linesStand_of_flt rfl⟩

theorem downStands_updPort (s : State) (d p : Nat) (f : Port → Port) : s.DownStands (s.updPort p f) d :=
  downStands_of_rest rfl rfl rfl

theorem downStands_updHome (s : State) (d : Nat) {f : Home → Home}
    (hf : ∀ h, ∀ x ∈ (f h).trackers, x ∈ h.trackers) : s.DownStands (s.updHome f) d :=
  ⟨rfl, rfl, rfl, hf s.home, linesStand_of_flt rfl⟩

theorem downStands_ite (c : Prop) [Decidable c] (ht : s.DownStands t d) (hu : s.DownStands u d) :
    s.DownStands (if c then t else u) d := by
  split
  · exact ht
  · exact hu

theorem downStands_foldl {α : Type} {f : State → α → State} (hf : ∀ (s : State) a, s.DownStands (f s a) d)
    (l : List α) (s : State) : s.DownStands (l.foldl f s) d := by
  induction l generalizing s with
  | nil => exact .refl s d
  | cons a l ih => exact (hf s a).trans (ih (f s a))

theorem downStands_raiseInj (s : State) (d src : Nat) (dom : Option Nat) (detail : Nat) (inj : Bool) :
    s.DownStands (raiseInj s src dom detail inj) d :=
  ⟨rfl, rfl, rfl, fun _ hx => hx, linesStand_raiseInj s src dom detail inj⟩

/-! ### Ports: link control, credits, RELEASE, notices, the end of a link -/

theorem downStands_placeCtl (s : State) (d p : Nat) (c : LinkCtl) : s.DownStands (placeCtl s p c) d :=
  downStands_ite _ (downStands_of_rest rfl rfl rfl) (.refl s d)

theorem downStands_returnCredit (s : State) (d p : Nat) (c : Cls) (k : Nat) :
    s.DownStands (returnCredit s p c k) d :=
  downStands_ite _ (downStands_of_rest rfl rfl rfl) (.refl s d)

theorem downStands_forgetCredits (s : State) (d p : Nat) : s.DownStands (forgetCredits s p) d := by
  have hdom := tget_tmap ({} : Dom) s.doms (fun _ q => { q with heldReqs := q.heldReqs.map fun e =>
    if e.2.port == p then (e.1, { e.2 with port := 20 }) else e }) d rfl
  exact ⟨(congrArg Dom.st hdom :), (congrArg Dom.downing hdom :), (congrArg Dom.cause hdom :), fun _ hx => hx,
    linesStand_of_flt rfl⟩

theorem downStands_placeRelease (s : State) (d p k : Nat) : s.DownStands (placeRelease s p k) d := by
  have hforget := downStands_forgetCredits s d p
  unfold placeRelease
  refine downStands_ite _ ?_ (hforget.trans (downStands_updPort _ d p _))
  exact (hforget.trans (downStands_placeCtl _ d p _)).trans (downStands_of_rest rfl rfl rfl)

theorem downStands_dropNotices (s : State) (d p : Nat) : s.DownStands (dropNotices s p) d := by
  have hrest : (dropNotices s p).doms = s.doms ∧ (dropNotices s p).home = s.home := by
    unfold dropNotices
    dsimp only
    (repeat' split) <;> exact ⟨rfl, rfl⟩
  obtain ⟨hdoms, hhome⟩ := hrest
  have hdom := dom_of_doms hdoms d
  exact ⟨by rw [hdom], by rw [hdom], by rw [hdom], fun _ hx => hhome ▸ hx, dropNotices_lines s p⟩

theorem downStands_mbFinish (s : State) (d m st de : Nat) (r : List Byte) :
    s.DownStands (mbFinish s m st de r) d :=
  downStands_of_rest (mbFinish_doms s m st de r) (by simp) (mbFinish_flt s m st de r)

theorem downStands_holdPort (s : State) (d p : Nat) (reason : BitVec 8) : s.DownStands (holdPort s p reason) d := by
  have hforget := (downStands_dropNotices s d p).trans (downStands_forgetCredits _ d p)
  unfold holdPort
  refine .trans ?_ (downStands_updPort _ d p _)
  split
  · exact hforget.trans (downStands_mbFinish _ d _ 8 0x301 [])
  · exact hforget

/-- The hub ends the link of a port with LINK_DOWN and reports it (R65). -/
theorem downStands_endLink (s : State) (d p : Nat) (reason : BitVec 8) :
    s.DownStands (raiseFatal (sendLinkDown s p reason) p reason) d := by
  unfold raiseFatal raiseFatalBy sendLinkDown sendDownAfter
  refine .trans ?_ (downStands_raiseInj _ d 2 _ _ false)
  refine .trans ?_ (downStands_holdPort _ d p reason)
  exact downStands_of_rest rfl rfl rfl

/-! ### Expulsion (R247) -/

theorem downStands_storeMem (s : State) (d m unit k : Nat) (o : Option Nat) :
    s.DownStands (storeMem s m unit k o) d := by
  obtain ⟨-, hdoms, -⟩ := (arraysOnly_storeMem s m unit k o).parts
  have hsame : { storeMem s m unit k o with arr := s.arr, integ := s.integ } = s :=
    arraysOnly_storeMem s m unit k o
  exact downStands_of_rest hdoms (congrArg (fun u : State => u.home.trackers) hsame :)
    (storeMem_ports_flt s m unit k o).2

theorem downStands_setShelf (s : State) (d b : Nat) (o : Option (Nat × Nat)) : s.DownStands (setShelf s b o) d := by
  unfold setShelf
  refine .trans ?_ (downStands_storeMem _ d 9 0 _ _)
  exact downStands_of_rest rfl rfl rfl

theorem downStands_putMap (s : State) (d k dan : Nat) (o : Option Agent) (stale : Dom → BitVec 128) :
    s.DownStands (putMap s k dan o stale) d := by
  unfold putMap
  refine .trans ?_ (downStands_storeMem _ d 9 0 _ _)
  exact downStands_updDom s d k fun _ => ⟨rfl, rfl, rfl⟩

theorem downStands_clearShelves (s : State) (d : Nat) (bs : List Nat) : s.DownStands (clearShelves s bs) d :=
  downStands_foldl (fun s b => downStands_of_rest (t := clearShelf s b) rfl rfl rfl) bs s

theorem downStands_leavePort (s : State) (d p k : Nat) : s.DownStands (leavePort s p k) d := by
  unfold leavePort
  refine .trans ?_ (downStands_updPort _ d p _)
  exact (downStands_placeRelease s d p k).trans (downStands_dropNotices _ d p)

theorem downStands_expel (s : State) (d k dan : Nat) : s.DownStands (expel s k dan) d := by
  unfold expel
  split
  · exact .refl s d
  · refine .trans ?_ (downStands_putMap _ d k dan none _)
    refine .trans ?_ (downStands_ite _ (downStands_foldl (fun s b => downStands_setShelf s d b none) _ _)
      (.refl _ d))
    refine .trans ?_ (downStands_ite _ (downStands_clearShelves _ d _) (.refl _ d))
    split
    · exact (downStands_leavePort s d _ k).trans (downStands_of_rest rfl rfl rfl)
    · exact .refl s d

theorem downStands_expelAll (s : State) (d k : Nat) (dans : List Nat) : s.DownStands (expelAll s k dans) d :=
  downStands_foldl (fun s n => downStands_expel s d k n) dans s

/-! ### The steps of R258 -/

theorem downStands_spanNotice (s : State) (d : Nat) (except : Option Nat) (c : LinkCtl) :
    s.DownStands (spanNotice s except c) d :=
  downStands_foldl (fun s p => downStands_ite _ (.refl s d) (downStands_placeCtl s d p c)) spanPorts s

theorem downStands_abortJobs (s : State) (d k : Nat) : s.DownStands (abortJobs s k) d := by
  unfold abortJobs
  refine .trans ?_ (downStands_foldl (fun s m => downStands_mbFinish s d m 8 0x206 []) _ _)
  exact downStands_updDom s d k fun _ => ⟨rfl, rfl, rfl⟩

theorem downStands_dropQueued (s : State) (d k : Nat) : s.DownStands (dropQueued s k) d :=
  downStands_foldl (fun s p => downStands_updPort s d p _) spanPorts s

theorem downStands_crcRelease (s : State) (d k : Nat) : s.DownStands (crcRelease s k) d :=
  downStands_foldl (fun s u => downStands_ite (s.crcOwner u = some k) (t := s.setCrc u {})
    (downStands_of_rest rfl rfl rfl) (.refl s d)) [0, 1] s

theorem downStands_downPort (s : State) (d k p : Nat) : s.DownStands (downPort s k p) d := by
  unfold downPort
  refine (downStands_placeRelease s d p k).trans ?_
  exact downStands_of_rest rfl rfl rfl

theorem downStands_freeDomain (s : State) (d k : Nat) : s.DownStands (freeDomain s k) d := by
  unfold freeDomain
  dsimp only
  refine .trans ?_ (downStands_updHome _ d fun h x hx => (List.mem_filter.1 hx).1)
  refine .trans ?_ (downStands_foldl (fun s x => ?_) _ _)
  · refine .trans ?_ (downStands_updDom _ d k fun _ => ⟨rfl, rfl, rfl⟩)
    refine .trans ?_ (downStands_foldl (fun s e => downStands_returnCredit s d _ _ _) _ _)
    exact downStands_foldl (fun s w => downStands_returnCredit s d _ _ _) _ _
  · exact downStands_ite _ (downStands_returnCredit s d _ _ _) (.refl s d)

/-- Step 2 of R258 frees every tracker of the domain. -/
theorem freeDomain_trackers (s : State) (d : Nat) : ∀ x ∈ (freeDomain s d).home.trackers, x.dom ≠ d :=
  fun _ hx => by simpa using (List.mem_filter.1 hx).2

/-! ## A domain in service goes down (R199, R258) -/

/-- A domain marked as gone down, with its cause (R258). -/
def markDown (s : State) (d cause : Nat) : State :=
  s.updDom d fun q => { q with st := .down, downing := true, cause, stageP := [], stageR := [], relayed := [] }

/-- What follows once the trackers of the domain have been freed (R258): queues, stored lines and CRC units, its
ports, the agents found dead, and those whose ports are Down. -/
def cleanDown (s : State) (d : Nat) (dead : List Nat) : State :=
  let s := crcRelease (clearShelves (clearWays (dropQueued s d) d) (shelvesOf (dropQueued s d) d)) d
  let s := (s.portsOf d).foldl (fun s p => downPort s d p) s
  let ps := dead.filterMap fun n => s.agentPort d n
  let s := expelAll s d dead
  let s := ps.foldl (fun s p => if s.up p then raiseFatal (sendLinkDown s p 7) p 7 else s) s
  expelAll s d (s.dans d fun a => match a.port with
    | some p => a.hub == s.hubId && !s.up p
    | none => false)

theorem domainDownBy_eq (inj : Bool) (h : (s.dom d).st.inService = true) (cause : Nat) (dead : List Nat)
    (src : Option Nat) : domainDownBy inj s d cause dead src
      = raiseInj (cleanDown (freeDomain (abortJobs (spanNotice (markDown s d cause) src
          (.release (BitVec.ofNat 3 d))) d) d) d dead) 14 (some d) (cause + 256 * (s.dom d).epoch.toNat) inj := by
  rw [domainDownBy, if_neg (by rw [h]; decide)]
  rfl

theorem downStands_cleanDown (s : State) (d k : Nat) (dead : List Nat) : s.DownStands (cleanDown s k dead) d := by
  unfold cleanDown
  dsimp only
  refine .trans ?_ (downStands_expelAll _ d k _)
  refine .trans ?_ (downStands_foldl (fun s p => downStands_ite _ (downStands_endLink s d p 7) (.refl s d)) _ _)
  refine .trans ?_ (downStands_expelAll _ d k dead)
  refine .trans ?_ (downStands_foldl (fun s p => downStands_downPort s d k p) _ _)
  refine .trans ?_ (downStands_crcRelease _ d k)
  refine .trans ?_ (downStands_clearShelves _ d _)
  exact (downStands_dropQueued s d k).trans (downStands_of_rest rfl rfl rfl)

/-- A domain marked as gone down is down once its trackers have been freed. -/
theorem domDown_freeDomain {cause : Nat} (h : (markDown s d cause).DownStands t d) :
    (freeDomain t d).domDown d cause := by
  obtain ⟨hst, hdowning, hcause, -⟩ := h.trans (downStands_freeDomain t d d)
  rw [markDown, State.updDom_dom_same] at hst hdowning hcause
  exact ⟨hst, hdowning, hcause, freeDomain_trackers t d⟩

/-- The domain is down with its cause, DOMAIN_DOWN is reported, and the error lines stand. -/
theorem domainDown_inService (h : (s.dom d).st.inService = true) (cause : Nat) (dead : List Nat)
    (src : Option Nat) : (domainDown s d cause dead src).domDown d cause ∧
      (domainDown s d cause dead src).raised 14 (some d) ∧ s.linesStand (domainDown s d cause dead src) := by
  rw [domainDown, domainDownBy_eq false h]
  have hended := (downStands_spanNotice (markDown s d cause) d src (.release (BitVec.ofNat 3 d))).trans
    (downStands_abortJobs _ d d)
  have hcleaned := (downStands_cleanDown (freeDomain (abortJobs (spanNotice (markDown s d cause) src
    (.release (BitVec.ofNat 3 d))) d) d) d d dead).trans
      (downStands_raiseInj _ d 14 (some d) (cause + 256 * (s.dom d).epoch.toNat) false)
  exact ⟨hcleaned.domDown (domDown_freeDomain hended), raised_raise _ 14 (some d) _,
    ((hended.trans (downStands_freeDomain _ d d)).trans hcleaned).lines⟩

/-- A deadline that is reported and takes its domain down (R199, R205, R207). -/
theorem domainDown_raise (h : (s.dom d).st.inService = true) (src detail cause : Nat) (dead : List Nat) :
    let t := domainDown (raise s src (some d) detail) d cause dead none
    t.domDown d cause ∧ t.raised src (some d) ∧ t.raised 14 (some d) := by
  obtain ⟨hdown, hraised, hlines⟩ :=
    domainDown_inService (s := raise s src (some d) detail) h cause dead none
  exact ⟨hdown, hlines.raised (raised_raise s src (some d) detail), hraised⟩

/-- An answer that has not come takes its domain down (R199, R207). -/
theorem answerDead_inService (h : (s.dom d).st.inService = true) (c : Awaited) (sl n : Nat) :
    let t := answerDead s d c sl n
    t.domDown d 11 ∧ t.raised 11 (some d) ∧ t.raised 14 (some d) := domainDown_raise h 11 _ 11 _

/-! ## The rows -/

section
variable {x : Tracker} {quota : Bool} {k last : Nat} {rest : List Nat}

/-- The first place of a queue goes, wherever it stands, and the rest keep their order (R183). -/
theorem dropPlace_front (htq : x.tq = some ⟨quota, k :: rest, last⟩) :
    dropPlace x k = { x with tq := some ⟨quota, rest.filter (fun i => i != k), last⟩ } := by
  simp [dropPlace, htq]

theorem noPlaces_dropPlace_front (htq : x.tq = some ⟨quota, k :: rest, last⟩) :
    noPlaces (dropPlace x k) = (rest.filter fun i => i != k).isEmpty := by
  rw [dropPlace_front htq, noPlaces]

/-- A ticket window that ends passes a reserved tracker on to the places behind, or frees it (R184). -/
theorem exec_ticketWindowExpiry {sl : Fin 17} {n : Fin 64} (hclk : s.clocked = true)
    (hx : s.trk sl n = some x) (hd : (s.dom x.dom).st.inService = true) (hwbs : s.home.wbs = [])
    (hph : x.phase = .reserved) (htq : x.tq = some ⟨quota, k :: rest, last⟩) (hopen : windowPaused s x = false) :
    ∃ t, exec (.ticketWindowExpiry sl n) s = .next t ∧ (rest = [] → t.trk sl n = none) ∧
      (∀ j ∈ rest, j ≠ k → t.trk sl n
        = some { x with tq := some ⟨quota, rest.filter (fun i => i != k), last⟩ }) ∧
      s.otherTrks t sl n ∧ { t with home := s.home } = s := by
  obtain ⟨-, hsl, hnum⟩ := mem_of_trk hx
  have hrow : exec (.ticketWindowExpiry sl n) s = .next (serveStore (passReserved s x k)) := by
    show execTicketWindowExpiry sl n s = _
    simp [execTicketWindowExpiry, hclk, hx, hph, htq, hopen]
  rw [hrow, passReserved, noPlaces_dropPlace_front htq, ← dropPlace_front htq, ← hsl, ← hnum]
  by_cases hnone : rest.filter (fun i => i != k) = []
  · rw [if_pos (List.isEmpty_iff.2 hnone)]
    refine ⟨_, congrArg Host.Outcome.next (serveStore_of_empty hwbs), fun _ => trk_dropTrk_same s _ _,
      fun j hj hjk => absurd hjk ?_, otherTrks_dropTrk s _ _, rfl⟩
    simpa using List.filter_eq_nil_iff.1 hnone j hj
  · rw [if_neg (mt List.isEmpty_iff.1 hnone)]
    obtain ⟨ts, hts, htrk, hother⟩ := putTrk_in_place (u := s) (y := dropPlace x k) rfl hwbs hd
      (show s.trk x.sl x.num = some x by rw [hsl, hnum, hx])
    rw [hts]
    exact ⟨_, rfl, fun h => absurd (by rw [h]; rfl) hnone, fun _ _ _ => htrk, hother, rfl⟩

end

/-- T_answer marks the tracker, is counted and reported, and changes nothing else of the hub's work (R205). -/
theorem exec_tAnswerExpiry {sl : Fin 17} {n : Fin 64} {x : Tracker} {r : Req} (hclk : s.clocked = true)
    (hx : s.trk sl n = some x) (hd : (s.dom x.dom).st.inService = true) (hr : x.req = some r)
    (hun : unanswered x = true) (hlate : x.late = false) :
    ∃ t, exec (.tAnswerExpiry sl n) s = .next t ∧ t.trk sl n = some { x with late := true } ∧
      tget 0 (t.dom x.dom).stats 7 = satAdd 64 (tget 0 (s.dom x.dom).stats 7) 1 ∧
      t.raised 10 (some x.dom) ∧ s.otherTrks t sl n ∧ t.ports = s.ports ∧ t.arr = s.arr := by
  obtain ⟨-, hsl, hnum⟩ := mem_of_trk hx
  have hkey : s.trk x.sl x.num = some x := by rw [hsl, hnum, hx]
  have htrk := trk_putTrk_same (x := { x with late := true }) hd hkey
  have hother := otherTrks_putTrk (x := { x with late := true }) s hkey
  have hrow : exec (.tAnswerExpiry sl n) s = .next (raise (statAdd (putTrk s { x with late := true }) x.dom 7) 10
      (some x.dom) (waitDetail r.port r.h.dan.toNat sl n)) := by
    show execTAnswerExpiry sl n s = _
    simp [execTAnswerExpiry, hclk, hx, hr, hun, hlate]
  obtain ⟨ts, hts⟩ := putTrk_eq s { x with late := true }
  rw [hts] at htrk hother hrow
  refine ⟨_, hrow, ?_, ?_, raised_raise _ _ _ _, ?_, rfl, rfl⟩
  · rw [← hsl, ← hnum]
    exact htrk
  · show tget 0 ((statAdd _ x.dom 7).dom x.dom).stats 7 = _
    rw [statAdd, State.updDom_dom_same, tget_tset_same]
    rfl
  · rw [← hsl, ← hnum]
    exact hother

/-- T_snoop of an answer that a tracker awaits (R199, R207). -/
theorem exec_tSnoopExpiry_tracker {sl : Fin 17} {n : Fin 64} {x : Tracker} {i : Nat} {a : Await} {c : Awaited}
    (hclk : s.clocked = true) (hx : s.trk sl n = some x) (ha : x.awaits[i]? = some a)
    (hc : awaitedFrom s x a = some c) :
    exec (.tSnoopExpiry (.tracker sl n i)) s = .next (answerDead s x.dom c sl n) := by
  show execTSnoopExpiry (.tracker sl n i) s = _
  simp [execTSnoopExpiry, hclk, hx, ha, hc]

/-- T_snoop of what the drain of a merge-buffer entry awaits (R237). -/
theorem exec_tSnoopExpiry_merge {i : Nat} {m : Merge} {rt : RType} {c : Nat} (hclk : s.clocked = true)
    (hm : s.merge i = some m) (hdrain : m.drain ≠ 0)
    (hreg : s.region m.dom (lineAddr m.laddr 0) = some (rt, c)) :
    exec (.tSnoopExpiry (.merge i)) s = .next (answerDead s m.dom (.agent c) m.sl 0) := by
  show execTSnoopExpiry (.merge i) s = _
  simp [execTSnoopExpiry, hclk, hm, hdrain, hreg]

/-- T_snoop of the MCP of a victim (R175). -/
theorem exec_tSnoopExpiry_victim {sl : Fin 17} {i : Nat} {v : Victim} (hclk : s.clocked = true)
    (hv : (s.home.victims.filter fun v => v.sl == sl.val)[i]? = some v) :
    exec (.tSnoopExpiry (.victim sl i)) s
      = .next (answerDead s v.dom (.agent (s.dom v.dom).par.dirTgt) sl 0) := by
  show execTSnoopExpiry (.victim sl i) s = _
  simp [execTSnoopExpiry, hclk, hv]

/-- T_tracker of a live tracker (R207). -/
theorem exec_tTrackerExpiry {sl : Fin 17} {n : Fin 64} {x : Tracker} (hclk : s.clocked = true)
    (hx : s.trk sl n = some x) (hph : x.phase ≠ .reserved) : ∃ detail,
    exec (.tTrackerExpiry sl n) s = .next (domainDown (raise s 12 (some x.dom) detail) x.dom 12 [] none) := by
  show ∃ detail, execTTrackerExpiry sl n s = _
  simp only [execTTrackerExpiry, hclk, hx]
  exact ⟨_, if_neg (by simpa [Tracker.live] using hph)⟩

/-- Settles O55: a window passes its tracker on, T_answer is counted, and every answer that stays out takes the
domain down. -/
theorem deadlinesOfTheHome : Obligations.DeadlinesOfTheHome := by
  unfold Obligations.DeadlinesOfTheHome
  intro s hclk
  refine ⟨fun sl n x hx hd => ⟨?window, ?answer, ?snoop, ?tracker⟩, ?merge, ?victim⟩
  case window =>
    intro quota k rest last hwbs hph htq hopen
    exact exec_ticketWindowExpiry hclk hx hd hwbs hph htq hopen
  case answer =>
    intro r hr hun hlate
    exact exec_tAnswerExpiry hclk hx hd hr hun hlate
  case snoop =>
    intro i a c ha hc
    exact ⟨_, exec_tSnoopExpiry_tracker hclk hx ha hc, answerDead_inService hd c sl n⟩
  case tracker =>
    intro hph
    obtain ⟨detail, hrow⟩ := exec_tTrackerExpiry hclk hx hph
    exact ⟨_, hrow, domainDown_raise hd 12 detail 12 []⟩
  case merge =>
    intro i m rt c hm hdrain hd hreg
    obtain ⟨hdown, hraised, -⟩ := answerDead_inService hd (.agent c) m.sl 0
    exact ⟨_, exec_tSnoopExpiry_merge hclk hm hdrain hreg, hdown, hraised⟩
  case victim =>
    intro sl i v hv hd
    obtain ⟨hdown, hraised, -⟩ := answerDead_inService hd (.agent (s.dom v.dom).par.dirTgt) sl 0
    exact ⟨_, exec_tSnoopExpiry_victim hclk hv, hdown, hraised⟩

end Sys2Proof.Machine
end

section
/-!
SUPPORT. A held line that leaves the atomic buffer, and the drain of a merge-buffer entry (O58).
-/
namespace Sys2Proof.Machine

/-! ## A held line is released (R218, R220) -/

/-- The predictor's update at a release changes the predictor alone. -/
theorem predRelease_eq (s : State) (x : Tracker) (n : Nat) (forced : Bool) :
    ∃ pt, predRelease s x n forced = s.updHome fun h => { h with pred := pt } := by
  unfold predRelease
  dsimp only
  split
  · exact ⟨s.home.pred, rfl⟩
  · split
    · exact ⟨_, rfl⟩
    · split
      · exact ⟨_, rfl⟩
      · exact ⟨s.home.pred, rfl⟩

theorem State.inert.useHeld {s : State} (h : s.inert) (x : Tracker) :
    useHeld x s = (false, { x with got := some (x.got.getD 0) }, s) := by
  have hdata : x.got.getD 0 ^^^ (0 : Line) = x.got.getD 0 := BitVec.xor_zero
  unfold Machine.useHeld
  rw [h.useLine]
  dsimp only
  rw [hdata]

/-- A clean held line is forgotten with its tracker. -/
theorem releaseHold_clean {s : State} {x : Tracker} {r : Req} {n : Nat} {forced : Bool}
    (hhold : x.hold = some (false, n, forced)) (hr : x.req = some r) (hx : x.plain) (ha : x.awaits = []) :
    releaseHold s x = dropTrk (predRelease s x n forced) x.sl x.num := by
  unfold releaseHold
  rw [hhold, hr]
  dsimp only
  rw [if_neg Bool.false_ne_true]
  dsimp only
  rw [if_neg Bool.false_ne_true, releaseLine, if_neg Bool.false_ne_true]
  exact settle_of_plain (x := { x with hold := none }) hx ha _

/-- The line of a tracker is written to memory with the MRQ credit that is free (R157). -/
theorem writeLine_of_credit {s : State} {x : Tracker} {tgt q : Nat} {poi : Bool} (htgt : lineTgt s x = tgt)
    (hmem : tgt ≠ 0x7F) (hreach : s.reaches x.dom tgt q) (hmrqs : x.mrqs = [])
    (hc : creditFree s q .mrq x.dom = true) (hpoi : poi = false) (h : Hdr) (data : Line) :
    writeLine x s h data poi = ({ x with awaits := x.awaits ++ [.mcp] },
      sendAgent s x.dom tgt (.mrq (mkMrq s h .mwr 6 0 x.laddr x.sl x.num false) data)) := by
  subst hpoi
  unfold writeLine
  dsimp only
  rw [htgt, if_neg hmem, trkMrq_of_credit hreach.1 hmrqs hc rfl]

/-- The tracker of a dirty held line whose write to memory is outstanding. -/
def Tracker.released (x : Tracker) : Tracker :=
  { x with got := some (x.got.getD 0), hold := none, awaits := [.mcp], phase := .drain }

/-- A dirty held line is written to memory. -/
theorem releaseHold_dirty {s : State} {x : Tracker} {r : Req} {n tgt q : Nat} {forced : Bool} (hs : s.inert)
    (hhold : x.hold = some (true, n, forced)) (hr : x.req = some r) (hx : x.plain) (ha : x.awaits = [])
    (hpoi : x.poison = false) (htgt : lineTgt s x = tgt) (hmem : tgt ≠ 0x7F) (hreach : s.reaches x.dom tgt q)
    (hc : creditFree s q .mrq x.dom = true) : ∃ pt, releaseHold s x
      = putTrk (sendAgent (s.updHome fun h => { h with pred := pt }) x.dom tgt
          (.mrq (mkMrq s (reqHdr s r) .mwr 6 0 x.laddr x.sl x.num false) (x.got.getD 0))) x.released := by
  obtain ⟨-, -, hmrqs⟩ := hx
  obtain ⟨pt, hpred⟩ := predRelease_eq s x n forced
  have hwrite := writeLine_of_credit (s := s.updHome fun h => { h with pred := pt })
    (x := { x with got := some (x.got.getD 0), hold := none }) htgt hmem hreach hmrqs hc hpoi (reqHdr s r)
    (x.got.getD 0)
  refine ⟨pt, ?_⟩
  unfold releaseHold
  rw [hhold, hr]
  dsimp only
  rw [hpred, if_pos rfl, (hs.updHome _).useHeld]
  dsimp only
  rw [if_neg Bool.false_ne_true, releaseLine, if_pos rfl]
  refine (congrArg (fun e : Tracker × State => settle e.1 e.2) hwrite).trans ?_
  simp only [settle, ha, List.nil_append, List.isEmpty_cons, Bool.false_and, Bool.false_eq_true, if_false]
  rfl

/-! ## The drain of an entry starts (R236, R237) -/

theorem merge_putMerge_ne (s : State) (m : Merge) {j : Nat} (h : j ≠ m.id) : (putMerge s m).merge j = s.merge j := by
  have hcomp : ((fun y => y.id == j) ∘ fun y => if y.id == m.id then m else y) = fun y : Merge => y.id == j := by
    funext z
    by_cases hz : z.id = m.id
    · simp [hz]
    · simp [hz]
  have hkeep : ((s.home.merges.find? fun y => y.id == j).map fun y => if y.id == m.id then m else y)
      = s.home.merges.find? fun y => y.id == j := by
    cases hf : s.home.merges.find? fun y => y.id == j with
    | none => rfl
    | some y =>
      have hy : y.id = j := by simpa using List.find?_some hf
      rw [Option.map_some, if_neg (by simpa [hy] using h)]
  rw [State.merge, putMerge, State.updHome_home]
  dsimp only
  rw [List.find?_map, hcomp, hkeep, State.merge]

/-- An entry's valid bytes that form an aligned block are that block. -/
theorem eq_rangeMask_of_alignedBlock {v : BitVec 64} {k o : Nat} (h : alignedBlock v = some (k, o)) :
    v = rangeMask o (2 ^ k) := by simpa using List.find?_some h

theorem mergeLine_and_mask (m : BitVec 64) (new old : Line) :
    mergeLine m new old &&& maskBits m 64 = new &&& maskBits m 64 := by
  unfold mergeLine
  generalize maskBits m 64 = k
  refine BitVec.eq_of_getLsbD_eq fun i hi => ?_
  simp only [BitVec.getLsbD_and, BitVec.getLsbD_or, BitVec.getLsbD_not, hi, decide_true, Bool.true_and]
  cases k.getLsbD i with
  | false => simp
  | true => simp

/-- t is s with entry m of the merge buffer in the stage y of its drain, and its MRQ placed on port q. -/
structure State.DrainSent (s t : State) (m y : Merge) (q : Nat) (f : MrqF) (data : Line) : Prop where
  placed : s.placed t q (.mrq f data)
  entry : t.merge m.id = some y
  entries : ∀ j, j ≠ m.id → t.merge j = s.merge j
  trackers : t.home.trackers = s.home.trackers
  others : s.otherPorts t q

/-- An entry is stored in its next stage, and its MRQ sent. -/
theorem drainSent_of_hubMrq {s : State} {m y : Merge} {tgt q : Nat} (hm : s.merge m.id = some m) (hy : y.id = m.id)
    (hd : m.dom < 8) (hreach : s.reaches m.dom tgt q) (op : MrqOp) (sz ofs : Nat) (poi : Bool) (data : Line) :
    ∃ h n, s.DrainSent (hubMrq (putMerge (putMerge s m) y) m.dom tgt op sz ofs m.laddr m.sl poi data) m y q
      (mkMrq s h op sz ofs m.laddr m.sl n poi) data := by
  have hkept : (putMerge s m).merge y.id = some m := by
    rw [hy]
    exact merge_putMerge_same (Option.isSome_iff_exists.2 ⟨m, hm⟩)
  have hdone := merge_putMerge_same (Option.isSome_iff_exists.2 ⟨m, hkept⟩)
  obtain ⟨fl, h, n, hpost⟩ := posts_hubMrq (s := putMerge (putMerge s m) y) hreach hd op sz ofs m.laddr m.sl poi data
  have hentry : ∀ j, (hubMrq (putMerge (putMerge s m) y) m.dom tgt op sz ofs m.laddr m.sl poi data).merge j
      = (putMerge (putMerge s m) y).merge j := fun j => by rw [State.merge, hpost.home, State.merge]
  refine ⟨h, n, hpost.placed_of_single rfl, ?_, fun j hj => ?_, ?_, fun j hj => hpost.others j (by simpa using hj)⟩
  · rw [hentry, ← hy, hdone]
  · rw [hentry, merge_putMerge_ne _ _ (by rwa [hy]), merge_putMerge_ne _ _ hj]
  · rw [hpost.home]
    rfl

section
variable {s : State} {m : Merge} {rt : RType} {tgt q : Nat} (hs : s.inert) (hm : s.merge m.id = some m)
  (hidle : m.drain = 0) (hd : m.dom < 8) (hreg : s.region m.dom (lineAddr m.laddr 0) = some (rt, tgt))
  (hreach : s.reaches m.dom tgt q)
include hs hm hidle hd hreg hreach

/-- Valid bytes that form an aligned block are written at once. -/
theorem startDrain_of_block {k o : Nat} (hblock : alignedBlock m.valid = some (k, o)) :
    ∃ h n fr, s.DrainSent (startDrain s m.id) m { m with drain := 2 } q
      (mkMrq s h .mwr k o m.laddr m.sl n m.poison) (mergeLine m.valid m.data fr) := by
  have hreg' : (putMerge s m).region m.dom (lineAddr m.laddr 0) = some (rt, tgt) := hreg
  obtain ⟨h, n, hsent⟩ := drainSent_of_hubMrq (s := { s with free := s.free + 8 }) (y := { m with drain := 2 }) hm rfl
    hd hreach .mwr k o m.poison (mergeLine m.valid m.data (freeLine s.free))
  refine ⟨h, n, freeLine s.free, ?_⟩
  have hstart : startDrain s m.id = hubMrq (putMerge (putMerge { s with free := s.free + 8 } m) { m with drain := 2 })
      m.dom tgt .mwr k o m.laddr m.sl m.poison (mergeLine m.valid m.data (freeLine s.free)) := by
    unfold startDrain
    rw [hm]
    dsimp only
    rw [if_neg (not_not.2 hidle), hs.useMerge]
    dsimp only
    rw [if_neg Bool.false_ne_true, hreg', hblock]
    dsimp only
    rw [← eq_rangeMask_of_alignedBlock hblock]
    rfl
  rw [hstart]
  exact ⟨hsent.placed, hsent.entry, hsent.entries, hsent.trackers, hsent.others⟩

/-- The rest of the line is read for other valid bytes. -/
theorem startDrain_of_gaps (hblock : alignedBlock m.valid = none) :
    ∃ h n, s.DrainSent (startDrain s m.id) m { m with drain := 1 } q
      (mkMrq s h .mrd 6 0 m.laddr m.sl n false) 0 := by
  have hreg' : (putMerge s m).region m.dom (lineAddr m.laddr 0) = some (rt, tgt) := hreg
  obtain ⟨h, n, hsent⟩ := drainSent_of_hubMrq (y := { m with drain := 1 }) hm rfl hd hreach .mrd 6 0 false 0
  have hstart : startDrain s m.id = hubMrq (putMerge (putMerge s m) { m with drain := 1 })
      m.dom tgt .mrd 6 0 m.laddr m.sl false 0 := by
    unfold startDrain
    rw [hm]
    dsimp only
    rw [if_neg (not_not.2 hidle), hs.useMerge]
    dsimp only
    rw [if_neg Bool.false_ne_true, hreg', hblock]
  rw [hstart]
  exact ⟨h, n, hsent⟩

end

/-! ## The rows -/

/-- Both limits of a hold release it. -/
theorem exec_holdLimit {s : State} {sl : Fin 17} {n : Fin 64} {x : Tracker} (hclk : s.clocked = true)
    (hx : s.trk sl n = some x) (hph : x.phase = .hold) {c : Instr}
    (hc : c = .holdIdleLimit sl n ∨ c = .holdTimeLimit sl n) : exec c s = .next (serveStore (releaseHold s x)) := by
  have hrow : holdLimit sl n s = serveStore (releaseHold s x) := by
    simp only [holdLimit, hclk, hx, hph, if_true]
  rcases hc with rfl | rfl
  · exact congrArg Host.Outcome.next hrow
  · exact congrArg Host.Outcome.next hrow

/-- An entry that is old, and the oldest of many, drains. -/
theorem exec_drainRow {s : State} {i : Fin 64} {m : Merge} (hclk : s.clocked = true) (hm : s.merge i = some m)
    {c : Instr} (hc : c = .mergeEntryAge i ∨ (c = .mergePressureDrain ∧
      56 ≤ (idleEntries s fun _ => true).length ∧ (idleEntries s fun _ => true).head? = some m)) :
    exec c s = .next (startDrain s m.id) := by
  have hid : m.id = i := by simpa using List.find?_some hm
  rcases hc with rfl | ⟨rfl, hmany, hhead⟩
  · show execMergeEntryAge i s = _
    rw [execMergeEntryAge, if_pos hclk, hid]
  · show execMergePressureDrain s = _
    simp only [execMergePressureDrain, hclk, hhead, hmany, if_true]

/-- Settles O58: a clean hold is forgotten and a dirty one written; an entry's block is written, or its line read. -/
theorem holdsAndEntriesEnd : Obligations.HoldsAndEntriesEnd := by
  unfold Obligations.HoldsAndEntriesEnd
  intro s hclk hin
  refine ⟨fun sl n x dirty cnt forced r rt tgt q hx hph hhold hr hd hplain haw hpoi hdom hwbs hreg hmem hreach hc c
    hrow => ?hold, fun i m rt tgt q hm hidle hd hreg hreach c hrow => ?entry⟩
  case hold =>
    obtain ⟨-, hsl, hnum⟩ := mem_of_trk hx
    have hexec := exec_holdLimit hclk hx hph hrow
    cases dirty with
    | false =>
      obtain ⟨pt, hpred⟩ := predRelease_eq s x cnt forced
      rw [releaseHold_clean hhold hr hplain haw, hpred, hsl, hnum, serveStore_of_empty (by exact hwbs)] at hexec
      exact ⟨_, hexec, fun _ => ⟨trk_dropTrk_same _ sl n, rfl⟩, fun h => Bool.noConfusion h,
        otherTrks_dropTrk _ sl n, rfl⟩
    | true =>
      have htgt : lineTgt s x = tgt := by rw [lineTgt, hreg]
      obtain ⟨pt, hrel⟩ := releaseHold_dirty hin hhold hr hplain haw hpoi htgt hmem hreach hc
      have hpost := posts_sendAgent (s := s.updHome fun h => { h with pred := pt })
        (m := .mrq (mkMrq s (reqHdr s r) .mwr 6 0 x.laddr x.sl x.num false) (x.got.getD 0)) hreach
        (List.mem_singleton_self q) hdom (fun h => nomatch h)
      obtain ⟨ts, hts, htrk, hother⟩ := putTrk_in_place (y := x.released) hpost.home (by exact hwbs)
        (by rw [hpost.dom_st]; exact hd) (by rw [← hx, ← hsl, ← hnum]; rfl)
      rw [hrel, hts] at hexec
      rw [← hsl, ← hnum]
      exact ⟨_, hexec, fun h => Bool.noConfusion h, fun _ => ⟨⟨_, htrk, rfl, rfl, rfl⟩,
        fun j hj => hpost.others j (by simpa using hj), hpost.placed_of_single rfl⟩, hother,
        State.homeOnly.trans (t := s.updHome fun h => { h with pred := pt }) rfl hpost.homeOnly⟩
  case entry =>
    have hid : m.id = i := by simpa using List.find?_some hm
    have hexec := exec_drainRow hclk hm hrow
    rw [← hid] at hm
    cases hblock : alignedBlock m.valid with
    | none =>
      obtain ⟨h, n, hsent⟩ := startDrain_of_gaps hin hm hidle hd hreg hreach hblock
      rw [← hid]
      exact ⟨_, _, _, hexec, hsent.placed, rfl, fun _ _ hko => (nomatch hko), fun _ => ⟨rfl, rfl, rfl, hsent.entry⟩,
        hsent.entries, hsent.trackers, hsent.others⟩
    | some e =>
      obtain ⟨h, n, fr, hsent⟩ := startDrain_of_block hin hm hidle hd hreg hreach hblock
      rw [← hid]
      refine ⟨_, _, _, hexec, hsent.placed, rfl, fun k o hko => ?_, fun h => (nomatch h), hsent.entries, hsent.trackers,
        hsent.others⟩
      cases hko
      exact ⟨rfl, rfl, rfl, mergeLine_and_mask _ _ _, hsent.entry⟩

end Sys2Proof.Machine
end

section
/-!
SUPPORT. What an agent port keeps while messages pass it, the CUREs of a sender, and the order gate of a stream (O49).
-/
namespace Sys2Proof.Machine

/-! ## What a port keeps while messages pass it -/

/-- A part of a port that lies apart from its link, its transmitter, its receiver and its forecaster. -/
structure Apart {α : Type} (g : Port → α) : Prop where
  link : ∀ q x, g { q with link := x } = g q
  tx : ∀ q x, g { q with tx := x } = g q
  rx : ∀ q x, g { q with rx := x } = g q
  fore : ∀ q x, g { q with fore := x } = g q

/-- A part of every port is as it was. -/
def State.portsKeep {α : Type} (g : Port → α) (s t : State) : Prop := ∀ j, g (t.port j) = g (s.port j)

section
variable {α : Type} {g : Port → α} {s t u : State}

theorem State.portsKeep.refl (g : Port → α) (s : State) : s.portsKeep g s := fun _ => rfl

theorem State.portsKeep.trans (h : s.portsKeep g t) (k : t.portsKeep g u) : s.portsKeep g u :=
  fun j => (k j).trans (h j)

theorem portsKeep_ite (c : Prop) [Decidable c] (ht : s.portsKeep g t) (hu : s.portsKeep g u) :
    s.portsKeep g (if c then t else u) := by
  split <;> assumption

theorem portsKeep_updPort (s : State) (p : Nat) {f : Port → Port} (hf : ∀ q, g (f q) = g q) :
    s.portsKeep g (s.updPort p f) := fun j => by
  by_cases hj : p = j
  · subst hj
    rw [s.updPort_port_same, hf]
  · rw [s.updPort_port_ne f hj]

variable (hg : Apart g)
include hg

theorem portsKeep_nudge (s : State) (p : Nat) : s.portsKeep g (nudge s p) :=
  portsKeep_updPort s p fun q => hg.link q _

theorem portsKeep_updRx (s : State) (p : Nat) (f : Rx → Rx) : s.portsKeep g (s.updRx p f) :=
  portsKeep_updPort s p fun q => hg.rx q _

theorem portsKeep_updFore (s : State) (p : Nat) (f : Forecast → Forecast) : s.portsKeep g (s.updFore p f) :=
  portsKeep_updPort s p fun q => hg.fore q _

theorem portsKeep_returnCredit (s : State) (p : Nat) (c : Cls) (d : Nat) :
    s.portsKeep g (returnCredit s p c d) :=
  portsKeep_ite _ ((portsKeep_updRx hg s p _).trans (portsKeep_nudge hg _ p)) (.refl g s)

theorem portsKeep_trigger (s : State) (p : Nat) (large : Bool) (k : Forecast → Forecast) :
    s.portsKeep g (trigger s p large k) :=
  portsKeep_ite _ (.refl g s) (portsKeep_ite _ (portsKeep_updFore hg s.nextFree.2 p _) (portsKeep_updFore hg s p _))

theorem portsKeep_growLarge (s : State) (p : Nat) : s.portsKeep g (growLarge s p) :=
  (portsKeep_updFore hg s p fun f => { f with large := true }).trans
    (portsKeep_ite _ (portsKeep_ite _ (portsKeep_updFore hg (State.nextFree _).2 p _) (.refl g _)) (.refl g _))

theorem portsKeep_reqDelivered (s : State) (p : Nat) : s.portsKeep g (reqDelivered s p) :=
  (portsKeep_updFore hg s p _).trans
    (portsKeep_ite _ (portsKeep_trigger hg _ p _ _) (portsKeep_ite _ (portsKeep_growLarge hg _ p) (.refl g _)))

theorem portsKeep_queueMsg (s : State) (p : Nat) (m : Msg) : s.portsKeep g (queueMsg s p m) :=
  portsKeep_ite _ ((portsKeep_updPort s p fun q => hg.tx q _).trans (portsKeep_nudge hg _ p)) (.refl g s)

theorem portsKeep_noteAsk (s : State) (p : Nat) (m : Msg) : s.portsKeep g (noteAsk s p m) := by
  unfold noteAsk
  split
  · exact portsKeep_ite _ (portsKeep_updRx hg s p _) (.refl g s)
  · exact portsKeep_ite _ (portsKeep_updRx hg s p _) (.refl g s)
  · exact .refl g s

/-- What a final answer leaves of a port, a message placed on it leaves. -/
theorem portsKeep_sent (hnote : ∀ q tid reason, g (noteAnswer q tid reason) = g q) (s : State) (p : Nat) (m : Msg) :
    s.portsKeep g (noteAsk (queueMsg (noteSent s p m) p m) p m) := by
  have hsent : s.portsKeep g (noteSent s p m) := by
    unfold noteSent
    cases finalReason m with
    | none => exact portsKeep_ite _ (portsKeep_updFore hg s p _) (.refl g s)
    | some r =>
      have hcount : s.portsKeep g (if r = 0 then statAdd s m.hdr.dom.toNat 1
          else statAdd (statAdd s m.hdr.dom.toNat 1) m.hdr.dom.toNat (7 + r.toNat)) :=
        portsKeep_ite _ (.refl g s) (.refl g s)
      have hnoted := hcount.trans (portsKeep_updPort _ p fun q => hnote q m.hdr.tid r)
      exact hnoted.trans (portsKeep_ite _ (portsKeep_updFore hg _ p _) (.refl g _))
  exact (hsent.trans (portsKeep_queueMsg hg _ p m)).trans (portsKeep_noteAsk hg _ p m)

end

/-! ## A CURE of a sender (R226, R227) -/

/-- A request as it stands once its port has taken it from an agent that may send it. -/
def reqTaken (s : State) (r : Req) : State :=
  let s := takeMsg s r.port (.req r.op r.h r.f r.data)
  let s := if foreRuns s r.port then reqDelivered s r.port else s
  statAdd (returnCredit s r.port .req r.h.dom.toNat) r.h.dom.toNat 0

theorem posts_reqTaken (s : State) (r : Req) : s.Posts (reqTaken s r) [r.port] r.h.dom.toNat [] :=
  have hp := List.mem_singleton_self r.port
  (posts_takeMsg hp _).after ((posts_ite (posts_reqDelivered hp) (.refl _ _ _)).after
    ((posts_returnCredit hp .req _).after (posts_statAdd 0)))

/-- The writes of an agent that have no final answer, and its CUREs that wait. -/
def Port.barriers (q : Port) : List (BitVec 6 × BitVec 12) × List Cure := (q.opens, q.cures)

theorem apart_barriers : Apart Port.barriers := ⟨fun _ _ => rfl, fun _ _ => rfl, fun _ _ => rfl, fun _ _ => rfl⟩

theorem barriers_reqTaken (s : State) (r : Req) : s.portsKeep Port.barriers (reqTaken s r) :=
  ((portsKeep_updRx apart_barriers s r.port _).trans
    (portsKeep_ite _ (portsKeep_reqDelivered apart_barriers _ _) (.refl _ _))).trans
    (portsKeep_returnCredit apart_barriers _ _ _ _)

/-- A CURE of a sender comes to its barrier slot as it was sent. The state is named, where `agentReq_of_sender` gives
some state, so that what its port keeps can be said of it. -/
theorem agentReq_cure {s : State} {p : Nat} {h : Hdr} {f : ReqF} (hs : s.sender p h)
    (hpmk : (s.port p).rx.pmk = []) :
    agentReq s p .cure h f 0 = cureReq (reqTaken s ⟨.cure, p, h, f, 0, 0⟩) ⟨.cure, p, h, f, 0, 0⟩ := by
  obtain ⟨hp, ⟨-, -, hdis, hmem⟩, hdan, -, hcons, -⟩ := hs
  obtain ⟨hdom, hsent⟩ := hmem hp
  obtain ⟨a, ha⟩ := Option.isSome_iff_exists.1 hsent
  have hall := posts_reqTaken s ⟨.cure, p, h, f, 0, 0⟩
  have hmatch : ∀ m, matchPmk s p m = (none, s) := fun m => by simp [matchPmk, hpmk]
  unfold reqTaken at hall ⊢
  dsimp only at hall ⊢
  generalize hv : (if foreRuns (takeMsg s p (.req .cure h f 0)) p
    then reqDelivered (takeMsg s p (.req .cure h f 0)) p else takeMsg s p (.req .cure h f 0)) = v at hall ⊢
  have hdrop : dropConsent (returnCredit v p .req h.dom.toNat) p (.req .cure h f 0) f.laddr
      = returnCredit v p .req h.dom.toNat := by
    have hcons' : ((returnCredit v p .req h.dom.toNat).port p).mem.consent = false :=
      (congrArg Member.consent (hall.mem p)).trans hcons
    rw [dropConsent, hcons', if_neg Bool.false_ne_true]
  unfold agentReq
  dsimp only
  rw [hmatch, hdom, ha]
  dsimp only
  rw [hv, hdrop, if_neg (by simp [hdan]), hall.discards, hdis, if_neg Bool.false_ne_true, if_neg (by simp),
    hdr_eq_own hdan rfl ((hall.dom_epoch _).trans (epoch_of_discards hdis).symm)]
  rfl

/-- The row of a CURE of a sender, which no slice looks up (R151, R226). -/
theorem exec_cure {s : State} {p : Fin 20} {h : Hdr} {f : ReqF} (hs : s.sender p h)
    (hpmk : (s.port p).rx.pmk = []) (hm : mayTake s p (.req .cure h f 0) = true) : exec (.cure p h f) s
      = .next (serveStore (cureReq (reqTaken s ⟨.cure, p, h, f, 0, 0⟩) ⟨.cure, p, h, f, 0, 0⟩)) := by
  have ⟨hp, _, _, _, _, hwbs, _⟩ := hs
  have hturn : noteTurn s p .cure h f = s := by simp [noteTurn, reqLane]
  show Host.Outcome.next (reqRow s p .cure h f 0) = _
  rw [reqRow, hm, Bool.not_true, if_neg Bool.false_ne_true, hturn]
  dsimp only
  rw [serveStore_of_empty hwbs, if_pos hp, agentReq_cure hs hpmk]

section
variable {s : State} {r : Req} (hbad : badFields r = false) (hst : (s.dom r.h.dom.toNat).st = .started)
  (hmerges : s.home.merges = []) (hfull : (s.port r.port).cures.length < 4)
include hbad hst hmerges hfull

/-- A CURE that finds nothing to wait for has its CMP at once. -/
theorem cureReq_of_none (hnone : ∀ e ∈ (s.port r.port).opens, e.1 ≠ r.f.stream) : cureReq s r
    = answerReq (statAdd s r.h.dom.toNat 22) r (.cmp (reqHdr (statAdd s r.h.dom.toNat 22) r) 0) := by
  have hst' : ((statAdd s r.h.dom.toNat 22).dom r.h.dom.toNat).st = .started :=
    ((posts_statAdd (P := []) 22).dom_st _).trans hst
  have hwrites : (((statAdd s r.h.dom.toNat 22).port r.port).opens.filter fun e => e.1 == r.f.stream) = [] :=
    List.filter_eq_nil_iff.2 fun e he => by simpa using hnone e he
  have hents : (statAdd s r.h.dom.toNat 22).home.merges = [] := hmerges
  have hroom : ¬4 ≤ ((statAdd s r.h.dom.toNat 22).port r.port).cures.length := Nat.not_le.2 hfull
  unfold cureReq
  dsimp only
  rw [hbad, if_neg Bool.false_ne_true, if_neg (not_not.2 hst'), hwrites, hents]
  rw [if_pos (by rfl), if_neg (by simpa using hroom)]

/-- A CURE whose stream has writes open takes a guaranteed watch entry and waits for them. -/
theorem cureReq_of_open {e : BitVec 6 × BitVec 12} (he : e ∈ (s.port r.port).opens) (hstream : e.1 = r.f.stream)
    (hcq : watches s r.h.dom.toNat < (s.dom r.h.dom.toNat).par.cq) : cureReq s r
    = (statAdd s r.h.dom.toNat 22).updPort r.port fun q => { q with cures := q.cures ++ [⟨r.h, r.f.stream,
        ((s.port r.port).opens.filter fun e => e.1 == r.f.stream).map Prod.snd, []⟩] } := by
  have hst' : ((statAdd s r.h.dom.toNat 22).dom r.h.dom.toNat).st = .started :=
    ((posts_statAdd (P := []) 22).dom_st _).trans hst
  have hwrites : (((s.port r.port).opens.filter fun e => e.1 == r.f.stream).map Prod.snd).isEmpty = false :=
    List.isEmpty_eq_false_iff.2 (List.ne_nil_of_mem
      (List.mem_map_of_mem (List.mem_filter.2 ⟨he, by simpa using hstream⟩)))
  have hents : (statAdd s r.h.dom.toNat 22).home.merges = [] := hmerges
  have hports : (statAdd s r.h.dom.toNat 22).port r.port = s.port r.port := rfl
  have hwatch : watches (statAdd s r.h.dom.toNat 22) r.h.dom.toNat = watches s r.h.dom.toNat := rfl
  unfold cureReq
  dsimp only
  rw [hbad, if_neg Bool.false_ne_true, if_neg (not_not.2 hst'), hents, hports, hwatch, hwrites, Bool.false_and,
    if_neg Bool.false_ne_true, if_neg fun h => Nat.not_le.2 hcq h.1, if_neg fun h => Nat.not_le.2 hcq h.1,
    if_neg (by simpa using hfull)]
  rfl

end

theorem watches_of_barriers {s t : State} (h : s.portsKeep Port.barriers t) (d : Nat) : watches t d = watches s d := by
  have hcures : ∀ p, (t.port p).cures = (s.port p).cures := fun p => congrArg Prod.snd (h p)
  simp only [watches, hcures]

/-! ## The rows of CUREs that waited and of gates (R227, R230) -/

theorem exec_cureComplete {s : State} {a : Fin 16} {tid : BitVec 12} {c : Cure} (hclk : s.clocked = true)
    (hc : (s.port a).cures.find? (fun c => c.h.tid == tid && c.writes.isEmpty && c.drains.isEmpty) = some c) :
    exec (.cureComplete a tid) s = .next (placeAgent (s.updPort a fun q => { q with cures := q.cures.erase c }) a
      (.cmp { c.h with epoch := (s.dom c.h.dom.toNat).epoch } 0)) := by
  show execCureComplete a tid s = _
  unfold execCureComplete
  rw [hc]
  exact if_neg (by simp [hclk])

/-- t differs from s at port a alone, beside what any service of the home may change, and the order gates of that
port stand. -/
structure State.GatesStand (s t : State) (a : Nat) : Prop where
  gates : (t.port a).gates = (s.port a).gates
  buffer : (t.port a).gateBuf = (s.port a).gateBuf
  others : s.otherPorts t a
  only : s.homeOnly t

theorem State.GatesStand.refl (s : State) (a : Nat) : s.GatesStand s a := ⟨rfl, rfl, .refl s a, rfl⟩

theorem State.GatesStand.trans {s t u : State} {a : Nat} (h : s.GatesStand t a) (k : t.GatesStand u a) :
    s.GatesStand u a :=
  ⟨k.gates.trans h.gates, k.buffer.trans h.buffer, h.others.trans k.others, h.only.trans k.only⟩

/-- The order gates of a port with the requests that wait at them. -/
def Port.gating (q : Port) : Tbl Gate × List Req := (q.gates, q.gateBuf)

theorem apart_gating : Apart Port.gating := ⟨fun _ _ => rfl, fun _ _ => rfl, fun _ _ => rfl, fun _ _ => rfl⟩

/-- A message that grants nothing leaves the order gates of its port as they are, placed or not. -/
theorem gatesStand_placeAgent (s : State) (a : Nat) {m : Msg} (hm : isGrant m = false) :
    s.GatesStand (placeAgent s a m) a := by
  by_cases hplace : (s.port a).mem.dom = some m.hdr.dom.toNat ∧ (s.port a).mem.sent.isSome = true ∧ s.up a = true
  · obtain ⟨hdom, hsent, hup⟩ := hplace
    have hfill : isGrant m = true → s.mirrored m.hdr.dom.toNat (s.port a).mem.dan = none := fun h =>
      absurd h (by simp [hm])
    have hpost := posts_placeAgent (List.mem_singleton_self a) hdom hsent hup hfill
    have hkeep := portsKeep_sent apart_gating (fun _ _ _ => rfl) s a m a
    rw [← placeAgent_eq hdom hsent hup hfill] at hkeep
    exact ⟨congrArg Prod.fst hkeep, congrArg Prod.snd hkeep, fun j hj => hpost.others j (by simpa using hj),
      hpost.homeOnly⟩
  · have hskip : placeAgent s a m = s := by
      unfold placeAgent
      refine if_pos ?_
      by_contra hnot
      simp only [not_or, not_not, Option.isNone_iff_eq_none, Bool.not_eq_true'] at hnot
      exact hplace ⟨hnot.1, Option.isSome_iff_ne_none.2 hnot.2.1, by simpa using hnot.2.2⟩
    rw [hskip]
    exact .refl s a

/-- A request NAKed behind a broken gate leaves the gates as they are (R230). -/
theorem gatesStand_nakReq (s : State) {a : Nat} (ha : a < 16) {r : Req} (hr : r.port = a) :
    s.GatesStand (nakReq s r 2 none) a := by
  have hnak : nakReq s r 2 none = placeAgent s a (.nak r.h (BitVec.ofNat 4 2) 0 false) := by
    subst hr
    simp [nakReq, answerReq, ha]
  rw [hnak]
  exact gatesStand_placeAgent s a rfl

theorem gatesStand_nakAll {a : Nat} (ha : a < 16) (l : List Req) (s : State) (hl : ∀ r ∈ l, r.port = a) :
    s.GatesStand (l.foldl (fun s r => nakReq s r 2 none) s) a := by
  induction l generalizing s with
  | nil => exact .refl s a
  | cons r l ih =>
    obtain ⟨hr, hrest⟩ := List.forall_mem_cons.1 hl
    exact (gatesStand_nakReq s ha hr).trans (ih _ hrest)

theorem setGate_port_same (s : State) (p stream : Nat) (k : Gate) : (setGate s p stream k).port p
    = { s.port p with gates := tset (s.port p).gates stream k, gateEnd := tset (s.port p).gateEnd stream none } :=
  s.updPort_port_same p _

/-- The row of a gate whose request has its final answer (R230). -/
theorem exec_dsGatePass {s : State} {a : Fin 16} {stream : BitVec 6} {tid : BitVec 12} {reason : BitVec 4}
    (hclk : s.clocked = true) (hbusy : gateOf (s.port a) stream.toNat = .busy tid)
    (hend : tget none (s.port a).gateEnd stream.toNat = some reason) : exec (.dsGatePass a stream) s
      = if retryable reason then
          .next (((s.port a).gateBuf.filter fun r => r.f.stream == stream).foldl (fun s r => nakReq s r 2 none)
            ((setGate s a stream.toNat (.broken tid)).updPort a
              fun q => { q with gateBuf := q.gateBuf.filter fun r => r.f.stream != stream }))
        else match (s.port a).gateBuf.filter fun r => r.f.stream == stream with
          | [] => .next (setGate s a stream.toNat .idle)
          | r :: _ => .next (gatePass (s.updPort a fun q => { q with gateBuf := q.gateBuf.erase r }) r) := by
  show execDsGatePass a stream s = _
  unfold execDsGatePass
  dsimp only
  rw [hbusy, hend]
  exact if_neg (by simp [hclk])

/-! ## The clauses of O49 -/

section
variable {s : State} {p : Fin 20} {h : Hdr} {f : ReqF} (hs : s.sender p h) (hpmk : (s.port p).rx.pmk = [])
  (hm : mayTake s p (.req .cure h f 0) = true) (hmerges : s.home.merges = [])
  (hbad : badFields ⟨.cure, p, h, f, 0, 0⟩ = false) (hfull : (s.port p).cures.length < 4)
include hs hpmk hm hmerges hbad hfull

theorem cure_answered_at_once (hnone : ∀ e ∈ (s.port p).opens, e.1 ≠ f.stream) :
    ∃ t, exec (.cure p h f) s = .next t ∧ s.placed t p (.cmp h 0) ∧ t.home = s.home ∧ s.otherPorts t p ∧
      s.homeOnly t := by
  have hexec := exec_cure hs hpmk hm
  have hu := posts_reqTaken s ⟨.cure, p, h, f, 0, 0⟩
  have hb := barriers_reqTaken s ⟨.cure, p, h, f, 0, 0⟩ p
  generalize reqTaken s ⟨.cure, p, h, f, 0, 0⟩ = u at hexec hu hb
  obtain ⟨hp, ⟨-, hup, hdis, hmem⟩, -, hst, -, hwbs, -⟩ := hs
  obtain ⟨hdom, hsent⟩ := hmem hp
  obtain ⟨hopens, hcures⟩ := Prod.mk.inj hb
  have hv := hu.after (posts_statAdd (s := u) (P := [p.val]) (d := h.dom.toNat) 22)
  have hhdr : reqHdr (statAdd u h.dom.toNat 22) ⟨.cure, p, h, f, 0, 0⟩ = h := by
    rw [reqHdr, hv.dom_epoch, ← epoch_of_discards hdis]
  have hans : answerReq (statAdd u h.dom.toNat 22) ⟨.cure, p, h, f, 0, 0⟩ (.cmp h 0)
      = placeAgent (statAdd u h.dom.toNat 22) p (.cmp h 0) := if_pos hp
  have ht := hv.after (posts_placeAgent (p := p) (m := .cmp h 0) (List.mem_singleton_self _)
    (by rw [hv.mem]; exact hdom) (by rw [hv.mem]; exact hsent) (by rw [hv.up]; exact hup) (fun h => nomatch h))
  rw [cureReq_of_none (r := ⟨.cure, p, h, f, 0, 0⟩) hbad ((hu.dom_st _).trans hst) (by rw [hu.home, hmerges])
    (by rw [hcures]; exact hfull) (by rw [hopens]; exact hnone), hhdr, hans,
    serveStore_of_empty (by rw [ht.home, hwbs])] at hexec
  exact ⟨_, hexec, ht.placed_of_single rfl, ht.home, fun j hj => ht.others j (by simpa using hj), ht.homeOnly⟩

theorem cure_waits_for_writes {e : BitVec 6 × BitVec 12} (he : e ∈ (s.port p).opens) (hstream : e.1 = f.stream)
    (hcq : watches s h.dom.toNat < (s.dom h.dom.toNat).par.cq) : ∃ t, exec (.cure p h f) s = .next t ∧
      (t.port p).tx.q = (s.port p).tx.q ∧ (t.port p).cures = (s.port p).cures ++ [⟨h, f.stream,
        ((s.port p).opens.filter fun e => e.1 == f.stream).map Prod.snd, []⟩] ∧
      t.home = s.home ∧ s.otherPorts t p ∧ s.homeOnly t := by
  have hexec := exec_cure hs hpmk hm
  have hu := posts_reqTaken s ⟨.cure, p, h, f, 0, 0⟩
  have hb := barriers_reqTaken s ⟨.cure, p, h, f, 0, 0⟩
  generalize reqTaken s ⟨.cure, p, h, f, 0, 0⟩ = u at hexec hu hb
  obtain ⟨-, -, -, hst, -, hwbs, -⟩ := hs
  obtain ⟨hopens, hcures⟩ := Prod.mk.inj (hb p)
  have ht := hu.after ((posts_statAdd (s := u) (P := [p.val]) (d := h.dom.toNat) 22).after
    (posts_updPort (p := p.val) (f := fun q => { q with cures := q.cures ++
      [⟨h, f.stream, ((u.port p).opens.filter fun e => e.1 == f.stream).map Prod.snd, []⟩] })
      (List.mem_singleton_self _) rfl rfl rfl (.refl _)))
  rw [cureReq_of_open (r := ⟨.cure, p, h, f, 0, 0⟩) hbad ((hu.dom_st _).trans hst) (by rw [hu.home, hmerges])
    (by rw [hcures]; exact hfull) (by rw [hopens]; exact he) hstream
    (by rw [watches_of_barriers hb, hu.dom_par]; exact hcq),
    serveStore_of_empty (by exact ht.home ▸ hwbs)] at hexec
  refine ⟨_, hexec, ?_, ?_, ht.home, fun j hj => ht.others j (by simpa using hj), ht.homeOnly⟩
  · exact (congrArg Tx.q (ht.tx p)).trans (List.append_nil _)
  · rw [State.updPort_port_same, ← hopens, ← hcures]
    rfl

end

theorem cureComplete_answers {s : State} {a : Fin 16} {tid : BitVec 12} {c : Cure} (hclk : s.clocked = true)
    (hup : s.up a = true)
    (hc : (s.port a).cures.find? (fun c => c.h.tid == tid && c.writes.isEmpty && c.drains.isEmpty) = some c)
    (hdom : (s.port a).mem.dom = some c.h.dom.toNat) (hsent : (s.port a).mem.sent.isSome = true) :
    ∃ t, exec (.cureComplete a tid) s = .next t ∧
      s.placed t a (.cmp { c.h with epoch := (s.dom c.h.dom.toNat).epoch } 0) ∧
      (t.port a).cures.length + 1 = (s.port a).cures.length ∧ s.otherPorts t a ∧ s.homeOnly t := by
  have hexec := exec_cureComplete hclk hc
  have hmem := List.mem_of_find?_eq_some hc
  have herase := posts_updPort (s := s) (p := a.val) (P := [a.val]) (d := c.h.dom.toNat)
    (f := fun q => { q with cures := q.cures.erase c }) (List.mem_singleton_self _) rfl rfl rfl (.refl _)
  have hlen : ((s.updPort a fun q => { q with cures := q.cures.erase c }).port a).cures.length + 1
      = (s.port a).cures.length := by
    rw [State.updPort_port_same]
    dsimp only
    rw [List.length_erase_of_mem hmem, Nat.sub_add_cancel (List.length_pos_of_mem hmem)]
  generalize (s.updPort a fun q => { q with cures := q.cures.erase c }) = u at herase hlen hexec
  have hdom' : (u.port a).mem.dom = some c.h.dom.toNat := by rw [herase.mem, hdom]
  have hsent' : (u.port a).mem.sent.isSome = true := by rw [herase.mem, hsent]
  have hplace := placeAgent_eq (m := .cmp { c.h with epoch := (s.dom c.h.dom.toNat).epoch } 0) hdom' hsent'
    ((herase.up a).trans hup) (fun h => nomatch h)
  have ht := herase.after (posts_sent (m := .cmp { c.h with epoch := (s.dom c.h.dom.toNat).epoch } 0)
    (List.mem_singleton_self _) ((herase.up a).trans hup))
  have hkeep : ((noteAsk _ _ _).port a).cures.length = _ := portsKeep_sent (g := fun q => q.cures.length)
    ⟨fun _ _ => rfl, fun _ _ => rfl, fun _ _ => rfl, fun _ _ => rfl⟩ (fun _ _ _ => List.length_map _) u a
    (.cmp { c.h with epoch := (s.dom c.h.dom.toNat).epoch } 0) a
  rw [hplace] at hexec
  refine ⟨_, hexec, ht.placed_of_single rfl, ?_, fun j hj => ht.others j (by simpa using hj), ht.homeOnly⟩
  rw [hkeep, hlen]

theorem dsGate_breaks {s : State} {a : Fin 16} {stream : BitVec 6} {tid : BitVec 12} {reason : BitVec 4}
    (hclk : s.clocked = true) (hbusy : gateOf (s.port a) stream.toNat = .busy tid)
    (hend : tget none (s.port a).gateEnd stream.toNat = some reason) (hretry : retryable reason = true)
    (hports : ∀ r ∈ (s.port a).gateBuf.filter (fun r => r.f.stream == stream), r.port = a.val) :
    ∃ t, exec (.dsGatePass a stream) s = .next t ∧ gateOf (t.port a) stream.toNat = .broken tid ∧
      (t.port a).gateBuf = (s.port a).gateBuf.filter (fun r => r.f.stream != stream) ∧ s.otherPorts t a ∧
      s.homeOnly t := by
  have hexec := exec_dsGatePass hclk hbusy hend
  rw [if_pos hretry] at hexec
  have hport := State.updPort_port_same (setGate s a stream.toNat (.broken tid)) a
    fun q => { q with gateBuf := q.gateBuf.filter fun r => r.f.stream != stream }
  rw [setGate_port_same] at hport
  obtain ⟨hgates, hbuffer, hothers, honly⟩ := gatesStand_nakAll a.isLt _ ((setGate s a stream.toNat
    (.broken tid)).updPort a fun q => { q with gateBuf := q.gateBuf.filter fun r => r.f.stream != stream }) hports
  refine ⟨_, hexec, ?_, ?_, ((otherPorts_updPort s a _).trans (otherPorts_updPort _ a _)).trans hothers,
    .trans (t := (setGate s a stream.toNat (.broken tid)).updPort a _) rfl honly⟩
  · rw [gateOf, hgates, hport]
    exact tget_tset_same _ _ _ _
  · rw [hbuffer, hport]

/-- Settles O49: a CURE is answered or waits, one that waited is answered, and a gate goes idle, passes or breaks. -/
theorem barriersAndGates : Obligations.BarriersAndGates := by
  unfold Obligations.BarriersAndGates
  intro s
  refine ⟨fun p h f hs hpmk hmerges hm hl ho hsub hfull => ?cure,
    fun a tid c hclk hup hc hdom hsent => cureComplete_answers hclk hup hc hdom hsent,
    fun a stream tid reason hclk hbusy hend => ⟨fun hfinal hnone => ?idle, fun r rest hfinal hnext => ?pass,
      fun hretry hports => dsGate_breaks hclk hbusy hend hretry hports⟩⟩
  case cure =>
    have hbad : badFields ⟨.cure, p, h, f, 0, 0⟩ = false := by simp [badFields, hl, ho, hsub]
    exact ⟨cure_answered_at_once hs hpmk hm hmerges hbad hfull,
      fun e he hstream hcq => cure_waits_for_writes hs hpmk hm hmerges hbad hfull he hstream hcq⟩
  case idle =>
    have hexec := exec_dsGatePass hclk hbusy hend
    rw [hfinal, if_neg Bool.false_ne_true, hnone] at hexec
    refine ⟨_, hexec, ?_, by rw [setGate_port_same], otherPorts_updPort s a _, rfl⟩
    rw [setGate_port_same, gateOf]
    exact tget_tset_same _ _ _ _
  case pass =>
    rw [exec_dsGatePass hclk hbusy hend, hfinal, if_neg Bool.false_ne_true, hnext]

end Sys2Proof.Machine
end

section
/-!
SUPPORT. What leaves all but the ports as it was, and the end of a command whose body has touched the mailboxes.
The Domain commands that set parameters: O8.
-/
namespace Sys2Proof.Machine

/-! ## Nothing but the ports differs -/

/-- Nothing but the ports differs. -/
def State.portsOnly (s t : State) : Prop := { t with ports := s.ports } = s

section
variable {s t u : State}

theorem State.portsOnly.refl (s : State) : s.portsOnly s := rfl

theorem State.portsOnly.trans (h : s.portsOnly t) (k : t.portsOnly u) : s.portsOnly u := by
  unfold State.portsOnly at h k ⊢
  exact (congrArg (fun x => { x with ports := s.ports }) k).trans h

theorem portsOnly_ite (c : Prop) [Decidable c] (ht : s.portsOnly t) (hu : s.portsOnly u) :
    s.portsOnly (if c then t else u) := by
  split
  · exact ht
  · exact hu

theorem portsOnly_foldl {α : Type} {f : State → α → State} (hf : ∀ (s : State) a, s.portsOnly (f s a))
    (l : List α) (s : State) : s.portsOnly (l.foldl f s) := by
  induction l generalizing s with
  | nil => exact .refl s
  | cons a l ih => exact (hf s a).trans (ih (f s a))

section
variable (h : s.portsOnly t)
include h

theorem State.portsOnly.doms : t.doms = s.doms := (congrArg State.doms h :)
theorem State.portsOnly.home : t.home = s.home := (congrArg State.home h :)
theorem State.portsOnly.cfg : t.cfg = s.cfg := (congrArg State.cfg h :)
theorem State.portsOnly.flt : t.flt = s.flt := (congrArg State.flt h :)
theorem State.portsOnly.mbs : t.mbs = s.mbs := (congrArg State.mbs h :)
theorem State.portsOnly.mbram : t.mbram = s.mbram := (congrArg State.mbram h :)
theorem State.portsOnly.dom (d : Nat) : t.dom d = s.dom d := dom_of_doms h.doms d

end

theorem portsOnly_updPort (s : State) (p : Nat) (f : Port → Port) : s.portsOnly (s.updPort p f) := rfl

theorem portsOnly_placeCtl (s : State) (p : Nat) (c : LinkCtl) : s.portsOnly (placeCtl s p c) :=
  portsOnly_ite _ rfl (.refl s)

theorem portsOnly_spanNotice (s : State) (except : Option Nat) (c : LinkCtl) :
    s.portsOnly (spanNotice s except c) :=
  portsOnly_foldl (fun s p => portsOnly_ite _ (.refl s) (portsOnly_placeCtl s p c)) spanPorts s

/-- ASSIGN concerns its port alone (R70). -/
theorem portsOnly_placeAssign (s : State) (p : Nat) (creds : Bool) : s.portsOnly (placeAssign s p creds) := by
  unfold placeAssign
  split
  · exact .refl s
  · dsimp only
    refine portsOnly_ite _ (portsOnly_updPort s p _) ?_
    refine .trans ?_ (portsOnly_ite _ (portsOnly_updPort _ p _) (.refl _))
    exact (portsOnly_placeCtl s p _).trans (portsOnly_updPort _ p _)

theorem portsOnly_placeAssigns (s : State) (ps : List Nat) (creds : Bool) :
    s.portsOnly (ps.foldl (fun s p => placeAssign s p creds) s) :=
  portsOnly_foldl (fun s p => portsOnly_placeAssign s p creds) ps s

end

/-! ## The end of a command (R390, R396) -/

section
variable {s t : State} {m : Fin 10} {op st de : Nat} {pl r : List Byte}

theorem State.holds.busy (h : s.holds m op pl) : (s.mb m).st = .busy := by
  obtain ⟨-, -, hbusy, -⟩ := h
  exact hbusy

theorem State.holds.ramWf (h : s.holds m op pl) : ramWf s.mbram = true := by
  obtain ⟨-, -, -, -, -, -, -, -, -, hram⟩ := h
  exact hram

/-- A mailbox whose command is in progress answers it. -/
theorem ended_mbFinish (hbusy : (s.mb m).st = .busy) (hram : ramWf s.mbram = true) (hl : r.length ≤ 256)
    (hs : st < 256) (hd : de < 65536) : (mbFinish s m st de r).ended m st de r := by
  obtain ⟨hdone, hstatus⟩ := mbFinish_mb hbusy st de r
  exact ⟨hdone, hstatus, mbFinish_answer hbusy hram st de r hl hs hd⟩

/-- A command whose body leaves its mailbox BUSY and the RAM as it was ends with its body's answer. -/
theorem mbRun_ended (h : s.holds m op pl) {form : List Byte → Bool} (hf : form pl = true)
    (busy : State → List Byte → List Byte × State) {body : State → Option Nat → List Byte → CmdRes}
    (hb : body (s.turned m) (some m.val) pl = .done 0 0 r t) (hbusy : (t.mb m).st = .busy)
    (hram : t.mbram = s.mbram) (hl : r.length ≤ 256) :
    Host.Outcome.next (mbRun s m op form busy body) = (.next (mbFinish t m 0 0 r) : Out) ∧
      (mbFinish t m 0 0 r).ended m 0 0 r :=
  ⟨congrArg _ (mbRun_done h form hf busy body 0 0 r hb),
    ended_mbFinish hbusy (by rw [hram]; exact h.ramWf) hl (by decide) (by decide)⟩

end

/-! ## The parameters of a domain (R241, R245, R254) -/

/-- The parameters of a domain are set and stored, and ASSIGNs may follow: a domain in NONE is CREATED with epoch
0, any other keeps its state. -/
theorem createDom_sets (s : State) (d : Nat) (p : Params) : ∃ q : Dom,
    (storeMem (s.setDom d q) 9 0 (keyPar d) (some d)).portsOnly (createDom s d p) ∧ q.par = p ∧
      ((s.dom d).st = .none → q.st = .created ∧ q.epoch = 0) ∧ ((s.dom d).st ≠ .none → q.st = (s.dom d).st) := by
  refine ⟨_, portsOnly_ite _ (portsOnly_placeAssigns _ _ false) (.refl _), ?_⟩
  by_cases hnone : (s.dom d).st = .none <;> simp [hnone]

section
variable {s : State} {pl : List Byte} (x : Option Nat)

theorem doDomainCreate_of_ok (hst : (s.dom (byteAt pl 0 % 8)).st = .none ∨ (s.dom (byteAt pl 0 % 8)).st = .created)
    (hok : createOk pl = true) (hclash : windowClash s (byteAt pl 0 % 8) (createParams pl) = false)
    (hsums : sumsOk s (byteAt pl 0 % 8) (createParams pl).q (createParams pl).cq (createParams pl).mbq = true) :
    doDomainCreate s x pl = .done 0 0 [] (createDom s (byteAt pl 0 % 8) (createParams pl)) := by
  unfold doDomainCreate
  dsimp only
  rw [if_neg (by rintro ⟨h, k⟩; exact hst.elim h k), hok, hclash, hsums]
  rfl

/-- A domain with the four quotas of a QUOTA_SET request. -/
def Dom.withQuotas (q : Dom) (pl : List Byte) : Dom :=
  { q with par := { q.par with q := byteAt pl 1, b := byteAt pl 2, cq := byteAt pl 3, mbq := byteAt pl 4 } }

theorem doQuotaSet_of_ok (hst : (s.dom (byteAt pl 0 % 8)).st ≠ .none)
    (hok : quotaOk (byteAt pl 1) (byteAt pl 2) (byteAt pl 3) (byteAt pl 4) = true)
    (hsums : sumsOk s (byteAt pl 0 % 8) (byteAt pl 1) (byteAt pl 3) (byteAt pl 4) = true) :
    doQuotaSet s x pl = .done 0 0 [] (voidTickets (storeMem (s.updDom (byteAt pl 0 % 8) fun q => q.withQuotas pl)
      9 0 (keyPar (byteAt pl 0 % 8)) (some (byteAt pl 0 % 8))) (byteAt pl 0 % 8) TQueue.quota) := by
  unfold doQuotaSet
  dsimp only
  rw [if_neg hst, hok, hsums]
  rfl

end

/-- Settles O8: each command stores the domain's parameters and ends at once. -/
theorem domainParametersAreSet : Obligations.DomainParametersAreSet := by
  unfold Obligations.DomainParametersAreSet
  intro s m pl d
  refine ⟨fun h hst hok hclash hsums => ?create, fun h hst hok hsums => ?quota⟩
  case create =>
    obtain ⟨q, hports, hpar, hnone, hcreated⟩ := createDom_sets (s.turned m) d (createParams pl)
    obtain ⟨-, hdoms, hcfg, hmbs, hmbram⟩ :=
      (arraysOnly_storeMem ((s.turned m).setDom d q) 9 0 (keyPar d) (some d)).parts
    obtain ⟨hrun, hend, -⟩ := mbRun1_done h (doDomainCreate_of_ok (some m.val) hst hok hclash hsums)
      (hports.mbs.trans hmbs) (hports.mbram.trans hmbram) (by simp)
    have hdom : ∀ e, (mbFinish (createDom (s.turned m) d (createParams pl)) m 0 0 []).dom e
        = ((s.turned m).setDom d q).dom e := fun e =>
      (dom_of_doms (mbFinish_doms ..) e).trans ((hports.dom e).trans (dom_of_doms hdoms e))
    refine ⟨_, hrun, hend, ?_, ?_, fun h0 => ?_, fun e he => ?_,
      (mbFinish_cfg ..).trans (hports.cfg.trans hcfg)⟩
    · rw [hdom, State.setDom_dom_same]
      rcases hst with h0 | h0
      · exact (hnone h0).1
      · exact (hcreated (by rw [State.turned, State.updFw_dom, h0]; decide)).trans h0
    · rw [hdom, State.setDom_dom_same, hpar]
    · rw [hdom, State.setDom_dom_same]
      exact (hnone h0).2
    · exact (hdom e).trans (State.setDom_dom_ne _ _ he.symm)
  case quota =>
    obtain ⟨hports, hdoms, -, hmbs, hmbram⟩ :=
      (arraysOnly_storeMem ((s.turned m).updDom d fun q => q.withQuotas pl) 9 0 (keyPar d) (some d)).parts
    obtain ⟨hrun, hend, -⟩ := mbRun1_done h (doQuotaSet_of_ok (some m.val) hst hok hsums) hmbs hmbram (by simp)
    have hdom : ∀ e, (mbFinish (voidTickets (storeMem ((s.turned m).updDom d fun q => q.withQuotas pl) 9 0 (keyPar d)
        (some d)) d TQueue.quota) m 0 0 []).dom e = ((s.turned m).updDom d fun q => q.withQuotas pl).dom e := fun e =>
      (dom_of_doms (mbFinish_doms ..) e).trans (dom_of_doms hdoms e)
    refine ⟨_, hrun, hend, ?_, ?_, fun e he => (hdom e).trans (State.updDom_dom_ne _ _ he.symm),
      (mbFinish_ports ..).trans hports⟩
    · rw [hdom, State.updDom_dom_same]
      rfl
    · rw [hdom, State.updDom_dom_same]
      rfl

end Sys2Proof.Machine
end

section
/-!
SUPPORT. What the expulsion of agents leaves, and the agents that enter and leave the map: O9.
-/
namespace Sys2Proof.Machine

/-! ## Agents that leave the map (R247) -/

/-- These agents of a domain have left its map and its other agents stand, as do the configuration, the STATE of
every mailbox and the mailboxes' RAM. -/
structure State.Loses (s t : State) (d : Nat) (dans : List Nat) : Prop where
  cfg : t.cfg = s.cfg
  mbram : t.mbram = s.mbram
  mbSt : ∀ m, (t.mb m).st = (s.mb m).st
  gone : ∀ n ∈ dans, t.agent d n = none
  stay : ∀ n, n ∉ dans → t.agent d n = s.agent d n

section
variable {s t u : State} {d : Nat} {l k : List Nat}

theorem State.Loses.refl (s : State) (d : Nat) : s.Loses s d [] :=
  ⟨rfl, rfl, fun _ => rfl, fun _ hn => (nomatch hn), fun _ _ => rfl⟩

theorem State.Loses.trans (h : s.Loses t d l) (g : t.Loses u d k) : s.Loses u d (l ++ k) where
  cfg := g.cfg.trans h.cfg
  mbram := g.mbram.trans h.mbram
  mbSt m := (g.mbSt m).trans (h.mbSt m)
  gone n hn := by
    by_cases hk : n ∈ k
    · exact g.gone n hk
    · rw [g.stay n hk]
      exact h.gone n ((List.mem_append.1 hn).resolve_right hk)
  stay n hn := by
    rw [List.mem_append, not_or] at hn
    rw [g.stay n hn.2, h.stay n hn.1]

/-- The first of two steps takes no agent. -/
theorem State.Loses.after (h : s.Loses t d []) (g : t.Loses u d l) : s.Loses u d l := h.trans g

theorem loses_ite (c : Prop) [Decidable c] (ht : s.Loses t d l) (hu : s.Loses u d l) :
    s.Loses (if c then t else u) d l := by
  split
  · exact ht
  · exact hu

theorem loses_foldl {α : Type} {f : State → α → State} (hf : ∀ (s : State) a, s.Loses (f s a) d [])
    (l : List α) (s : State) : s.Loses (l.foldl f s) d [] := by
  induction l generalizing s with
  | nil => exact .refl s d
  | cons a l ih => exact (hf s a).after (ih (f s a))

theorem loses_of_maps (hcfg : t.cfg = s.cfg) (hram : t.mbram = s.mbram) (hmb : ∀ m, (t.mb m).st = (s.mb m).st)
    (hmap : (t.dom d).map = (s.dom d).map) : s.Loses t d [] :=
  ⟨hcfg, hram, hmb, fun _ hn => (nomatch hn), fun n _ => by rw [State.agent, hmap, State.agent]⟩

theorem loses_of_portsOnly (h : s.portsOnly t) (d : Nat) : s.Loses t d [] :=
  loses_of_maps h.cfg h.mbram (fun m => by rw [mb_of_mbs h.mbs]) (by rw [h.dom])

theorem loses_of_arraysOnly (h : s.arraysOnly t) (d : Nat) : s.Loses t d [] := by
  obtain ⟨-, hdoms, hcfg, hmbs, hram⟩ := h.parts
  exact loses_of_maps hcfg hram (fun m => by rw [mb_of_mbs hmbs]) (by rw [dom_of_doms hdoms])

/-! ### Ports: credits, RELEASE, notices, locks -/

theorem loses_forgetCredits (s : State) (d p : Nat) : s.Loses (forgetCredits s p) d [] := by
  refine loses_of_maps rfl rfl (fun _ => rfl) ?_
  have hdom := tget_tmap ({} : Dom) s.doms (fun _ q => { q with heldReqs := q.heldReqs.map fun e =>
    if e.2.port == p then (e.1, { e.2 with port := 20 }) else e }) d rfl
  exact (congrArg Dom.map hdom :)

/-- Once the credits are forgotten, RELEASE concerns its port alone (R70). -/
theorem portsOnly_placeRelease (s : State) (p d : Nat) : (forgetCredits s p).portsOnly (placeRelease s p d) := by
  unfold placeRelease
  refine portsOnly_ite _ ?_ (portsOnly_updPort _ p _)
  refine (portsOnly_placeCtl _ p (.release (BitVec.ofNat 3 d))).trans ?_
  exact (portsOnly_updPort _ p _).trans ((portsOnly_updPort _ p _).trans (portsOnly_updPort _ p _))

theorem loses_placeRelease (s : State) (d p e : Nat) : s.Loses (placeRelease s p e) d [] :=
  (loses_forgetCredits s d p).after (loses_of_portsOnly (portsOnly_placeRelease s p e) d)

theorem loses_mbDropPort (s : State) (d p : Nat) : s.Loses (mbDropPort s p) d [] := by
  refine loses_of_maps rfl rfl (fun m => ?_) rfl
  rw [State.mb, mbDropPort, tget_tmap _ _ _ _ rfl, State.mb]
  (repeat' split) <;> rfl

theorem loses_dropNotices (s : State) (d p : Nat) : s.Loses (dropNotices s p) d [] := by
  unfold dropNotices
  refine (loses_mbDropPort s d p).after (loses_ite _ (.refl _ d) (loses_ite _ ?_ ?_)) <;>
    exact loses_of_maps rfl rfl (fun _ => rfl) rfl

theorem loses_mbFreeLock (s : State) (d e dan : Nat) : s.Loses (mbFreeLock s e dan) d [] := by
  refine loses_of_maps rfl rfl (fun m => ?_) rfl
  unfold mbFreeLock
  by_cases hm : e = m
  · rw [hm, State.updMb_mb_same]
    split <;> rfl
  · rw [State.updMb_mb_ne _ _ hm]

theorem loses_leavePort (s : State) (d p e : Nat) : s.Loses (leavePort s p e) d [] := by
  unfold leavePort
  refine .after ?_ (loses_of_portsOnly (portsOnly_updPort _ p _) d)
  exact (loses_placeRelease s d p e).after (loses_dropNotices _ d p)

/-! ### The map and the shelves -/

theorem arraysOnly_clearShelves (s : State) (bs : List Nat) : s.arraysOnly (clearShelves s bs) := by
  induction bs generalizing s with
  | nil => rfl
  | cons b bs ih => exact (arraysOnly_updArr s _).trans (ih (clearShelf s b))

theorem arraysOnly_setShelves (s : State) (bs : List Nat) (o : Option (Nat × Nat)) :
    s.arraysOnly (bs.foldl (fun s b => setShelf s b o) s) := by
  induction bs generalizing s with
  | nil => rfl
  | cons b bs ih =>
    exact ((arraysOnly_updArr s _).trans (arraysOnly_storeMem _ 9 0 _ _)).trans (ih (setShelf s b o))

/-- The entry of a DAN in the agent map is the one written; no other entry, port, or mailbox differs. -/
theorem putMap_spec (s : State) (d dan : Nat) (o : Option Agent) (stale : Dom → BitVec 128) :
    let t := putMap s d dan o stale
    t.agent d dan = o ∧ (∀ n, n ≠ dan → t.agent d n = s.agent d n) ∧ t.ports = s.ports ∧ t.cfg = s.cfg ∧
      t.mbs = s.mbs ∧ t.mbram = s.mbram := by
  obtain ⟨hports, hdoms, hcfg, hmbs, hram⟩ := (arraysOnly_storeMem
    (s.updDom d fun q => { q with map := tset q.map dan o, stale := stale q }) 9 0 (keyMap d dan) (some d)).parts
  have hmap : ((putMap s d dan o stale).dom d).map = tset (s.dom d).map dan o :=
    congrArg Dom.map ((dom_of_doms hdoms d).trans (s.updDom_dom_same d _))
  refine ⟨?_, fun n hn => ?_, hports, hcfg, hmbs, hram⟩
  · rw [State.agent, hmap, tget_tset_same]
  · rw [State.agent, hmap, tget_tset_ne _ _ _ hn.symm, State.agent]

theorem loses_putMap (s : State) (d dan : Nat) (stale : Dom → BitVec 128) :
    s.Loses (putMap s d dan none stale) d [dan] := by
  obtain ⟨hgone, hstay, -, hcfg, hmbs, hram⟩ := putMap_spec s d dan none stale
  refine ⟨hcfg, hram, fun m => by rw [mb_of_mbs hmbs], fun n hn => ?_, fun n hn => hstay n (by simpa using hn)⟩
  rw [List.mem_singleton.1 hn, hgone]

/-! ### Expulsion -/

theorem loses_expel (s : State) (d dan : Nat) : s.Loses (expel s d dan) d [dan] := by
  unfold expel
  split
  next hnone =>
    refine ⟨rfl, rfl, fun _ => rfl, fun n hn => ?_, fun _ _ => rfl⟩
    rw [List.mem_singleton.1 hn, hnone]
  next a _ =>
    refine .after ?_ (loses_putMap _ d dan _)
    refine .after (.after ?_ (loses_ite _ (loses_of_arraysOnly (arraysOnly_clearShelves _ _) d) (.refl _ d)))
      (loses_ite _ (loses_of_arraysOnly (arraysOnly_setShelves _ _ none) d) (.refl _ d))
    split
    · exact (loses_leavePort s d _ d).after (loses_mbFreeLock _ d d dan)
    · exact .refl s d

theorem loses_expelAll (s : State) (d : Nat) (dans : List Nat) : s.Loses (expelAll s d dans) d dans := by
  induction dans generalizing s with
  | nil => exact .refl s d
  | cons n dans ih => exact (loses_expel s d n).trans (ih (expel s d n))

/-- The expulsion of another hub's agent touches no port. -/
theorem expel_ports_of_elsewhere {s : State} {d dan : Nat} {a : Agent} (ha : s.agent d dan = some a)
    (hhub : a.hub ≠ s.hubId) : (expel s d dan).ports = s.ports := by
  have hport : s.agentPort d dan = none := by simp only [State.agentPort, ha, if_neg hhub]
  simp only [expel, ha, hport, if_neg hhub]
  obtain ⟨-, -, hports, -⟩ := putMap_spec s d dan none fun q =>
    if a.kind = .caching then q.stale ||| (1#128 <<< dan) else q.stale
  exact hports

end

/-! ## AGENT_ADMIT (R246, R411) -/

section
variable {s : State} {pl : List Byte} (x : Option Nat)

theorem placeAssign_port (s : State) (p : Nat) (creds : Bool) : s.otherPorts (placeAssign s p creds) p ∧
    ((placeAssign s p creds).port p).mem.dom = (s.port p).mem.dom ∧
      ((placeAssign s p creds).port p).mem.dan = (s.port p).mem.dan := by
  unfold placeAssign
  split
  · exact ⟨.refl s p, rfl, rfl⟩
  · dsimp only
    split
    · exact ⟨otherPorts_updMem s p _, by simp, by simp⟩
    · have hctl := fun c f => (otherPorts_placeCtl s p c).trans (otherPorts_updMem _ p f)
      split
      · exact ⟨(hctl _ _).trans (otherPorts_updRx _ p _), by simp [placeCtl_port_mem], by simp [placeCtl_port_mem]⟩
      · exact ⟨hctl _ _, by simp [placeCtl_port_mem], by simp [placeCtl_port_mem]⟩

/-- The agent of a port is in the map with its port, and the port in the domain; no other agent, port or mailbox
differs. -/
theorem admitPort_spec (s : State) (d dan p : Nat) (c : CapF) (k : Kind) :
    let t := (admitPort s d dan p c k).2
    (∃ a, t.agent d dan = some a ∧ a.hub = s.hubId ∧ a.kind = k ∧ a.port = some p) ∧
      (t.port p).mem.dom = some d ∧ (t.port p).mem.dan = dan ∧ s.otherPorts t p ∧
      (∀ n, n ≠ dan → t.agent d n = s.agent d n) ∧ t.mbs = s.mbs ∧ t.mbram = s.mbram := by
  set shelves := if k = .mirrored then (freeShelves s).take (shelvesFor c) else [] with hshelves
  set u := shelves.foldl (fun s b => setShelf s b (some (d, dan))) (clearShelves s shelves) with hu
  have harr : s.arraysOnly u := (arraysOnly_clearShelves s shelves).trans (arraysOnly_setShelves _ shelves _)
  have hhub : u.hubId = s.hubId := (congrArg State.hubId harr :)
  obtain ⟨hports, hdoms, -, hmbs, hram⟩ := harr.parts
  set a : Agent := { hub := u.hubId, kind := k, mem := c.mem || k == .memory, matc := c.matc, port := some p,
                     shelves, sets := capSets c, ways := capWays c } with ha
  obtain ⟨hsame, hne, hvports, -, hvmbs, hvram⟩ := putMap_spec u d dan (some a) Dom.stale
  set v := putAgent u d dan a with hv
  have hassign := portsOnly_placeAssign (v.updMem p fun m => { m with dom := some d, dan }) p true
  obtain ⟨hothers, hdom, hdan⟩ := placeAssign_port (v.updMem p fun m => { m with dom := some d, dan }) p true
  have hagent : ∀ n, (admitPort s d dan p c k).2.agent d n = v.agent d n := fun n =>
    congrArg (fun q : Dom => tget none q.map n) (hassign.dom d)
  refine ⟨⟨a, (hagent dan).trans hsame, hhub, rfl, rfl⟩, ?_, ?_, ?_, fun n hn => ?_,
    hassign.mbs.trans (hvmbs.trans hmbs), hassign.mbram.trans (hvram.trans hram)⟩
  · exact hdom.trans (by rw [State.updMem_port_same])
  · exact hdan.trans (by rw [State.updMem_port_same])
  · exact ((otherPorts_of_ports (hvports.trans hports) p).trans (otherPorts_updMem v p _)).trans hothers
  · refine (hagent n).trans ((hne n hn).trans ?_)
    rw [State.agent, dom_of_doms hdoms, State.agent]

theorem modeCode_range (k : Kind) : 1 ≤ modeCode k ∧ modeCode k ≤ 3 := by cases k <;> decide

theorem doAdmitPort_of_ok {c : CapF} {k : Kind} (hform : byteAt pl 0 = 0)
    (hadmit : admitState s (byteAt pl 1 % 8) = true) (hp : byteAt pl 3 ≤ 15) (hmode : byteAt pl 4 = modeCode k)
    (hup : s.up (byteAt pl 3) = true) (hack : (s.port (byteAt pl 3)).link.capAcked = true)
    (hcap : (s.port (byteAt pl 3)).link.farCap = some c)
    (hdom : (s.port (byteAt pl 3)).mem.dom = none) (hdan : byteAt pl 2 ≤ 127)
    (hcaching : c.role.toNat ≤ 1 → byteAt pl 2 ≤ 39) (hfree : s.agent (byteAt pl 1 % 8) (byteAt pl 2) = none)
    (hstale : (s.dom (byteAt pl 1 % 8)).stale.getLsbD (byteAt pl 2) = false)
    (hvar : c.role.toNat ≤ 1 → (s.dom (byteAt pl 1 % 8)).par.var = true → c.fcap = true)
    (hkind : kindFor s (byteAt pl 1 % 8) c = some k) :
    let t := admitPort s (byteAt pl 1 % 8) (byteAt pl 2) (byteAt pl 3) c k
    doAdmitPort s x pl = .done 0 0 (toBytes 1 (modeCode k) ++ toBytes 1 ((t.1.head?).getD 0xFF)
      ++ toBytes 1 t.1.length ++ [0]) t.2 := by
  have hrange := modeCode_range k
  have hvar' : ¬((decide (c.role.toNat ≤ 1) : Bool) = true ∧ (s.dom (byteAt pl 1 % 8)).par.var = true ∧
      (!c.fcap) = true) := by
    rintro ⟨hrole, hon, hoff⟩
    rw [hvar (by simpa using hrole) hon] at hoff
    cases hoff
  have hdan' : ¬(127 < byteAt pl 2 ∨ (decide (c.role.toNat ≤ 1) : Bool) = true ∧ 39 < byteAt pl 2) := by
    rintro (h | ⟨hrole, h⟩)
    · omega
    · have := hcaching (by simpa using hrole)
      omega
  unfold doAdmitPort
  dsimp only
  rw [hadmit, hmode, hup, hack, hcap, Bool.and_self, hdom, hfree, hstale]
  dsimp only
  rw [hkind]
  dsimp only
  rw [if_neg (by decide), if_neg (by omega), if_neg (by decide), if_neg hdan', if_neg (by decide),
    if_neg (by decide), if_neg hvar', if_neg (by simp)]
  rfl

theorem doAdmitRecord_of_ok (hadmit : admitState s (byteAt pl 1 % 8) = true)
    (hhub : (recordAgent (byteAt pl 5)).hub ≠ s.hubId) (hhubs : (recordAgent (byteAt pl 5)).hub < s.hubs)
    (hdan : byteAt pl 2 ≤ 127) (hcaching : (recordAgent (byteAt pl 5)).kind = .caching ∨
      (recordAgent (byteAt pl 5)).kind = .mirrored → byteAt pl 2 ≤ 39)
    (hfree : s.agent (byteAt pl 1 % 8) (byteAt pl 2) = none)
    (hstale : (s.dom (byteAt pl 1 % 8)).stale.getLsbD (byteAt pl 2) = false) : doAdmitRecord s x pl
      = .done 0 0 [] (putAgent s (byteAt pl 1 % 8) (byteAt pl 2) (recordAgent (byteAt pl 5))) := by
  have hdan' : ¬(127 < byteAt pl 2 ∨ ((recordAgent (byteAt pl 5)).kind == .caching
      || (recordAgent (byteAt pl 5)).kind == .mirrored) = true ∧ 39 < byteAt pl 2) := by
    rintro (h | ⟨hkind, h⟩)
    · omega
    · have := hcaching (by simpa using hkind)
      omega
  unfold doAdmitRecord
  dsimp only
  rw [hadmit, hfree, hstale, if_neg (by decide), if_neg (by omega), if_neg hdan', if_neg (by decide),
    if_neg (by decide)]
  rfl

/-! ## AGENT_EXPEL (R247, R410) -/

theorem doExpel_of_ok {here : Bool} {a : Agent} (hform : byteAt pl 0 ≤ 1)
    (hst : (s.dom (byteAt pl 1 % 8)).st = .created ∨ (s.dom (byteAt pl 1 % 8)).st = .quiesced)
    (hstart : (s.dom (byteAt pl 1 % 8)).start = none) (ha : s.agent (byteAt pl 1 % 8) (byteAt pl 2) = some a)
    (hhere : (a.hub == s.hubId) = here) (htgt : isTarget s (byteAt pl 1 % 8) (byteAt pl 2) = false) :
    doExpel here s x pl = .done 0 0 [] (expel s (byteAt pl 1 % 8) (byteAt pl 2)) := by
  unfold doExpel
  dsimp only
  rw [hstart, ha, htgt, if_neg (by rcases hst with h | h <;> simp [h]), if_neg (by omega)]
  dsimp only
  rw [hhere, if_neg (by simp), if_neg (by simp)]
  rfl

end

/-- Settles O9: an agent enters by the entry that its form writes, and leaves by its expulsion. -/
theorem agentsEnterAndLeaveTheMap : Obligations.AgentsEnterAndLeaveTheMap := by
  unfold Obligations.AgentsEnterAndLeaveTheMap
  intro s m pl d dan p
  have hagent : ∀ (u : State) (r : List Byte) n, (mbFinish u m 0 0 r).agent d n = u.agent d n := fun u r n => by
    rw [State.agent, dom_of_doms (mbFinish_doms ..), State.agent]
  refine ⟨fun c k h hform hadmit hp hmode hup hack hcap hdom hdan hcaching hfree hstale hvar hkind => ?port,
    fun h hform hadmit hhub hhubs hdan hcaching hfree hstale => ?record,
    fun a h hst hstart ha htgt => ?expel⟩
  case port =>
    have hbody := doAdmitPort_of_ok (s := s.turned m) (some m.val) hform hadmit hp hmode hup hack hcap hdom hdan
      hcaching hfree hstale hvar hkind
    obtain ⟨⟨a, ha, hhub, hk, hport⟩, hmemDom, hmemDan, hothers, hstay, hmbs, hram⟩ :=
      admitPort_spec (s.turned m) d dan p c k
    obtain ⟨hrun, hend⟩ := mbRun_ended h (form := formNot 0 1) (by simp [formNot, hform]) noBusy hbody
      (by rw [mb_of_mbs hmbs]; exact h.busy) hram (by simp)
    refine ⟨_, _, hrun, hend, ⟨a, (hagent _ _ dan).trans ha, hhub, hk, hport⟩, ?_, ?_,
      fun j hj => (mbFinish_port ..).trans (hothers j hj), fun n hn => (hagent _ _ n).trans (hstay n hn)⟩
    · rw [mbFinish_port]
      exact hmemDom
    · rw [mbFinish_port]
      exact hmemDan
  case record =>
    have hbody := doAdmitRecord_of_ok (s := s.turned m) (some m.val) hadmit hhub hhubs hdan hcaching hfree hstale
    obtain ⟨ha, hstay, hports, -, hmbs, hram⟩ :=
      putMap_spec (s.turned m) d dan (some (recordAgent (byteAt pl 5))) Dom.stale
    obtain ⟨hrun, hend⟩ := mbRun_ended h (form := formIs 0 1) (by simp [formIs, hform]) noBusy hbody
      ((congrArg Mailbox.st (mb_of_mbs hmbs m)).trans h.busy) hram (by simp)
    exact ⟨_, hrun, hend, (hagent _ [] dan).trans ha, (mbFinish_ports ..).trans hports,
      fun n hn => (hagent _ [] n).trans (hstay n hn)⟩
  case expel =>
    have hlost := loses_expel (s.turned m) d dan
    have hbusy := (hlost.mbSt m).trans h.busy
    have hgone := (hagent (expel (s.turned m) d dan) [] dan).trans (hlost.gone dan (List.mem_singleton_self dan))
    have hstay := fun n (hn : n ≠ dan) =>
      (hagent (expel (s.turned m) d dan) [] n).trans (hlost.stay n (by simpa using hn))
    refine ⟨fun hform hhub => ?_, fun hform hhub => ?_⟩
    · obtain ⟨hrun, hend⟩ := mbRun_ended h (form := formNot 0 1) (by simp [formNot, hform]) noBusy
        (doExpel_of_ok (s := s.turned m) (some m.val) (by omega) hst hstart ha (here := true) (beq_iff_eq.2 hhub) htgt)
        hbusy hlost.mbram (by simp)
      refine ⟨_, hrun, hend, hgone, ?_, hstay⟩
      rw [dom_of_doms (mbFinish_doms ..)]
      exact (downStands_expel (s.turned m) d d dan).st
    · obtain ⟨hrun, hend⟩ := mbRun_ended h (form := formIs 0 1) (by simp [formIs, hform]) noBusy
        (doExpel_of_ok (s := s.turned m) (some m.val) (by omega) hst hstart ha (here := false) (beq_false_of_ne hhub)
          htgt) hbusy hlost.mbram (by simp)
      exact ⟨_, hrun, hend, hgone, (mbFinish_ports ..).trans (expel_ports_of_elsewhere (s := s.turned m) ha hhub),
        hstay⟩

end Sys2Proof.Machine
end

section
/-!
SUPPORT. How a DOMAIN_START begins and ends, and how a DOMAIN_STOP ends: O10.
-/
namespace Sys2Proof.Machine

/-! ## Commands that go on (R402) -/

/-- Mailbox m after an execution that ends with a later step. -/
def State.goesOn (s : State) (m : Nat) : State := s.updMb m fun b => { b with running := b.st == .busy }

@[simp] theorem goesOn_dom (s : State) (m d : Nat) : (s.goesOn m).dom d = s.dom d := rfl

section
variable {s t : State} {m : Fin 10} {op : Nat} {pl : List Byte}

theorem mbRun_goesOn (h : s.holds m op pl) {form : List Byte → Bool} (hf : form pl = true)
    (busy : State → List Byte → List Byte × State) {body : State → Option Nat → List Byte → CmdRes}
    (hb : body (s.turned m) (some m.val) pl = .later t) :
    Host.Outcome.next (mbRun s m op form busy body) = (.next (t.goesOn m) : Out) :=
  congrArg _ (mbRun_later h form hf busy body hb)

theorem goesOn_running (hbusy : (t.mb m).st = .busy) :
    ((t.goesOn m).mb m).st = .busy ∧ ((t.goesOn m).mb m).running = true := by
  rw [State.goesOn, State.updMb_mb_same, hbusy]
  exact ⟨rfl, rfl⟩

/-- What its execution has ended stays ended. -/
theorem goesOn_ended {st de : Nat} {r : List Byte} (h : t.ended m st de r) : (t.goesOn m).ended m st de r := by
  obtain ⟨hdone, hstatus, hanswer⟩ := h
  have hmb : ((t.goesOn m).mb m).st = (t.mb m).st ∧ ((t.goesOn m).mb m).status = (t.mb m).status := by
    rw [State.goesOn, State.updMb_mb_same]
    exact ⟨rfl, rfl⟩
  exact ⟨hmb.1.trans hdone, hmb.2.trans hstatus, hanswer⟩

end

/-- The end of a job's command touches neither domains, ports nor the home. -/
theorem finishMbx_rest (s : State) (m : Option Nat) (st de : Nat) : (finishMbx s m st de).doms = s.doms ∧
    (finishMbx s m st de).ports = s.ports ∧ (finishMbx s m st de).home = s.home ∧
    (finishMbx s m st de).cfg = s.cfg := by
  cases m <;> simp [finishMbx]

theorem finishMbx_dom (s : State) (m : Option Nat) (st de e : Nat) : (finishMbx s m st de).dom e = s.dom e :=
  dom_of_doms (finishMbx_rest s m st de).1 e

/-! ## The end of a start (R281) -/

/-- A domain that has entered STARTED. -/
def Dom.entered (q : Dom) : Dom :=
  { clearRecords q with st := .started, zeroFlag := false, start := none, heldReqs := [],
                        sweep := q.sweep.filter fun w => !w.outst.isEmpty }

/-- A domain that holds no request enters STARTED, ASSIGNs follow, and the command of its start ends. -/
theorem enterStarted_of_none_held {s : State} {d : Nat} (hheld : (s.dom d).heldReqs = []) :
    ∃ u, (s.updDom d Dom.entered).portsOnly u ∧
      enterStarted s d = finishMbx u ((s.dom d).start.bind fun j => j.mbx) 0 0 := by
  refine ⟨_, portsOnly_placeAssigns _ ((s.updDom d Dom.entered).portsOf d) false, ?_⟩
  unfold enterStarted
  dsimp only
  rw [hheld]
  rfl

/-! ## DOMAIN_START (R242, R281, R413) -/

theorem doDomainStart_of_ok {s : State} {pl : List Byte} (hstart : (s.dom (byteAt pl 0 % 8)).start = none)
    (hst : (s.dom (byteAt pl 0 % 8)).st = .quiesced ∨
      (s.dom (byteAt pl 0 % 8)).st = .created ∧ targetsOk s (byteAt pl 0 % 8) = true)
    (hdigest : s.hubs = 1 ∨ numAt pl 4 4 = digest s (byteAt pl 0 % 8)) (x : Option Nat) :
    doDomainStart s x pl = .later (beginStart s (byteAt pl 0 % 8) x) := by
  unfold doDomainStart
  dsimp only
  rw [hstart, if_neg (by rcases hst with h | ⟨h, -⟩ <;> simp [h]),
    if_neg (by rintro ⟨h1, h2⟩; exact hdigest.elim h1 h2), if_neg]
  rintro ⟨hne, htgt⟩
  rcases hst with h | ⟨-, h⟩
  · exact hne h
  · rw [h] at htgt
    cases htgt

/-- A domain whose DOMAIN_START has begun, on behalf of a mailbox. -/
def Dom.starting (q : Dom) (x : Option Nat) : Dom := { q with start := some ⟨q.st, .waitP, x⟩ }

section
variable {s : State} {d : Nat} {x : Option Nat}

/-- With one hub, and no sweep due, a start ends at once. -/
theorem beginStart_of_one_hub (hhubs : s.hubs = 1) (hdown : (s.dom d).st ≠ .down)
    (hzero : (s.dom d).st = .created → (s.dom d).zeroFlag = true) :
    beginStart s d x = enterStarted (s.updDom d fun q => q.starting x) d := by
  unfold beginStart
  dsimp only
  rw [if_neg hdown, if_neg (fun h => h hhubs), if_neg]
  · rfl
  · rintro (h | ⟨hcreated, hoff⟩)
    · exact hdown h
    · rw [State.updDom_dom_same] at hoff
      rw [hzero hcreated] at hoff
      cases hoff

/-- With more hubs it reaches stage P. -/
theorem beginStart_of_hubs (hhubs : s.hubs ≠ 1) (hdown : (s.dom d).st ≠ .down) :
    beginStart s d x = reachP (s.updDom d fun q => q.starting x) d := by
  unfold beginStart
  dsimp only
  rw [if_neg hdown]
  exact if_pos hhubs

end

theorem raiseMismatches_rest (s : State) (d : Nat) (l : List (Nat × AssignF)) :
    let t := l.foldl (fun s e => raiseMismatch s d e.1 e.2) s
    t.doms = s.doms ∧ t.mbs = s.mbs := by
  induction l generalizing s with
  | nil => exact ⟨rfl, rfl⟩
  | cons e l ih => exact ih (raiseMismatch s d e.1 e.2)

/-- Stage P sorts the notices that came before it; the domain's state and start, and the mailboxes, stand. -/
theorem reachP_keeps (s : State) (d : Nat) : ((reachP s d).dom d).st = (s.dom d).st ∧
    ((reachP s d).dom d).start = (s.dom d).start ∧ (reachP s d).mbs = s.mbs := by
  have hnotice := portsOnly_spanNotice s none (.assign (stageNotice s d 40))
  set u := spanNotice s none (.assign (stageNotice s d 40)) with hu
  have hsort : ∃ v : State, (v.dom d).st = (u.dom d).st ∧ (v.dom d).start = (u.dom d).start ∧ v.mbs = u.mbs ∧
      (sortNotices u d).doms = v.doms ∧ (sortNotices u d).mbs = v.mbs :=
    ⟨u.updDom d _, by rw [State.updDom_dom_same], by rw [State.updDom_dom_same], rfl,
      raiseMismatches_rest (u.updDom d _) d _⟩
  obtain ⟨v, hst, hstart, hvmbs, hdoms, hmbs⟩ := hsort
  rw [reachP, ← hu, dom_of_doms hdoms, hst, hstart, hnotice.dom]
  exact ⟨rfl, rfl, hmbs.trans (hvmbs.trans hnotice.mbs)⟩

/-! ## DOMAIN_STOP (R241, R243) -/

theorem doDomainStop_of_ok {s : State} {pl : List Byte}
    (hst : (s.dom (byteAt pl 0 % 8)).st = .created ∨ (s.dom (byteAt pl 0 % 8)).st = .quiesced)
    (hstart : (s.dom (byteAt pl 0 % 8)).start = none) (hwaits : stopWaits s (byteAt pl 0 % 8) = false)
    (x : Option Nat) :
    doDomainStop s x pl = .done 0 0 [] (stopDom s (byteAt pl 0 % 8) (nbit (byteAt pl 1) 0)) := by
  unfold doDomainStop
  dsimp only
  rw [hstart, hwaits, if_neg (by rcases hst with h | h <;> simp [h])]
  rfl

theorem loses_crcRelease (s : State) (d e : Nat) : s.Loses (crcRelease s e) d [] :=
  loses_foldl (fun s u => loses_ite (s.crcOwner u = some e) (t := s.setCrc u {})
    (loses_of_maps rfl rfl (fun _ => rfl) rfl) (.refl s d)) [0, 1] s

/-- Every agent of the domain has left. -/
theorem loses_stopDom (s : State) (d : Nat) (free : Bool) : s.Loses (stopDom s d free) d (s.dans d fun _ => true) := by
  have hlost := (loses_expelAll s d (s.dans d fun _ => true)).trans (loses_crcRelease _ d d)
  rw [List.append_nil] at hlost
  refine ⟨hlost.cfg, hlost.mbram, hlost.mbSt, fun n hn => ?_, fun n hn => ?_⟩
  · refine Eq.trans ?_ (hlost.gone n hn)
    rw [State.agent, stopDom, State.updDom_dom_same]
    split <;> rfl
  · refine Eq.trans ?_ (hlost.stay n hn)
    rw [State.agent, stopDom, State.updDom_dom_same]
    split <;> rfl

theorem stopDom_st (s : State) (d : Nat) (free : Bool) :
    ((stopDom s d free).dom d).st = if free then .none else .created := by
  rw [stopDom, State.updDom_dom_same]
  split <;> rfl

theorem mem_dans_all {s : State} {d n : Nat} (hn : n < 128) (h : s.agent d n ≠ none) :
    n ∈ s.dans d fun _ => true := by
  obtain ⟨a, ha⟩ := Option.ne_none_iff_exists'.1 h
  simp [State.dans, upto, hn, ha]

/-- Settles O10: a start ends at once or reaches stage P, and a stop expels every agent. -/
theorem domainStartAndStop : Obligations.DomainStartAndStop := by
  unfold Obligations.DomainStartAndStop
  intro s m pl d hstart
  have hup : (s.dom d).st = .quiesced ∨ (s.dom d).st = .created ∧ targetsOk s d = true → (s.dom d).st ≠ .down := by
    rintro (h | ⟨h, -⟩) <;> simp [h]
  refine ⟨fun h hst => ⟨fun hhubs hheld hzero => ?one, fun hhubs hdigest => ?many⟩, fun h hst hwaits => ?stop⟩
  case one =>
    have hbody := doDomainStart_of_ok (s := s.turned m) hstart hst (.inl hhubs) (some m.val)
    rw [beginStart_of_one_hub (s := s.turned m) hhubs (hup hst) hzero] at hbody
    obtain ⟨u, hports, henter⟩ := enterStarted_of_none_held
      (s := (s.turned m).updDom d fun q => q.starting (some m.val)) (d := d) (by rw [State.updDom_dom_same]; exact hheld)
    have hdom : (((enterStarted ((s.turned m).updDom d fun q => q.starting (some m.val)) d).goesOn m).dom d)
        = ((s.dom d).starting (some m.val)).entered := by
      rw [goesOn_dom, henter, finishMbx_dom, hports.dom, State.updDom_dom_same, State.updDom_dom_same]
      rfl
    refine ⟨_, mbRun_goesOn h (form := anyForm) rfl noBusy hbody, goesOn_ended ?_, ?_, ?_, ?_, ?_⟩
    · rw [henter, State.updDom_dom_same]
      exact ended_mbFinish (by rw [mb_of_mbs hports.mbs]; exact h.busy) (by rw [hports.mbram]; exact h.ramWf) (by simp)
        (by decide) (by decide)
    all_goals
      rw [hdom]
      rfl
  case many =>
    have hbody := doDomainStart_of_ok (s := s.turned m) hstart hst (.inr hdigest) (some m.val)
    rw [beginStart_of_hubs (s := s.turned m) hhubs (hup hst)] at hbody
    obtain ⟨hkst, hkstart, hmbs⟩ := reachP_keeps ((s.turned m).updDom d fun q => q.starting (some m.val)) d
    rw [State.updDom_dom_same] at hkst hkstart
    have hmbs' : (reachP ((s.turned m).updDom d fun q => q.starting (some m.val)) d).mbs = s.mbs := hmbs
    obtain ⟨hbusy, hrunning⟩ := goesOn_running ((congrArg Mailbox.st (mb_of_mbs hmbs' m)).trans h.busy)
    refine ⟨_, mbRun_goesOn h (form := anyForm) rfl noBusy hbody, hbusy, hrunning, ?_, ?_⟩
    · rw [goesOn_dom]
      exact hkst
    · rw [goesOn_dom]
      exact hkstart
  case stop =>
    have hlost := loses_stopDom (s.turned m) d (nbit (byteAt pl 1) 0)
    obtain ⟨hrun, hend⟩ := mbRun_ended h (form := anyForm) rfl noBusy
      (doDomainStop_of_ok (s := s.turned m) hst hstart hwaits (some m.val)) ((hlost.mbSt m).trans h.busy) hlost.mbram
      (by simp)
    refine ⟨_, hrun, hend, ?_, fun n hn => ?_, (mbFinish_cfg ..).trans hlost.cfg⟩
    · rw [dom_of_doms (mbFinish_doms ..)]
      exact stopDom_st _ _ _
    · rw [State.agent, dom_of_doms (mbFinish_doms ..)]
      by_cases hnone : (s.turned m).agent d n = none
      · exact (hlost.stay n fun hmem => by simp [State.dans, hnone] at hmem).trans hnone
      · exact hlost.gone n (mem_dans_all hn hnone)

end Sys2Proof.Machine
end

section
/-!
SUPPORT. The quiesce of a domain at rest, the pages of DOMAIN_STATUS, and how a DIR_SWEEP begins: O11.
-/
namespace Sys2Proof.Machine

/-! ## DOMAIN_QUIESCE (R230, R244) -/

/-- A hub notice is queued at its port or left out: it counts in no statistics and opens no question (R96). -/
theorem placeAgent_hubNotice (s : State) (p : Nat) (kind mbx : BitVec 4) (status : BitVec 8) (fsrc : BitVec 6) :
    placeAgent s p (hubNotice s p kind mbx status fsrc) = s ∨
      placeAgent s p (hubNotice s p kind mbx status fsrc) = queueMsg s p (hubNotice s p kind mbx status fsrc) := by
  unfold placeAgent
  dsimp only
  split
  · exact .inl rfl
  · exact .inr rfl

theorem apart_gateBuf : Apart Port.gateBuf := ⟨fun _ _ => rfl, fun _ _ => rfl, fun _ _ => rfl, fun _ _ => rfl⟩

theorem portsOnly_queueMsg (s : State) (p : Nat) (m : Msg) : s.portsOnly (queueMsg s p m) :=
  portsOnly_ite _ rfl (.refl s)

/-- Notices leave the requests that wait at gates where they are. -/
theorem hubNotices_keep (l : List Nat) (s : State) :
    let t := l.foldl (fun s p => placeAgent s p (hubNotice s p 3 0 0 0)) s
    s.portsOnly t ∧ s.portsKeep Port.gateBuf t := by
  induction l generalizing s with
  | nil => exact ⟨.refl s, .refl _ s⟩
  | cons p l ih =>
    obtain ⟨hports, hgates⟩ := ih (placeAgent s p (hubNotice s p 3 0 0 0))
    rw [List.foldl_cons]
    rcases placeAgent_hubNotice s p 3 0 0 0 with hsame | hqueue
    · rw [hsame] at hports hgates ⊢
      exact ⟨hports, hgates⟩
    · rw [hqueue] at hports hgates ⊢
      exact ⟨(portsOnly_queueMsg s p _).trans hports, (portsKeep_queueMsg apart_gateBuf s p _).trans hgates⟩

/-- A port without requests at its gates has them closed, and answers none. -/
theorem quiesceGates_of_empty {s : State} {p : Nat} (h : (s.port p).gateBuf = []) : quiesceGates s p
    = s.updPort p fun q => { q with gates := [], gateBuf := [], gateEnd := [] } := by
  rw [quiesceGates, h]
  rfl

theorem portsOnly_quiesceGates (l : List Nat) {s : State} (h : ∀ p, (s.port p).gateBuf = []) :
    s.portsOnly (l.foldl quiesceGates s) := by
  induction l generalizing s with
  | nil => exact .refl s
  | cons p l ih =>
    rw [List.foldl_cons, quiesceGates_of_empty (h p)]
    refine (portsOnly_updPort s p _).trans (ih fun j => ?_)
    by_cases hj : p = j
    · rw [hj, State.updPort_port_same]
    · rw [State.updPort_port_ne _ _ hj]
      exact h j

/-- With no tracker there is no ticket. -/
theorem voidTickets_of_empty {s : State} (h : s.home.trackers = []) (d : Nat) (f : TQueue → Bool) :
    voidTickets s d f = s := by
  have hhome : { s.home with trackers := [] } = s.home := by rw [← h]
  simp only [voidTickets, State.updHome, h, List.filter_nil, List.map_nil, hhome]

/-- The quiesce of a domain begins: with nothing in service at the home and no request at a gate, nothing but the
ports differs besides. -/
theorem beginQuiesce_at_rest {s : State} (htrk : s.home.trackers = []) (hwbs : s.home.wbs = [])
    (hmerges : s.home.merges = []) (hgates : ∀ p, (s.port p).gateBuf = []) (d : Nat) (mbx : Option Nat) :
    (s.updDom d fun q => { q with st := .quiescing, quiesceMbx := mbx }).portsOnly (beginQuiesce s d mbx) := by
  set u := s.updDom d fun q => { q with st := .quiescing, quiesceMbx := mbx } with hu
  set v := (u.portsOf d).foldl (fun s p => placeAgent s p (hubNotice s p 3 0 0 0)) u with hv
  set w := (v.portsOf d).foldl quiesceGates v with hw
  obtain ⟨hnotices, hkeep⟩ := hubNotices_keep (u.portsOf d) u
  have hports : u.portsOnly w := hnotices.trans (portsOnly_quiesceGates _ fun p => (hkeep p).trans (hgates p))
  have hhome : w.home = s.home := hports.home
  have hbegin : beginQuiesce s d mbx = w := by
    unfold beginQuiesce
    dsimp only
    rw [← hu, ← hv, ← hw, voidTickets_of_empty (by rw [hhome, htrk]), hhome, htrk, List.filter_nil, List.foldl_nil,
      idleEntries, hhome, hmerges, List.filter_nil, List.foldl_nil, serveStore_of_empty (by rw [hhome, hwbs])]
  rw [hbegin]
  exact hports

/-! ## DOMAIN_STATUS (R412) -/

theorem length_statusPage (s : State) (d page : Nat) : (statusPage s d page).length ≤ 256 := by
  unfold statusPage
  dsimp only
  split
  · (repeat' split) <;> simp
  · split
    · simp
    · simp [mapBytes, upto]
    · simp [upto, List.range_succ]

theorem doDomainStatus_of_page {s : State} {pl : List Byte} (hpage : byteAt pl 1 ≤ 2) (x : Option Nat) :
    doDomainStatus s x pl = .done 0 0 (statusPage s (byteAt pl 0 % 8) (byteAt pl 1))
      (if nbit (byteAt pl 2) 0 then s.updDom (byteAt pl 0 % 8) fun q => { q with naks := [] } else s) := by
  unfold doDomainStatus
  dsimp only
  rw [if_neg (by omega)]
  rfl

/-! ## DIR_SWEEP (R262) -/

/-- A domain with this sweep in progress. -/
def Dom.sweeping (q : Dom) (w : Option Sweep) : Dom := { q with sweep := w }

/-- Of two updates of a domain the second takes what the first gives. -/
theorem updDom_updDom (s : State) (d : Nat) (f g : Dom → Dom) :
    (s.updDom d f).updDom d g = s.updDom d fun q => g (f q) := by
  have htset : ∀ (t : Tbl Dom) (x y : Dom), tset (tset t d x) d y = tset t d y := fun t x y => by
    induction t with
    | nil => simp [tset]
    | cons e rest ih =>
      obtain ⟨k, v⟩ := e
      by_cases hk : k = d <;> simp [tset, hk, ih]
  rw [State.updDom, State.updDom_dom_same, State.updDom, State.setDom, State.setDom, htset]
  rfl

section
variable {s : State} {d : Nat} {w : Sweep}

/-- A zero sweep of a directory region begins. -/
theorem beginZero_of_region (h : (s.dom d).par.twSize ≠ 0) (mbx : Option Nat) : beginZero s d mbx
    = s.updDom d fun q => q.sweeping (some ⟨true, false, 0, [], mbx⟩) := by
  unfold beginZero
  dsimp only
  rw [State.updDom_dom_same]
  exact if_neg h

/-- A domain whose zero sweep has ended well. -/
def Dom.zeroed (q : Dom) : Dom := { q with zeroFlag := true, stale := 0, sweep := none }

/-- The end of a zero sweep that no start waits for. -/
theorem zeroDone_of_no_start (hstart : (s.dom d).start = none) : zeroDone s d
    = finishMbx (s.updDom d Dom.zeroed) ((s.dom d).sweep.bind fun w => w.mbx) 0 0 := by
  unfold zeroDone
  dsimp only
  rw [hstart]
  rfl

/-- Without a directory region a zero sweep has ended as it begins. -/
theorem beginZero_of_none (hsize : (s.dom d).par.twSize = 0) (hstart : (s.dom d).start = none) (mbx : Option Nat) :
    beginZero s d mbx = finishMbx (s.updDom d Dom.zeroed) mbx 0 0 := by
  have hdom : (s.updDom d fun q => q.sweeping (some ⟨true, false, 0, [], mbx⟩)).updDom d Dom.zeroed
      = s.updDom d Dom.zeroed := by
    rw [updDom_updDom]
    rfl
  have hstart' : ((s.updDom d fun q => q.sweeping (some ⟨true, false, 0, [], mbx⟩)).dom d).start = none := by
    rw [State.updDom_dom_same]
    exact hstart
  have hbegin : beginZero s d mbx = zeroDone (s.updDom d fun q => q.sweeping (some ⟨true, false, 0, [], mbx⟩)) d := by
    unfold beginZero
    dsimp only
    rw [State.updDom_dom_same]
    exact if_pos hsize
  rw [hbegin, zeroDone_of_no_start hstart', hdom, State.updDom_dom_same]
  rfl

/-- A writeback sweep that finds nothing to write, and waits for no MCP, ends. -/
theorem sweepEnd_of_clean (hw : (s.dom d).sweep = some w) (hzero : w.zero = false) (hout : w.outst = [])
    (hnext : nextDirty s d w.next = none) :
    sweepEnd s d = finishMbx (s.updDom d fun q => q.sweeping none) w.mbx 0 0 := by
  simp only [sweepEnd, hw, hzero, hout, hnext, List.isEmpty_nil, Option.isNone_none, Bool.or_true, Bool.not_false,
    Bool.and_self, if_true, Dom.sweeping]

/-- One that finds a word to write goes on. -/
theorem sweepEnd_of_dirty (hw : (s.dom d).sweep = some w) (hflush : w.flush = false)
    (hnext : nextDirty s d w.next ≠ none) : sweepEnd s d = s := by
  obtain ⟨k, hk⟩ := Option.ne_none_iff_exists'.1 hnext
  simp [sweepEnd, hw, hflush, hk]

end

section
variable {s : State} {pl : List Byte} (x : Option Nat) (hstart : (s.dom (byteAt pl 0 % 8)).start = none)
include hstart

theorem doSweepZero_of_created (hst : (s.dom (byteAt pl 0 % 8)).st = .created) :
    doSweepZero s x pl = .later (beginZero s (byteAt pl 0 % 8) x) := by
  unfold doSweepZero
  dsimp only
  rw [hst, hstart]
  rfl

/-- The sweep that a DIR_SWEEP in mode 0 begins takes over the MCPs of the one before it (R262). -/
theorem doSweepWriteback_of_st (hmode : byteAt pl 1 = 0)
    (hst : (s.dom (byteAt pl 0 % 8)).st = .started ∨ (s.dom (byteAt pl 0 % 8)).st = .quiesced) :
    doSweepWriteback s x pl = .later (sweepEnd (s.updDom (byteAt pl 0 % 8) fun q =>
      q.sweeping (some ⟨false, false, 0, ((s.dom (byteAt pl 0 % 8)).sweep.map fun w => w.outst).getD [], x⟩))
      (byteAt pl 0 % 8)) := by
  unfold doSweepWriteback
  dsimp only
  rw [hstart, hmode, if_neg (by decide), if_neg (by rcases hst with h | h <;> simp [h])]
  rfl

end

/-! ## The rows -/

section
variable {s : State} {m : Fin 10} {pl : List Byte}

theorem domainQuiesce_begins (h : s.holds m 0x202 pl) (hst : (s.dom (byteAt pl 0 % 8)).st = .started)
    (htrk : s.home.trackers = []) (hwbs : s.home.wbs = []) (hmerges : s.home.merges = [])
    (hgates : ∀ p, (s.port p).gateBuf = []) : ∃ t, exec (.domainQuiesce m) s = .next t ∧
      (t.dom (byteAt pl 0 % 8)).st = .quiescing ∧ (t.dom (byteAt pl 0 % 8)).quiesceMbx = some m.val ∧
      (t.mb m).st = .busy ∧ (t.mb m).running = true ∧ (∀ e, e ≠ byteAt pl 0 % 8 → t.dom e = s.dom e) := by
  set d := byteAt pl 0 % 8
  have hports := beginQuiesce_at_rest (s := s.turned m) htrk hwbs hmerges hgates d (some m.val)
  have hmbs : (beginQuiesce (s.turned m) d (some m.val)).mbs = s.mbs := hports.mbs
  obtain ⟨hbusy, hrunning⟩ := goesOn_running ((congrArg Mailbox.st (mb_of_mbs hmbs m)).trans h.busy)
  have hbody : doDomainQuiesce (s.turned m) (some m.val) pl = .later (beginQuiesce (s.turned m) d (some m.val)) :=
    if_neg (fun hne => hne hst)
  refine ⟨_, mbRun_goesOn h (form := anyForm) rfl noBusy hbody, ?_, ?_, hbusy, hrunning, fun e he => ?_⟩
  · rw [goesOn_dom, hports.dom, State.updDom_dom_same]
  · rw [goesOn_dom, hports.dom, State.updDom_dom_same]
  · rw [goesOn_dom, hports.dom, State.updDom_dom_ne _ _ he.symm]
    rfl

theorem domainStatus_answers (h : s.holds m 0x204 pl) (hpage : byteAt pl 1 ≤ 2) :
    ∃ t, exec (.domainStatus m) s = .next t ∧ t.ended m 0 0 (statusPage s (byteAt pl 0 % 8) (byteAt pl 1)) ∧
      (t.dom (byteAt pl 0 % 8)).st = (s.dom (byteAt pl 0 % 8)).st ∧ (t.dom (byteAt pl 0 % 8)).naks
        = (if nbit (byteAt pl 2) 0 then [] else (s.dom (byteAt pl 0 % 8)).naks) ∧ t.ports = s.ports := by
  set d := byteAt pl 0 % 8 with hd
  set t := if nbit (byteAt pl 2) 0 then (s.turned m).updDom d fun q => { q with naks := [] } else s.turned m with ht
  have hrest : t.mbs = s.mbs ∧ t.mbram = s.mbram ∧ t.ports = s.ports ∧ (t.dom d).st = (s.dom d).st ∧
      (t.dom d).naks = if nbit (byteAt pl 2) 0 then [] else (s.dom d).naks := by
    rw [ht]
    split
    · rw [State.updDom_dom_same]
      exact ⟨rfl, rfl, rfl, rfl, rfl⟩
    · exact ⟨rfl, rfl, rfl, rfl, rfl⟩
  obtain ⟨hmbs, hram, hports, hst, hnaks⟩ := hrest
  obtain ⟨hrun, hend, -⟩ := mbRun1_done h (doDomainStatus_of_page (s := s.turned m) hpage (some m.val)) hmbs hram
    (length_statusPage ..)
  have hdom := dom_of_doms (mbFinish_doms t m 0 0 (statusPage (s.turned m) d (byteAt pl 1))) d
  exact ⟨_, hrun, hend, (congrArg Dom.st hdom).trans hst, (congrArg Dom.naks hdom).trans hnaks,
    (mbFinish_ports ..).trans hports⟩

section
variable (h : s.holds m 0x205 pl) (hstart : (s.dom (byteAt pl 0 % 8)).start = none)
include h hstart

theorem dirSweepZero_begins (hmode : byteAt pl 1 = 1) (hst : (s.dom (byteAt pl 0 % 8)).st = .created) :
    ∃ t, exec (.dirSweepZero m) s = .next t ∧
      ((s.dom (byteAt pl 0 % 8)).par.twSize ≠ 0 → (t.dom (byteAt pl 0 % 8)).sweep
        = some ⟨true, false, 0, [], some m.val⟩ ∧ (t.mb m).running = true) ∧
      ((s.dom (byteAt pl 0 % 8)).par.twSize = 0 → (t.dom (byteAt pl 0 % 8)).zeroFlag = true ∧
        (t.dom (byteAt pl 0 % 8)).stale = 0 ∧ (t.dom (byteAt pl 0 % 8)).sweep = none ∧ t.ended m 0 0 []) := by
  set d := byteAt pl 0 % 8
  refine ⟨_, mbRun_goesOn h (form := formIs 1 1) (by simp [formIs, hmode]) noBusy
    (doSweepZero_of_created (s := s.turned m) (some m.val) hstart hst), fun hsize => ?_, fun hsize => ?_⟩
  · rw [beginZero_of_region (s := s.turned m) hsize, goesOn_dom, State.updDom_dom_same]
    exact ⟨rfl, (goesOn_running h.busy).2⟩
  · rw [beginZero_of_none (s := s.turned m) hsize hstart]
    obtain ⟨hdoms, -⟩ := finishMbx_rest ((s.turned m).updDom d Dom.zeroed) (some m.val) 0 0
    rw [goesOn_dom, dom_of_doms hdoms, State.updDom_dom_same]
    exact ⟨rfl, rfl, rfl, goesOn_ended (ended_mbFinish h.busy h.ramWf (by simp) (by decide) (by decide))⟩

theorem dirSweepWriteback_begins (hmode : byteAt pl 1 = 0) (hst : (s.dom (byteAt pl 0 % 8)).st = .started ∨
      (s.dom (byteAt pl 0 % 8)).st = .quiesced) : ∃ t, exec (.dirSweepWriteback m) s = .next t ∧
    ((s.dom (byteAt pl 0 % 8)).sweep = none → nextDirty s (byteAt pl 0 % 8) 0 = none →
      (t.dom (byteAt pl 0 % 8)).sweep = none ∧ t.ended m 0 0 []) ∧
    (nextDirty s (byteAt pl 0 % 8) 0 ≠ none → (∃ o, (t.dom (byteAt pl 0 % 8)).sweep
      = some ⟨false, false, 0, o, some m.val⟩) ∧ (t.mb m).running = true) := by
  set d := byteAt pl 0 % 8
  set u := (s.turned m).updDom d fun q =>
    q.sweeping (some ⟨false, false, 0, ((s.dom d).sweep.map fun w => w.outst).getD [], some m.val⟩) with hu
  have hsweep : (u.dom d).sweep
      = some ⟨false, false, 0, ((s.dom d).sweep.map fun w => w.outst).getD [], some m.val⟩ := by
    rw [hu, State.updDom_dom_same]
    rfl
  have hbody : doSweepWriteback (s.turned m) (some m.val) pl = .later (sweepEnd u d) :=
    doSweepWriteback_of_st (s := s.turned m) (some m.val) hstart hmode hst
  refine ⟨_, mbRun_goesOn h (form := formNot 1 1) (by simp [formNot, hmode]) noBusy hbody, fun hnone hclean => ?_,
    fun hdirty => ?_⟩
  · rw [sweepEnd_of_clean (s := u) hsweep rfl (by rw [hnone]; rfl) hclean]
    obtain ⟨hdoms, -⟩ := finishMbx_rest (u.updDom d fun q => q.sweeping none) (some m.val) 0 0
    rw [goesOn_dom, dom_of_doms hdoms, State.updDom_dom_same]
    exact ⟨rfl, goesOn_ended (ended_mbFinish h.busy h.ramWf (by simp) (by decide) (by decide))⟩
  · rw [sweepEnd_of_dirty (s := u) hsweep rfl hdirty, goesOn_dom]
    exact ⟨⟨_, hsweep⟩, (goesOn_running h.busy).2⟩

end

end

/-- Settles O11: the quiesce begins with its state and mailbox, a status is its page, a sweep goes on or has ended. -/
theorem quiesceStatusAndSweeps : Obligations.QuiesceStatusAndSweeps := by
  unfold Obligations.QuiesceStatusAndSweeps
  constructor <;> intro s m pl d
  · refine ⟨fun h hst htrk hwbs hmerges hgates => ?quiesce, fun h hpage => ?status⟩
    case quiesce => exact domainQuiesce_begins h hst htrk hwbs hmerges hgates
    case status => exact domainStatus_answers h hpage
  · exact fun h hstart => ⟨fun hmode hst => dirSweepZero_begins h hstart hmode hst,
      fun hmode hst => dirSweepWriteback_begins h hstart hmode hst⟩
end Sys2Proof.Machine
end

section
/-!
SUPPORT. A writeback sweep of a domain that is not in service: the counterexample to O59.
-/
namespace Sys2Proof.Machine

section
variable {s : State} {k : Nat} {w : Sweep}

/-- The tag is read; nothing more is done in a domain that is not in service (R336). -/
theorem dirtyMwr_of_stopped {d : Nat} (hnext : nextDirty s d w.next = some k)
    (hread : (readTag s k false .demand).2.2.2 = s) (hst : (s.dom d).st.inService = false) : dirtyMwr s d w = s := by
  unfold dirtyMwr
  rw [hnext]
  dsimp only
  rw [hread, stopped, hst]
  rfl

/-- A writeback sweep of a domain that is not in service stands still. -/
theorem exec_sweepMwr_of_stopped {d : Fin 8} (hclk : s.clocked = true) (hsw : s.home.switching ≠ some 16)
    (hw : (s.dom d).sweep = some w) (hzero : w.zero = false) (hflush : w.flush = false) (hlen : w.outst.length < 64)
    (hnext : nextDirty s d w.next = some k) (hread : (readTag s k false .demand).2.2.2 = s)
    (hst : (s.dom d).st.inService = false) : exec (.sweepMwr d) s = .next s := by
  show execSweepMwr d s = _
  have hnow : sweepNow s d = some w := by rw [sweepNow, hw]
  unfold execSweepMwr
  rw [hclk, hnow, bne_iff_ne.2 hsw, Bool.and_self]
  dsimp only
  rw [if_neg (by simp [hflush]; omega), hzero, if_neg Bool.false_ne_true, dirtyMwr_of_stopped hnext hread hst,
    sweepEnd_of_dirty hw hflush (by rw [hnext]; simp)]

end

/-- The memory agent of domain 0 at port 0, which holds its ASSIGN. -/
def memoryOfDom0 : Agent :=
  { hub := 0, kind := .memory, mem := true, matc := false, port := some 0, shelves := [], sets := 0, ways := 0 }

/-- Domain 0 is CREATED, and a writeback sweep of it is in progress; way 0 of set 0 holds a dirty word of it. -/
def createdSweepState : State :=
  { ports := [(0, { link := { st := .l0 }, mem := { dom := some 0, sent := some ⟨0, 0, false, false, 0, 0, 0⟩ } })],
    doms := [(0, { st := .created, map := [(0, some memoryOfDom0)], sweep := some ⟨false, false, 0, [], none⟩ })],
    arr := { tag := [(0, enc47 (mkTag true 0 0))], owner := [(0, encOwner true 0)] } }

/-- Refutes O59: a writeback sweep is claimed to send the next dirty word whatever state its domain is in. In a domain
that is not in service, here one in CREATED, it sends none. DIR_SWEEP begins no such sweep there (R262); the statement
names no state of the domain. -/
theorem not_sweepsAndQuiescing : ¬ Obligations.SweepsAndQuiescing := by
  unfold Obligations.SweepsAndQuiescing
  intro h
  obtain ⟨-, hsweep⟩ := h createdSweepState 0 rfl
  obtain ⟨-, hdirty, -⟩ := hsweep ⟨false, false, 0, [], none⟩ rfl (by decide)
  obtain ⟨t, f, data, ht, hplaced, -⟩ := hdirty 0 0 rfl rfl (by decide) (by decide +kernel)
    ⟨rfl, by decide, by decide⟩ (by decide +kernel) (by decide +kernel) (by decide +kernel)
    ⟨by decide, by decide, by decide, by decide, by decide, by decide⟩
  have hrow : exec (.sweepMwr 0) createdSweepState = .next createdSweepState :=
    exec_sweepMwr_of_stopped rfl (by decide) rfl rfl rfl (by decide) (by decide +kernel : nextDirty _ 0 0 = some 0)
      (by decide +kernel) rfl
  rw [hrow] at ht
  injection ht with ht
  rw [← ht, State.placed] at hplaced
  exact absurd hplaced (by simp)

end Sys2Proof.Machine
end

section
/-!
SUPPORT. Notices on the span ports, and the ends of a start and of a domain's down processing: O60.
-/
namespace Sys2Proof.Machine

/-! ## Notices on the span ports (R278) -/

theorem spanNotices_port {l : List Nat} (hl : l.Nodup) (s : State) (except : Option Nat) (c : LinkCtl) (j : Nat) :
    (l.foldl (fun s p => if some p == except then s else placeCtl s p c) s).port j
      = if j ∈ l ∧ some j ≠ except ∧ s.up j = true then (s.port j).withCtl c else s.port j := by
  induction l generalizing s with
  | nil => simp
  | cons p l ih =>
    obtain ⟨hp, hl⟩ := List.nodup_cons.1 hl
    rw [List.foldl_cons, ih hl]
    by_cases hj : j = p
    · rw [hj, if_neg (fun h => hp h.1)]
      by_cases hex : some p = except
      · rw [if_pos (beq_iff_eq.2 hex), if_neg (fun h => h.2.1 hex)]
      · rw [if_neg (by simpa using hex)]
        by_cases hup : s.up p = true
        · rw [placeCtl_up hup, if_pos ⟨List.mem_cons_self, hex, hup⟩]
        · rw [placeCtl_down (by simpa using hup), if_neg (fun h => hup h.2.2)]
    · have hport : (if some p == except then s else placeCtl s p c).port j = s.port j := by
        split
        · rfl
        · exact placeCtl_port_ne s c (Ne.symm hj)
      rw [State.up, hport, ← State.up]
      simp [hj]

/-- A notice is queued at every span port that is up, but for the one left out, and at no other port. -/
theorem spanNotice_port (s : State) (except : Option Nat) (c : LinkCtl) (j : Nat) : (spanNotice s except c).port j
    = if j ∈ spanPorts ∧ some j ≠ except ∧ s.up j = true then (s.port j).withCtl c else s.port j :=
  spanNotices_port (by decide) s except c j

/-! ## Stage notices of other hubs (R278, R280) -/

/-- The notices of a stage with that of a hub put in the place of its last. -/
def putNotice (l : List (Nat × AssignF)) (h : Nat) (n : AssignF) : List (Nat × AssignF) :=
  l.filter (fun e => e.1 != h) ++ [(h, n)]

/-- A notice recorded with its stage. -/
def Dom.withNotice (q : Dom) (h : Nat) (n : AssignF) (stageR : Bool) : Dom :=
  if stageR then { q with stageR := putNotice q.stageR h n } else { q with stageP := putNotice q.stageP h n }

/-- A notice is recorded; one that disagrees with a start in progress is reported in its place. -/
def noteStage (s : State) (h : Nat) (n : AssignF) (stageR : Bool) : State :=
  if (s.dom n.dom.toNat).start.isSome && !sameStage n (stageNotice s n.dom.toNat 40) then
    raiseMismatch s n.dom.toNat h n
  else s.updDom n.dom.toNat fun q => q.withNotice h n stageR

/-- A notice has been relayed before, as its DAN and EPOCH tell. -/
def wasRelayed (s : State) (n : AssignF) : Bool :=
  (s.dom n.dom.toNat).relayed.contains (n.dan.toNat, n.epoch.toNat)

/-- A notice relayed to every span port but its own, the first time (R278). -/
def relayNotice (s : State) (p : Nat) (n : AssignF) (again : Bool) : State :=
  if again then s
  else spanNotice (s.updDom n.dom.toNat fun q => { q with relayed := q.relayed ++ [(n.dan.toNat, n.epoch.toNat)] })
    (some p) (.assign n)

theorem takeNotice_eq (s : State) (p h : Nat) (n : AssignF) (stageR : Bool) : takeNotice s p h n stageR
    = relayNotice (noteStage s h n stageR) p n (wasRelayed s n) := by
  cases stageR <;> rfl

/-- The notices of a stage that a domain has on record. -/
def Dom.notices (q : Dom) (stageR : Bool) : List (Nat × AssignF) := if stageR then q.stageR else q.stageP

theorem notices_withNotice (q : Dom) (h : Nat) (n : AssignF) (stageR : Bool) :
    (q.withNotice h n stageR).notices stageR = putNotice (q.notices stageR) h n := by
  cases stageR <;> rfl

section
variable {s : State} {h : Nat} {n : AssignF}

theorem noteStage_of_agreeing (stageR : Bool)
    (hagree : (s.dom n.dom.toNat).start = none ∨ sameStage n (stageNotice s n.dom.toNat 40) = true) :
    noteStage s h n stageR = s.updDom n.dom.toNat fun q => q.withNotice h n stageR := by
  rw [noteStage, if_neg]
  rcases hagree with hnone | hsame
  · simp [hnone]
  · simp [hsame]

theorem noteStage_of_differing (stageR : Bool) (hstart : (s.dom n.dom.toNat).start ≠ none)
    (hdiffer : sameStage n (stageNotice s n.dom.toNat 40) = false) :
    noteStage s h n stageR = raiseMismatch s n.dom.toNat h n := by
  rw [noteStage, if_pos]
  simp [hdiffer, Option.isSome_iff_ne_none, hstart]

/-- To be recorded or reported concerns no other domain, and neither the home nor a port. -/
theorem noteStage_rest (s : State) (h : Nat) (n : AssignF) (stageR : Bool) :
    (∀ e, e ≠ n.dom.toNat → (noteStage s h n stageR).dom e = s.dom e) ∧ (noteStage s h n stageR).home = s.home ∧
      (noteStage s h n stageR).ports = s.ports := by
  unfold noteStage
  split
  · exact ⟨fun _ _ => rfl, rfl, rfl⟩
  · exact ⟨fun e he => State.updDom_dom_ne _ _ he.symm, rfl, rfl⟩

/-- A relay keeps every notice on record, and queues this one at the other span ports that are up. -/
theorem relayNotice_spec (s : State) (p : Nat) (n : AssignF) (again : Bool) :
    let t := relayNotice s p n again
    (∀ stageR, (t.dom n.dom.toNat).notices stageR = (s.dom n.dom.toNat).notices stageR) ∧
      (∀ e, e ≠ n.dom.toNat → t.dom e = s.dom e) ∧ t.flt = s.flt ∧ t.home = s.home ∧
      ∀ j, t.port j = if again = false ∧ j ∈ spanPorts ∧ j ≠ p ∧ s.up j = true then (s.port j).withCtl (.assign n)
        else s.port j := by
  cases again with
  | true => exact ⟨fun _ => rfl, fun _ _ => rfl, rfl, rfl, fun j => (if_neg fun h => nomatch h.1).symm⟩
  | false =>
    set u := s.updDom n.dom.toNat fun q => { q with relayed := q.relayed ++ [(n.dan.toNat, n.epoch.toNat)] } with hu
    have hports : u.portsOnly (relayNotice s p n false) := portsOnly_spanNotice u (some p) (.assign n)
    refine ⟨fun stageR => ?_, fun e he => ?_, hports.flt, hports.home, fun j => ?_⟩
    · rw [hports.dom, hu, State.updDom_dom_same]
      rfl
    · rw [hports.dom, hu, State.updDom_dom_ne _ _ he.symm]
    · refine (spanNotice_port u (some p) (.assign n) j).trans ?_
      simp only [ne_eq, Option.some.injEq, true_and]
      rfl

/-- A notice of another hub is recorded, or reported where it disagrees with a start in progress, and relayed the
first time (R278, R280). -/
theorem takeNotice_spec (s : State) (p h : Nat) (n : AssignF) (stageR : Bool) :
    let t := takeNotice s p h n stageR
    ((s.dom n.dom.toNat).start = none ∨ sameStage n (stageNotice s n.dom.toNat 40) = true →
      (t.dom n.dom.toNat).notices stageR = putNotice ((s.dom n.dom.toNat).notices stageR) h n ∧ t.flt = s.flt) ∧
    ((s.dom n.dom.toNat).start ≠ none → sameStage n (stageNotice s n.dom.toNat 40) = false →
      t.raised 15 (some n.dom.toNat) ∧
        (t.dom n.dom.toNat).notices stageR = (s.dom n.dom.toNat).notices stageR) ∧
    (∀ j, t.port j = if wasRelayed s n = false ∧ j ∈ spanPorts ∧ j ≠ p ∧ s.up j = true then
      (s.port j).withCtl (.assign n) else s.port j) ∧
    (∀ e, e ≠ n.dom.toNat → t.dom e = s.dom e) ∧ t.home = s.home := by
  obtain ⟨hnotices, hdoms, hflt, hhome, hport⟩ := relayNotice_spec (noteStage s h n stageR) p n (wasRelayed s n)
  obtain ⟨hvdoms, hvhome, hvports⟩ := noteStage_rest s h n stageR
  rw [takeNotice_eq]
  refine ⟨fun hagree => ⟨?_, hflt.trans ?_⟩, fun hstart hdiffer => ⟨?_, ?_⟩, fun j => ?_,
    fun e he => (hdoms e he).trans (hvdoms e he), hhome.trans hvhome⟩
  · rw [hnotices, noteStage_of_agreeing stageR hagree, State.updDom_dom_same, notices_withNotice]
  · rw [noteStage_of_agreeing stageR hagree]
    rfl
  · refine (linesStand_of_flt hflt).raised ?_
    rw [noteStage_of_differing stageR hstart hdiffer]
    exact raised_raise s 15 _ _
  · rw [hnotices, noteStage_of_differing stageR hstart hdiffer]
    rfl
  · rw [hport, State.up, port_of_ports hvports, ← State.up]

/-- The row of a stage notice: it is taken on the domain that it names (R278). -/
theorem noticeRow_spec {p base : Nat} (hclk : s.clocked = true) (hup : s.up p = true) (hp : 16 ≤ p) (hh : h < 8)
    (hhub : h ≠ s.hubId) (hdan : n.dan.toNat = base + h) (stageR : Bool) :
    let t := noticeRow p n base stageR s
    let d := n.dom.toNat
    ((s.dom d).start = none ∨ sameStage n (stageNotice s d 40) = true →
      (t.dom d).notices stageR = putNotice ((s.dom d).notices stageR) h n ∧ t.flt = s.flt) ∧
    ((s.dom d).start ≠ none → sameStage n (stageNotice s d 40) = false →
      t.raised 15 (some d) ∧ (t.dom d).notices stageR = (s.dom d).notices stageR) ∧
    (∀ j ∈ spanPorts, j ≠ p → s.up j = true → (t.port j).tx.lcq = (s.port j).tx.lcq ++
      if (s.dom d).relayed.contains (n.dan.toNat, n.epoch.toNat) then [] else [.assign n]) ∧
    (∀ e, e ≠ d → t.dom e = s.dom e) ∧ t.home = s.home ∧ ∀ j < 16, t.port j = s.port j := by
  set u := takeCtl s p (.assign n) with hu
  have hrow : noticeRow p n base stageR s = takeNotice u p h n stageR := by
    have hclk' : u.clocked = true := hclk
    have hup' : u.up p = true := (takeCtl_up s p _).trans hup
    have hhub' : (h != u.hubId) = true := bne_iff_ne.2 hhub
    have hsub : n.dan.toNat - base = h := by omega
    unfold noticeRow
    dsimp only
    rw [← hu, hsub, hclk', hup', hhub', if_pos]
    simp [hp, hh, hdan]
  obtain ⟨hagree, hdiffer, hport, hdoms, hhome⟩ := takeNotice_spec u p h n stageR
  have huport : ∀ j, j ≠ p → u.port j = s.port j := otherPorts_takeCtl s p _
  rw [hrow]
  refine ⟨hagree, hdiffer, fun j hj hjp hjup => ?_, hdoms, hhome, fun j hj => ?_⟩
  · rw [hport, State.up, huport j hjp, ← State.up]
    by_cases hagain : wasRelayed u n = true
    · rw [if_neg (by simp [hagain])]
      exact (List.append_nil _).symm.trans (congrArg ((s.port j).tx.lcq ++ ·) (if_pos hagain).symm)
    · rw [if_pos ⟨by simpa using hagain, hj, hjp, hjup⟩]
      exact congrArg ((s.port j).tx.lcq ++ ·) (if_neg hagain).symm
  · have hspan : j ∉ spanPorts := by
      simp only [spanPorts, List.mem_cons, List.not_mem_nil, or_false]
      omega
    rw [hport, if_neg (fun h => hspan h.2.1), huport j (by omega)]

end

/-! ## A start goes on (R261, R281) -/

section
variable {s : State} {d : Nat}

/-- A domain whose start is at a stage. -/
def Dom.atStage (q : Dom) (g : Stage) : Dom := { q with start := q.start.map fun j => { j with stage := g } }

/-- With more hubs stage R is announced at every span port. -/
theorem afterSweep_of_hubs (hhubs : s.hubs ≠ 1) : afterSweep s d
    = spanNotice (s.updDom d fun q => q.atStage .waitR) none (.assign (stageNotice s d 48)) := if_neg hhubs

theorem afterSweep_home (hheld : (s.dom d).heldReqs = []) : (afterSweep s d).home = s.home := by
  unfold afterSweep
  split
  · obtain ⟨u, hports, henter⟩ := enterStarted_of_none_held hheld
    rw [henter]
    obtain ⟨-, -, hhome, -⟩ := finishMbx_rest u ((s.dom d).start.bind fun j => j.mbx) 0 0
    exact hhome.trans hports.home
  · exact (portsOnly_spanNotice _ none _).home

/-- The zero sweep of a start, with or without a region to sweep, does nothing at the home. -/
theorem beginZero_home (hheld : (s.dom d).heldReqs = []) (mbx : Option Nat) :
    (beginZero s d mbx).home = s.home := by
  have hdone : ∀ u : State, (u.dom d).heldReqs = [] → (zeroDone u d).home = u.home := fun u hu => by
    obtain ⟨hdoms, -, hhome, -⟩ := finishMbx_rest (u.updDom d Dom.zeroed) ((u.dom d).sweep.bind fun w => w.mbx) 0 0
    have hafter := afterSweep_home (s := finishMbx (u.updDom d Dom.zeroed) ((u.dom d).sweep.bind fun w => w.mbx) 0 0)
      (d := d) (by rw [dom_of_doms hdoms, State.updDom_dom_same]; exact hu)
    unfold zeroDone
    dsimp only
    split
    · exact hafter.trans hhome
    · exact hhome
  unfold beginZero
  dsimp only
  split
  · exact hdone _ (by rw [State.updDom_dom_same]; exact hheld)
  · rfl

/-! ## A start is given up (R281, R282) -/

/-- RELEASE keeps all of a domain but the ports that its held requests name. -/
theorem placeRelease_dom (s : State) (p k e : Nat) :
    ∃ hs, (placeRelease s p k).dom e = { s.dom e with heldReqs := hs } := by
  have hforget : ∃ hs, (forgetCredits s p).dom e = { s.dom e with heldReqs := hs } :=
    ⟨_, tget_tmap ({} : Dom) s.doms (fun _ q => { q with heldReqs := q.heldReqs.map fun e =>
      if e.2.port == p then (e.1, { e.2 with port := 20 }) else e }) e rfl⟩
  rw [(portsOnly_placeRelease s p k).dom]
  exact hforget

theorem placeReleases_dom (l : List Nat) (s : State) (k e : Nat) : ∃ hs,
    (l.foldl (fun s p => placeRelease s p k) s).dom e = { s.dom e with heldReqs := hs } := by
  induction l generalizing s with
  | nil => exact ⟨_, rfl⟩
  | cons p l ih =>
    obtain ⟨hs, hdom⟩ := ih (placeRelease s p k)
    obtain ⟨gs, hone⟩ := placeRelease_dom s p k e
    exact ⟨hs, by rw [List.foldl_cons, hdom, hone]⟩

/-- A domain whose start has been given up. -/
def Dom.givenUp (q : Dom) : Dom := { clearRecords q with start := none, sweep := none, heldReqs := [] }

/-- A start that fails, of a domain that holds no request, leaves the domain where it came from and ends its
command. -/
theorem failStart_of_none_held {j : StartJob} (hstart : (s.dom d).start = some j) (hheld : (s.dom d).heldReqs = [])
    (detail : Nat) : ∃ u hs, u.dom d = { (s.dom d).givenUp with heldReqs := hs } ∧ s.Loses u d [] ∧
      failStart s d detail = finishMbx u j.mbx 8 detail := by
  set v := s.updDom d Dom.givenUp with hv
  have hvdom : v.dom d = (s.dom d).givenUp := by rw [hv, State.updDom_dom_same]
  have hlost : s.Loses v d [] := loses_of_maps rfl rfl (fun _ => rfl) (by rw [hvdom]; rfl)
  have hfail : failStart s d detail = finishMbx
      (if j.origin = .down then (v.portsOf d).foldl (fun s p => placeRelease s p d) v else v) j.mbx 8 detail := by
    unfold failStart
    dsimp only
    rw [hstart, hheld]
    rfl
  rw [hfail]
  by_cases hdown : j.origin = .down
  · obtain ⟨hs, hdom⟩ := placeReleases_dom (v.portsOf d) v d d
    rw [if_pos hdown]
    exact ⟨_, hs, by rw [hdom, hvdom], hlost.after (loses_foldl (fun s p => loses_placeRelease s d p d) _ v), rfl⟩
  · rw [if_neg hdown]
    exact ⟨v, [], hvdom, hlost, rfl⟩

end

/-! ## The rows -/

section
variable {s : State} {d : Fin 8} {j : StartJob} (hclk : s.clocked = true) (hstart : (s.dom d).start = some j)
include hclk hstart

theorem exec_stagePComplete (hstage : j.stage = .waitP) (hhubs : allHubs s (s.dom d).stageP = true) :
    exec (.stagePComplete d) s
      = .next (if j.origin = .down ∨ (j.origin = .created ∧ !(s.dom d).zeroFlag) then
          beginZero (s.updDom d fun q => q.atStage .sweep) d none else afterSweep s d) := by
  show execStagePComplete d s = _
  unfold execStagePComplete atStage
  simp only [hclk, hstart, hstage, hhubs, beq_self_eq_true, Bool.and_self]
  split <;> rfl

theorem exec_stageRComplete (hstage : j.stage = .waitR) (hhubs : allHubs s (s.dom d).stageR = true) :
    exec (.stageRComplete d) s = .next (enterStarted s d) := by
  show execStageRComplete d s = _
  simp [execStageRComplete, atStage, hclk, hstart, hstage, hhubs]

theorem exec_stageTimeout (hstage : j.stage = .waitP ∨ j.stage = .waitR) :
    exec (.stageTimeout d) s = .next (failStart s d 0x204) := by
  show execStageTimeout d s = _
  rcases hstage with h | h <;> simp [execStageTimeout, atStage, hclk, hstart, h]

variable (hheld : (s.dom d).heldReqs = [])
include hheld

/-- Every notice of stage P is in: the start sweeps, or announces stage R (R261, R281). -/
theorem stagePComplete_goes_on (hstage : j.stage = .waitP) (hhubs : allHubs s (s.dom d).stageP = true) :
    let again := j.origin = .down ∨ j.origin = .created ∧ (s.dom d).zeroFlag = false
    ∃ t, exec (.stagePComplete d) s = .next t ∧ t.home = s.home ∧
      (again → (s.dom d).par.twSize ≠ 0 → (t.dom d).start = some { j with stage := .sweep } ∧
        (t.dom d).sweep = some { zero := true, flush := false, next := 0, outst := [], mbx := none } ∧
        t.ports = s.ports) ∧
      (¬again → s.hubs ≠ 1 → (t.dom d).start = some { j with stage := .waitR } ∧
        ∀ p ∈ spanPorts, s.up p = true → (t.port p).tx.lcq = (s.port p).tx.lcq ++
          [.assign (stageNotice s d 48)]) := by
  dsimp only
  rw [exec_stagePComplete hclk hstart hstage hhubs]
  by_cases hagain : j.origin = .down ∨ j.origin = .created ∧ (s.dom d).zeroFlag = false
  · rw [if_pos (by simpa using hagain)]
    set u := s.updDom d fun q => q.atStage .sweep with hu
    have hudom : u.dom d = (s.dom d).atStage .sweep := by rw [hu, State.updDom_dom_same]
    refine ⟨_, rfl, beginZero_home (by rw [hudom]; exact hheld) none, fun _ hsize => ?_, fun h => absurd hagain h⟩
    rw [beginZero_of_region (by rw [hudom]; exact hsize), State.updDom_dom_same, hudom]
    refine ⟨?_, rfl, rfl⟩
    rw [Dom.sweeping, Dom.atStage, hstart]
    rfl
  · rw [if_neg (by simpa using hagain)]
    refine ⟨_, rfl, afterSweep_home hheld, fun h => absurd h hagain, fun _ hmany => ?_⟩
    rw [afterSweep_of_hubs hmany]
    refine ⟨?_, fun p hp hup => ?_⟩
    · rw [(portsOnly_spanNotice _ none _).dom, State.updDom_dom_same, Dom.atStage, hstart]
      rfl
    · rw [spanNotice_port, if_pos ⟨hp, by simp, hup⟩]
      rfl

variable {mbx : Fin 10} (hmbx : j.mbx = some mbx.val) (hbusy : (s.mb mbx).st = .busy) (hram : ramWf s.mbram = true)
include hmbx hbusy hram

/-- Every notice of stage R is in: the domain is STARTED and its command has ended. -/
theorem stageRComplete_starts (hstage : j.stage = .waitR) (hhubs : allHubs s (s.dom d).stageR = true) :
    ∃ t, exec (.stageRComplete d) s = .next t ∧ (t.dom d).st = .started ∧ (t.dom d).start = none ∧
      (t.dom d).zeroFlag = false ∧ (t.dom d).stageP = [] ∧ t.ended mbx 0 0 [] := by
  obtain ⟨u, hports, henter⟩ := enterStarted_of_none_held hheld
  rw [exec_stageRComplete hclk hstart hstage hhubs, henter, hstart, Option.bind_some, hmbx]
  refine ⟨_, rfl, ?_⟩
  rw [finishMbx_dom, hports.dom, State.updDom_dom_same]
  exact ⟨rfl, rfl, rfl, rfl, ended_mbFinish ((congrArg Mailbox.st (mb_of_mbs hports.mbs mbx)).trans hbusy)
    (by rw [hports.mbram]; exact hram) (by simp) (by decide) (by decide)⟩

/-- A start whose notices do not come in time is given up. -/
theorem stageTimeout_gives_up (hstage : j.stage = .waitP ∨ j.stage = .waitR) :
    ∃ t, exec (.stageTimeout d) s = .next t ∧ (t.dom d).st = (s.dom d).st ∧ (t.dom d).start = none ∧
      (t.dom d).stageP = [] ∧ t.ended mbx 8 0x204 [] := by
  obtain ⟨u, hs, hdom, hlost, hfail⟩ := failStart_of_none_held hstart hheld 0x204
  rw [exec_stageTimeout hclk hstart hstage, hfail, hmbx]
  refine ⟨_, rfl, ?_⟩
  rw [finishMbx_dom, hdom]
  exact ⟨rfl, rfl, rfl, ended_mbFinish ((hlost.mbSt mbx).trans hbusy) (by rw [hlost.mbram]; exact hram) (by simp)
    (by decide) (by decide)⟩

end

/-- The agents of this hub whose ports are Down are expelled, and no other (R257). -/
theorem downProcessing_ends {s : State} {d : Fin 8} (halive : s.alive = true) (hdowning : (s.dom d).downing = true) :
    ∃ t, exec (.downProcessingComplete d) s = .next t ∧ (t.dom d).downing = false ∧ (t.dom d).st = (s.dom d).st ∧
      ∀ dan a, dan < 128 → s.agent d dan = some a →
        (∀ p, a.hub = s.hubId → a.port = some p → s.up p = false → t.agent d dan = none) ∧
        (a.hub ≠ s.hubId → t.agent d dan = some a) := by
  set u := s.updDom d fun q => { q with downing := false } with hu
  have hudom : u.dom d = { s.dom d with downing := false } := by rw [hu, State.updDom_dom_same]
  have hagent : ∀ n, u.agent d n = s.agent d n := fun n => by rw [State.agent, hudom, State.agent]
  set gone := u.dans d fun a => match a.port with
    | some p => a.hub == u.hubId && !u.up p
    | none => false with hgone
  have hexec : exec (.downProcessingComplete d) s = .next (expelAll u d gone) := if_pos ⟨halive, hdowning⟩
  have hkeep := downStands_expelAll u d d gone
  have hlost := loses_expelAll u d gone
  refine ⟨_, hexec, by rw [hkeep.downing, hudom], by rw [hkeep.st, hudom],
    fun dan a hdan ha => ⟨fun p hhub hp hup => ?_, fun hhub => ?_⟩⟩
  · refine hlost.gone dan ?_
    have hhub' : a.hub = u.hubId := hhub
    have hup' : u.up p = false := hup
    simp [hgone, State.dans, upto, hdan, hagent, ha, hp, hhub', hup']
  · refine (hlost.stay dan fun hmem => ?_).trans ((hagent dan).trans ha)
    have hhub' : a.hub ≠ u.hubId := hhub
    simp only [hgone, State.dans, List.mem_filter, hagent, ha, beq_false_of_ne hhub', Bool.false_and] at hmem
    obtain ⟨-, hlocal⟩ := hmem
    split at hlocal <;> cases hlocal

/-- Settles O60: a notice is taken, a start goes on, starts its domain or is given up, and a domain goes down or has
been cleaned up. -/
theorem stagesOfAStart : Obligations.StagesOfAStart := by
  unfold Obligations.StagesOfAStart
  intro s d
  refine ⟨fun p n h base hclk hup hp hbase hh hhub hdom hdan => ?notice, fun p hclk hup hp hstart hst => ?release,
    fun j hclk hstart hheld => ⟨fun hstage hhubs => stagePComplete_goes_on hclk hstart hheld hstage hhubs,
      fun hstage hhubs mbx hmbx hbusy hram =>
        stageRComplete_starts hclk hstart hheld hmbx hbusy hram hstage hhubs,
      fun hstage mbx hmbx hbusy hram => stageTimeout_gives_up hclk hstart hheld hmbx hbusy hram hstage⟩,
    fun halive hdowning => downProcessing_ends halive hdowning⟩
  case notice =>
    have hrow := noticeRow_spec (n := n) (base := base) hclk hup hp hh hhub hdan
    rw [← hdom]
    rcases hbase with rfl | rfl
    · exact ⟨_, rfl, hrow false⟩
    · exact ⟨_, rfl, hrow true⟩
  case release =>
    have hexec : exec (.spanRelease p d) s
        = .next (domainDown (takeCtl s p (.release (BitVec.ofNat 3 d))) d 0xFF [] (some p.val)) :=
      if_pos ⟨hclk, (takeCtl_up s p _).trans hup, hp, by rw [Option.isNone_iff_eq_none]; exact hstart⟩
    obtain ⟨hdown, hraised, -⟩ := domainDown_inService
      (s := takeCtl s p (.release (BitVec.ofNat 3 d))) (d := d) hst 0xFF [] (some p.val)
    exact ⟨_, hexec, hdown, hraised⟩

end Sys2Proof.Machine
end

section
/-!
SUPPORT. What the Kettle's shared operations can change; the PLL and droop stretch: O25.
-/
namespace Sys2Proof.Machine

/-! ## The first lock attempt and the wake net (R285, R299) -/

/-- A first lock attempt begins where the policy selects Boil and the Kettle has not given up. -/
theorem pllStart_of_policy {s : State} (h : s.kt.run = false ∧ s.kt.gaveUp = false) :
    pllStart s = s.updKt fun k =>
      { k with pllOn := true, pllLock := false, attempts := 1, pllFrom := s.uptime } :=
  if_pos (by simp [h])

theorem pllStart_of_not_policy {s : State} (h : ¬(s.kt.run = false ∧ s.kt.gaveUp = false)) : pllStart s = s :=
  if_neg (by simpa using h)

/-- The PLL and its attempts are all that the first attempt changes. -/
theorem pllStart_eq (s : State) : ∃ on lock n since, pllStart s = s.updKt fun k =>
    { k with pllOn := on, pllLock := lock, attempts := n, pllFrom := since } := by
  by_cases h : s.kt.run = false ∧ s.kt.gaveUp = false
  · exact ⟨_, _, _, _, pllStart_of_policy h⟩
  · exact ⟨_, _, _, _, pllStart_of_not_policy h⟩

/-- The pull and the level of the wake net, and the free values, are all that an update of the net changes. -/
theorem netUpdate_eq (s : State) : ∃ pull net n,
    netUpdate s = { s with kt := { s.kt with netPull := pull, net := net }, free := n } := by
  unfold netUpdate
  dsimp only
  (repeat' split) <;> exact ⟨_, _, _, rfl⟩

/-- A hub that is neither in Steep nor in Dormant pulls the net low (R299). -/
theorem netUpdate_of_running {s : State} (hst : s.kt.st ≠ .steep) (hdo : s.kt.st ≠ .dormant) :
    netUpdate s = s.updKt fun k => { k with netPull := true, net := false } := by
  unfold netUpdate
  simp [hst, hdo]

/-! ## The PLL (R285, R290) -/

section
variable {s : State} (ha : s.alive = true)
include ha

theorem exec_pllLock (hon : s.kt.pllOn = true) (hl : s.kt.pllLock = false) :
    exec .pllLock s = .next (s.updKt fun k =>
      { k with pllLock := true, attempts := 0, lastAc := min (s.uptime - k.pllFrom) 255,
               maxAc := max k.maxAc (min (s.uptime - k.pllFrom) 255),
               st := if k.st = .warm ∧ k.run = false then .boil else k.st }) := by
  refine (if_pos ⟨ha, hon, by simp [hl]⟩).trans ?_
  simp only [Bool.not_eq_true']
  rfl

/-- An attempt of an unlocked PLL that takes too long is counted; the fourth ends the attempts (R285). -/
theorem exec_pllLockTimeout (hon : s.kt.pllOn = true) (hl : s.kt.pllLock = false) :
    exec .pllLockTimeout s =
      (let u := s.updKt fun k => { k with fails := satAdd 8 k.fails 1 }
       if s.kt.attempts ≥ 4 then
         .next (raise (u.updKt fun k => { k with pllOn := false, gaveUp := true }) 32 none s.kt.attempts)
       else .next (u.updKt fun k => { k with attempts := k.attempts + 1, pllFrom := s.uptime })) :=
  if_pos ⟨ha, hon, by simp [hl]⟩

/-- A lost lock takes the hub out of Boil, and a first attempt begins where the policy selects Boil (R290). -/
theorem exec_pllLockLoss (hl : s.kt.pllLock = true) :
    exec .pllLockLoss s =
      (let u := s.updKt fun k =>
         { k with pllLock := false, pllOn := false, st := if k.st = .boil then .warm else k.st }
       .next (if s.kt.run = false ∧ s.kt.gaveUp = false then u.updKt fun k =>
           { k with pllOn := true, pllLock := false, attempts := 1, pllFrom := s.uptime } else u)) := by
  refine (if_pos ⟨ha, hl⟩).trans (congrArg Host.Outcome.next ?_)
  split
  next htry => exact pllStart_of_policy htry
  next hnot => exact pllStart_of_not_policy hnot

end

/-! ## Droop stretch (R308, R309) -/

section
variable {s : State} (hc : s.clocked = true)
include hc

theorem exec_droopStretch (hst : s.kt.stretch < 2) :
    exec .droopStretch s = if s.kt.stretch = 0 then
        .next (s.updKt fun k =>
          { k with stretch := 1, episode := s.uptime, episodes := satAdd 16 k.episodes 1 })
      else .next (s.updKt fun k => { k with stretch := 2 }) :=
  if_pos ⟨hc, hst⟩

theorem exec_droopEase (hst : s.kt.stretch ≠ 0) :
    exec .droopEase s = if s.kt.stretch = 1 then
        .next (s.updKt fun k =>
          { k with stretch := 0, longest := max k.longest (min (s.uptime - k.episode) 0xFFFF) })
      else .next (s.updKt fun k => { k with stretch := 1 }) :=
  if_pos ⟨hc, hst⟩

theorem exec_stretchEpisodeLong (hst : s.kt.stretch ≠ 0) :
    exec .stretchEpisodeLong s
      = .next (raise s 33 none (min (max 801 (s.uptime - s.kt.episode)) 0xFFFF)) :=
  if_pos ⟨hc, hst⟩

end

/-- Settles O25: each row is its rule, and but for the reports it concerns the Kettle alone. -/
theorem clocksLockAndStretch : Obligations.ClocksLockAndStretch := by
  unfold Obligations.ClocksLockAndStretch
  refine ⟨fun s ha => ⟨fun hon hl => ⟨?lock, ?timeout⟩, fun hl => ?loss⟩,
    fun s hc => ⟨fun hst => ?stretch, fun hst => ?ease, fun hst => ?long⟩⟩
  case lock => exact ⟨_, exec_pllLock ha hon hl, rfl, rfl, rfl, rfl, rfl⟩
  case timeout =>
    rw [exec_pllLockTimeout ha hon hl]
    by_cases h4 : s.kt.attempts ≥ 4
    · exact ⟨_, if_pos h4, rfl, fun h => absurd h (by omega), fun _ => ⟨rfl, rfl, raised_raise _ 32 none _⟩⟩
    · exact ⟨_, if_neg h4, rfl, fun _ => ⟨rfl, hon, rfl⟩, fun h => absurd h h4⟩
  case loss =>
    refine ⟨_, exec_pllLockLoss ha hl, ?_⟩
    split
    next => exact ⟨rfl, rfl, fun _ _ => ⟨rfl, rfl⟩, rfl⟩
    next hnot => exact ⟨rfl, rfl, fun hrun hgave => absurd ⟨hrun, hgave⟩ hnot, rfl⟩
  case stretch =>
    rw [exec_droopStretch hc hst]
    by_cases h0 : s.kt.stretch = 0
    · exact ⟨_, if_pos h0, by rw [h0]; rfl, (if_pos h0).symm, rfl⟩
    · exact ⟨_, if_neg h0, (show 2 = s.kt.stretch + 1 by omega), (if_neg h0).symm, rfl⟩
  case ease =>
    rw [exec_droopEase hc (by omega)]
    by_cases h1 : s.kt.stretch = 1
    · exact ⟨_, if_pos h1, by rw [h1]; rfl, Nat.le_max_left .., rfl⟩
    · exact ⟨_, if_neg h1, (show 1 = s.kt.stretch - 1 by omega), le_refl _, rfl⟩
  case long => exact ⟨_, exec_stretchEpisodeLong hc hst, raised_raise s 33 none _, rfl⟩

end Sys2Proof.Machine
end

section
/-!
SUPPORT. The Power commands: the answer of a command of one form, and the Kettle's and the forecasters' registers
as commands write them: O7.
-/
namespace Sys2Proof.Machine

/-! ## The answer of a command -/

section
variable {s t : State} {m : Fin 10} {op : Nat} {pl r : List Byte}

/-- A command of one form whose body leaves the mailboxes alone ends with its body's answer; besides what the body
did, nothing but the mailbox differs. -/
theorem mbRun_answers (h : s.holds m op pl) {form : List Byte → Bool} (hf : form pl = true)
    (busy : State → List Byte → List Byte × State) {body : State → Option Nat → List Byte → CmdRes}
    (hb : body (s.turned m) (some m.val) pl = .done 0 0 r t) (hm : t.mbs = s.mbs) (hr : t.mbram = s.mbram)
    (hl : r.length ≤ 256) :
    Host.Outcome.next (mbRun s m op form busy body) = (.next (mbFinish t m 0 0 r) : Out) ∧
      (mbFinish t m 0 0 r).ended m 0 0 r ∧ t.onlyMail (mbFinish t m 0 0 r) m := by
  obtain ⟨hrun, hend⟩ := mbRun_ended h hf busy hb ((congrArg Mailbox.st (mb_of_mbs hm m)).trans h.busy) hr hl
  exact ⟨hrun, hend, mbFinish_onlyMail (by rw [hr]; exact h.ramWf) 0 0 r hl⟩

/-- The Kettle set apart, only a mailbox differs where only it differed from a state with another Kettle. -/
theorem onlyMail_but_kt {k : Kettle} (h : { s with kt := k }.onlyMail t m) :
    s.onlyMail { t with kt := s.kt } m := by
  obtain ⟨hrest, hmb, hram⟩ := h
  exact ⟨congrArg (fun x => { x with kt := s.kt }) hrest, hmb, hram⟩

end

/-! ## POWER_STATE (R311, R416) -/

theorem length_ktBytes (s : State) : (ktBytes s).length = 32 := by simp [ktBytes]

theorem doPowerRead_of_zero {s : State} {pl : List Byte} (h0 : byteAt pl 0 = 0) (m : Option Nat) :
    doPowerRead s m pl = .done 0 0 (ktBytes s) s :=
  if_neg (by omega)

/-! ## POWER_POLICY (R285, R289, R325) -/

theorem length_hubEcho (s : State) (pl : List Byte) : (hubEcho s pl).length = 8 := by
  simp [hubEcho, hubPolicyBytes]

theorem length_portPolicyBytes (f : FParams) (form p : Nat) : (portPolicyBytes f form p).length = 16 := rfl

/-- The hub's policy is in force; besides the Kettle only the free values may differ. -/
theorem setHubPolicy_spec (s : State) (pl : List Byte) : ∃ k n,
    setHubPolicy s pl = { s with kt := k, free := n } ∧ k.run = nbit (byteAt pl 1) 0 ∧
      k.steepEn = nbit (byteAt pl 1) 1 ∧ k.dormantEn = nbit (byteAt pl 1) 2 ∧ k.portIdle = byteAt pl 2 ∧
      k.steepIdle = numAt pl 4 2 := by
  unfold setHubPolicy
  dsimp only
  generalize hu : s.updKt _ = u
  have hset : ∃ k, u = { s with kt := k } ∧ k.run = nbit (byteAt pl 1) 0 ∧ k.steepEn = nbit (byteAt pl 1) 1 ∧
      k.dormantEn = nbit (byteAt pl 1) 2 ∧ k.portIdle = byteAt pl 2 ∧ k.steepIdle = numAt pl 4 2 := by
    refine ⟨_, hu.symm, ?_⟩
    split <;> exact ⟨rfl, rfl, rfl, rfl, rfl⟩
  obtain ⟨k, rfl, hpolicy⟩ := hset
  split
  · obtain ⟨pull, net, n, hnet⟩ := netUpdate_eq { s with kt := k }
    exact ⟨_, n, hnet, hpolicy⟩
  · obtain ⟨on, lock, tries, since, hpll⟩ := pllStart_eq { s with kt := k }
    rw [hpll]
    obtain ⟨pull, net, n, hnet⟩ := netUpdate_eq (State.updKt { s with kt := k } fun k =>
      { k with pllOn := on, pllLock := lock, attempts := tries, pllFrom := since })
    exact ⟨_, n, hnet, hpolicy⟩

theorem doPolicyHub_of_ok {s : State} {pl : List Byte} (h0 : byteAt pl 0 = 0) (hmin : 1 ≤ numAt pl 4 2)
    (hmax : numAt pl 4 2 ≤ 4095) (m : Option Nat) :
    doPolicyHub s m pl = .done 0 0 (hubEcho (setHubPolicy s pl) pl) (setHubPolicy s pl) := by
  unfold doPolicyHub
  dsimp only
  rw [h0, if_neg (by decide), if_neg (by omega)]
  rfl

theorem doPolicyPort_of_ok {s : State} {pl : List Byte} (h0 : byteAt pl 0 = 1) (hp : byteAt pl 1 ≤ 15)
    (hok : paramsOk (policyParams pl) = true) (m : Option Nat) :
    ∃ r, r.length = 16 ∧ doPolicyPort s m pl
      = .done 0 0 r (s.updFore (byteAt pl 1) fun f => setParams f (policyParams pl)) := by
  unfold doPolicyPort
  dsimp only
  rw [h0, if_neg (by omega), if_neg (by decide), if_neg (by simp [hok])]
  refine ⟨_, ?_, rfl⟩
  rw [portEcho, if_neg (by omega), length_portPolicyBytes]

/-! ## FORECAST_STATUS (R328) -/

theorem length_foreBytes (s : State) (p : Nat) : (foreBytes s p).length = 76 := by
  simp [foreBytes, length_portPolicyBytes]

theorem doForecastStatus_of_port {s : State} {pl : List Byte} (hp : byteAt pl 0 ≤ 15) (m : Option Nat) :
    doForecastStatus s m pl = .done 0 0 (foreBytes s (byteAt pl 0))
      (if nbit (byteAt pl 1) 0 then s.updFore (byteAt pl 0) foreClear else s) :=
  if_neg (by omega)

/-! ## The rows -/

section
variable {s : State} {m : Fin 10} {pl : List Byte}

/-- POWER_STATE answers the Kettle's registers as they stand when the command is executed. -/
theorem powerState_answers (h : s.holds m 0x400 pl) :
    (byteAt pl 0 = 0 → ∃ t, exec (.powerStateRead m) s = .next t ∧ t.ended m 0 0 (ktBytes s) ∧
      s.onlyMail t m) ∧
    (byteAt pl 0 = 1 → ∃ t, exec (.powerStateClear m) s = .next t ∧ t.ended m 0 0 (ktBytes s) ∧
      t.kt = ktClear s.kt ∧ s.onlyMail { t with kt := s.kt } m) ∧
    (byteAt pl 0 = 2 → ∃ t, exec (.powerStateWake m) s = .next t ∧ t.ended m 0 0 (ktBytes s) ∧
      s.onlyMail t m) := by
  have hlen : (ktBytes s).length ≤ 256 := by rw [length_ktBytes]; decide
  refine ⟨fun h0 => ?_, fun h1 => ?_, fun h2 => ?_⟩
  · obtain ⟨hrun, hend, hmail⟩ := mbRun_answers h (form := opOther) (by simp [opOther, h0]) noBusy
      (doPowerRead_of_zero (s := s.turned m) h0 _) rfl rfl hlen
    exact ⟨_, hrun, hend, onlyMail_of_turned hmail⟩
  · obtain ⟨hrun, hend, hmail⟩ := mbRun_answers h (form := formIs 0 1) (by simp [formIs, h1]) noBusy
      (body := doPowerClear) rfl rfl rfl hlen
    refine ⟨_, hrun, hend, ?_, onlyMail_of_turned (onlyMail_but_kt hmail)⟩
    simp [State.turned]
  · obtain ⟨hrun, hend, hmail⟩ := mbRun_answers h (form := formIs 0 2) (by simp [formIs, h2]) noBusy
      (body := doPowerWake) rfl rfl rfl hlen
    exact ⟨_, hrun, hend, onlyMail_of_turned hmail⟩

theorem powerPolicyHub_writes (h : s.holds m 0x401 pl) (h0 : byteAt pl 0 = 0) (hmin : 1 ≤ numAt pl 4 2)
    (hmax : numAt pl 4 2 ≤ 4095) :
    ∃ t r, exec (.powerPolicyHub m) s = .next t ∧ t.ended m 0 0 r ∧ t.kt.run = nbit (byteAt pl 1) 0 ∧
      t.kt.steepEn = nbit (byteAt pl 1) 1 ∧ t.kt.dormantEn = nbit (byteAt pl 1) 2 ∧
      t.kt.portIdle = byteAt pl 2 ∧ t.kt.steepIdle = numAt pl 4 2 ∧ t.ports = s.ports := by
  have hbody := doPolicyHub_of_ok (s := s.turned m) h0 hmin hmax (some m.val)
  obtain ⟨k, n, hset, hpolicy⟩ := setHubPolicy_spec (s.turned m) pl
  rw [hset] at hbody
  obtain ⟨hrun, hend, -⟩ := mbRun_answers h (form := formEven) (by simp [formEven, h0])
    (fun s pl => (hubEcho s pl, s)) hbody rfl rfl (by rw [length_hubEcho]; decide)
  refine ⟨_, _, hrun, hend, ?_⟩
  simp [hpolicy, State.turned]

theorem powerPolicyPort_writes (h : s.holds m 0x401 pl) (h0 : byteAt pl 0 = 1) (hp : byteAt pl 1 ≤ 15)
    (hok : paramsOk (policyParams pl) = true) :
    ∃ t r, exec (.powerPolicyPort m) s = .next t ∧ t.ended m 0 0 r ∧
      (t.port (byteAt pl 1)).fore.parNext = some (policyParams pl) ∧
      (t.port (byteAt pl 1)).link = (s.port (byteAt pl 1)).link ∧ s.otherPorts t (byteAt pl 1) ∧
      s.onlyMail { t with ports := s.ports } m := by
  obtain ⟨r, hlen, hbody⟩ := doPolicyPort_of_ok (s := s.turned m) h0 hp hok (some m.val)
  obtain ⟨hrun, hend, hmail⟩ := mbRun_answers h (form := formOdd) (by simp [formOdd, h0])
    (fun s pl => (portEcho s pl, s)) hbody rfl rfl (by omega)
  refine ⟨_, r, hrun, hend, ?_, ?_, fun j hj => ?_, onlyMail_of_turned (onlyMail_but_ports hmail)⟩
  · simp [setParams]
  · simp [State.turned]
  · rw [mbFinish_port, State.updFore_port_ne _ _ hj.symm]
    rfl

theorem forecastStatus_answers (h : s.holds m 0x402 pl) (hp : byteAt pl 0 ≤ 15) :
    ∃ t, exec (.forecastStatus m) s = .next t ∧ t.ended m 0 0 (foreBytes s (byteAt pl 0)) ∧
      (nbit (byteAt pl 1) 0 = false → s.onlyMail t m) ∧
      (nbit (byteAt pl 1) 0 = true → (t.port (byteAt pl 0)).fore = foreClear (s.port (byteAt pl 0)).fore ∧
        s.otherPorts t (byteAt pl 0) ∧ s.onlyMail { t with ports := s.ports } m) := by
  have hlen : (foreBytes s (byteAt pl 0)).length ≤ 256 := by rw [length_foreBytes]; decide
  have hbody := doForecastStatus_of_port (s := s.turned m) hp (some m.val)
  cases hclr : nbit (byteAt pl 1) 0 with
  | false =>
    simp only [hclr, Bool.false_eq_true, if_false] at hbody
    obtain ⟨hrun, hend, hmail⟩ := mbRun1_done h hbody rfl rfl hlen
    exact ⟨_, hrun, hend, fun _ => onlyMail_of_turned hmail, fun hn => Bool.noConfusion hn⟩
  | true =>
    simp only [hclr, if_true] at hbody
    obtain ⟨hrun, hend, hmail⟩ := mbRun1_done h hbody rfl rfl hlen
    refine ⟨_, hrun, hend, fun hn => Bool.noConfusion hn, fun _ => ⟨?_, fun j hj => ?_,
      onlyMail_of_turned (onlyMail_but_ports hmail)⟩⟩
    · simp [State.turned]
    · rw [mbFinish_port, State.updFore_port_ne _ _ hj.symm]
      rfl

end

/-- Settles O7: POWER_STATE reads and clears, POWER_POLICY writes, FORECAST_STATUS reads and clears. -/
theorem powerCommandsReadAndSet : Obligations.PowerCommandsReadAndSet := by
  unfold Obligations.PowerCommandsReadAndSet
  exact ⟨fun _ _ _ h => powerState_answers h,
    fun _ _ _ => ⟨powerPolicyHub_writes, powerPolicyPort_writes, forecastStatus_answers⟩⟩

end Sys2Proof.Machine
end

section
/-!
SUPPORT. The Kettle stands as it is while agents leave, ports are held and a domain is dealt with.
-/
namespace Sys2Proof.Machine

variable {s t : State}

/-! ## Ports and mailboxes -/

theorem State.portsOnly.kt (h : s.portsOnly t) : t.kt = s.kt := (congrArg State.kt h :)

theorem State.arraysOnly.kt (h : s.arraysOnly t) : t.kt = s.kt := (congrArg State.kt h :)

theorem mbFinish_kt (s : State) (m st de : Nat) (r : List Byte) : (mbFinish s m st de r).kt = s.kt := by simp

theorem returnCredit_kt (s : State) (p : Nat) (c : Cls) (d : Nat) : (returnCredit s p c d).kt = s.kt := by
  unfold returnCredit
  split <;> rfl

theorem placeRelease_kt (s : State) (p d : Nat) : (placeRelease s p d).kt = s.kt :=
  (portsOnly_placeRelease s p d).kt

theorem dropNotices_kt (s : State) (p : Nat) : (dropNotices s p).kt = s.kt := by
  unfold dropNotices
  dsimp only
  (repeat' split) <;> rfl

theorem holdPort_kt (s : State) (p : Nat) (reason : BitVec 8) : (holdPort s p reason).kt = s.kt := by
  have hforget : (forgetCredits (dropNotices s p) p).kt = s.kt := dropNotices_kt s p
  unfold holdPort
  dsimp only
  rw [State.updPort_kt]
  split
  · rw [mbFinish_kt, hforget]
  · exact hforget

theorem leavePort_kt (s : State) (p d : Nat) : (leavePort s p d).kt = s.kt := by
  rw [leavePort, State.updPort_kt, dropNotices_kt, placeRelease_kt]

theorem downPort_kt (s : State) (d p : Nat) : (downPort s d p).kt = s.kt := placeRelease_kt s p d

/-! ## Expulsion and the down of a domain (R247, R258) -/

theorem expel_kt (s : State) (d dan : Nat) : (expel s d dan).kt = s.kt := by
  unfold expel
  split
  · rfl
  · refine (arraysOnly_storeMem _ 9 0 _ _).kt.trans ?_
    rw [State.updDom_kt, apply_ite State.kt, (arraysOnly_setShelves _ _ none).kt, ite_self, apply_ite State.kt,
      (arraysOnly_clearShelves _ _).kt, ite_self]
    split
    · exact leavePort_kt s _ d
    · rfl

theorem expelAll_kt (s : State) (d : Nat) (dans : List Nat) : (expelAll s d dans).kt = s.kt :=
  foldl_frame (·.kt) _ (fun s n => expel_kt s d n) dans s

theorem abortJobs_kt (s : State) (d : Nat) : (abortJobs s d).kt = s.kt :=
  foldl_frame (·.kt) _ (fun s m => mbFinish_kt s m 8 0x206 []) _ _

theorem freeDomain_kt (s : State) (d : Nat) : (freeDomain s d).kt = s.kt := by
  have hproxy : ∀ (s : State) (x : Proxy),
      (if x.f.h.dom.toNat == d then returnCredit s x.port .snp d else s).kt = s.kt := fun s x => by
    split
    · exact returnCredit_kt s _ _ _
    · rfl
  unfold freeDomain
  dsimp only
  rw [State.updHome_kt, foldl_frame (·.kt) _ hproxy, State.updDom_kt,
    foldl_frame (·.kt) _ fun s e => returnCredit_kt s _ _ _, foldl_frame (·.kt) _ fun s w => returnCredit_kt s _ _ _]

theorem crcRelease_kt (s : State) (d : Nat) : (crcRelease s d).kt = s.kt :=
  foldl_frame (·.kt) _ (fun s u => by split <;> rfl) [0, 1] s

theorem cleanDown_kt (s : State) (d : Nat) (dead : List Nat) : (cleanDown s d dead).kt = s.kt := by
  have hend : ∀ (s : State) (p : Nat),
      (if s.up p then raiseFatal (sendLinkDown s p 7) p 7 else s).kt = s.kt := fun s p => by
    split
    · exact holdPort_kt _ p 7
    · rfl
  have hqueues : (dropQueued s d).kt = s.kt := foldl_frame (·.kt) _ (fun _ _ => rfl) spanPorts s
  unfold cleanDown
  dsimp only
  rw [expelAll_kt, foldl_frame (·.kt) _ hend, expelAll_kt, foldl_frame (·.kt) _ fun s p => downPort_kt s d p,
    crcRelease_kt, (arraysOnly_clearShelves _ _).kt]
  exact hqueues

theorem domainDown_kt (s : State) (d cause : Nat) (dead : List Nat) (src : Option Nat) :
    (domainDown s d cause dead src).kt = s.kt := by
  cases h : (s.dom d).st.inService with
  | false => rw [domainDown, domainDownBy, if_pos (by rw [h]; rfl)]
  | true =>
    rw [domainDown, domainDownBy_eq false h]
    refine (cleanDown_kt _ d dead).trans ?_
    rw [freeDomain_kt, abortJobs_kt, (portsOnly_spanNotice _ src _).kt]
    rfl

/-- The loss of an agent port is no affair of the Kettle (R257). -/
theorem agentGone_kt (s : State) (p : Nat) : (agentGone s p).kt = s.kt := by
  unfold agentGone
  split
  · rfl
  · next d _ =>
    dsimp only
    split
    · exact domainDown_kt s d 2 _ none
    · exact domainDown_kt s d 2 _ none
    · rw [apply_ite State.kt, expel_kt, domainDown_kt, ite_self]
    · exact expel_kt s d _
    · rw [apply_ite State.kt, expel_kt, ite_self]
    · rfl

end Sys2Proof.Machine
end

section
/-!
SUPPORT. An operation run on one port after another; Steep and Dormant, entered and left: O26.
-/
namespace Sys2Proof.Machine

/-! ## An operation run on each port of a list -/

section
variable {f : State → Nat → State} (ho : ∀ (s : State) p, s.otherPorts (f s p) p) {l : List Nat} {p : Nat}
include ho

theorem foldl_port_of_notMem (hp : p ∉ l) (s : State) : (l.foldl f s).port p = s.port p := by
  induction l generalizing s with
  | nil => rfl
  | cons a l ih =>
    obtain ⟨hpa, hpl⟩ := not_or.1 (List.mem_cons.not.1 hp)
    rw [List.foldl_cons, ih hpl, ho s a p hpa]

/-- A port of the list is as the operation left it, and the operation found it as it was at first. -/
theorem foldl_port_of_mem (hl : l.Nodup) (hp : p ∈ l) (s : State) :
    ∃ u, u.port p = s.port p ∧ (l.foldl f s).port p = (f u p).port p := by
  induction l generalizing s with
  | nil => exact absurd hp List.not_mem_nil
  | cons a l ih =>
    obtain ⟨hal, hl⟩ := List.nodup_cons.1 hl
    by_cases hpa : p = a
    · subst hpa
      exact ⟨s, rfl, foldl_port_of_notMem ho hal (f s p)⟩
    · obtain ⟨u, hu, hfold⟩ := ih hl ((List.mem_cons.1 hp).resolve_left hpa) (f s a)
      exact ⟨u, hu.trans (ho s a p hpa), hfold⟩

end

theorem mem_allPorts (p : Fin 20) : p.val ∈ allPorts := List.mem_range.2 p.isLt

theorem mem_agentPorts (a : Fin 16) : a.val ∈ agentPorts := List.mem_range.2 a.isLt

theorem nodup_allPorts : allPorts.Nodup := List.nodup_range

theorem nodup_agentPorts : agentPorts.Nodup := List.nodup_range

theorem up_of_port {s t : State} {p : Nat} (h : t.port p = s.port p) : t.up p = s.up p := by
  rw [State.up, h, State.up]

/-! ## The entry into Steep (R291, R292, R314) -/

theorem otherPorts_requestSimmer (s : State) (p : Nat) : s.otherPorts (requestSimmer s p) p := by
  unfold requestSimmer
  dsimp only
  split
  · exact .trans (otherPorts_updTx s p _) (otherPorts_updLink _ p _)
  · exact .refl s p

theorem requestSimmer_kt (s : State) (p : Nat) : (requestSimmer s p).kt = s.kt := by
  unfold requestSimmer
  dsimp only
  split <;> rfl

/-- A quiet port in L0 is asked for Simmer (R72). -/
theorem requestSimmer_of_ready {s : State} {p : Nat} (h0 : (s.port p).link.st = .l0)
    (hi : (s.port p).link.hs = .idle) (hr : simmerReady (s.port p) = true) :
    ((requestSimmer s p).port p).link.hs = .requested false ∧ ((requestSimmer s p).port p).tx.pm = 1 := by
  rw [requestSimmer, if_pos ⟨h0, hi, hr⟩]
  simp

section
variable {s : State}

/-- An idle hub begins the entry into Steep, and asks every quiet port for Simmer (R291). -/
theorem steepIdleElapsed_enters (ha : s.alive = true) (hst : s.kt.st = .boil ∨ s.kt.st = .warm)
    (hidle : steepConds s = true) : ∃ t, exec .steepIdleElapsed s = .next t ∧
      t.kt = { s.kt with st := .enterSteep } ∧
      ∀ p : Fin 20, (s.port p).link.st = .l0 → (s.port p).link.hs = .idle → simmerReady (s.port p) = true →
        (t.port p).link.hs = .requested false ∧ (t.port p).tx.pm = 1 := by
  refine ⟨_, if_pos ⟨ha, hst, hidle⟩, foldl_frame (·.kt) _ requestSimmer_kt _ _, fun p h0 hi hr => ?_⟩
  obtain ⟨u, hu, hport⟩ := foldl_port_of_mem (f := fun s p => requestSimmer s p) otherPorts_requestSimmer
    nodup_allPorts (mem_allPorts p) (s.updKt fun k => { k with st := .enterSteep })
  rw [State.updKt_port] at hu
  rw [hport]
  exact requestSimmer_of_ready (by rw [hu]; exact h0) (by rw [hu]; exact hi) (by rw [hu]; exact hr)

/-- The hub with its clocks stopped in Steep (R292). -/
def stopClocks (s : State) : State := s.updKt fun k =>
  { k with st := .steep, pllOn := false, pllLock := false, steepIn := satAdd 32 k.steepIn 1 }

/-- The forecast events of all agent ports end (R314). -/
def endForecasts (s : State) : State := agentPorts.foldl (fun s p => s.updFore p foreEnd) s

theorem endForecasts_kt (s : State) : (endForecasts s).kt = s.kt :=
  foldl_frame (·.kt) (fun s p => s.updFore p foreEnd) (fun s p => s.updFore_kt p foreEnd) agentPorts s

theorem endForecasts_port (s : State) (a : Fin 16) :
    (endForecasts s).port a = { s.port a with fore := foreEnd (s.port a).fore } := by
  obtain ⟨u, hu, hport⟩ := foldl_port_of_mem (f := fun s p => s.updFore p foreEnd)
    (fun s p => otherPorts_updPort s p _) nodup_agentPorts (mem_agentPorts a) s
  rw [endForecasts, hport, State.updFore_port_same, hu]

theorem exec_stopStep (ha : s.alive = true) (hst : s.kt.st = .enterSteep)
    (hstill : ∀ p : Fin 20, s.up p = true → (s.port p).link.st = .simmer ∧ (s.port p).link.exiting = false) :
    exec .stopStep s = .next (netUpdate (endForecasts (stopClocks s))) := by
  have hall : (allPorts.all fun p => !s.up p
      || ((s.port p).link.st == .simmer && !(s.port p).link.exiting)) = true := by
    refine List.all_eq_true.2 fun p hp => ?_
    cases hup : s.up p with
    | false => rfl
    | true =>
      obtain ⟨hsim, hex⟩ := hstill ⟨p, List.mem_range.1 hp⟩ hup
      simp [hsim, hex]
  change execStopStep s = _
  unfold execStopStep
  dsimp only
  rw [if_pos ⟨ha, hst, hall⟩]
  rfl

/-- Where every port that is up rests in Simmer, the clocks stop and the forecasts end (R292, R314). -/
theorem stopStep_stops (ha : s.alive = true) (hst : s.kt.st = .enterSteep)
    (hstill : ∀ p : Fin 20, s.up p = true → (s.port p).link.st = .simmer ∧ (s.port p).link.exiting = false) :
    ∃ t, exec .stopStep s = .next t ∧ t.kt.st = .steep ∧ t.kt.pllOn = false ∧ t.kt.pllLock = false ∧
      t.kt.steepIn = satAdd 32 s.kt.steepIn 1 ∧
      ∀ a : Fin 16, (t.port a).fore.phase = .none ∧ (t.port a).fore.ldh = 0 ∧
        (t.port a).link = (s.port a).link := by
  obtain ⟨pull, net, n, hnet⟩ := netUpdate_eq (endForecasts (stopClocks s))
  have hkt : (netUpdate (endForecasts (stopClocks s))).kt
      = { (stopClocks s).kt with netPull := pull, net := net } := by rw [hnet, endForecasts_kt]
  refine ⟨_, exec_stopStep ha hst hstill, ?_⟩
  rw [hkt]
  refine ⟨rfl, rfl, rfl, rfl, fun a => ?_⟩
  rw [netUpdate_port, endForecasts_port]
  exact ⟨rfl, rfl, rfl⟩

/-! ## The wake from Steep (R293, R300, R301) -/

theorem wake_eq_wakeSteep (ha : s.alive = true) (hst : s.kt.st = .steep) (c : Nat) :
    wake s c = wakeSteep s c := by
  simp only [State.alive, Bool.and_eq_true, beq_iff_eq, Bool.not_eq_true'] at ha
  rw [wake, if_neg (by simp [ha]), hst]

/-- A hub that wakes from Steep pulls the wake net low again (R299). -/
theorem wake_steep_pulls (ha : s.alive = true) (hst : s.kt.st = .steep) (c : Nat) :
    (wake s c).kt.netPull = true := by
  have hwarm : (pllStart (beginExits (addCause (s.updKt fun k => { k with st := .warm }) c))).kt.st = .warm := by
    rw [(pllStart_kt _).1, beginExits_kt]
    rfl
  rw [wake_eq_wakeSteep ha hst, wakeSteep, netUpdate_of_running (by simp [hwarm]) (by simp [hwarm])]
  rfl

/-- An edge of a wake pin wakes the hub; an ASSIGN that it repeats leaves the Kettle alone (R300). -/
theorem exec_wakeNEdge (ha : s.alive = true) (a : Fin 16) :
    ∃ t, exec (.wakeNEdge a) s = .next t ∧ t.kt = (wake s (causePin a)).kt := by
  change ∃ t, execWakeNEdge a s = .next t ∧ _
  unfold execWakeNEdge
  rw [if_neg (by simp [ha])]
  dsimp only
  split
  · exact ⟨_, rfl, (portsOnly_placeAssign _ a false).kt⟩
  · exact ⟨_, rfl, rfl⟩

theorem exec_wakeNetFall (ha : s.alive = true) (hpull : s.kt.netPull = false) :
    exec .wakeNetFall s = .next ((wake s causeNet).updKt fun k => { k with net := false }) :=
  if_pos ⟨ha, by simp [hpull]⟩

end

/-! ## The entry into Dormant (R302) -/

/-- A port that is up goes Down without LINK_DOWN; its coefficients are kept. -/
theorem dormantPort_of_up {s : State} {p : Nat} (hup : s.up p = true) :
    dormantPort s p = (dropNotices s p).updPort p fun q =>
      let q := clearLink q
      { q with link := { q.link with st := .held, coeff := some (q.link.rate, q.link.width),
                                     upAtDormant := true, farCap := none, capAcked := false,
                                     peerAck := false, hs := .idle, exiting := false, exitDue := false } } :=
  if_pos hup

/-- Of one that is not, a LINK_RETRAIN in progress may end, and the port is detected anew after the wake. -/
theorem dormantPort_of_down {s : State} {p : Nat} (hup : s.up p = false) : ∃ u : State,
    u.ports = s.ports ∧ u.kt = s.kt ∧ dormantPort s p = u.updLink p fun l =>
      { l with st := if l.st.detects then .noReceiver else l.st, upAtDormant := false,
               wakeTrain := false, retrain := none } := by
  unfold dormantPort
  rw [if_neg (by simp [hup])]
  refine ⟨_, ?_, ?_, rfl⟩ <;> split
  exacts [mbFinish_ports .., rfl, mbFinish_kt .., rfl]

theorem dormantPort_kt (s : State) (p : Nat) : (dormantPort s p).kt = s.kt := by
  cases hup : s.up p with
  | true => rw [dormantPort_of_up hup, State.updPort_kt, dropNotices_kt]
  | false =>
    obtain ⟨u, -, hkt, hdown⟩ := dormantPort_of_down hup
    rw [hdown, State.updLink_kt, hkt]

theorem otherPorts_dormantPort (s : State) (p : Nat) : s.otherPorts (dormantPort s p) p := by
  cases hup : s.up p with
  | true =>
    rw [dormantPort_of_up hup]
    exact .trans (fun _ hj => dropNotices_port_ne s hj.symm) (otherPorts_updPort _ p _)
  | false =>
    obtain ⟨u, hports, -, hdown⟩ := dormantPort_of_down hup
    rw [hdown]
    exact (otherPorts_of_ports hports p).trans (otherPorts_updLink u p _)

/-- A port is Down, with its membership kept, and remembers whether it was up. -/
theorem dormantPort_spec (s : State) (p : Nat) : (dormantPort s p).up p = false ∧
    ((dormantPort s p).port p).link.upAtDormant = s.up p ∧ ((dormantPort s p).port p).mem = (s.port p).mem := by
  rw [State.up]
  cases hup : s.up p with
  | true =>
    rw [dormantPort_of_up hup, State.updPort_port_same, dropNotices_port_same]
    exact ⟨rfl, rfl, rfl⟩
  | false =>
    obtain ⟨u, hports, -, hdown⟩ := dormantPort_of_down hup
    rw [hdown, State.updLink_port_same, port_of_ports hports]
    refine ⟨?_, rfl, rfl⟩
    dsimp only
    split
    · rfl
    · exact hup

/-- Every port of the hub is Down, as it stands in Dormant (R302). -/
def dormantPorts (s : State) : State := allPorts.foldl dormantPort s

theorem dormantPorts_kt (s : State) : (dormantPorts s).kt = s.kt :=
  foldl_frame (·.kt) dormantPort dormantPort_kt allPorts s

theorem dormantPorts_spec (s : State) (p : Fin 20) : (dormantPorts s).up p = false ∧
    ((dormantPorts s).port p).link.upAtDormant = s.up p ∧ ((dormantPorts s).port p).mem = (s.port p).mem := by
  obtain ⟨u, hu, hport⟩ := foldl_port_of_mem otherPorts_dormantPort nodup_allPorts (mem_allPorts p) s
  obtain ⟨hdown, hwas, hmem⟩ := dormantPort_spec u p
  rw [dormantPorts, up_of_port (s := dormantPort u p) hport, hport, ← up_of_port hu, ← hu]
  exact ⟨hdown, hwas, hmem⟩

theorem exec_dormantEntry {s : State} (ha : s.alive = true) (hst : s.kt.st = .steep)
    (hpull : s.kt.netPull = false) : exec .dormantEntry s = .next (((dormantPorts s).updSmb fun b =>
      { b with gated0 := true, gated1 := true }).updKt fun k =>
        { k with st := .dormant, net := true, dormantIn := satAdd 16 k.dormantIn 1 }) := by
  change execDormantEntry s = _
  unfold execDormantEntry
  rw [if_pos ⟨ha, hst, by simp [hpull]⟩]
  rfl

/-- A hub in Steep whose wake net is released enters Dormant (R302, R461). -/
theorem dormantEntry_enters {s : State} (ha : s.alive = true) (hst : s.kt.st = .steep)
    (hpull : s.kt.netPull = false) : ∃ t, exec .dormantEntry s = .next t ∧
      t.kt.st = .dormant ∧ t.kt.net = true ∧ t.kt.dormantIn = satAdd 16 s.kt.dormantIn 1 ∧
      t.smb.gated0 = true ∧ t.smb.gated1 = true ∧
      ∀ p : Fin 20, t.up p = false ∧ (t.port p).link.upAtDormant = s.up p ∧
        (t.port p).mem = (s.port p).mem := by
  have hspec := dormantPorts_spec s
  rw [exec_dormantEntry ha hst hpull, ← dormantPorts_kt s]
  generalize dormantPorts s = u at hspec ⊢
  exact ⟨_, rfl, rfl, rfl, rfl, rfl, rfl, hspec⟩

/-! ## The return of the ASSIGNs (R305) -/

/-- An ASSIGN that is placed leaves of its port's link all but an exit that it may owe. -/
theorem placeAssign_link (s : State) (p : Nat) (creds : Bool) :
    ∃ due, ((placeAssign s p creds).port p).link = { (s.port p).link with exitDue := due } := by
  unfold placeAssign
  split
  · exact ⟨_, rfl⟩
  · next d _ =>
    obtain ⟨-, -, due, hdue⟩ :=
      queuesCtl_placeCtl s p (.assign (assignFields s d (s.port p).mem.dan (portMirrored s p)))
    dsimp only
    split
    · exact ⟨(s.port p).link.exitDue, by simp⟩
    · exact ⟨due, by split <;> simp [hdue]⟩

theorem dormantAssignPort_portsOnly (s : State) (p : Nat) : s.portsOnly (dormantAssignPort s p) := by
  unfold dormantAssignPort
  refine portsOnly_ite _ ?_ (.refl s)
  exact portsOnly_ite _ (.trans (portsOnly_updPort s p _) (portsOnly_placeAssign _ p true))
    (portsOnly_updPort s p _)

theorem otherPorts_dormantAssignPort (s : State) (p : Nat) : s.otherPorts (dormantAssignPort s p) p := by
  unfold dormantAssignPort
  dsimp only
  split
  · split
    · exact (otherPorts_updLink s p _).trans (placeAssign_port _ p true).1
    · exact otherPorts_updLink s p _
  · exact .refl s p

/-- A port that has trained and exchanged its CAPs after a Dormant wake has its ASSIGN again, and its credits. -/
theorem dormantAssignPort_spec {s : State} {p d : Nat} (hw : (s.port p).link.wakeTrain = true)
    (hup : s.up p = true) (hfar : (s.port p).link.farCap.isSome = true)
    (hsent : (s.port p).mem.sent.isSome = true) (hd : (s.port p).mem.dom = some d)
    (hrel : (s.port p).mem.relWait = false) :
    ((dormantAssignPort s p).port p).link.wakeTrain = false ∧
      ((dormantAssignPort s p).port p).rx.returns = agentCredits ∧
      ∃ x, .assign x ∈ ((dormantAssignPort s p).port p).tx.lcq ∧ x.dom = BitVec.ofNat 3 d := by
  set u := s.updLink p fun l => { l with wakeTrain := false } with hu
  have hport : u.port p = { s.port p with link := { (s.port p).link with wakeTrain := false } } := by
    rw [hu, State.updLink_port_same]
  have hrow : dormantAssignPort s p = placeAssign u p true := by
    rw [dormantAssignPort, if_pos ⟨hw, hup, hfar⟩, if_pos hsent]
  obtain ⟨hcred, x, -, hdom, -, hmem⟩ := placeAssign_spec (s := u) (by rw [hport]; exact hd)
    (by rw [hport]; exact hrel) (by rw [State.up, hport]; exact hup)
  obtain ⟨due, hlink⟩ := placeAssign_link u p true
  rw [hrow, hlink, hport]
  exact ⟨rfl, hcred, x, hmem, hdom⟩

/-- A hub that has been leaving Dormant runs again. -/
def leftDormant (s : State) : State :=
  if s.kt.st = .leaveDormant then s.updKt fun k => { k with st := runState k } else s

theorem leftDormant_kt (s : State) : (leftDormant s).kt
    = { s.kt with st := if s.kt.st = .leaveDormant then runState s.kt else s.kt.st } := by
  unfold leftDormant
  split <;> rfl

theorem leftDormant_ports (s : State) : (leftDormant s).ports = s.ports := by
  unfold leftDormant
  split <;> rfl

theorem exec_dormantAssign {s : State} (hc : s.clocked = true) :
    exec .dormantAssign s = .next (agentPorts.foldl dormantAssignPort (leftDormant s)) := by
  change execDormantAssign s = _
  unfold execDormantAssign
  rw [if_neg (by simp [hc])]
  rfl

/-- The hub runs again, and every agent port that is ready has its ASSIGN. -/
theorem dormantAssign_places {s : State} (hc : s.clocked = true) : ∃ t, exec .dormantAssign s = .next t ∧
    t.kt = { s.kt with st := if s.kt.st = .leaveDormant then runState s.kt else s.kt.st } ∧
    ∀ (a : Fin 16) (d : Nat), (s.port a).link.wakeTrain = true → s.up a = true →
      (s.port a).link.farCap.isSome = true → (s.port a).mem.sent.isSome = true →
      (s.port a).mem.dom = some d → (s.port a).mem.relWait = false →
      (t.port a).link.wakeTrain = false ∧ (t.port a).rx.returns = agentCredits ∧
      ∃ x, .assign x ∈ (t.port a).tx.lcq ∧ x.dom = BitVec.ofNat 3 d := by
  have hkt := (portsOnly_foldl dormantAssignPort_portsOnly agentPorts (leftDormant s)).kt
  refine ⟨_, exec_dormantAssign hc, hkt.trans (leftDormant_kt s), fun a d hw hup hfar hsent hd hrel => ?_⟩
  obtain ⟨u, hu, hport⟩ :=
    foldl_port_of_mem otherPorts_dormantAssignPort nodup_agentPorts (mem_agentPorts a) (leftDormant s)
  have hua : u.port a = s.port a := hu.trans (port_of_ports (leftDormant_ports s) a)
  rw [hport]
  rw [← up_of_port hua] at hup
  rw [← hua] at hw hfar hsent hd hrel
  exact dormantAssignPort_spec hw hup hfar hsent hd hrel

/-! ## A port that does not train (R306) -/

/-- A wake that does not bring a port up is counted; an agent port is held, a span port reported. -/
theorem wakeTrainingTimeout_gives_up {s : State} (p : Fin 20) (ha : s.alive = true)
    (hw : (s.port p).link.wakeTrain = true) (hup : s.up p = false) :
    ∃ t, exec (.wakeTrainingTimeout p) s = .next t ∧ t.kt.wakeFail = satAdd 16 s.kt.wakeFail 1 ∧
      (t.port p).link.wakeTrain = false ∧ (p.val < 16 → (t.port p).link.st = .held) ∧
      (16 ≤ p.val → t.raised 4 none ∧ s.otherPorts t p) := by
  set u := (s.updKt fun k => { k with wakeFail := satAdd 16 k.wakeFail 1 }).updLink p fun l =>
    { l with wakeTrain := false } with hu
  have hrow : exec (.wakeTrainingTimeout p) s
      = if p.val < 16 then .next (agentGone (holdPort u p (u.port p).link.lastDown) p)
        else .next (raise u 4 none (p + 2 ^ 28)) :=
    if_pos ⟨ha, hw, by simp [hup]⟩
  rw [hrow]
  by_cases hp : p.val < 16
  · set v := holdPort u p (u.port p).link.lastDown with hv
    have hport : v.port p = heldPort (u.port p) (u.port p).link.lastDown := holdPort_port_same u p _
    obtain ⟨hlink, -⟩ := keepsHeld_agentGone v p p (by rw [hport]; rfl) (by rw [hport]; rfl)
    rw [hport] at hlink
    refine ⟨_, if_pos hp, ?_, ?_, fun _ => ?_, fun h => absurd h (by omega)⟩
    · rw [agentGone_kt, hv, holdPort_kt]
      rfl
    · rw [hlink]
      rfl
    · rw [hlink]
      rfl
  · refine ⟨_, if_neg hp, rfl, ?_, fun h => absurd h hp, fun _ => ⟨raised_raise _ 4 none _, ?_⟩⟩
    · rw [raise_port, hu, State.updLink_port_same]
    · exact fun j hj => by rw [raise_port, hu, State.updLink_port_ne _ _ hj.symm, State.updKt_port]

/-- Settles O26: the ways into Steep and Dormant and out of them, row by row. -/
theorem steepAndDormantComeAndGo : Obligations.SteepAndDormantComeAndGo := by
  unfold Obligations.SteepAndDormantComeAndGo
  refine ⟨fun s ha => ⟨steepIdleElapsed_enters ha, stopStep_stops ha,
      fun hst => ⟨fun a => ?edge, fun hpull => ?net⟩⟩,
    fun s => ⟨dormantEntry_enters, dormantAssign_places, wakeTrainingTimeout_gives_up⟩⟩
  case edge =>
    obtain ⟨t, hexec, hkt⟩ := exec_wakeNEdge ha a
    obtain ⟨hwarm, hcause⟩ := wake_steep ha hst (causePin a)
    rw [← hkt] at hwarm hcause
    exact ⟨t, hexec, hwarm, hcause, by rw [hkt]; exact wake_steep_pulls ha hst _⟩
  case net =>
    obtain ⟨hwarm, hcause⟩ := wake_steep ha hst causeNet
    exact ⟨_, exec_wakeNetFall ha hpull, hwarm, hcause, wake_steep_pulls ha hst causeNet⟩

end Sys2Proof.Machine
end

section
/-!
SUPPORT. The hint pins, the first DROOP_N edge of an event and the parameters at a window boundary, and the rows
of the forecaster: O27.
-/
namespace Sys2Proof.Machine

@[simp] theorem otherPorts_updFore (s : State) (p : Nat) (f : Forecast → Forecast) :
    s.otherPorts (s.updFore p f) p := otherPorts_updPort s p _

/-! ## The hint pins (R313) -/

/-- A code that falls due concerns the pins, their hold and the deferred code alone. -/
theorem ldhSet_rest (f : Forecast) (c : BitVec 2) :
    { ldhSet f c with ldh := f.ldh, ldhHold := f.ldhHold, ldhDue := f.ldhDue } = f := by
  unfold ldhSet
  split
  · rfl
  · split <;> rfl

theorem ldhSet_ldh_of_notHeld {f : Forecast} (h : f.ldhHold = false) (c : BitVec 2) : (ldhSet f c).ldh = c := by
  rw [ldhSet, if_neg (by simp [h])]
  split
  · assumption
  · rfl

@[simp] theorem ldhSet_hint (f : Forecast) (c : BitVec 2) : (ldhSet f c).hint = f.hint :=
  (congrArg Forecast.hint (ldhSet_rest f c) :)

@[simp] theorem ldhSet_busy (f : Forecast) (c : BitVec 2) : (ldhSet f c).busy = f.busy :=
  (congrArg Forecast.busy (ldhSet_rest f c) :)

@[simp] theorem ldhSet_imminent (f : Forecast) (c : BitVec 2) : (ldhSet f c).imminent = f.imminent :=
  (congrArg Forecast.imminent (ldhSet_rest f c) :)

theorem ldhRelease_of_due {f : Forecast} {c : BitVec 2} (h : f.ldhDue = some c) :
    ldhRelease f = { f with ldh := c, ldhDue := none, ldhHold := true } := by
  rw [ldhRelease, h]

theorem ldhRelease_of_noneDue {f : Forecast} (h : f.ldhDue = none) :
    ldhRelease f = { f with ldhHold := false } := by
  rw [ldhRelease, h]

theorem ldhRelease_ldhDue (f : Forecast) : (ldhRelease f).ldhDue = none := by
  cases h : f.ldhDue with
  | none => rw [ldhRelease_of_noneDue h]; exact h
  | some c => rw [ldhRelease_of_due h]

theorem fallHint_busy (f : Forecast) : (fallHint f).busy = f.busy := by
  unfold fallHint
  split
  · exact ldhSet_busy _ 3
  · rfl

/-- Outside an event the fall hint drives 0b11 (R318). -/
theorem fallHint_drives {f : Forecast} (h : f.phase = .none) :
    (fallHint f).hint = true ∧ (f.ldhHold = false → (fallHint f).ldh = 3) := by
  rw [fallHint, if_pos h]
  refine ⟨ldhSet_hint _ 3, fun hfree => ldhSet_ldh_of_notHeld ?_ 3⟩
  exact hfree

/-! ## Edges of DROOP_N (R320, R326) -/

/-- An edge that is counted, in its window and among those that R326 weighs. -/
def edgeCounted (s : State) (f : Forecast) : Forecast :=
  { f with droopCnt := bump f.droopCnt, edgeWin := true,
           edges := (f.edges.filter fun t => decide (s.uptime < t + 8 * f.par.ovrW)) ++ [s.uptime] }

/-- The adaptation at an edge: the first of an event raises L and halves S (R320). -/
def edgeAdapt (f : Forecast) : Forecast :=
  if f.phase ≠ .none ∧ !f.edgeInEvent then
    { f with edgeInEvent := true, run := 0, lead := min (bounds f).leadMax (f.lead + 2),
             start := max (bounds f).floor (f.start / 2), stepsUp := bump f.stepsUp }
  else f

theorem edgeAdapt_of_first {f : Forecast} (h : f.phase ≠ .none) (he : f.edgeInEvent = false) : edgeAdapt f
    = { f with edgeInEvent := true, run := 0, lead := min (bounds f).leadMax (f.lead + 2),
               start := max (bounds f).floor (f.start / 2), stepsUp := bump f.stepsUp } :=
  if_pos ⟨h, by simp [he]⟩

theorem edgeAdapt_of_notFirst {f : Forecast} (h : f.phase = .none ∨ f.edgeInEvent = true) : edgeAdapt f = f :=
  if_neg fun ⟨hp, he⟩ => h.elim hp fun h => by simp [h] at he

theorem edgeAdapt_droopCnt (f : Forecast) : (edgeAdapt f).droopCnt = f.droopCnt := by
  unfold edgeAdapt
  split <;> rfl

/-- An override falls due at an edge, or is counted as blocked while STRICT holds it back (R326, R327). -/
def ovrAsked (f : Forecast) : Forecast :=
  if f.par.strict then { f with ovrBlocked := bump f.ovrBlocked, ovrNext := true }
  else { f with ovrCount := bump f.ovrCount, ovrNext := true }

theorem droopEdge_eq (s : State) (p : Nat) : droopEdge s p =
    let f := edgeAdapt (edgeCounted s (s.port p).fore)
    if f.edges.length > f.par.ovrK ∧ !f.ovr ∧ !f.ovrNext then
      raise (s.updFore p fun _ => ovrAsked f) 34 none (p + flag (ovrAsked f).par.strict 8)
    else s.updFore p fun _ => f := rfl

/-- A forecaster with other counts of overrides, and an override that is due or not. -/
def Forecast.withOvr (f : Forecast) (count blocked : Nat) (next : Bool) : Forecast :=
  { f with ovrCount := count, ovrBlocked := blocked, ovrNext := next }

theorem ovrAsked_withOvr (f : Forecast) : ∃ count blocked next, ovrAsked f = f.withOvr count blocked next := by
  unfold ovrAsked
  split
  · exact ⟨f.ovrCount, bump f.ovrBlocked, true, rfl⟩
  · exact ⟨bump f.ovrCount, f.ovrBlocked, true, rfl⟩

/-- An edge is counted and adapts L and S, and beyond that concerns the override alone. -/
theorem droopEdge_spec (s : State) (p : Nat) : s.otherPorts (droopEdge s p) p ∧
    ∃ count blocked next, ((droopEdge s p).port p).fore
      = (edgeAdapt (edgeCounted s (s.port p).fore)).withOvr count blocked next := by
  rw [droopEdge_eq]
  generalize edgeAdapt (edgeCounted s (s.port p).fore) = f
  dsimp only
  split
  · rw [raise_port, State.updFore_port_same]
    exact ⟨otherPorts_updFore s p fun _ => ovrAsked f, ovrAsked_withOvr f⟩
  · rw [State.updFore_port_same]
    exact ⟨otherPorts_updFore s p _, f.ovrCount, f.ovrBlocked, f.ovrNext, rfl⟩

/-! ## A window boundary (R322, R325) -/

/-- The parameters in effect, those that wait, and the REQs of the window in progress. -/
def Forecast.params (f : Forecast) : FParams × Option FParams × Nat := (f.par, f.parNext, f.windowReqs)

theorem params_ldhSet (f : Forecast) (c : BitVec 2) : (ldhSet f c).params = f.params :=
  (congrArg Forecast.params (ldhSet_rest f c) :)

theorem params_takeParams (f : Forecast) :
    (takeParams f).params = (f.parNext.getD f.par, none, f.windowReqs) := by
  unfold takeParams
  split
  case h_1 h => rw [Forecast.params, h]; rfl
  case h_2 h => rw [Forecast.params, h]; rfl

theorem params_phaseStep (f : Forecast) (n : Nat) : (phaseStep f n).params = f.params := by
  have htop : ∀ g : Forecast, (if g.limit ≥ g.par.ceil then
      ldhSet { g with phase := .watch, limit := g.par.ceil } 0 else g).params = g.params := fun g => by
    split
    · exact params_ldhSet _ 0
    · rfl
  unfold phaseStep
  dsimp only
  split
  · split
    · exact (htop _).trans (params_ldhSet _ _)
    · rfl
  · exact htop { f with limit := min f.par.ceil (f.limit + f.par.step) }
  · rfl

theorem params_ovrStep (f : Forecast) : (ovrStep f).params = f.params := by
  unfold ovrStep
  split
  · rfl
  · split
    · split
      · rfl
      · split <;> rfl
    · rfl

theorem params_windowStep (f : Forecast) (n : Nat) :
    (windowStep f n).params = (f.parNext.getD f.par, none, 0) :=
  (params_ovrStep _).trans ((params_phaseStep _ n).trans (params_takeParams _))

theorem markPaced_of_noneReady {s : State} {p : Nat} (h : (s.port p).ready = []) : markPaced s p = s := by
  rw [markPaced, waiting, h]
  rfl

/-- At a boundary with no delayed grant and no writeback under way the forecaster alone moves on. -/
theorem exec_pacingWindow_of_noneReady {s : State} {a : Fin 16} (n : Nat) (hc : s.clocked = true)
    (hready : (s.port a).ready = []) (hwbs : s.home.wbs = []) :
    exec (.pacingWindow a n) s = .next (s.updFore a fun f => windowStep f n) := by
  set t := s.updFore a fun f => windowStep f n with ht
  have hnone : (t.port a).ready = [] := by
    rw [ht, State.updFore_port_same]
    exact hready
  calc exec (.pacingWindow a n) s
    _ = .next (serveStore (drainReady t a (t.port a).ready.length)) := if_pos hc
    _ = .next (serveStore t) := by rw [hnone, List.length_nil, drainReady, markPaced_of_noneReady hnone]
    _ = .next t := congrArg _ (serveStore_of_empty hwbs)

/-! ## The rows -/

section
variable {s : State} {a : Fin 16}

theorem exec_watchEnd (hr : foreRuns s a = true) (hp : (s.port a).fore.phase = .watch) :
    exec (.watchEnd a) s = .next (s.updFore a fun f =>
      { holdOver (watchAdapt f) with phase := .none, large := false, imminent := false }) :=
  if_pos ⟨hr, hp⟩

theorem exec_fallHintEnd (hr : foreRuns s a = true) (hh : (s.port a).fore.hint = true) :
    exec (.fallHintEnd a) s = .next (s.updFore a fun f => ldhSet { holdOver f with hint := false } 0) :=
  if_pos ⟨hr, hh⟩

theorem exec_fallSignature (hr : foreRuns s a = true) (hb : 8 ≤ (s.port a).fore.busy)
    (hw : (s.port a).fore.windowReqs = 0) :
    exec (.fallSignature a) s = .next (s.updFore a fun f => fallHint { f with busy := 0 }) :=
  if_pos ⟨hr, hb, hw⟩

theorem exec_largeRiseImminent (hr : foreRuns s a = true) (hp : (s.port a).fore.phase = .lead)
    (hl : (s.port a).fore.large = true) (hi : (s.port a).fore.imminent = false) :
    exec (.largeRiseImminent a) s = .next (s.updFore a fun f => ldhSet { f with imminent := true } 2) :=
  if_pos ⟨hr, hp, hl, by simp [hi]⟩

theorem exec_ldhDeferredChange (ha : s.alive = true) (hh : (s.port a).fore.ldhHold = true) :
    exec (.ldhDeferredChange a) s = .next (s.updFore a ldhRelease) :=
  if_pos ⟨ha, hh⟩

theorem exec_droopNEdge_clocked (hc : s.clocked = true) : exec (.droopNEdge a) s = .next (droopEdge s a) :=
  if_pos hc

theorem exec_droopNEdge_stopped (hc : s.clocked = false) (ha : s.alive = true) : exec (.droopNEdge a) s
    = .next (s.updFore a fun f => { f with droopLatched := bump f.droopLatched }) :=
  (if_neg (by simp [hc])).trans (if_pos ha)

end

/-- Settles O27: each row is its rule on the forecaster of its port, which alone it concerns. -/
theorem hintsAndEdgesAdapt : Obligations.HintsAndEdgesAdapt := by
  unfold Obligations.HintsAndEdgesAdapt
  refine ⟨fun s a => ⟨fun hr => ⟨fun hp => ?watch, fun hh => ?hintEnd, fun hb hw => ?signature,
      fun hp hl hi => ?imminent⟩, fun ha hh => ?deferred⟩,
    fun s a => ⟨fun hc => ?edge, fun hc ha => ?latched, fun n hc hready hwbs => ?window⟩⟩
  case watch =>
    refine ⟨_, exec_watchEnd hr hp, otherPorts_updFore s a _, ?_⟩
    rw [State.updFore_port_same]
    exact ⟨rfl, rfl, rfl⟩
  case hintEnd =>
    refine ⟨_, exec_fallHintEnd hr hh, otherPorts_updFore s a _, ?_⟩
    rw [State.updFore_port_same]
    exact ⟨ldhSet_hint _ 0, ldhSet_ldh_of_notHeld rfl 0⟩
  case signature =>
    refine ⟨_, exec_fallSignature hr hb hw, otherPorts_updFore s a _, ?_⟩
    rw [State.updFore_port_same]
    exact ⟨fallHint_busy _, fun hp => fallHint_drives (f := { (s.port a).fore with busy := 0 }) hp⟩
  case imminent =>
    refine ⟨_, exec_largeRiseImminent hr hp hl hi, otherPorts_updFore s a _, ?_⟩
    rw [State.updFore_port_same]
    refine ⟨ldhSet_imminent _ 2, fun hfree => ldhSet_ldh_of_notHeld ?_ 2⟩
    exact hfree
  case deferred =>
    refine ⟨_, exec_ldhDeferredChange ha hh, otherPorts_updFore s a _, ?_⟩
    rw [State.updFore_port_same]
    refine ⟨ldhRelease_ldhDue _, fun c hc => ?_, fun hc => ?_⟩
    · exact congrArg Forecast.ldh (ldhRelease_of_due hc)
    · dsimp only
      rw [ldhRelease_of_noneDue hc]
      exact ⟨rfl, rfl⟩
  case edge =>
    obtain ⟨hother, count, blocked, next, hfore⟩ := droopEdge_spec s a
    refine ⟨_, exec_droopNEdge_clocked hc, hother, ?_⟩
    rw [hfore]
    refine ⟨edgeAdapt_droopCnt _, fun hp he => ?_, fun h => ?_⟩
    · rw [edgeAdapt_of_first (f := edgeCounted s (s.port a).fore) hp he]
      exact ⟨rfl, rfl, rfl⟩
    · rw [edgeAdapt_of_notFirst (f := edgeCounted s (s.port a).fore) h]
      exact ⟨rfl, rfl⟩
  case latched =>
    refine ⟨_, exec_droopNEdge_stopped hc ha, otherPorts_updFore s a _, ?_⟩
    rw [State.updFore_port_same]
  case window =>
    refine ⟨_, exec_pacingWindow_of_noneReady n hc hready hwbs, otherPorts_updFore s a _, ?_⟩
    rw [State.updFore_port_same]
    have hparams := params_windowStep (s.port a).fore n
    exact ⟨congrArg (·.2.2) hparams, congrArg (·.1) hparams, congrArg (·.2.1) hparams, rfl, rfl⟩

end Sys2Proof.Machine
end

section
/-!
SUPPORT. Fields of an answer, and the Integrity and Telemetry commands: O36.
-/
namespace Sys2Proof.Machine

/-! ## Fields of an answer -/

theorem length_flatMap_upto {f : Nat → List Byte} {w : Nat} (hf : ∀ i, (f i).length = w) (n : Nat) :
    ((upto n).flatMap f).length = w * n := by
  simp [upto, List.length_flatMap, hf, Nat.mul_comm]

theorem numAt_append_left {a : List Byte} {k n : Nat} (h : k + n ≤ a.length) (b : List Byte) :
    numAt (a ++ b) k n = numAt a k n := by
  refine congrArg ofBytes (List.map_congr_left fun i hi => ?_)
  rw [List.getElem?_append_left (by have := List.mem_range.1 hi; omega)]

theorem numAt_append_right {a : List Byte} {j : Nat} (h : a.length = j) (b : List Byte) (k n : Nat) :
    numAt (a ++ b) (j + k) n = numAt b k n := by
  refine congrArg ofBytes (List.map_congr_left fun i _ => ?_)
  rw [List.getElem?_append_right (by omega), show j + k + i - a.length = k + i by omega]

/-- The field that follows the bytes of a. -/
theorem numAt_field {a : List Byte} {k : Nat} (h : a.length = k) (n v : Nat) (b : List Byte) :
    numAt (a ++ toBytes n v ++ b) k n = v % 2 ^ (8 * n) := by
  rw [numAt_append_left (by simp [h]), ← h, numAt_append_toBytes]

theorem numAt_byte (bs : List Byte) (k : Nat) : numAt bs k 1 = ((bs[k]?).getD 0).toNat := by
  simp [numAt, bytesAt, ofBytes]

/-- A field of entry i of a response made of entries of w bytes. -/
theorem numAt_entry {f : Nat → List Byte} {w : Nat} (hf : ∀ i, (f i).length = w) {n i k c : Nat} (hi : i < n)
    (hk : k + c ≤ w) : numAt ((upto n).flatMap f) (w * i + k) c = numAt (f i) k c := by
  obtain ⟨j, rfl⟩ := Nat.exists_eq_add_of_lt hi
  have hsplit : (upto (i + j + 1)).flatMap f
      = (upto i).flatMap f ++ (f i ++ (List.range j).flatMap fun x => f (i + (x + 1))) := by
    rw [upto, Nat.add_assoc, List.range_add, List.flatMap_append, List.range_succ_eq_map]
    simp [upto, List.flatMap_map]
  rw [hsplit, numAt_append_right (length_flatMap_upto hf i), numAt_append_left (by rw [hf]; exact hk)]

/-! ## What a command writes, set apart -/

/-- Where g puts back what the body of a command has written, nothing but the mailbox differs. -/
theorem State.onlyMail.apart {s u t : State} {m : Fin 10} (h : u.onlyMail t m) (g : State → State)
    (hu : g u = s) (hg : g { t with mbs := u.mbs, mbram := u.mbram, smb := { t.smb with alert := u.smb.alert },
                                    fw := { t.fw with mbTurn := u.fw.mbTurn } }
      = { g t with mbs := s.mbs, mbram := s.mbram, smb := { (g t).smb with alert := s.smb.alert },
                   fw := { (g t).fw with mbTurn := s.fw.mbTurn } })
    (hmbs : (g t).mbs = t.mbs ∧ s.mbs = u.mbs) (hram : (g t).mbram = t.mbram ∧ s.mbram = u.mbram) :
    s.onlyMail (g t) m := by
  obtain ⟨hrest, hmb, hcells⟩ := h
  refine ⟨hg.symm.trans ((congrArg g hrest).trans hu), fun j hj => ?_, fun i hi => ?_⟩
  · rw [mb_of_mbs hmbs.1, mb_of_mbs hmbs.2, hmb j hj]
  · rw [hram.1, hram.2, hcells i hi]

section
variable {s t : State} {m : Fin 10}

theorem State.onlyMail.integ (h : s.onlyMail t m) : t.integ = s.integ := (congrArg State.integ h.1 :)
theorem State.onlyMail.sens (h : s.onlyMail t m) : t.sens = s.sens := (congrArg State.sens h.1 :)
theorem State.onlyMail.doms (h : s.onlyMail t m) : t.doms = s.doms := (congrArg State.doms h.1 :)

theorem onlyMail_but_integ {i : Integ} (h : { s.turned m with integ := i }.onlyMail t m) :
    s.onlyMail { t with integ := s.integ } m :=
  onlyMail_of_turned (h.apart (fun x => { x with integ := s.integ }) rfl rfl ⟨rfl, rfl⟩ ⟨rfl, rfl⟩)

theorem onlyMail_but_sens {k : Sensor} (h : { s.turned m with sens := k }.onlyMail t m) :
    s.onlyMail { t with sens := s.sens } m :=
  onlyMail_of_turned (h.apart (fun x => { x with sens := s.sens }) rfl rfl ⟨rfl, rfl⟩ ⟨rfl, rfl⟩)

theorem onlyMail_but_doms {d : Tbl Dom} (h : { s.turned m with doms := d }.onlyMail t m) :
    s.onlyMail { t with doms := s.doms } m :=
  onlyMail_of_turned (h.apart (fun x => { x with doms := s.doms }) rfl rfl ⟨rfl, rfl⟩ ⟨rfl, rfl⟩)

end

/-! ## SCRUB_CONFIG (R340) -/

theorem doScrubConfig_eq (s : State) (x : Option Nat) (pl : List Byte) :
    let n := if nbit (byteAt pl 2) 0 then s.integ.pass else numAt pl 0 2
    doScrubConfig s x pl = .done 0 0 (toBytes 2 n ++ [0, 0] ++ toBytes 8 (trowelReg s))
      { s with integ := { s.integ with pass := n } } := by
  unfold doScrubConfig
  cases nbit (byteAt pl 2) 0 <;> rfl

/-! ## The roles of the slices (R356) -/

/-- One ROLE byte is answered; a slice that serves none takes a free value. -/
def roleStep (x : List Byte × State) (p : Nat) : List Byte × State :=
  match logicalOf x.2 p with
  | some k => (x.1 ++ toBytes 1 ((roleOf x.2 p).code + 16 * k), x.2)
  | none =>
    (x.1 ++ toBytes 1 ((roleOf x.2 p).code + 16 * (x.2.nextFree.1.toNat % 16)), x.2.nextFree.2)

theorem roleBytes_eq (s : State) : roleBytes s = (upto 17).foldl roleStep ([], s) := rfl

theorem Role.code_lt (r : Role) : r.code < 16 := by cases r <;> decide

/-- A ROLE byte tells the role in its low half. -/
theorem role_of_byte (r : Role) (k : Nat) : ((BitVec.ofNat 8 (r.code + 16 * k) : Byte)).toNat % 16 = r.code := by
  have hlt := r.code_lt
  rw [BitVec.toNat_ofNat]
  omega

theorem roleStep_spec (s : State) (bs : List Byte) (n p : Nat) : ∃ b n',
    roleStep (bs, { s with free := n }) p = (bs ++ [b], { s with free := n' }) ∧
      b.toNat % 16 = (roleOf s p).code := by
  unfold roleStep
  split
  next k _ => exact ⟨_, n, rfl, role_of_byte _ k⟩
  next => exact ⟨_, n + 1, rfl, role_of_byte _ _⟩

theorem foldl_roleStep (s : State) (l : List Nat) : ∀ bs n, ∃ cs n',
    l.foldl roleStep (bs, { s with free := n }) = (bs ++ cs, { s with free := n' }) ∧
      List.Forall₂ (fun p (b : Byte) => b.toNat % 16 = (roleOf s p).code) l cs := by
  induction l with
  | nil => exact fun bs n => ⟨[], n, by simp, .nil⟩
  | cons p l ih =>
    intro bs n
    obtain ⟨b, n₁, hstep, hb⟩ := roleStep_spec s bs n p
    obtain ⟨cs, n₂, hrest, hcs⟩ := ih (bs ++ [b]) n₁
    exact ⟨b :: cs, n₂, by rw [List.foldl_cons, hstep, hrest, List.append_assoc, List.singleton_append],
      .cons hb hcs⟩

theorem roleBytes_spec (s : State) : ∃ cs n, roleBytes s = (cs, { s with free := n }) ∧ cs.length = 17 ∧
    ∀ p, p < 17 → numAt cs p 1 % 16 = (roleOf s p).code := by
  obtain ⟨cs, n, hfold, hroles⟩ := foldl_roleStep s (upto 17) [] s.free
  obtain ⟨hlen, hget⟩ := List.forall₂_iff_get.1 hroles
  have hlen17 : cs.length = 17 := hlen.symm
  refine ⟨cs, n, (roleBytes_eq s).trans hfold, hlen17, fun p hp => ?_⟩
  have hp' : p < cs.length := by omega
  have hbyte := hget p (by simpa [upto] using hp) hp'
  rw [numAt_byte, List.getElem?_eq_getElem hp']
  simpa [upto] using hbyte

theorem length_recBytes (r : SliceRec) : (recBytes r).length = 16 := by simp [recBytes]

/-! ## The rows -/

section
variable {s : State} {m : Fin 10} {pl : List Byte}

theorem scrubConfig_answers (h : s.holds m 0x600 pl) : ∃ t r, exec (.scrubConfig m) s = .next t ∧ t.ended m 0 0 r ∧
    t.integ.pass = (if nbit (byteAt pl 2) 0 then s.integ.pass else numAt pl 0 2) ∧
    numAt r 0 2 = t.integ.pass % 2 ^ 16 ∧ s.onlyMail { t with integ := s.integ } m := by
  obtain ⟨hrun, hend, hmail⟩ := mbRun1_done h (doScrubConfig_eq (s.turned m) (some m.val) pl) rfl rfl (by simp)
  refine ⟨_, _, hrun, hend, congrArg Integ.pass hmail.integ, ?_, onlyMail_but_integ hmail⟩
  rw [hmail.integ, List.append_assoc]
  exact numAt_field (a := []) rfl 2 _ _

theorem selftestStart_sets (h : s.holds m 0x601 pl) (hn : numAt pl 2 2 ≠ 0) :
    ∃ t, exec (.selftestStart m) s = .next t ∧ t.ended m 0 0 [] ∧
      t.integ = { s.integ with enable := BitVec.ofNat 3 (byteAt pl 0), interval := numAt pl 2 2 } ∧
      s.onlyMail { t with integ := s.integ } m := by
  obtain ⟨hrun, hend, hmail⟩ := mbRun1_done h (body := doSelftestStart) (if_neg hn) rfl rfl (by simp)
  exact ⟨_, hrun, hend, hmail.integ, onlyMail_but_integ hmail⟩

theorem selftestStatus_answers (h : s.holds m 0x602 pl) :
    ∃ t r, exec (.selftestStatus m) s = .next t ∧ t.ended m 0 0 r ∧ s.onlyMail t m ∧
      r.length = 208 ∧ numAt r 0 1 = s.integ.enable.toNat ∧ numAt r 2 2 = s.integ.interval % 2 ^ 16 ∧
      ∀ u, u < 34 → numAt r (4 + 6 * u) 1 = (s.rotOf u).sp % 256 := by
  have hunit : ∀ u, (unitBytes s u).length = 6 := fun u => by simp [unitBytes]
  have hlen : (toBytes 1 s.integ.enable.toNat ++ [0] ++ toBytes 2 s.integ.interval
      ++ (upto 34).flatMap (unitBytes s)).length = 208 := by
    simp [length_flatMap_upto hunit]
  have hen := s.integ.enable.isLt
  obtain ⟨hrun, hend, hmail⟩ := mbRun1_done h (body := doSelftestStatus) rfl rfl rfl (hlen.trans_le (by decide))
  refine ⟨_, _, hrun, hend, onlyMail_of_turned hmail, hlen, ?_, numAt_field rfl 2 _ _, fun u hu => ?_⟩
  · rw [List.append_assoc, List.append_assoc]
    exact (numAt_toBytes_one _ _).trans (Nat.mod_eq_of_lt (by omega))
  · rw [numAt_append_right (by simp)]
    refine (numAt_entry (k := 0) hunit hu (by omega)).trans ?_
    simp only [unitBytes, List.append_assoc, numAt_toBytes_one]

theorem sliceStatus_answers (h : s.holds m 0x603 pl) (hrecs : s.home.recs.length ≤ 8) :
    ∃ t r, exec (.sliceStatus m) s = .next t ∧ t.ended m 0 0 r ∧ s.onlyMail { t with free := s.free } m ∧
      r.length = 160 ∧ numAt r 17 1 = s.home.recs.length ∧
      ∀ p, p < 17 → numAt r p 1 % 16 = (roleOf s p).code := by
  obtain ⟨cs, n, hroles, hcs, hrole⟩ := roleBytes_spec (s.turned m)
  have hbody : doSliceStatus (s.turned m) (some m.val) pl = .done 0 0
      (cs ++ toBytes 1 s.home.recs.length ++ List.replicate 14 0 ++ s.home.recs.flatMap recBytes
        ++ List.replicate (128 - 16 * s.home.recs.length) 0) { s.turned m with free := n } := by
    rw [doSliceStatus, hroles]
    rfl
  have hlen : (cs ++ toBytes 1 s.home.recs.length ++ List.replicate 14 (0 : Byte) ++ s.home.recs.flatMap recBytes
      ++ List.replicate (128 - 16 * s.home.recs.length) 0).length = 160 := by
    simp [List.length_flatMap, length_recBytes, hcs]
    omega
  obtain ⟨hrun, hend, hmail⟩ := mbRun1_done h hbody rfl rfl (by rw [hlen]; decide)
  refine ⟨_, _, hrun, hend, onlyMail_of_turned (onlyMail_but_free hmail), hlen, ?_, fun p hp => ?_⟩
  · rw [List.append_assoc, List.append_assoc, numAt_field hcs]
    omega
  · simp only [List.append_assoc]
    rw [numAt_append_left (by omega)]
    exact hrole p hp

theorem tempRead_answers (h : s.holds m 0x800 pl) : ∃ t r, exec (.tempRead m) s = .next t ∧ t.ended m 0 0 r ∧
    numAt r 0 2 = s.sens.now.toNat ∧ numAt r 2 2 = s.sens.max.toNat ∧ numAt r 4 2 = tjMax ∧
    t.sens = (if nbit (byteAt pl 0) 0 then { s.sens with max := s.sens.now } else s.sens) ∧
    s.onlyMail { t with sens := s.sens } m := by
  have hbody : doTempRead (s.turned m) (some m.val) pl = .done 0 0
      (toBytes 2 s.sens.now.toNat ++ toBytes 2 s.sens.max.toNat ++ toBytes 2 tjMax ++ [0, 0])
      { s.turned m with sens := if nbit (byteAt pl 0) 0 then { s.sens with max := s.sens.now } else s.sens } := by
    unfold doTempRead
    cases nbit (byteAt pl 0) 0 <;> rfl
  have hnow := s.sens.now.isLt
  have hmax := s.sens.max.isLt
  have htj : tjMax < 2 ^ 16 := by
    unfold tjMax
    split <;> decide
  obtain ⟨hrun, hend, hmail⟩ := mbRun1_done h hbody rfl rfl (by simp)
  refine ⟨_, _, hrun, hend, ?_, ?_, ?_, hmail.sens, onlyMail_but_sens hmail⟩
  · simp only [List.append_assoc]
    exact (numAt_field (a := []) rfl 2 _ _).trans (Nat.mod_eq_of_lt hnow)
  · rw [List.append_assoc]
    exact (numAt_field (length_toBytes 2 _) 2 _ _).trans (Nat.mod_eq_of_lt hmax)
  · refine (numAt_field ?_ 2 _ _).trans (Nat.mod_eq_of_lt htj)
    rfl

theorem statsRead_answers (h : s.holds m 0x801 pl) : ∃ t r, exec (.statsRead m) s = .next t ∧ t.ended m 0 0 r ∧
    (∀ i, i < 24 → numAt r (8 * i) 8 = tget 0 (s.dom (byteAt pl 0 % 8)).stats i % 2 ^ 64) ∧
    (t.dom (byteAt pl 0 % 8)).stats
      = (if nbit (byteAt pl 1) 0 then [] else (s.dom (byteAt pl 0 % 8)).stats) ∧
    (∀ e, e ≠ byteAt pl 0 % 8 → t.dom e = s.dom e) ∧ s.onlyMail { t with doms := s.doms } m := by
  set d := byteAt pl 0 % 8
  have hbody : ∃ ds, doStatsRead (s.turned m) (some m.val) pl = .done 0 0
      ((upto 24).flatMap fun i => toBytes 8 (tget 0 (s.dom d).stats i)) { s.turned m with doms := ds } ∧
      (tget {} ds d : Dom).stats = (if nbit (byteAt pl 1) 0 then [] else (s.dom d).stats) ∧
      ∀ e, e ≠ d → tget {} ds e = s.dom e := by
    unfold doStatsRead
    cases nbit (byteAt pl 1) 0 with
    | false => exact ⟨s.doms, rfl, rfl, fun e _ => rfl⟩
    | true => exact ⟨_, rfl, by rw [tget_tset_same]; rfl, fun e he => tget_tset_ne _ _ _ he.symm⟩
  obtain ⟨ds, hbody, hstats, hother⟩ := hbody
  have hentry : ∀ i, (toBytes 8 (tget 0 (s.dom d).stats i)).length = 8 := fun i => length_toBytes 8 _
  obtain ⟨hrun, hend, hmail⟩ := mbRun1_done h hbody rfl rfl (by rw [length_flatMap_upto hentry]; decide)
  have hdom := dom_of_doms hmail.doms
  refine ⟨_, _, hrun, hend, fun i hi => ?_, (congrArg Dom.stats (hdom d)).trans hstats,
    fun e he => (hdom e).trans (hother e he), onlyMail_but_doms hmail⟩
  refine (numAt_entry (k := 0) hentry hi (by omega)).trans ?_
  exact (congrArg ofBytes (bytesAt_append [] _)).trans (ofBytes_toBytes 8 _)

end

/-- Settles O36: each command is its body, which ends at once. -/
theorem integrityAndTelemetryCommands : Obligations.IntegrityAndTelemetryCommands := by
  unfold Obligations.IntegrityAndTelemetryCommands
  exact fun s m pl => ⟨scrubConfig_answers, selftestStart_sets, selftestStatus_answers, sliceStatus_answers,
    tempRead_answers, statsRead_answers⟩

end Sys2Proof.Machine
end

section
/-!
SUPPORT. Checked reads of arrays that hold nothing, the Trowel, the buckets and the configuration check: O29.
-/
namespace Sys2Proof.Machine

/-! ## Arrays that hold nothing (R339, R341) -/

/-- The stored arrays hold nothing and no injection is left: a checked read finds a clear word. -/
def State.blank (s : State) : Prop := s.arr = {} ∧ fld s.integ.injCtl.toNat 31 24 = 0

theorem foldl_stands {σ α : Type} {f : σ → α → σ} {s : σ} (h : ∀ a, f s a = s) (l : List α) :
    l.foldl f s = s := by
  induction l with
  | nil => rfl
  | cons a l ih => rw [List.foldl_cons, h, ih]

section
variable {s : State} (h : s.blank)
include h

theorem State.blank.injTake (m : Nat) (d : Option Nat) : injTake s m d = (0, s) := injTake_of_spent h.2 m d

theorem State.blank.readGroup (a : StrAt) (f : Finder) : readGroup s a f = (0, false, s) := by
  have hpar : evenOk 17 0 = true := by decide
  simp [Machine.readGroup, h.1, h.injTake, hpar]

theorem State.blank.readEnt (a : StrAt) (live : Bool) (f : Finder) : (readEnt s a live f).2.2.2 = s := by
  simp [Machine.readEnt, h.1, h.injTake, fld, check_zero]

theorem State.blank.scrubSpareGroup (a : StrAt) : scrubSpareGroup s a = s := by
  have hpar : evenOk 17 0 = true := by decide
  simp [Machine.scrubSpareGroup, h.1, h.injTake, hpar]

/-- Sixteen rows of the Strainer that hold nothing. -/
theorem State.blank.scrubRows (bank sub g : Nat) (f : Finder) : scrubRows s bank sub g f = s := by
  unfold Machine.scrubRows
  dsimp only
  split
  · rw [h.scrubSpareGroup]
    exact foldl_stands (fun i => h.readEnt _ _ f) _
  · rw [h.readGroup]
    exact foldl_stands (fun i => h.readEnt _ _ f) _

theorem State.blank.readTag (k : Nat) (spare : Bool) (f : Finder) : readTag s k spare f = (0, false, false, s) := by
  have hpar : evenOk 5 0 = true := by decide
  simp [Machine.readTag, h.1, h.injTake, fld, hpar, check_zero]

theorem State.blank.scrubDeadWord (k : Nat) : scrubDeadWord s k = s := by
  simp [Machine.scrubDeadWord, h.1, h.injTake, fld, check_zero]

/-- A way of the directory cache that holds nothing. -/
theorem State.blank.scrubWay (set i : Nat) (f : Finder) : scrubWay s set i f = s := by
  have hv : tagV 0 = false := by decide
  unfold Machine.scrubWay
  simp only [h.readTag, hv, Bool.not_false, Bool.or_true, if_true, h.scrubDeadWord]

/-- The Trowel finds nothing at any step. -/
theorem State.blank.trowelScrub (n : Nat) : trowelScrub s n = s := by
  unfold Machine.trowelScrub
  split
  · exact h.scrubRows _ _ _ .scrub
  · exact foldl_stands (fun i => h.scrubWay _ i .scrub) _

/-- The copy of an element that holds nothing finds nothing. -/
theorem State.blank.copyReads (u src : Nat) : copyReads s u src = s := by
  unfold Machine.copyReads
  split
  · exact foldl_stands (fun g => h.scrubRows u src g .selftest) _
  · exact foldl_stands (fun set => h.scrubWay set src .selftest) _

end

/-! ## The rows -/

section
variable {s : State}

theorem bucketLeak_lowers (m : Fin 12) (ha : s.alive = true) (hl : 0 < (s.bkt m).level) :
    ∃ t, exec (.bucketLeak m) s = .next t ∧ t.bkt m = { s.bkt m with level := (s.bkt m).level - 1 } ∧
      (∀ j, j ≠ m.val → t.bkt j = s.bkt j) ∧ { t with integ := s.integ } = s :=
  ⟨_, if_pos ⟨ha, hl⟩, setBkt_bkt_same s m _, fun _ hj => setBkt_bkt_ne s _ hj, rfl⟩

theorem trowelBarred_of_free (h : s.home.switching ≠ some 16) : trowelBarred s = false := by
  unfold trowelBarred
  split
  next heq _ => exact absurd heq h
  next => rfl

/-- The step of the Trowel is counted, and the pass at its end (R339). -/
def stepCounted (s : State) : State := s.updInteg fun i =>
  { i with step := if s.integ.step + 1 = passSteps then 0 else s.integ.step + 1, stepDue := false,
           passes := if s.integ.step + 1 = passSteps then bump i.passes else i.passes }

theorem trowelStep_eq (s : State) : trowelStep s = trowelScrub (stepCounted s) s.integ.step := by
  simp only [trowelStep, decide_eq_true_eq, stepCounted]

theorem trowelStep_movesOn (hc : s.clocked = true) (hpass : s.integ.pass ≠ 0) (hsw : s.home.switching ≠ some 16)
    (h : s.blank) : ∃ t, exec .trowelStep s = .next t ∧
      t.integ.step = (if s.integ.step + 1 = passSteps then 0 else s.integ.step + 1) ∧
      t.integ.passes = (if s.integ.step + 1 = passSteps then bump s.integ.passes else s.integ.passes) ∧
      { t with integ := s.integ } = s := by
  have hexec : exec .trowelStep s = .next (trowelStep s) :=
    (if_pos ⟨hc, hpass⟩).trans (if_neg (by rw [trowelBarred_of_free hsw]; decide))
  rw [trowelStep_eq, State.blank.trowelScrub (s := stepCounted s) h] at hexec
  exact ⟨_, hexec, rfl, rfl, rfl⟩

theorem cosyConfigCheck_movesOn (ha : s.alive = true) (h : s.inert) : ∃ t, exec .cosyConfigCheck s = .next t ∧
    t.integ = { s.integ with checkAt := (s.integ.checkAt + 1) % 1024 } ∧ { t with integ := s.integ } = s := by
  set u := s.updInteg fun i => { i with checkAt := (s.integ.checkAt + 1) % 1024 } with hu
  have hread : useMem u 0xB 0 s.integ.checkAt none 4 = (false, 0, u) := State.inert.useMem (s := u) h ..
  have hexec : exec .cosyConfigCheck s = .next (useMem u 0xB 0 s.integ.checkAt none 4).2.2 := if_pos ha
  rw [hread] at hexec
  exact ⟨u, hexec, rfl, rfl⟩

end

/-- Settles O29: each row moves on by one. -/
theorem scrubbingMovesOn : Obligations.ScrubbingMovesOn := by
  unfold Obligations.ScrubbingMovesOn
  exact fun s => ⟨fun m ha hl => bucketLeak_lowers m ha hl,
    fun hc hpass hsw harr hinj => trowelStep_movesOn hc hpass hsw ⟨harr, hinj⟩,
    fun ha h => cosyConfigCheck_movesOn ha h⟩

end Sys2Proof.Machine
end

section
/-!
SUPPORT. The rotation of spare elements, its copy, its windows and its tests: what each operation leaves.
-/
namespace Sys2Proof.Machine

/-! ## Rotating units (R346) -/

section
variable {s t : State}

theorem setRot_rotOf_same (s : State) (u : Nat) (r : Rot) : (s.setRot u r).rotOf u = r := tget_tset_same ..

theorem copyElem_arr (s : State) (u src dst : Nat) : ∃ a, copyElem s u src dst = { s with arr := a } := by
  unfold copyElem
  split <;> exact ⟨_, rfl⟩

theorem wipeElem_arr (s : State) (u x : Nat) : ∃ a, wipeElem s u x = { s with arr := a } := by
  unfold wipeElem
  split
  · exact ⟨_, rfl⟩
  · split
    · exact ⟨_, rfl⟩
    · exact ⟨s.arr, rfl⟩

/-! ## A step begins (R347) -/

/-- A unit that is no slice begins with the copy of the element next to its spare. -/
theorem startStep_copies (s : State) {u : Nat} (h : u ≠ 33) :
    let r := s.rotOf u
    let up := if r.sp = 0 then true else if r.sp = unitTop u then false else r.up
    (startStep s u).integ.test = some ⟨u, .copy, if up then r.sp + 1 else r.sp - 1⟩ ∧
      (startStep s u).integ.nextUnit = (u + 1) % 34 ∧ ((startStep s u).rotOf u).sp = r.sp := by
  unfold startStep
  dsimp only
  rw [if_neg h]
  refine ⟨rfl, rfl, ?_⟩
  show ((s.setRot u _).rotOf u).sp = _
  rw [setRot_rotOf_same]

theorem exec_selftestStep (hc : s.clocked = true) (ht : s.integ.test = none) {u : Nat}
    (hu : nextTestUnit s = some u) : exec .selftestStep s = .next (startStep s u) := by
  show execSelftestStep s = _
  simp [execSelftestStep, hc, ht, hu]

/-! ## The copy and the window (R348, R349) -/

theorem releaseHeld_of_none (h : ∀ y ∈ s.home.trackers, y.phase ≠ .hold) (f : Nat → Bool) :
    releaseHeld s f = s := by
  rw [releaseHeld, List.filter_eq_nil_iff.2 fun y hy => by simp [h y hy]]
  rfl

/-- What a copy that finds nothing leaves: the switch window is open. -/
theorem exec_selftestCopyComplete (hc : s.clocked = true) {x : TestStep} (hx : s.integ.test = some x)
    (hph : x.phase = .copy) (hblank : s.blank) (hheld : ∀ y ∈ s.home.trackers, y.phase ≠ .hold)
    (hwbs : s.home.wbs = []) : exec .selftestCopyComplete s
      = .next ((s.updInteg fun i => { i with test := some { x with phase := .window } }).updHome
          fun h => { h with switching := some 16 }) := by
  show execSelftestCopyComplete s = _
  unfold execSelftestCopyComplete
  simp only [hc, hx, hph, if_true, hblank.copyReads, Option.isNone_some, Bool.false_eq_true, if_false]
  rw [releaseHeld_of_none, serveStore_of_empty]
  · exact hwbs
  · exact hheld

theorem dueStep_of_none (h : s.integ.stepDue = false) : dueStep s = s := if_neg (by simp [h])

/-- The slice map's entry is written; besides it only the stored arrays and their integrity may differ (R142). -/
theorem mapSlice_arraysOnly (s : State) (k p : Nat) :
    (s.updHome fun h => { h with smap := tset h.smap k (some p) }).arraysOnly (mapSlice s k p) :=
  arraysOnly_storeMem _ 9 0 (keySmap k) none

theorem State.arraysOnly.home (h : s.arraysOnly t) : t.home = s.home := (congrArg State.home h :)

/-- A service write leaves the rotation of the spares as it is. -/
theorem storeMem_rot (s : State) (m unit k : Nat) (d : Option Nat) :
    (storeMem s m unit k d).integ.rot = s.integ.rot := by
  unfold storeMem flipTake
  dsimp only
  (repeat' split) <;> rfl

/-- The end of a window of a bank or of the directory cache: the source is the new spare (R348). -/
theorem switchWindowEnd_element (hc : s.clocked = true) {x : TestStep} (hx : s.integ.test = some x)
    (hph : x.phase = .window) (hu : x.unit ≠ 33) (hdue : s.integ.stepDue = false) (hwbs : s.home.wbs = []) :
    ∃ t, exec .switchWindowEnd s = .next t ∧ t.home.switching = none ∧ (t.rotOf x.unit).sp = x.src ∧
      t.integ.test = some { x with phase := .test } := by
  obtain ⟨a, ha⟩ := copyElem_arr (s.updHome fun h => { h with switching := none }) x.unit x.src (s.rotOf x.unit).sp
  set v := (({ s.updHome fun h => { h with switching := none } with arr := a }).setRot x.unit
    { s.rotOf x.unit with sp := x.src }).updInteg fun i => { i with test := some { x with phase := .test } } with hv
  have hexec : exec .switchWindowEnd s = .next (serveStore (dueStep v)) := by
    show execSwitchWindowEnd s = _
    unfold execSwitchWindowEnd
    simp only [hc, hx, hph, hu, ha, ne_eq, not_true_eq_false, if_false]
    rfl
  rw [dueStep_of_none (s := v) hdue, serveStore_of_empty (s := v) hwbs] at hexec
  exact ⟨v, hexec, rfl, congrArg Rot.sp (setRot_rotOf_same ..), rfl⟩

/-- The end of a slice's window: the slice serves at the spare, and drains where it was (R349). -/
theorem switchWindowEnd_slice (hc : s.clocked = true) {src : Nat} (hx : s.integ.test = some ⟨33, .window, src⟩)
    (hwbs : s.home.wbs = []) : ∃ t, exec .switchWindowEnd s = .next t ∧ t.home.switching = none ∧
      tget none t.home.smap (s.home.switching.getD 0) = some (s.rotOf 33).sp ∧
      t.home.drainOf = some (src, (s.rotOf 33).sp) ∧ t.integ.test = some ⟨33, .drain, src⟩ := by
  set u := mapSlice (s.updHome fun h => { h with switching := none }) (s.home.switching.getD 0) (s.rotOf 33).sp
  set v := (setRole (u.updHome fun h => { h with drainOf := some (src, (s.rotOf 33).sp) }) src
    (some .draining)).updInteg fun i => { i with test := some ⟨33, .drain, src⟩ }
  have hexec : exec .switchWindowEnd s = .next (serveStore v) := by
    show execSwitchWindowEnd s = _
    simp only [execSwitchWindowEnd, hc, hx]
    rfl
  have hhome : u.home = { s.home with
      switching := none, smap := tset s.home.smap (s.home.switching.getD 0) (some (s.rotOf 33).sp) } :=
    (mapSlice_arraysOnly (s.updHome fun h => { h with switching := none }) _ _).home
  have hvhome : v.home = { u.home with drainOf := some (src, (s.rotOf 33).sp),
                                       roles := tset u.home.roles src (some .draining) } := rfl
  rw [hhome] at hvhome
  rw [serveStore_of_empty (by rw [hvhome]; exact hwbs)] at hexec
  refine ⟨v, hexec, ?_, ?_, ?_, rfl⟩ <;> rw [hvhome]
  exact tget_tset_same ..

theorem any_eq_false_of_ne {α : Type} {f : α → Nat} {l : List α} {k : Nat} (h : ∀ y ∈ l, f y ≠ k) :
    (l.any fun y => f y == k) = false := by
  simpa using h

/-- A slice that has drained is under test, in the spare position (R349). -/
theorem sliceDrainComplete_frees (hc : s.clocked = true) {x : TestStep} (hx : s.integ.test = some x)
    (hph : x.phase = .drain) (htrk : ∀ y ∈ s.home.trackers, y.sl ≠ x.src)
    (hfwd : ∀ y ∈ s.home.fwds, y.sl ≠ x.src) (hvic : ∀ y ∈ s.home.victims, y.sl ≠ x.src) (hwbs : s.home.wbs = []) :
    ∃ t, exec .sliceDrainComplete s = .next t ∧ t.home.drainOf = none ∧ (t.rotOf 33).sp = x.src ∧
      tget none t.home.roles x.src = some .testing ∧ t.integ.test = some { x with phase := .test } := by
  set v := (setRole ((s.updHome fun h => { h with drainOf := none }).setRot 33 { s.rotOf 33 with sp := x.src }) x.src
    (some .testing)).updInteg fun i => { i with test := some { x with phase := .test } } with hv
  have hexec : exec .sliceDrainComplete s = .next (serveStore v) := by
    show execSliceDrainComplete s = _
    unfold execSliceDrainComplete
    simp only [hc, hx, hph, any_eq_false_of_ne htrk, any_eq_false_of_ne hfwd, any_eq_false_of_ne hvic,
      Bool.not_false, Bool.and_self, and_self, if_true]
    rfl
  rw [serveStore_of_empty (s := v) hwbs] at hexec
  exact ⟨v, hexec, rfl, congrArg Rot.sp (setRot_rotOf_same ..), tget_tset_same .., rfl⟩

end

/-! ## The test of an element (R350) -/

/-- A unit after the test of one of its elements. -/
def Rot.tested (r : Rot) (x : Nat) (ok : Bool) : Rot :=
  if ok then setPassed r x true
  else { setPassed r x false with noSpare := true, fails := satAdd 8 r.fails 1 }

theorem Rot.tested_noSpare {r : Rot} (h : r.noSpare = false) (x : Nat) (ok : Bool) :
    (r.tested x ok).noSpare = !ok := by
  cases ok
  · rfl
  · exact h

theorem Rot.tested_rest (r : Rot) (x : Nat) (ok : Bool) :
    (r.tested x ok).sp = r.sp ∧ (r.tested x ok).steps = r.steps := by
  cases ok <;> exact ⟨rfl, rfl⟩

section
variable (s : State) (u x : Nat)

theorem testResult_integ (ok : Bool) : (testResult s u x ok).integ
    = { s.integ with rot := tset s.integ.rot u ((s.rotOf u).tested x ok) } := by
  obtain ⟨a, ha⟩ := wipeElem_arr s u x
  unfold testResult
  dsimp only
  rw [ha]
  cases ok <;> by_cases hu : u = 33 <;> simp only [hu, if_true, if_false, Bool.false_eq_true] <;> rfl

theorem testResult_rotOf_same (ok : Bool) : (testResult s u x ok).rotOf u = (s.rotOf u).tested x ok := by
  rw [State.rotOf, testResult_integ, tget_tset_same]

theorem testResult_rotOf_ne {v : Nat} (h : v ≠ u) (ok : Bool) : (testResult s u x ok).rotOf v = s.rotOf v := by
  rw [State.rotOf, testResult_integ, tget_tset_ne _ _ _ h.symm, State.rotOf]

theorem testResult_pass_flt : (testResult s u x true).flt = s.flt := by
  obtain ⟨a, ha⟩ := wipeElem_arr s u x
  unfold testResult
  dsimp only
  rw [ha, if_pos rfl]
  split <;> rfl

theorem testResult_fail_raised : (testResult s u x false).raised 29 none := by
  unfold testResult
  exact raised_raise _ 29 none _

end

theorem exec_selftestTestComplete {s : State} (hc : s.clocked = true) {x : TestStep} (hx : s.integ.test = some x)
    (hph : x.phase = .test) (pass : Bool) : exec (.selftestTestComplete pass) s
      = .next (testResult ((s.setRot x.unit { s.rotOf x.unit with steps := satAdd 16 (s.rotOf x.unit).steps 1 }).updInteg
          fun i => { i with test := none }) x.unit x.src pass) := by
  show execSelftestTestComplete pass s = _
  simp only [execSelftestTestComplete, hc, hx, hph, if_true]

/-- The step ends with its test: it is counted, and a failed element takes the spare out of use. -/
theorem selftestTestComplete_ends {s : State} (hc : s.clocked = true) {x : TestStep} (hx : s.integ.test = some x)
    (hph : x.phase = .test) (pass : Bool) : ∃ t, exec (.selftestTestComplete pass) s = .next t ∧
      t.integ.test = none ∧ (t.rotOf x.unit).steps = satAdd 16 (s.rotOf x.unit).steps 1 ∧
      (pass = true → (t.rotOf x.unit).noSpare = (s.rotOf x.unit).noSpare ∧ t.flt = s.flt) ∧
      (pass = false → (t.rotOf x.unit).noSpare = true ∧
        (t.rotOf x.unit).fails = satAdd 8 (s.rotOf x.unit).fails 1 ∧ t.raised 29 none) := by
  set r := { s.rotOf x.unit with steps := satAdd 16 (s.rotOf x.unit).steps 1 } with hr
  set u := (s.setRot x.unit r).updInteg fun i => { i with test := none } with hu
  have hrot : (testResult u x.unit x.src pass).rotOf x.unit = r.tested x.src pass := by
    rw [testResult_rotOf_same]
    exact congrArg (fun r : Rot => r.tested x.src pass) (setRot_rotOf_same ..)
  refine ⟨_, exec_selftestTestComplete hc hx hph pass, ?_, ?_, fun hpass => ?_, fun hpass => ?_⟩
  · rw [testResult_integ]
    rfl
  · rw [hrot, (r.tested_rest x.src pass).2]
  · rw [hrot, hpass]
    exact ⟨rfl, testResult_pass_flt u _ _⟩
  · rw [hrot, hpass]
    exact ⟨rfl, rfl, testResult_fail_raised u _ _⟩

/-! ## The first test of the spares (R351) -/

/-- The first test of the spare of unit u. -/
def initialTest (ok : BitVec 34) (s : State) (u : Nat) : State :=
  let r := s.rotOf u
  if r.noSpare || r.passed != 0 then s else testResult s u r.sp (ok.getLsbD u)

theorem exec_spareInitialTest {s : State} (hc : s.clocked = true) (ok : BitVec 34) :
    exec (.spareInitialTest ok) s = .next ((upto 34).foldl (initialTest ok) s) := if_pos hc

section
variable (ok : BitVec 34) (s : State) {u v : Nat}

theorem initialTest_rotOf_ne (h : v ≠ u) : (initialTest ok s u).rotOf v = s.rotOf v := by
  unfold initialTest
  dsimp only
  split
  · rfl
  · exact testResult_rotOf_ne s u _ h _

theorem initialTest_rotOf_same (hfree : (s.rotOf u).noSpare = false) (hnew : (s.rotOf u).passed = 0) :
    (initialTest ok s u).rotOf u = (s.rotOf u).tested (s.rotOf u).sp (ok.getLsbD u) := by
  unfold initialTest
  dsimp only
  rw [if_neg (by simp [hfree, hnew]), testResult_rotOf_same]

theorem foldl_initialTest_of_notMem {l : List Nat} (h : u ∉ l) :
    (l.foldl (initialTest ok) s).rotOf u = s.rotOf u := by
  induction l generalizing s with
  | nil => rfl
  | cons v l ih =>
    obtain ⟨huv, hul⟩ := not_or.1 (List.mem_cons.not.1 h)
    rw [List.foldl_cons, ih _ hul, initialTest_rotOf_ne ok s huv]

/-- Each unit of the list is tested once, as it was found. -/
theorem foldl_initialTest_of_mem {l : List Nat} (hl : l.Nodup) (hu : u ∈ l) (hfree : (s.rotOf u).noSpare = false)
    (hnew : (s.rotOf u).passed = 0) : (l.foldl (initialTest ok) s).rotOf u
      = (s.rotOf u).tested (s.rotOf u).sp (ok.getLsbD u) := by
  induction l generalizing s with
  | nil => exact absurd hu List.not_mem_nil
  | cons v l ih =>
    obtain ⟨hvl, hl⟩ := List.nodup_cons.1 hl
    rw [List.foldl_cons]
    by_cases huv : u = v
    · subst huv
      rw [foldl_initialTest_of_notMem ok _ hvl, initialTest_rotOf_same ok s hfree hnew]
    · have hstands := initialTest_rotOf_ne ok s huv
      rw [ih _ hl ((List.mem_cons.1 hu).resolve_left huv) (by rw [hstands, hfree]) (by rw [hstands, hnew]), hstands]

end

end Sys2Proof.Machine
end

section
/-!
SUPPORT. The slice map, the roles of the slices and their failure records stand while a domain goes down.
-/
namespace Sys2Proof.Machine

/-- The slice map, the roles of the slices and the records of their failures (R142, R356). -/
def State.slices (s : State) : Tbl (Option Nat) × Tbl (Option Role) × List SliceRec :=
  (s.home.smap, s.home.roles, s.home.recs)

section
variable {s t : State}

theorem slices_of_home (h : t.home = s.home) : t.slices = s.slices := by rw [State.slices, h, State.slices]

/-- The slice map, the roles and the records, told apart. -/
theorem slices_parts (h : t.slices = s.slices) : t.home.smap = s.home.smap ∧ t.home.roles = s.home.roles ∧
    t.home.recs = s.home.recs := by
  simpa [State.slices] using h

end

theorem returnCredit_slices (s : State) (p : Nat) (c : Cls) (d : Nat) : (returnCredit s p c d).slices = s.slices := by
  unfold returnCredit
  split <;> rfl

theorem placeRelease_slices (s : State) (p d : Nat) : (placeRelease s p d).slices = s.slices :=
  slices_of_home (s := forgetCredits s p) (portsOnly_placeRelease s p d).home

theorem dropNotices_slices (s : State) (p : Nat) : (dropNotices s p).slices = s.slices := by
  unfold dropNotices
  dsimp only
  (repeat' split) <;> rfl

theorem mbFinish_slices (s : State) (m st de : Nat) (r : List Byte) : (mbFinish s m st de r).slices = s.slices :=
  slices_of_home (by simp)

theorem holdPort_slices (s : State) (p : Nat) (reason : BitVec 8) : (holdPort s p reason).slices = s.slices := by
  have hforget : (forgetCredits (dropNotices s p) p).slices = s.slices := dropNotices_slices s p
  unfold holdPort
  dsimp only
  refine Eq.trans ?_ hforget
  split
  · exact mbFinish_slices _ _ 8 0x301 []
  · rfl

theorem leavePort_slices (s : State) (p d : Nat) : (leavePort s p d).slices = s.slices :=
  (dropNotices_slices (placeRelease s p d) p).trans (placeRelease_slices s p d)

theorem expel_slices (s : State) (d dan : Nat) : (expel s d dan).slices = s.slices := by
  unfold expel
  split
  · rfl
  · refine (slices_of_home (arraysOnly_storeMem _ 9 0 _ _).home).trans ?_
    refine (slices_of_home (State.updDom_home ..)).trans ?_
    rw [apply_ite State.slices, slices_of_home (arraysOnly_setShelves _ _ none).home, ite_self,
      apply_ite State.slices, slices_of_home (arraysOnly_clearShelves _ _).home, ite_self]
    split
    · exact leavePort_slices s _ d
    · rfl

theorem expelAll_slices (s : State) (d : Nat) (dans : List Nat) : (expelAll s d dans).slices = s.slices :=
  foldl_frame (·.slices) _ (fun s n => expel_slices s d n) dans s

theorem abortJobs_slices (s : State) (d : Nat) : (abortJobs s d).slices = s.slices :=
  foldl_frame (·.slices) _ (fun s m => mbFinish_slices s m 8 0x206 []) _ _

theorem freeDomain_slices (s : State) (d : Nat) : (freeDomain s d).slices = s.slices := by
  have hproxy : ∀ (s : State) (x : Proxy),
      (if x.f.h.dom.toNat == d then returnCredit s x.port .snp d else s).slices = s.slices := fun s x => by
    rw [apply_ite State.slices, returnCredit_slices, ite_self]
  have hreq : ∀ (s : State) (l : List (Nat × Req)),
      (l.foldl (fun s e => returnCredit s e.2.port .req d) s).slices = s.slices := fun s l =>
    foldl_frame (·.slices) _ (fun s e => returnCredit_slices s _ _ _) l s
  have hwb : ∀ (s : State) (l : List WbEntry),
      (l.foldl (fun s w => returnCredit s w.port .wb d) s).slices = s.slices := fun s l =>
    foldl_frame (·.slices) _ (fun s w => returnCredit_slices s _ _ _) l s
  exact (foldl_frame (·.slices) _ hproxy _ _).trans ((hreq _ _).trans (hwb _ _))

theorem cleanDown_slices (s : State) (d : Nat) (dead : List Nat) : (cleanDown s d dead).slices = s.slices := by
  have hend : ∀ (s : State) (p : Nat),
      (if s.up p then raiseFatal (sendLinkDown s p 7) p 7 else s).slices = s.slices := fun s p => by
    split
    · exact holdPort_slices _ p 7
    · rfl
  have hqueues : (dropQueued s d).slices = s.slices := foldl_frame (·.slices) _ (fun _ _ => rfl) spanPorts s
  have hcrc : ∀ u : State, (crcRelease u d).slices = u.slices := fun u =>
    foldl_frame (·.slices) _ (fun u n => by split <;> rfl) [0, 1] u
  have hport : ∀ (s : State) (p : Nat), (downPort s d p).slices = s.slices := fun s p => placeRelease_slices s p d
  unfold cleanDown
  dsimp only
  rw [expelAll_slices, foldl_frame (·.slices) _ hend, expelAll_slices,
    foldl_frame (·.slices) _ hport, hcrc,
    slices_of_home (arraysOnly_clearShelves _ _).home]
  exact hqueues

theorem domainDown_of_not_inService {s : State} {d : Nat} (h : (s.dom d).st.inService = false) (cause : Nat)
    (dead : List Nat) (src : Option Nat) : domainDown s d cause dead src = s := by
  rw [domainDown, domainDownBy, if_pos (by rw [h]; rfl)]

theorem domainDown_slices (s : State) (d cause : Nat) (dead : List Nat) (src : Option Nat) :
    (domainDown s d cause dead src).slices = s.slices := by
  cases h : (s.dom d).st.inService with
  | false => rw [domainDown_of_not_inService h]
  | true =>
    rw [domainDown, domainDownBy_eq false h]
    refine (cleanDown_slices _ d dead).trans ?_
    rw [freeDomain_slices, abortJobs_slices, slices_of_home (portsOnly_spanNotice _ src _).home]
    rfl

end Sys2Proof.Machine
end

section
/-!
SUPPORT. The failure of a slice, and what takes its place: O30.
-/
namespace Sys2Proof.Machine

/-! ## One domain after another goes down (R258, R353) -/

section
variable {s : State} {d e : Nat}

theorem domainDown_lines (s : State) (d cause : Nat) (dead : List Nat) (src : Option Nat) :
    s.linesStand (domainDown s d cause dead src) := by
  cases h : (s.dom d).st.inService with
  | false =>
    rw [domainDown_of_not_inService h]
    exact fun _ hl => hl
  | true =>
    obtain ⟨-, -, hlines⟩ := domainDown_inService h cause dead src
    exact hlines

/-- A domain stands while another goes down. -/
theorem downStands_domainDown (h : d ≠ e) (s : State) (cause : Nat) (dead : List Nat) (src : Option Nat) :
    s.DownStands (domainDown s d cause dead src) e := by
  cases hst : (s.dom d).st.inService with
  | false =>
    rw [domainDown_of_not_inService hst]
    exact .refl s e
  | true =>
    have hmark : s.DownStands (markDown s d cause) e := by
      have hdom : (markDown s d cause).dom e = s.dom e := State.updDom_dom_ne _ _ h
      exact ⟨by rw [hdom], by rw [hdom], by rw [hdom], fun _ hx => hx, linesStand_of_flt rfl⟩
    rw [domainDown, domainDownBy_eq false hst]
    refine .trans ?_ (downStands_raiseInj _ e 14 _ _ false)
    refine .trans (.trans ?_ (downStands_freeDomain _ e d)) (downStands_cleanDown _ e d dead)
    exact (hmark.trans (downStands_spanNotice _ e src _)).trans (downStands_abortJobs _ e d)

/-- Domains go down, one after another. -/
def downAll (s : State) (cause : Nat) (ds : List Nat) : State :=
  ds.foldl (fun s d => domainDown s d cause [] none) s

theorem downAll_slices (s : State) (cause : Nat) (ds : List Nat) : (downAll s cause ds).slices = s.slices :=
  foldl_frame (·.slices) _ (fun s d => domainDown_slices s d cause [] none) ds s

theorem downAll_lines (s : State) (cause : Nat) (ds : List Nat) : s.linesStand (downAll s cause ds) := by
  induction ds generalizing s with
  | nil => exact fun _ hl => hl
  | cons d ds ih => exact (domainDown_lines s d cause [] none).trans (ih _)

theorem downStands_downAll {ds : List Nat} (h : e ∉ ds) (s : State) (cause : Nat) :
    s.DownStands (downAll s cause ds) e := by
  induction ds generalizing s with
  | nil => exact .refl s e
  | cons d ds ih =>
    obtain ⟨hd, hds⟩ := not_or.1 (List.mem_cons.not.1 h)
    exact (downStands_domainDown (Ne.symm hd) s cause [] none).trans (ih hds _)

/-- Each domain of the list that is in service is down with the cause given. -/
theorem downAll_down {ds : List Nat} (hnodup : ds.Nodup) (he : e ∈ ds) (s : State) (cause : Nat)
    (hst : (s.dom e).st.inService = true) : (downAll s cause ds).domDown e cause := by
  induction ds generalizing s with
  | nil => exact absurd he List.not_mem_nil
  | cons d ds ih =>
    obtain ⟨hdds, hnodup⟩ := List.nodup_cons.1 hnodup
    by_cases hde : d = e
    · subst hde
      obtain ⟨hdown, -, -⟩ := domainDown_inService hst cause [] none
      exact (downStands_downAll hdds _ cause).domDown hdown
    · refine ih hnodup ((List.mem_cons.1 he).resolve_left (Ne.symm hde)) _ ?_
      rw [(downStands_domainDown hde s cause [] none).st, hst]

end

/-! ## A slice fails (R353, R356) -/

theorem tget_foldl_tset_if {α : Type} (d v : α) (c : Nat → Prop) [DecidablePred c] (l : List Nat) (t : Tbl α)
    (j : Nat) : tget d (l.foldl (fun t k => if c k then tset t k v else t) t) j
      = if j ∈ l ∧ c j then v else tget d t j := by
  induction l generalizing t with
  | nil => simp
  | cons k l ih =>
    rw [List.foldl_cons, ih]
    by_cases hk : c k
    · rw [if_pos hk, tget_tset]
      by_cases hjk : j = k
      · subst hjk
        simp [hk]
      · simp [hjk, Ne.symm hjk]
    · rw [if_neg hk]
      by_cases hjk : j = k
      · subst hjk
        simp [hk]
      · simp [hjk]

theorem dropSliceTest_eq (s : State) : ∃ x sw, dropSliceTest s
    = { s with integ := { s.integ with test := x }, home := { s.home with switching := sw } } := by
  unfold dropSliceTest
  split
  · split
    · exact ⟨none, none, rfl⟩
    · exact ⟨s.integ.test, s.home.switching, rfl⟩
  · exact ⟨s.integ.test, s.home.switching, rfl⟩

/-- A failed slice is fenced, serves no logical slice, is recorded and reported, before any domain goes down. -/
structure State.FencedAt (s u : State) (p cause : Nat) : Prop where
  fenced : fenced u p = true
  unserved : ∀ k, k < 16 → u.sliceMap k ≠ some p
  raised : u.raised 30 none
  recorded : ∃ r, u.home.recs = s.home.recs ++ [r] ∧ r.phys = p ∧ r.cause = cause ∧ r.time = s.uptime
  doms : u.doms = s.doms

theorem fenceSlice_eq {s : State} (p cause : Nat) (hrecs : s.home.recs.length < 8) :
    ∃ u, fenceSlice s p cause = downAll u 30 (domsIn s p) ∧ s.FencedAt u p cause := by
  have hmap : ∀ k, k < 16 → tget (some k) ((upto 16).foldl (fun t k =>
      if s.sliceMap k = some p then tset t k none else t) s.home.smap) k ≠ some p := fun k hk => by
    rw [tget_foldl_tset_if]
    split
    next => simp
    next h => exact fun hserves => h ⟨List.mem_range.2 hk, hserves⟩
  have hrole : ∀ t : Tbl (Option Role), (tget none (tset t p (some Role.fenced)) p == some .fenced) = true :=
    fun t => by rw [tget_tset_same]; rfl
  unfold fenceSlice
  dsimp only
  refine ⟨_, rfl, ?_⟩
  split
  · obtain ⟨x, sw, hdrop⟩ := dropSliceTest_eq _
    rw [hdrop]
    refine ⟨hrole _, hmap, raised_raise _ 30 none _, ?_, rfl⟩
    refine ⟨_, if_pos hrecs, rfl, rfl, rfl⟩
  · refine ⟨hrole _, hmap, raised_raise _ 30 none _, ?_, rfl⟩
    refine ⟨_, if_pos hrecs, rfl, rfl, rfl⟩

theorem mem_domsIn {s : State} {p d : Nat} {x : Tracker} (hx : x ∈ s.home.trackers) (hsl : x.sl = p)
    (hdom : x.dom = d) (hd : d < 8) : d ∈ domsIn s p := by
  refine List.mem_filter.2 ⟨List.mem_range.2 hd, ?_⟩
  have hany : (s.home.trackers.any fun x => x.sl == p && x.dom == d) = true :=
    List.any_eq_true.2 ⟨x, hx, by simp [hsl, hdom]⟩
  rw [hany]
  rfl

theorem nodup_domsIn (s : State) (p : Nat) : (domsIn s p).Nodup := List.Nodup.filter _ List.nodup_range

theorem sliceFail_fences {s : State} {phys : Fin 17} (hc : s.clocked = true) (cause : Fin 3)
    (hsound : fenced s phys = false) (hgood : tget none s.home.roles phys ≠ some .failed)
    (hrecs : s.home.recs.length < 8) : ∃ t, exec (.sliceFail phys cause) s = .next t ∧ fenced t phys = true ∧
      (∀ k, k < 16 → t.sliceMap k ≠ some phys.val) ∧ t.raised 30 none ∧
      (∃ r, t.home.recs = s.home.recs ++ [r] ∧ r.phys = phys.val ∧ r.cause = cause.val ∧ r.time = s.uptime) ∧
      ∀ d, (∃ x ∈ s.home.trackers, x.sl = phys.val ∧ x.dom = d ∧ d < 8) → (s.dom d).st.inService = true →
        (t.dom d).st = .down ∧ (t.dom d).cause = 30 := by
  obtain ⟨u, hfence, hat⟩ := fenceSlice_eq (s := s) phys cause hrecs
  obtain ⟨hsmap, hroles, hrecords⟩ := slices_parts (downAll_slices u 30 (domsIn s phys))
  have hexec : exec (.sliceFail phys cause) s = .next (fenceSlice s phys cause) :=
    if_pos ⟨hc, by simp [hsound], hgood⟩
  rw [hfence] at hexec
  refine ⟨_, hexec, ?_, fun k hk => ?_, (downAll_lines u 30 _).raised hat.raised, ?_, ?_⟩
  · rw [fenced, hroles]
    exact hat.fenced
  · rw [State.sliceMap, hsmap]
    exact hat.unserved k hk
  · rw [hrecords]
    exact hat.recorded
  · rintro d ⟨x, hx, hsl, hdom, hd⟩ hst
    obtain ⟨hdown, -, hcause, -⟩ := downAll_down (nodup_domsIn s phys) (mem_domsIn hx hsl hdom hd) u 30
      (by rw [dom_of_doms hat.doms, hst])
    exact ⟨hdown, hcause⟩

/-! ## What takes its place (R354, R355) -/

section
variable {s : State} {phys : Fin 17} {k : Nat} (hc : s.clocked = true) (hfenced : fenced s phys = true)
  (horphan : orphan s phys = some k) (hwbs : s.home.wbs = [])
include hc hfenced horphan hwbs

/-- The spare serves the logical slice, and there is none any more. -/
theorem spareTakeover_serves {p : Nat} (hspare : usableSpare s phys = some p) :
    ∃ t, exec (.spareTakeover phys) s = .next t ∧ t.sliceMap k = some p ∧ (t.rotOf 33).noSpare = true ∧
      t.doms = s.doms := by
  obtain ⟨x, sw, hdrop⟩ := dropSliceTest_eq s
  set u := (dropSliceTest s).setRot 33 { (dropSliceTest s).rotOf 33 with noSpare := true } with hu
  set v := predReset (setRole (mapSlice u k p) p none) p with hv
  have harrays := mapSlice_arraysOnly u k p
  have hhome := harrays.home
  obtain ⟨-, hdoms, -⟩ := harrays.parts
  have hrot := storeMem_rot (u.updHome fun h => { h with smap := tset h.smap k (some p) }) 9 0 (keySmap k) none
  have hexec : exec (.spareTakeover phys) s = .next (serveStore v) := by
    show execSpareTakeover phys s = _
    simp only [execSpareTakeover, hc, hfenced, horphan, hspare, Bool.and_self]
    rfl
  have hvwbs : v.home.wbs = [] := by
    show (mapSlice u k p).home.wbs = []
    rw [hhome, hu, hdrop]
    exact hwbs
  rw [serveStore_of_empty hvwbs] at hexec
  refine ⟨v, hexec, ?_, ?_, ?_⟩
  · show tget (some k) (mapSlice u k p).home.smap k = some p
    rw [hhome]
    exact tget_tset_same ..
  · show (tget _ (mapSlice u k p).integ.rot 33).noSpare = true
    rw [mapSlice, hrot]
    exact congrArg Rot.noSpare (setRot_rotOf_same ..)
  · refine Eq.trans (b := u.doms) hdoms ?_
    rw [hu, hdrop]
    rfl

/-- Without a spare the lines of the logical slice spread over the slices that are left. -/
theorem sliceSpread_spreads (hspare : usableSpare s phys = none) (hleft : s.mapped ≠ []) :
    ∃ t, exec (.sliceSpread phys) s = .next t ∧
      t = { s with home := { s.home with spread := s.home.spread ++ [k] } } := by
  refine ⟨_, ?_, rfl⟩
  show execSliceSpread phys s = _
  have hsome : s.mapped.isEmpty = false := by simpa using hleft
  simp only [execSliceSpread, hc, hfenced, horphan, hspare, Bool.and_self, hsome, Bool.false_eq_true, if_false]
  exact congrArg Host.Outcome.next (serveStore_of_empty (s := s.updHome _) hwbs)

end

/-- Settles O30: each row is its rule, on the unit and the slice that it concerns. -/
theorem sparesRotateAndReplace : Obligations.SparesRotateAndReplace := by
  unfold Obligations.SparesRotateAndReplace
  refine ⟨fun s hc hwbs => ⟨fun u hnone hu h33 => ?step, fun x hx => ⟨fun hph harr hinj hheld => ?copy,
      fun hph hdue => ?window, fun hph htrk hfwd hvic => ?drain, fun hph pass => ?test⟩, fun ok => ?initial⟩,
    fun s phys hc => ⟨fun cause hsound hgood hrecs => ?fail, fun k hfenced horphan hwbs =>
      ⟨fun p hspare => ?takeover, fun hspare hleft => ?spread⟩⟩⟩
  case step => exact ⟨_, exec_selftestStep hc hnone hu, startStep_copies s h33⟩
  case copy => exact ⟨_, exec_selftestCopyComplete hc hx hph ⟨harr, hinj⟩ hheld hwbs, rfl, rfl, rfl⟩
  case window =>
    by_cases h33 : x.unit = 33
    · obtain ⟨unit, phase, src⟩ := x
      obtain rfl : unit = 33 := h33
      obtain rfl : phase = .window := hph
      obtain ⟨t, hexec, hsw, hmap, hdrain, htest⟩ := switchWindowEnd_slice hc hx hwbs
      exact ⟨t, hexec, hsw, fun h => absurd rfl h, fun _ => ⟨hmap, hdrain, htest⟩⟩
    · obtain ⟨t, hexec, hsw, hsp, htest⟩ := switchWindowEnd_element hc hx hph h33 (hdue h33) hwbs
      exact ⟨t, hexec, hsw, fun _ => ⟨hsp, htest⟩, fun h => absurd h h33⟩
  case drain => exact sliceDrainComplete_frees hc hx hph htrk hfwd hvic hwbs
  case test => exact selftestTestComplete_ends hc hx hph pass
  case initial =>
    refine ⟨_, exec_spareInitialTest hc ok, fun u hu hfree hnew => ?_⟩
    rw [foldl_initialTest_of_mem ok s (l := upto 34) List.nodup_range (List.mem_range.2 hu) hfree hnew]
    exact ⟨Rot.tested_noSpare hfree _ _, (Rot.tested_rest _ _ _).1⟩
  case fail => exact sliceFail_fences hc cause hsound hgood hrecs
  case takeover => exact spareTakeover_serves hc hfenced horphan hwbs hspare
  case spread => exact sliceSpread_spreads hc hfenced horphan hwbs hspare hleft

end Sys2Proof.Machine
end

section
/-!
SUPPORT. An injected event that escalates its unit: the counterexample to O35.
-/
namespace Sys2Proof.Machine

/-- INJECT, collector form: an event of PROTOCOL (source 8) for domain 1. -/
def injectProtocol : List Byte := [0, 8, 0x81, 0] ++ List.replicate 12 0

/-- The error line that the collector form of INJECT raises (R378, R420). -/
def injectedLine (s : State) (pl : List Byte) : ErrLine :=
  ⟨byteAt pl 1, if nbit (byteAt pl 2) 7 then some (byteAt pl 2 % 8) else none, BitVec.ofNat 64 (numAt pl 4 8), true,
    s.uptime⟩

/-- The collector form of INJECT has its event handled at once. -/
theorem doInjectCollector_of_source (s : State) {pl : List Byte} (hform : byteAt pl 0 = 0) (hsrc : byteAt pl 1 ≤ 63)
    (hres : srcReserved (byteAt pl 1) = false) (x : Option Nat) :
    doInjectCollector s x pl = .done 0 0 [] (takeLine s (injectedLine s pl)) := by
  unfold doInjectCollector
  dsimp only
  rw [if_neg (by omega), hres]
  rfl

theorem exec_injectCollector {s : State} {m : Fin 10} {pl : List Byte} (h : s.holds m 0x504 pl)
    (hform : byteAt pl 0 = 0) (hsrc : byteAt pl 1 ≤ 63) (hres : srcReserved (byteAt pl 1) = false) :
    exec (.injectCollector m) s = .next (mbFinish (takeLine (s.turned m) (injectedLine s pl)) m 0 0 []) :=
  congrArg Host.Outcome.next (mbRun_done h formNot12 (by simp [formNot12, hform]) noBusy doInjectCollector 0 0 []
    (doInjectCollector_of_source _ hform hsrc hres _))

/-- Domain 1 is STARTED, unit (8, domain 1) has counted fifteen events within its window, one below ESC_N as it is
reset, and is not escalated (R362, R367); the platform mailbox holds the command. -/
def fifteenEventsState : State :=
  mbPutPayload (mbPutWords
    { doms := [(1, { st := .started })], flt := { units := [(unitKey 8 1, { c := 15 })] },
      mbs := [(8, { st := .busy, checked := true })] } (0x60 * 8) [0x504, 16, 0, 0]) 8 injectProtocol

theorem fifteenEvents_holds : fifteenEventsState.holds 8 0x504 injectProtocol := by
  unfold State.holds
  decide +kernel

theorem fifteenEvents_not_escalated (k : Nat) : (tget {} fifteenEventsState.flt.units k : EscUnit).esc = false := by
  show (tget {} [(unitKey 8 1, { c := 15 })] k : EscUnit).esc = false
  unfold tget
  split <;> rfl

/-- The sixteenth event escalates the unit, and the Severe set of its source holds BLOCK_RST: the domain goes down. -/
theorem sixteenthEvent_takes_domain_down : ((takeLine (fifteenEventsState.turned (8 : Fin 10))
    (injectedLine fifteenEventsState injectProtocol)).dom 1).st = .down := by decide +kernel

/-- Refutes O35: an injected event of a source of class Notice is claimed to leave every domain as it was while no
unit is escalated yet. The event that is the sixteenth of its unit within the window escalates it, takes the Severe
reaction set (R361, R367), and on a source that carries domains that set takes the domain down. -/
theorem not_logIsReadAndErrorsInjected : ¬ Obligations.LogIsReadAndErrorsInjected := by
  unfold Obligations.LogIsReadAndErrorsInjected
  intro h
  obtain ⟨-, hcollector, -⟩ := h fifteenEventsState 8 injectProtocol
  obtain ⟨-, hnotice⟩ := hcollector fifteenEvents_holds rfl (by decide) (by decide)
  obtain ⟨t, ht, -, -, -, -, -, hdoms, -⟩ := hnotice (by decide) (by decide) (by decide +kernel)
    (by unfold State.inert; decide +kernel) (by decide +kernel) (by decide) fifteenEvents_not_escalated
    rfl (by decide)
  rw [exec_injectCollector fifteenEvents_holds rfl (by decide) (by decide)] at ht
  injection ht with ht
  rw [← ht, mbFinish_doms] at hdoms
  have hdown := sixteenthEvent_takes_domain_down
  rw [dom_of_doms hdoms] at hdown
  exact absurd hdown (by decide)

end Sys2Proof.Machine
end

section
/-!
SUPPORT. One lemma per operation: memories in canonical form stay so (R387, R430). An operation that writes none of the
three leaves the form as it is; one that writes a memory keeps the form where it held.
-/
namespace Sys2Proof.Machine

@[simp] theorem canonical_mk (pending uptime free board ports doms home arr integ kt flt cfg mbs mbram fw fwram nvm
    nvmErr nvmFail crc smb sens) :
    (State.mk pending uptime free board ports doms home arr integ kt flt cfg mbs mbram fw fwram nvm
      nvmErr nvmFail crc smb sens).canonical = (ramWf nvm && ramWf mbram && ramWf fwram) := rfl

@[simp] theorem canonical_rams (s : State) : (ramWf s.nvm && ramWf s.mbram && ramWf s.fwram) = s.canonical := rfl

theorem rams_of_canonical {s : State} (hc : s.canonical = true) :
    ramWf s.nvm = true ∧ ramWf s.mbram = true ∧ ramWf s.fwram = true := by
  rwa [State.canonical, Bool.and_eq_true, Bool.and_eq_true, and_assoc] at hc

@[simp] theorem canonical_ite {c : Prop} [Decidable c] (s t : State) :
    (if c then s else t).canonical = if c then s.canonical else t.canonical := apply_ite ..

@[simp] theorem foldl_canonical {α : Type} (f : State → α → State) (hf : ∀ s a, (f s a).canonical = s.canonical)
    (l : List α) (s : State) :
    (l.foldl f s).canonical = s.canonical := foldl_frame State.canonical f hf l s

theorem foldl_keeps_canonical {β γ : Type} (π : β → State) (f : β → γ → β)
    (hf : ∀ b a, (π b).canonical = true → (π (f b a)).canonical = true) (l : List γ) (b : β)
    (hb : (π b).canonical = true) :
    (π (l.foldl f b)).canonical = true := by
  induction l generalizing b with
  | nil => exact hb
  | cons a l ih => exact ih _ (hf b a hb)

/-! ## The parts of the state -/

@[simp] theorem State_setPort_canonical (s : State) (p : Nat) (v : Port) :
    (State.setPort s p v).canonical = s.canonical := rfl

@[simp] theorem State_updPort_canonical (s : State) (p : Nat) (f : Port → Port) :
    (State.updPort s p f).canonical = s.canonical := rfl

@[simp] theorem State_updLink_canonical (s : State) (p : Nat) (f : Link → Link) :
    (State.updLink s p f).canonical = s.canonical := rfl

@[simp] theorem State_updTx_canonical (s : State) (p : Nat) (f : Tx → Tx) :
    (State.updTx s p f).canonical = s.canonical := rfl

@[simp] theorem State_updRx_canonical (s : State) (p : Nat) (f : Rx → Rx) :
    (State.updRx s p f).canonical = s.canonical := rfl

@[simp] theorem State_updMem_canonical (s : State) (p : Nat) (f : Member → Member) :
    (State.updMem s p f).canonical = s.canonical := rfl

@[simp] theorem State_updFore_canonical (s : State) (p : Nat) (f : Forecast → Forecast) :
    (State.updFore s p f).canonical = s.canonical := rfl

@[simp] theorem State_setDom_canonical (s : State) (d : Nat) (v : Dom) :
    (State.setDom s d v).canonical = s.canonical := rfl

@[simp] theorem State_updDom_canonical (s : State) (d : Nat) (f : Dom → Dom) :
    (State.updDom s d f).canonical = s.canonical := rfl

@[simp] theorem State_setMb_canonical (s : State) (m : Nat) (v : Mailbox) :
    (State.setMb s m v).canonical = s.canonical := rfl

@[simp] theorem State_updMb_canonical (s : State) (m : Nat) (f : Mailbox → Mailbox) :
    (State.updMb s m f).canonical = s.canonical := rfl

@[simp] theorem State_setCrc_canonical (s : State) (u : Nat) (v : Crc) :
    (State.setCrc s u v).canonical = s.canonical := rfl

@[simp] theorem State_updHome_canonical (s : State) (f : Home → Home) :
    (State.updHome s f).canonical = s.canonical := rfl

@[simp] theorem State_updArr_canonical (s : State) (f : Arrays → Arrays) :
    (State.updArr s f).canonical = s.canonical := rfl

@[simp] theorem State_updInteg_canonical (s : State) (f : Integ → Integ) :
    (State.updInteg s f).canonical = s.canonical := rfl

@[simp] theorem State_updKt_canonical (s : State) (f : Kettle → Kettle) :
    (State.updKt s f).canonical = s.canonical := rfl

@[simp] theorem State_updFlt_canonical (s : State) (f : Collector → Collector) :
    (State.updFlt s f).canonical = s.canonical := rfl

@[simp] theorem State_updFw_canonical (s : State) (f : Firmware → Firmware) :
    (State.updFw s f).canonical = s.canonical := rfl

@[simp] theorem State_updSmb_canonical (s : State) (f : Smb → Smb) :
    (State.updSmb s f).canonical = s.canonical := rfl

@[simp] theorem State_nextFree_canonical (s : State) : (State.nextFree s).2.canonical = s.canonical := rfl

@[simp] theorem State_fill_canonical (s : State) (m : BitVec 64) (d : Line) :
    (State.fill s m d).2.canonical = s.canonical := rfl

/-! ## Mailboxes -/

@[simp] theorem mbPut_canonical (s : State) (i v : Nat) (hc : s.canonical = true) :
    (mbPut s i v).canonical = true := by
  obtain ⟨hn, hm, hf⟩ := rams_of_canonical hc
  simp [mbPut, hn, hf, ramWf_ramSet hm]

@[simp] theorem mbPutWords_canonical (s : State) (i : Nat) (l : List Nat) (hc : s.canonical = true) :
    (mbPutWords s i l).canonical = true := by
  induction l generalizing s i with
  | nil => simp [hc, mbPutWords]
  | cons a l ih => simp [hc, mbPutWords, ih]

@[simp] theorem mbPutPayload_canonical (s : State) (m : Nat) (bs : List Byte) (hc : s.canonical = true) :
    (mbPutPayload s m bs).canonical = true := by
  simp [mbPutPayload, hc]

@[simp] theorem mbNotice_canonical (s : State) (m : Nat) (status : BitVec 8) :
    (mbNotice s m status).canonical = s.canonical := by
  unfold mbNotice
  (repeat' split) <;> simp

@[simp] theorem mbDropPort_canonical (s : State) (p : Nat) : (mbDropPort s p).canonical = s.canonical := rfl

@[simp] theorem mbFreeLock_canonical (s : State) (d dan : Nat) : (mbFreeLock s d dan).canonical = s.canonical := rfl

@[simp] theorem mbFinish_canonical (s : State) (m status detail : Nat) (resp : List Byte)
    (hc : s.canonical = true) :
    (mbFinish s m status detail resp).canonical = true := by
  simp [mbFinish, hc]

@[simp] theorem forgetMbx_canonical (s : State) (m : Nat) : (forgetMbx s m).canonical = s.canonical := rfl

@[simp] theorem mbZero_canonical (s : State) (m : Nat) (hc : s.canonical = true) :
    (mbZero s m).canonical = true := by
  obtain ⟨hn, hm, hf⟩ := rams_of_canonical hc
  simp [mbZero, hn, hf, ramWf_filter hm]

@[simp] theorem mbBlockReset_canonical (s : State) (m : Nat) (hc : s.canonical = true) :
    (mbBlockReset s m).canonical = true := by
  simp [mbBlockReset, hc]

/-! ## Counters, ports, link control -/

@[simp] theorem cntAdd_canonical (s : State) (p i n : Nat) : (cntAdd s p i n).canonical = s.canonical := rfl

@[simp] theorem statAdd_canonical (s : State) (d i : Nat) : (statAdd s d i).canonical = s.canonical := rfl

@[simp] theorem nakAdd_canonical (s : State) (d i : Nat) : (nakAdd s d i).canonical = s.canonical := rfl

@[simp] theorem raiseInj_canonical (s : State) (src : Nat) (dom : Option Nat) (detail : Nat) (inj : Bool) :
    (raiseInj s src dom detail inj).canonical = s.canonical := rfl

@[simp] theorem raise_canonical (s : State) (src : Nat) (dom : Option Nat) (detail : Nat) :
    (raise s src dom detail).canonical = s.canonical := rfl

@[simp] theorem nudge_canonical (s : State) (p : Nat) : (nudge s p).canonical = s.canonical := rfl

@[simp] theorem placeCtl_canonical (s : State) (p : Nat) (c : LinkCtl) :
    (placeCtl s p c).canonical = s.canonical := by
  simp [placeCtl]

@[simp] theorem queueMsg_canonical (s : State) (p : Nat) (m : Msg) : (queueMsg s p m).canonical = s.canonical := by
  simp [queueMsg]

@[simp] theorem returnCredit_canonical (s : State) (p : Nat) (c : Cls) (d : Nat) :
    (returnCredit s p c d).canonical = s.canonical := by
  simp [returnCredit]

@[simp] theorem takeMsg_canonical (s : State) (p : Nat) (m : Msg) : (takeMsg s p m).canonical = s.canonical := rfl

@[simp] theorem putBack_canonical (s : State) (p : Nat) (m : Msg) : (putBack s p m).canonical = s.canonical := rfl

@[simp] theorem takeCtl_canonical (s : State) (p : Nat) (c : LinkCtl) :
    (takeCtl s p c).canonical = s.canonical := rfl

@[simp] theorem takePm_canonical (s : State) (p : Nat) (v : BitVec 2) :
    (takePm s p v).canonical = s.canonical := rfl

@[simp] theorem dropNotices_canonical (s : State) (p : Nat) : (dropNotices s p).canonical = s.canonical := by
  simp [dropNotices]

@[simp] theorem placeAssign_canonical (s : State) (p : Nat) (creds : Bool) :
    (placeAssign s p creds).canonical = s.canonical := by
  unfold placeAssign
  (repeat' split) <;> simp

@[simp] theorem forgetCredits_canonical (s : State) (p : Nat) : (forgetCredits s p).canonical = s.canonical := rfl

@[simp] theorem placeRelease_canonical (s : State) (p d : Nat) : (placeRelease s p d).canonical = s.canonical := by
  simp [placeRelease]

@[simp] theorem holdPort_canonical (s : State) (p : Nat) (reason : BitVec 8) (hc : s.canonical = true) :
    (holdPort s p reason).canonical = true := by
  unfold holdPort
  dsimp only
  (repeat' split) <;> simp [hc]

@[simp] theorem sendDownAfter_canonical (s : State) (p : Nat) (first : List TxFlit) (reason : BitVec 8)
    (hc : s.canonical = true) :
    (sendDownAfter s p first reason).canonical = true := by
  simp [sendDownAfter, hc]

@[simp] theorem sendLinkDown_canonical (s : State) (p : Nat) (reason : BitVec 8) (hc : s.canonical = true) :
    (sendLinkDown s p reason).canonical = true := by
  simp [sendLinkDown, hc]

@[simp] theorem raiseFatalBy_canonical (inj : Bool) (s : State) (p : Nat) (reason : BitVec 8) :
    (raiseFatalBy inj s p reason).canonical = s.canonical := rfl

@[simp] theorem raiseFatal_canonical (s : State) (p : Nat) (reason : BitVec 8) :
    (raiseFatal s p reason).canonical = s.canonical := rfl

@[simp] theorem flipTake_canonical (s : State) (m u : Nat) (d : Option Nat) :
    (flipTake s m u d).2.2.canonical = s.canonical := by
  unfold flipTake
  dsimp only
  (repeat' split) <;> simp

/-! ## Domains and the agent map -/

@[simp] theorem dropErr_canonical (s : State) (m k : Nat) : (dropErr s m k).canonical = s.canonical := rfl

@[simp] theorem storeMem_canonical (s : State) (m unit k : Nat) (d : Option Nat) :
    (storeMem s m unit k d).canonical = s.canonical := by
  simp [storeMem]

@[simp] theorem clearWays_canonical (s : State) (d : Nat) : (clearWays s d).canonical = s.canonical := rfl

@[simp] theorem clearShelf_canonical (s : State) (b : Nat) : (clearShelf s b).canonical = s.canonical := rfl

@[simp] theorem clearShelves_canonical (s : State) (bs : List Nat) :
    (clearShelves s bs).canonical = s.canonical := foldl_canonical _ (fun s b => clearShelf_canonical s b) _ _

@[simp] theorem setShelf_canonical (s : State) (b : Nat) (o : Option (Nat × Nat)) :
    (setShelf s b o).canonical = s.canonical := by
  simp [setShelf]

@[simp] theorem putMap_canonical (s : State) (d dan : Nat) (o : Option Agent) (stale : Dom → BitVec 128) :
    (putMap s d dan o stale).canonical = s.canonical := by
  simp [putMap]

@[simp] theorem leavePort_canonical (s : State) (p d : Nat) : (leavePort s p d).canonical = s.canonical := by
  simp [leavePort]

@[simp] theorem expel_canonical (s : State) (d dan : Nat) : (expel s d dan).canonical = s.canonical := by
  unfold expel
  (repeat' split) <;> simp

@[simp] theorem expelAll_canonical (s : State) (d : Nat) (dans : List Nat) :
    (expelAll s d dans).canonical = s.canonical := foldl_canonical _ (fun s n => expel_canonical s d n) _ _

@[simp] theorem freeDomain_canonical (s : State) (d : Nat) : (freeDomain s d).canonical = s.canonical := by
  simp [freeDomain]

@[simp] theorem dropQueued_canonical (s : State) (d : Nat) : (dropQueued s d).canonical = s.canonical := rfl

@[simp] theorem downPort_canonical (s : State) (d : Nat) (p : Nat) : (downPort s d p).canonical = s.canonical := by
  simp [downPort]

@[simp] theorem spanNotice_canonical (s : State) (except : Option Nat) (c : LinkCtl) :
    (spanNotice s except c).canonical = s.canonical := by
  simp [spanNotice]

@[simp] theorem abortJobs_canonical (s : State) (d : Nat) (hc : s.canonical = true) :
    (abortJobs s d).canonical = true :=
  foldl_keeps_canonical id _ (fun t m ht => mbFinish_canonical t m 8 0x206 [] ht) _ _ (by simp [hc])

@[simp] theorem crcRelease_canonical (s : State) (d : Nat) : (crcRelease s d).canonical = s.canonical := by
  simp [crcRelease]

/-! ## A domain or a port goes down, and resets -/

@[simp] theorem domainDownBy_canonical (inj : Bool) (s : State) (d cause : Nat) (dead : List Nat)
    (src : Option Nat) (hc : s.canonical = true) :
    (domainDownBy inj s d cause dead src).canonical = true := by
  have hport := foldl_canonical (fun s p => downPort s d p) (fun s p => downPort_canonical s d p)
  have hdead : ∀ (ps : List Nat) (u : State), u.canonical = true →
      (ps.foldl (fun s p => if s.up p then raiseFatal (sendLinkDown s p 7) p 7 else s) u).canonical = true := by
    intro ps u
    refine foldl_keeps_canonical id _ (fun t p ht => ?_) ps u
    dsimp only [id] at ht ⊢
    split <;> simp [ht]
  unfold domainDownBy
  split
  · exact hc
  · dsimp only
    rw [raiseInj_canonical, expelAll_canonical]
    refine hdead _ _ ?_
    rw [expelAll_canonical, hport]
    simp [hc]

@[simp] theorem domainDown_canonical (s : State) (d cause : Nat) (dead : List Nat) (src : Option Nat)
    (hc : s.canonical = true) :
    (domainDown s d cause dead src).canonical = true := by
  simp [domainDown, hc]

@[simp] theorem agentGone_canonical (s : State) (p : Nat) (hc : s.canonical = true) :
    (agentGone s p).canonical = true := by
  unfold agentGone
  (repeat' split) <;> simp [hc]

@[simp] theorem downConsequences_canonical (s : State) (p : Nat) (q : Port) (hc : s.canonical = true) :
    (downConsequences s p q).canonical = true := by
  unfold downConsequences
  split
  · simp [hc]
  · exact foldl_keeps_canonical id _ (fun t d ht => domainDown_canonical t d 4 [] none ht) _ _ (by simp [hc])

@[simp] theorem portFault_canonical (s : State) (p : Nat) (reason : BitVec 8) (hc : s.canonical = true) :
    (portFault s p reason).canonical = true := by
  simp [portFault, hc]

@[simp] theorem fatal_canonical (s : State) (p : Nat) (reason : BitVec 8) (hc : s.canonical = true) :
    (fatal s p reason).canonical = true := by
  simp [fatal, hc]

@[simp] theorem endPort_canonical (inj : Bool) (s : State) (p : Nat) (hc : s.canonical = true) :
    (endPort inj s p).canonical = true := by
  simp [endPort, hc]

@[simp] theorem clearCommon_canonical (s : State) (hc : s.canonical = true) : (clearCommon s).canonical = true := by
  obtain ⟨hn, -, -⟩ := rams_of_canonical hc
  simp [clearCommon, hn, ramWf]

@[simp] theorem freshCollector_canonical (s : State) : (freshCollector s).canonical = s.canonical := rfl

@[simp] theorem chipResetBy_canonical (inj : Bool) (s : State) (hc : s.canonical = true) :
    (chipResetBy inj s).canonical = true := by
  have hp := foldl_keeps_canonical id (endPort inj) (fun t p ht => endPort_canonical inj t p ht) allPorts s hc
  unfold chipResetBy
  split
  · exact hc
  · refine clearCommon_canonical _ ?_
    split
    · exact hc
    · exact hp

@[simp] theorem chipReset_canonical (s : State) (hc : s.canonical = true) : (chipReset s).canonical = true := by
  simp [chipReset, hc]

@[simp] theorem clearSys_canonical (s : State) (hc : s.canonical = true) : (clearSys s).canonical = true := by
  simp [clearSys, hc]

@[simp] theorem clearPower_canonical (s : State) (hc : s.canonical = true) : (clearPower s).canonical = true := by
  obtain ⟨hn, -, -⟩ := rams_of_canonical hc
  simp [clearPower, hn, ramWf]

/-! ## The stored arrays -/

@[simp] theorem State_setBkt_canonical (s : State) (m : Nat) (b : Bucket) :
    (State.setBkt s m b).canonical = s.canonical := rfl

@[simp] theorem ceEvent_canonical (s : State) (m : Nat) (inj : Bool) :
    (ceEvent s m inj).canonical = s.canonical := by
  simp [ceEvent]

@[simp] theorem ueEvent_canonical (s : State) (u : UeAt) (by_ : Finder) (inj : Bool) (hc : s.canonical = true) :
    (ueEvent s u by_ inj).canonical = true := by
  unfold ueEvent
  (repeat' split) <;> simp [hc]

@[simp] theorem stateError_canonical (s : State) (mem d : Nat) (hc : s.canonical = true) :
    (stateError s mem d).canonical = true := by
  simp [stateError, hc]

@[simp] theorem injTake_canonical (s : State) (m : Nat) (d : Option Nat) :
    (injTake s m d).2.canonical = s.canonical := by
  unfold injTake
  dsimp only
  (repeat' split) <;> simp

@[simp] theorem State_setRot_canonical (s : State) (u : Nat) (r : Rot) :
    (State.setRot s u r).canonical = s.canonical := rfl

@[simp] theorem readGroup_canonical (s : State) (a : StrAt) (by_ : Finder) (hc : s.canonical = true) :
    (readGroup s a by_).2.2.canonical = true := by
  unfold readGroup
  dsimp only
  (repeat' split) <;> simp [hc]

@[simp] theorem writeGroup_canonical (s : State) (a : StrAt) (v : BitVec 16) :
    (writeGroup s a v).canonical = s.canonical := by
  simp [writeGroup]

@[simp] theorem setValid_canonical (s : State) (a : StrAt) (v : BitVec 16) (b : Bool) :
    (setValid s a v b).canonical = s.canonical := by
  simp [setValid]

@[simp] theorem readEnt_canonical (s : State) (a : StrAt) (live : Bool) (by_ : Finder) (hc : s.canonical = true) :
    (readEnt s a live by_).2.2.2.canonical = true := by
  unfold readEnt
  dsimp only
  (repeat' split) <;> simp [hc]

@[simp] theorem writeEnt_canonical (s : State) (a : StrAt) (x : BitVec 41) :
    (writeEnt s a x).canonical = s.canonical := by
  simp [writeEnt]

@[simp] theorem writeTag_canonical (s : State) (k : Nat) (t : BitVec 40) :
    (writeTag s k t).canonical = s.canonical := by
  simp [writeTag]

@[simp] theorem readTag_canonical (s : State) (k : Nat) (spare : Bool) (by_ : Finder) (hc : s.canonical = true) :
    (readTag s k spare by_).2.2.2.canonical = true := by
  unfold readTag
  dsimp only
  (repeat' split) <;> simp [hc]

@[simp] theorem writeWord_canonical (s : State) (k d : Nat) (x : BitVec 56) :
    (writeWord s k d x).canonical = s.canonical := by
  simp [writeWord]

@[simp] theorem readWord_canonical (s : State) (k d : Nat) (by_ : Finder) (hc : s.canonical = true) :
    (readWord s k d by_).2.2.2.canonical = true := by
  unfold readWord
  dsimp only
  (repeat' split) <;> simp [hc]

@[simp] theorem checkWord_canonical (s : State) (d sl : Nat) (w : BitVec 64) (hc : s.canonical = true) :
    (checkWord s d sl w).2.2.2.canonical = true := by
  unfold checkWord
  dsimp only
  (repeat' split) <;> simp [hc]

@[simp] theorem useMem_canonical (s : State) (m unit k : Nat) (d : Option Nat) (scope : Nat)
    (hc : s.canonical = true) :
    (useMem s m unit k d scope).2.2.canonical = true := by
  unfold useMem
  dsimp only
  (repeat' split) <;> simp [hc]

@[simp] theorem storeLine_canonical (s : State) (m unit k : Nat) (d : Option Nat) :
    (storeLine s m unit k d).canonical = s.canonical :=
  foldl_canonical _ (fun s i => storeMem_canonical s m unit (8 * k + i) d) _ _

@[simp] theorem useLine_canonical (s : State) (m unit k : Nat) (d : Option Nat) (hc : s.canonical = true) :
    (useLine s m unit k d).2.2.canonical = true :=
  foldl_keeps_canonical (fun b : Bool × Line × State => b.2.2) _ (fun b i hb => by simp [hb]) _ _ hc

@[simp] theorem useCfg_canonical (s : State) (m key : Nat) (d : Option Nat) (hc : s.canonical = true) :
    (useCfg s m key d).2.canonical = true := by
  simp [useCfg, hc]

@[simp] theorem useCfgs_canonical (s : State) (d : Nat) (ks : List Nat) (hc : s.canonical = true) :
    (useCfgs s d ks).2.canonical = true := by
  induction ks generalizing s with
  | nil => simp [hc, useCfgs]
  | cons k ks ih =>
    simp only [useCfgs]
    split <;> simp [hc, ih]

@[simp] theorem useCosy_canonical (s : State) (c : CosyItem) (hc : s.canonical = true) :
    (useCosy s c).2.canonical = true := by
  simp [useCosy, hc]

@[simp] theorem storeRegion_canonical (s : State) (i d : Nat) : (storeRegion s i d).canonical = s.canonical := by
  simp [storeRegion]

@[simp] theorem useRegion_canonical (s : State) (d i : Nat) (hc : s.canonical = true) :
    (useRegion s d i).2.canonical = true := by
  unfold useRegion
  dsimp only
  (repeat' split) <;> simp [hc]

@[simp] theorem useRegions_canonical (s : State) (d : Nat) (l : List Nat) (hc : s.canonical = true) :
    (useRegions s d l).2.canonical = true := by
  induction l generalizing s with
  | nil => simp [hc, useRegions]
  | cons k rest ih =>
    simp only [useRegions]
    split <;> simp [hc, ih]

@[simp] theorem strWay_canonical (a : Agent) (l : LAddr) (x : StrFound × State) (w : Nat)
    (hc : x.2.canonical = true) :
    (strWay a l x w).2.canonical = true := by
  obtain ⟨r, s⟩ := x
  have hg := readGroup_canonical s (s.strAt a w (strSet a l)) .demand hc
  unfold strWay
  dsimp only
  split <;> simp [hg]

@[simp] theorem strFind_canonical (s : State) (a : Agent) (l : LAddr) (hc : s.canonical = true) :
    (strFind s a l).2.canonical = true := by
  have hw : ∀ d ks, ((upto a.ways).foldl (strWay a l) ({}, (useCfgs s d ks).2)).2.canonical = true := fun d ks =>
    foldl_keeps_canonical (fun b : StrFound × State => b.2) (strWay a l)
      (fun b w hb => strWay_canonical a l b w hb) (upto a.ways) _ (useCfgs_canonical s d ks hc)
  unfold strFind
  dsimp only
  split
  · simp [hc]
  · split <;> simp [hw]

@[simp] theorem strHolders_canonical (s : State) (d : Nat) (l : LAddr) (hc : s.canonical = true) :
    (strHolders s d l).2.2.2.canonical = true := by
  unfold strHolders
  refine foldl_keeps_canonical (fun b : List (Nat × HSt) × Bool × Bool × State => b.2.2.2) _ ?_ _ _ hc
  rintro ⟨hs, c, b, t⟩ n ht
  dsimp only at ht ⊢
  split <;> simp [ht]

@[simp] theorem strFill_canonical (s : State) (d dan : Nat) (a : Agent) (l : LAddr) (st : HSt)
    (hc : s.canonical = true) :
    (strFill s d dan a l st).canonical = true := by
  unfold strFill
  dsimp only
  (repeat' split) <;> simp [hc]

@[simp] theorem strMark_canonical (s : State) (a : Agent) (l : LAddr) (st : HSt) (hc : s.canonical = true) :
    (strMark s a l st).canonical = true := by
  unfold strMark
  dsimp only
  (repeat' split) <;> simp [hc]

@[simp] theorem strClear_canonical (s : State) (a : Agent) (l : LAddr) (hc : s.canonical = true) :
    (strClear s a l).canonical = true := by
  unfold strClear
  dsimp only
  (repeat' split) <;> simp [hc]

/-! ## Messages placed -/

@[simp] theorem noteAsk_canonical (s : State) (p : Nat) (m : Msg) : (noteAsk s p m).canonical = s.canonical := by
  unfold noteAsk
  (repeat' split) <;> simp

@[simp] theorem placeAgent_canonical (s : State) (p : Nat) (m : Msg) (hc : s.canonical = true) :
    (placeAgent s p m).canonical = true := by
  unfold placeAgent
  dsimp only
  (repeat' split) <;> simp [hc]

@[simp] theorem placeSpan_canonical (s : State) (t key : Nat) (placing : Bool) (m : Msg) (hc : s.canonical = true) :
    (placeSpan s t key placing m).canonical = true := by
  simp [placeSpan, hc]

@[simp] theorem sendAgent_canonical (s : State) (d dan : Nat) (m : Msg) (hc : s.canonical = true) :
    (sendAgent s d dan m).canonical = true := by
  unfold sendAgent
  (repeat' split) <;> simp [hc]

@[simp] theorem answerReq_canonical (s : State) (r : Req) (m : Msg) (hc : s.canonical = true) :
    (answerReq s r m).canonical = true := by
  simp [answerReq, hc]

@[simp] theorem nakReq_canonical (s : State) (r : Req) (reason : Nat) (ticket : Option (BitVec 16))
    (hc : s.canonical = true) :
    (nakReq s r reason ticket).canonical = true := by
  simp [nakReq, hc]

@[simp] theorem raiseProtocol_canonical (s : State) (p : Nat) (d : Option Nat) (m : Msg) (l : LAddr) :
    (raiseProtocol s p d m l).canonical = s.canonical := rfl

@[simp] theorem raisePoison_canonical (s : State) (p : Nat) (m : Msg) (l : LAddr) :
    (raisePoison s p m l).canonical = s.canonical := rfl

/-! ## Trackers and the home -/

@[simp] theorem dropTrk_canonical (s : State) (sl t : Nat) : (dropTrk s sl t).canonical = s.canonical := rfl

@[simp] theorem putTrk_canonical (s : State) (x : Tracker) : (putTrk s x).canonical = s.canonical := by
  simp [putTrk]

@[simp] theorem sendMrq_canonical (s : State) (d dan : Nat) (f : MrqF) (data : Line) (hc : s.canonical = true) :
    (sendMrq s d dan f data).canonical = true := by
  unfold sendMrq
  (repeat' split) <;> simp [hc]

@[simp] theorem trkMrq_canonical (s : State) (x : Tracker) (dan : Nat) (f : MrqF) (data : Line)
    (hc : s.canonical = true) :
    (trkMrq s x dan f data).2.canonical = true := by
  unfold trkMrq
  dsimp only
  (repeat' split) <;> simp [hc]

@[simp] theorem hubMrq_canonical (s : State) (d dan : Nat) (op : MrqOp) (sz ofs : Nat) (l : LAddr) (sl : Nat)
    (poi : Bool) (data : Line) (hc : s.canonical = true) :
    (hubMrq s d dan op sz ofs l sl poi data).canonical = true := by
  simp [hubMrq, hc]

@[simp] theorem touchWay_canonical (s : State) (l : LAddr) (w : Nat) :
    (touchWay s l w).canonical = s.canonical := rfl

@[simp] theorem readSet_canonical (s : State) (set : Nat) (hc : s.canonical = true) :
    (readSet s set).2.2.canonical = true :=
  foldl_keeps_canonical (fun b : List (BitVec 40) × Bool × State => b.2.2) _ (fun b i hb => by simp [hb]) _ _ hc

@[simp] theorem dirLookup_canonical (s : State) (d : Nat) (l : LAddr) (hc : s.canonical = true) :
    (dirLookup s d l).2.canonical = true := by
  unfold dirLookup
  dsimp only
  (repeat' split) <;> simp [hc]

@[simp] theorem setWord_canonical (s : State) (x : Tracker) (w : BitVec 56) :
    (setWord s x w).2.canonical = s.canonical := by
  unfold setWord
  (repeat' split) <;> simp

@[simp] theorem dirMwr_canonical (s : State) (d sl : Nat) (l : LAddr) (w : BitVec 56) (hc : s.canonical = true) :
    (dirMwr s d sl l w).canonical = true := by
  simp [dirMwr, hc]

@[simp] theorem trkDirMwr_canonical (s : State) (x : Tracker) (d : Nat) (l : LAddr) (w : BitVec 56)
    (hc : s.canonical = true) :
    (trkDirMwr s x d l w).canonical = true := by
  simp [trkDirMwr, hc]

@[simp] theorem evict_canonical (s : State) (x : Tracker) (k : Nat) (t : BitVec 40) (hc : s.canonical = true) :
    (evict s x k t).canonical = true := by
  unfold evict
  simp [hc]

@[simp] theorem dirFill_canonical (s : State) (x : Tracker) (w : BitVec 56) (dirty : Bool)
    (hc : s.canonical = true) :
    (dirFill s x w dirty).2.2.canonical = true := by
  unfold dirFill
  dsimp only
  (repeat' split) <;> simp [hc]

@[simp] theorem readVictim_canonical (s : State) (v : Victim) (hc : s.canonical = true) :
    (readVictim s v).2.canonical = true := by
  unfold readVictim
  dsimp only
  (repeat' split) <;> simp [hc]

@[simp] theorem sendSnoop_canonical (s : State) (d cand : Nat) (f : SnpF) (hc : s.canonical = true) :
    (sendSnoop s d cand f).canonical = true := by
  simp [sendSnoop, hc]

@[simp] theorem snoop_canonical (x : Tracker) (s : State) (r : Req) (cand : Nat) (op : SnpOp) (fmode : BitVec 2)
    (hc : s.canonical = true) :
    (snoop x s r cand op fmode).2.canonical = true := by
  unfold snoop
  dsimp only
  (repeat' split) <;> simp [hc]

@[simp] theorem snoopAll_canonical (x : Tracker) (s : State) (r : Req) (op : SnpOp) (cs : List Nat)
    (hc : s.canonical = true) :
    (snoopAll x s r op cs).2.canonical = true :=
  foldl_keeps_canonical (fun b : Tracker × State => b.2) _ (fun b c hb => by simp [hb]) cs (x, s) hc

@[simp] theorem useGot_canonical (x : Tracker) (s : State) (hc : s.canonical = true) :
    (useGot x s).2.2.canonical = true := by
  unfold useGot
  dsimp only
  (repeat' split) <;> simp [hc]

@[simp] theorem useData_canonical (x : Tracker) (s : State) (r : Req) (hc : s.canonical = true) :
    (useData x s r).2.2.2.canonical = true := by
  simp [useData, hc]

@[simp] theorem useHeld_canonical (x : Tracker) (s : State) (hc : s.canonical = true) :
    (useHeld x s).2.2.canonical = true := by
  simp [useHeld, hc]

@[simp] theorem storeGot_canonical (s : State) (x : Tracker) : (storeGot s x).canonical = s.canonical := by
  simp [storeGot]

@[simp] theorem storeHeld_canonical (s : State) (x : Tracker) : (storeHeld s x).canonical = s.canonical := by
  simp [storeHeld]

@[simp] theorem readLine_canonical (x : Tracker) (s : State) (r : Req) (hc : s.canonical = true) :
    (readLine x s r).2.canonical = true := by
  unfold readLine
  dsimp only
  (repeat' split) <;> simp [hc]

@[simp] theorem unheldData_canonical (x : Tracker) (s : State) : (unheldData x s).2.canonical = s.canonical := by
  unfold unheldData
  (repeat' split) <;> simp

@[simp] theorem writeLine_canonical (x : Tracker) (s : State) (h : Hdr) (data : Line) (poi : Bool)
    (hc : s.canonical = true) :
    (writeLine x s h data poi).2.canonical = true := by
  unfold writeLine
  dsimp only
  (repeat' split) <;> simp [hc]

@[simp] theorem chainTail_canonical (x : Tracker) (s : State) (r : Req) (hc : s.canonical = true) :
    (chainTail x s r).2.canonical = true := by
  unfold chainTail
  (repeat' split) <;> simp [hc]

@[simp] theorem chainStart_canonical (x : Tracker) (s : State) (r : Req) (cs : List Nat) (hc : s.canonical = true) :
    (chainStart x s r cs).2.canonical = true := by
  unfold chainStart
  dsimp only
  (repeat' split) <;> simp [hc]

@[simp] theorem recordGrant_canonical (x : Tracker) (s : State) (r : Req) (g : BitVec 2) (clear : Bool) :
    (recordGrant x s r g clear).2.canonical = s.canonical := by
  unfold recordGrant
  (repeat' split) <;> simp

@[simp] theorem freeTrk_canonical (s : State) (x : Tracker) (hc : s.canonical = true) :
    (freeTrk s x).canonical = true := by
  unfold freeTrk
  (repeat' split) <;> simp [hc]

@[simp] theorem settle_canonical (x : Tracker) (s : State) (hc : s.canonical = true) :
    (settle x s).canonical = true := by
  simp [settle, hc]

@[simp] theorem predSet_canonical (s : State) (sl i v : Nat) : (predSet s sl i v).canonical = s.canonical := rfl

@[simp] theorem predRelease_canonical (s : State) (x : Tracker) (n : Nat) (forced : Bool) :
    (predRelease s x n forced).canonical = s.canonical := by
  simp [predRelease]

@[simp] theorem releaseLine_canonical (s : State) (x : Tracker) (h : Hdr) (dirty : Bool) (hc : s.canonical = true) :
    (releaseLine s x h dirty).canonical = true := by
  simp [releaseLine, hc]

@[simp] theorem releaseHold_canonical (s : State) (x : Tracker) (hc : s.canonical = true) :
    (releaseHold s x).canonical = true := by
  unfold releaseHold
  (repeat' split) <;> simp [hc]

@[simp] theorem grantWrite_canonical (x : Tracker) (s : State) (r : Req) (hc : s.canonical = true) :
    (grantWrite x s r).2.2.canonical = true := by
  unfold grantWrite
  dsimp only
  (repeat' split) <;> simp [hc]

@[simp] theorem holdLine_canonical (s : State) (x : Tracker) (r : Req) (forced : Bool) (hc : s.canonical = true) :
    (holdLine s x r forced).canonical = true := by
  unfold holdLine
  (repeat' split) <;> simp [hc]

@[simp] theorem afterGrant_canonical (s : State) (x : Tracker) (r : Req) (g : BitVec 2) (hc : s.canonical = true) :
    (afterGrant s x r g).canonical = true := by
  have hrec : ∀ g b, (recordGrant x s r g b).2.canonical = true := fun g b => by simp [hc]
  have hdata : ∀ g b, (useData (recordGrant x s r g b).1 (recordGrant x s r g b).2 r).2.2.2.canonical = true :=
    fun g b => useData_canonical _ _ _ (hrec g b)
  have hgw : ∀ g b, (grantWrite (recordGrant x s r g b).1 (recordGrant x s r g b).2 r).2.2.canonical = true :=
    fun g b => grantWrite_canonical _ _ _ (hrec g b)
  unfold afterGrant
  dsimp only
  (repeat' split) <;> simp [hrec, hdata, hgw, hc]

@[simp] theorem useFinal_canonical (x : Tracker) (s : State) (r : Req) (hc : s.canonical = true) :
    (useFinal x s r).2.2.2.canonical = true := by
  unfold useFinal
  dsimp only
  (repeat' split) <;> simp [hc]

@[simp] theorem placeGrant_canonical (s : State) (x : Tracker) (r : Req) (hc : s.canonical = true) :
    (placeGrant s x r).canonical = true := by
  have hf := useFinal_canonical x s r hc
  unfold placeGrant
  dsimp only
  split
  · exact hf
  · refine afterGrant_canonical _ _ _ _ (answerReq_canonical _ _ _ ?_)
    (repeat' split) <;> simp [hf]

@[simp] theorem readyGrant_canonical (s : State) (x : Tracker) (r : Req) (hc : s.canonical = true) :
    (readyGrant s x r).canonical = true := by
  simp [readyGrant, hc]

@[simp] theorem progress_canonical (x : Tracker) (s : State) (hc : s.canonical = true) :
    (progress x s).canonical = true := by
  unfold progress
  dsimp only
  (repeat' split) <;> simp [hc]

@[simp] theorem decideRead_canonical (x : Tracker) (s : State) (r : Req) (hs : List Holder) (op : SnpOp)
    (paired : Bool) (hc : s.canonical = true) :
    (decideRead x s r hs op paired).2.canonical = true := by
  unfold decideRead
  (repeat' split) <;> simp [hc]

@[simp] theorem soRead_canonical (x : Tracker) (s : State) (r : Req) (hs : List Holder) (op : SnpOp)
    (proxies : List Nat) (hc : s.canonical = true) :
    (soRead x s r hs op proxies).2.canonical = true := by
  simp [soRead, hc]

@[simp] theorem decideOwn_canonical (x : Tracker) (s : State) (r : Req) (hs : List Holder) (upg paired : Bool)
    (hc : s.canonical = true) :
    (decideOwn x s r hs upg paired).2.canonical = true := by
  unfold decideOwn
  dsimp only
  (repeat' split) <;> simp [hc]

@[simp] theorem decideWrite_canonical (x : Tracker) (s : State) (r : Req) (hs : List Holder) (rd paired : Bool)
    (hc : s.canonical = true) :
    (decideWrite x s r hs rd paired).2.canonical = true := by
  unfold decideWrite
  dsimp only
  (repeat' split) <;> simp [hc]

@[simp] theorem decideFlow_canonical (x : Tracker) (s : State) (r : Req) (all : List Holder) (so : List Nat)
    (paired : Bool) (hc : s.canonical = true) :
    (decideFlow x s r all so paired).canonical = true := by
  have hsnoop : ∀ (y : Tracker) op cs, (snoopAll y s r op cs).2.canonical = true :=
    fun y op cs => snoopAll_canonical y s r op cs hc
  have hwrite : ∀ (y : Tracker) hs a b, (decideWrite y s r hs a b).2.canonical = true :=
    fun y hs a b => decideWrite_canonical y s r hs a b hc
  have hboth : ∀ (y : Tracker) hs a b (z : Tracker) op cs,
      (snoopAll z (decideWrite y s r hs a b).2 r op cs).2.canonical = true :=
    fun y hs a b z op cs => snoopAll_canonical z _ r op cs (hwrite y hs a b)
  unfold decideFlow
  dsimp only
  (repeat' split) <;> simp [hsnoop, hwrite, hboth, hc]

/-! ## Requests -/

@[simp] theorem passReserved_canonical (s : State) (x : Tracker) (k : Nat) :
    (passReserved s x k).canonical = s.canonical := by
  simp [passReserved]

@[simp] theorem quotaNak_canonical (s : State) (r : Req) (sl : Nat) (hc : s.canonical = true) :
    (quotaNak s r sl).canonical = true := by
  unfold quotaNak
  dsimp only
  (repeat' split) <;> simp [hc]

@[simp] theorem putMerge_canonical (s : State) (m : Merge) : (putMerge s m).canonical = s.canonical := rfl

@[simp] theorem useMerge_canonical (s : State) (m : Merge) (hc : s.canonical = true) :
    (useMerge s m).2.2.canonical = true := by
  simp [useMerge, hc]

@[simp] theorem startDrain_canonical (s : State) (i : Nat) (hc : s.canonical = true) :
    (startDrain s i).canonical = true := by
  unfold startDrain
  dsimp only
  (repeat' split) <;> simp [hc]

@[simp] theorem enterBytes_canonical (s : State) (x : Tracker) (r : Req) (bytes : BitVec 64)
    (hc : s.canonical = true) :
    (enterBytes s x r bytes).2.2.canonical = true := by
  unfold enterBytes
  split
  · next m _ => exact (putMerge_canonical ..).trans (useMerge_canonical s m hc)
  · simp [hc]

@[simp] theorem enterMerge_canonical (s : State) (x : Tracker) (r : Req) (bytes : BitVec 64)
    (hc : s.canonical = true) :
    (enterMerge s x r bytes).canonical = true := by
  have hu := useData_canonical x s r hc
  unfold enterMerge
  generalize useData x s r = q at hu ⊢
  obtain ⟨bad, y, r', t⟩ := q
  dsimp only at hu ⊢
  split
  · exact hu
  · have he := enterBytes_canonical t y r' bytes hu
    generalize enterBytes t y r' bytes = q at he ⊢
    obtain ⟨bad', i, u⟩ := q
    dsimp only at he ⊢
    split
    · exact he
    · have hf : ∀ w g a, (freeTrk (answerReq ((storeLine u 6 0 i w).updPort r'.port g) r' a) y).canonical = true :=
        fun w g a => freeTrk_canonical _ _ (answerReq_canonical _ _ _ (by simp [he]))
      (repeat' split) <;> simp [hf]

@[simp] theorem waitDrain_canonical (s : State) (x : Tracker) (i : Nat) (hc : s.canonical = true) :
    (waitDrain s x i).canonical = true := by
  simp [waitDrain, hc]

@[simp] theorem mergeWrite_canonical (s : State) (x : Tracker) (r : Req) (bytes : BitVec 64)
    (hc : s.canonical = true) :
    (mergeWrite s x r bytes).canonical = true := by
  unfold mergeWrite
  dsimp only
  (repeat' split) <;> simp [hc]

@[simp] theorem ncStart_canonical (s : State) (x : Tracker) (r : Req) (hc : s.canonical = true) :
    (ncStart s x r).canonical = true := by
  unfold ncStart
  dsimp only
  (repeat' split) <;> simp [hc]

@[simp] theorem ncLookup_canonical (s : State) (x : Tracker) (r : Req) (rt : RType) (hc : s.canonical = true) :
    (ncLookup s x r rt).canonical = true := by
  unfold ncLookup
  dsimp only
  (repeat' split) <;> simp [hc]

@[simp] theorem decideWord_canonical (s : State) (x : Tracker) (r : Req) (w : BitVec 56) (hs : List (Nat × HSt))
    (paired : Bool) (hc : s.canonical = true) :
    (decideWord s x r w hs paired).canonical = true := by
  unfold decideWord
  (repeat' split) <;> simp [hc]

@[simp] theorem coLookup_canonical (s : State) (x : Tracker) (r : Req) (hc : s.canonical = true) :
    (coLookup s x r).canonical = true := by
  unfold coLookup
  dsimp only
  have h := strHolders_canonical s x.dom x.laddr hc
  generalize strHolders s x.dom x.laddr = q at h ⊢
  obtain ⟨hs, c1, b1, t⟩ := q
  dsimp only at h ⊢
  have h2 := dirLookup_canonical t x.dom x.laddr h
  generalize dirLookup t x.dom x.laddr = q at h2 ⊢
  obtain ⟨f, t2⟩ := q
  dsimp only at h2 ⊢
  split
  · simp [h2]
  · split
    · split <;> simp [h2]
    · split
      · rename_i v _
        have h3 := readVictim_canonical (statAdd t2 x.dom 4) v (by simp [h2])
        split
        · rename_i e; rw [e] at h3; exact h3
        · rename_i e; rw [e] at h3
          split <;> simp [h3]
      · split <;> simp [h2]

@[simp] theorem soLookup_canonical (s : State) (x : Tracker) (r : Req) (hc : s.canonical = true) :
    (soLookup s x r).canonical = true := by
  unfold soLookup
  dsimp only
  (repeat' split) <;> simp [hc]

@[simp] theorem serve_canonical (s : State) (x : Tracker) (r : Req) (rt : RType) (hc : s.canonical = true) :
    (serve s x r rt).canonical = true := by
  unfold serve
  (repeat' split) <;> simp [hc]

@[simp] theorem inBuffer_canonical (s : State) (x : Tracker) (r : Req) (hc : s.canonical = true) :
    (inBuffer s x r).canonical = true := by
  unfold inBuffer
  dsimp only
  (repeat' split) <;> simp [hc]

@[simp] theorem conflict_canonical (s : State) (r : Req) (x : Tracker) (hc : s.canonical = true) :
    (conflict s r x).canonical = true := by
  unfold conflict
  (repeat' split) <;> simp [hc]

@[simp] theorem lookup_canonical (s : State) (r : Req) (rt : RType) (hc : s.canonical = true) :
    (lookup s r rt).canonical = true := by
  unfold lookup
  dsimp only
  (repeat' split) <;> simp [hc]

@[simp] theorem homeReq_canonical (s : State) (r : Req) (hc : s.canonical = true) :
    (homeReq s r).canonical = true := by
  unfold homeReq
  split
  · simp [hc]
  · extract_lets d
    have h1 := useRegions_canonical s d (regionsRead s d (lineAddr r.f.laddr 0)) hc
    generalize useRegions s d (regionsRead s d (lineAddr r.f.laddr 0)) = q at h1 ⊢
    obtain ⟨bad, t⟩ := q
    dsimp only at h1 ⊢
    have h2 := useCfgs_canonical t d (lookupWords r) h1
    cases bad
    · simp only [Bool.false_eq_true, if_false]
      split
      · exact h2
      · (repeat' split) <;> simp [h2]
    · exact h1

/-! ## Writebacks and answers -/

@[simp] theorem wbCmp_canonical (s : State) (w : WbEntry) (hc : s.canonical = true) :
    (wbCmp s w).canonical = true := by
  simp [wbCmp, hc]

@[simp] theorem wbLeave_canonical (s : State) (w : WbEntry) (hc : s.canonical = true) :
    (wbLeave s w).2.2.canonical = true := by
  unfold wbLeave
  dsimp only
  (repeat' split) <;> simp [hc]

@[simp] theorem wbProtocol_canonical (s : State) (w : WbEntry) : (wbProtocol s w).canonical = s.canonical := rfl

@[simp] theorem wbWord_canonical (s : State) (x : Tracker) (w : WbEntry) :
    (wbWord s x w).2.2.canonical = s.canonical := by
  unfold wbWord
  dsimp only
  (repeat' split) <;> simp

@[simp] theorem wbFinish_canonical (s : State) (x : Tracker) (w : WbEntry) (good : Bool) (hc : s.canonical = true) :
    (wbFinish s x w good).canonical = true := by
  simp [wbFinish, hc]

@[simp] theorem wbApply_canonical (s : State) (x : Tracker) (w : WbEntry) (hc : s.canonical = true) :
    (wbApply s x w).canonical = true := by
  simp [wbApply, hc]

@[simp] theorem wbLookup_canonical (s : State) (x : Tracker) (w : WbEntry) (hc : s.canonical = true) :
    (wbLookup s x w).canonical = true := by
  unfold wbLookup
  dsimp only
  have h2 := dirLookup_canonical s x.dom w.laddr hc
  generalize dirLookup s x.dom w.laddr = q at h2 ⊢
  obtain ⟨f, t2⟩ := q
  dsimp only at h2 ⊢
  split
  · simp [h2]
  · split
    · simp [h2]
    · split
      · rename_i v _
        have h3 := readVictim_canonical t2 v h2
        split
        · rename_i e; rw [e] at h3; exact h3
        · rename_i e; rw [e] at h3
          split <;> simp [h3]
      · simp [h2]

@[simp] theorem useWbCfg_canonical (s : State) (w : WbEntry) (hc : s.canonical = true) :
    (useWbCfg s w).2.canonical = true := by
  unfold useWbCfg
  dsimp only
  (repeat' split) <;> simp [hc]

@[simp] theorem wbTake_canonical (s : State) (w : WbEntry) (sl t : Nat) (hc : s.canonical = true) :
    (wbTake s w sl t).canonical = true := by
  have h1 := useWbCfg_canonical s w hc
  unfold wbTake
  generalize useWbCfg s w = q at h1 ⊢
  obtain ⟨bad, u⟩ := q
  dsimp only at h1 ⊢
  have h2 : (if bad = true then (true, w, u) else wbLeave u w).2.2.canonical = true := by
    split
    · exact h1
    · exact wbLeave_canonical u w h1
  generalize (if bad = true then (true, w, u) else wbLeave u w) = q at h2 ⊢
  obtain ⟨bad', w', v⟩ := q
  dsimp only at h2 ⊢
  (repeat' split) <;> simp [h2]

@[simp] theorem takeWbm_canonical (x : Tracker) (s : State) (c : Nat) (data : Line) (hc : s.canonical = true) :
    (takeWbm x s c data).canonical = true := by
  unfold takeWbm
  simp [hc]

@[simp] theorem absorbDrain_canonical (s : State) (x : Tracker) (w : WbEntry) (hc : s.canonical = true) :
    (absorbDrain s x w).canonical = true := by
  unfold absorbDrain
  dsimp only
  (repeat' split) <;> simp [hc]

@[simp] theorem absorb_canonical (s : State) (x : Tracker) (w : WbEntry) (hc : s.canonical = true) :
    (absorb s x w).canonical = true := by
  unfold absorb
  dsimp only
  (repeat' split) <;> simp [hc]

@[simp] theorem wbTry_canonical (s : State) (w : WbEntry) (hc : s.canonical = true) :
    (wbTry s w).canonical = true := by
  unfold wbTry
  dsimp only
  (repeat' split) <;> simp [hc]

@[simp] theorem serveStore_canonical (s : State) (hc : s.canonical = true) :
    (serveStore s).canonical = true := foldl_keeps_canonical id _ (fun t w ht => wbTry_canonical t w ht) _ _ hc

@[simp] theorem decideLate_canonical (s : State) (x : Tracker) (r : Req) (w : BitVec 56) (hs : List (Nat × HSt))
    (paired : Bool) (hc : s.canonical = true) :
    (decideLate s x r w hs paired).canonical = true := by
  unfold decideLate
  dsimp only
  (repeat' split) <;> simp [hc]

@[simp] theorem wordReady_canonical (s : State) (x : Tracker) (w : BitVec 56) (hc : s.canonical = true) :
    (wordReady s x w).canonical = true := by
  unfold wordReady
  dsimp only
  (repeat' split) <;> simp [hc]

@[simp] theorem onWord_canonical (s : State) (x : Tracker) (poi : Bool) (data : Line) (hc : s.canonical = true) :
    (onWord s x poi data).canonical = true := by
  simp [onWord, hc]

@[simp] theorem onLine_canonical (s : State) (x : Tracker) (poi : Bool) (data : Line) (hc : s.canonical = true) :
    (onLine s x poi data).canonical = true := by
  unfold onLine
  extract_lets x1 x2 x3 t
  split
  · split <;> simp [hc]
  · have ht : t.canonical = true := by simp [t, hc]
    clear_value t
    split
    · have h3 := useGot_canonical x3 t ht
      generalize useGot x3 t = q at h3 ⊢
      obtain ⟨b, y, u⟩ := q
      dsimp only at h3 ⊢
      cases b
      · rename_i r _ _
        have h4 := useData_canonical y u r h3
        generalize useData y u r = q at h4 ⊢
        obtain ⟨b, y, r', v⟩ := q
        dsimp only at h4 ⊢
        cases b <;> simp [h4]
      · simp [h3]
    · simp [ht]

@[simp] theorem onMat_canonical (s : State) (x : Tracker) (poi : Bool) (data : Line) (hc : s.canonical = true) :
    (onMat s x poi data).canonical = true := by
  unfold onMat
  simp [hc]

@[simp] theorem onMcp_canonical (s : State) (x : Tracker) (hc : s.canonical = true) :
    (onMcp s x).canonical = true := by
  unfold onMcp
  dsimp only
  (repeat' split) <;> simp [hc]

@[simp] theorem onSrf_canonical (s : State) (x : Tracker) (r : Req) (hc : s.canonical = true) :
    (onSrf s x r).canonical = true := by
  unfold onSrf
  dsimp only
  (repeat' split) <;> simp [hc]

@[simp] theorem chainOn_canonical (x : Tracker) (s : State) (r : Req) (cand : Nat) (snf : Bool)
    (hc : s.canonical = true) :
    (chainOn x s r cand snf).canonical = true := by
  unfold chainOn
  dsimp only
  (repeat' split) <;> simp [hc]

@[simp] theorem homeAnswer_canonical (s : State) (x : Tracker) (r : Req) (op : AnsOp) (cand : Nat) (nst : BitVec 2)
    (poi : Bool) (data : Line) (hc : s.canonical = true) :
    (homeAnswer s x r op cand nst poi data).canonical = true := by
  unfold homeAnswer
  dsimp only
  (repeat' split) <;> simp [hc]

@[simp] theorem proxyReply_canonical (s : State) (p : Nat) (f : SnpF) (op : AnsOp) (nst : BitVec 2) (poi : Bool)
    (data : Line) (hc : s.canonical = true) :
    (proxyReply s p f op nst poi data).canonical = true := by
  simp [proxyReply, hc]

@[simp] theorem proxySnoop_canonical (s : State) (p : Nat) (f : SnpF) (hc : s.canonical = true) :
    (proxySnoop s p f).canonical = true := by
  have ht : ∀ (tg : List Nat) (u : State), u.canonical = true → (if tg.isEmpty = true then proxyReply u p f .srm 0 false 0
      else tg.foldl (fun s n => sendAgent (statAdd s f.h.dom.toNat 5) f.h.dom.toNat n
          (.snp { f with proxy := false }))
        (u.updHome fun h => { h with proxies := h.proxies ++ [⟨p, f, tg, none, 0, false⟩] })).canonical = true := by
    intro tg u hu
    split
    · simp [hu]
    · exact foldl_keeps_canonical id _ (fun t n ht => sendAgent_canonical _ _ _ _ ((statAdd_canonical ..).trans ht)) _ _
        (by simp [hu])
  unfold proxySnoop
  dsimp only
  have h := useCfgs_canonical s f.h.dom.toNat [keyMap f.h.dom.toNat f.h.dan.toNat,
    keyProx f.h.dom.toNat f.h.dan.toNat] hc
  generalize useCfgs s f.h.dom.toNat [keyMap f.h.dom.toNat f.h.dan.toNat, keyProx f.h.dom.toNat f.h.dan.toNat] = q at h ⊢
  obtain ⟨b, t⟩ := q
  dsimp only at h ⊢
  have h2 := strHolders_canonical t f.h.dom.toNat f.laddr h
  generalize strHolders t f.h.dom.toNat f.laddr = q at h2 ⊢
  obtain ⟨hs, c1, b1, u⟩ := q
  dsimp only at h2 ⊢
  split
  · simp [h2]
  · exact ht _ _ h2

@[simp] theorem proxyAnswer_canonical (s : State) (x : Proxy) (op : AnsOp) (dan : Nat) (poi : Bool) (data : Line)
    (hc : s.canonical = true) :
    (proxyAnswer s x op dan poi data).canonical = true := by
  simp [proxyAnswer, hc]

@[simp] theorem retryHeld_canonical (s : State) (x : Tracker) (hc : s.canonical = true) :
    (retryHeld s x).canonical = true := by
  have h : ∀ l : List (Nat × SnpF), (l.foldl (fun (b : List (Nat × SnpF) × State) (e : Nat × SnpF) =>
      if recordHolds b.2 x.sl x.dom x.laddr e.1 || (e.2.op == .snf && recordsFull b.2 x.sl) then
        (b.1 ++ [e], b.2) else (b.1, sendSnoop b.2 x.dom e.1 e.2)) ([], s)).2.canonical = true := fun l =>
    foldl_keeps_canonical (fun b : List (Nat × SnpF) × State => b.2) _
      (fun b e hb => by split <;> simp [hb]) l ([], s) hc
  unfold retryHeld
  dsimp only
  split
  · exact h _
  · split
    · simpa using h _
    · exact h _

@[simp] theorem retryAllHeld_canonical (s : State) (hc : s.canonical = true) :
    (retryAllHeld s).canonical = true :=
  foldl_keeps_canonical id _ (fun t x ht => retryHeld_canonical t x ht) _ _ hc

@[simp] theorem homeDfw_canonical (s : State) (p : Nat) (f : DatF) (data : Line) (hc : s.canonical = true) :
    (homeDfw s p f data).canonical = true := by
  unfold homeDfw
  dsimp only
  (repeat' split) <;> simp [hc]

/-! ## Registers and windows -/

@[simp] theorem readMb_canonical (s : State) (i : Nat) (hc : s.canonical = true) :
    (readMb s i).2.2.canonical = true := by
  unfold readMb
  dsimp only
  (repeat' split) <;> simp [hc]

@[simp] theorem readFw_canonical (s : State) (i : Nat) (hc : s.canonical = true) :
    (readFw s i).2.canonical = true := by
  unfold readFw
  dsimp only
  (repeat' split) <;> simp [hc]

@[simp] theorem useMbWords_canonical (s : State) (m i n : Nat) (hc : s.canonical = true) :
    (useMbWords s m i n).2.canonical = true :=
  foldl_keeps_canonical (fun b : Bool × State => b.2) _ (fun b k hb => by simp [hb]) _ _ hc

@[simp] theorem readWindow_canonical (s : State) (m o n : Nat) (hc : s.canonical = true) :
    (readWindow s m o n).2.canonical = true := by
  simp [readWindow, hc]

@[simp] theorem writeByte_canonical (s : State) (m o : Nat) (b : Byte) (hc : s.canonical = true) :
    (writeByte s m o b).canonical = true := by
  simp [writeByte, hc]

@[simp] theorem writeWindow_canonical (s : State) (m o : Nat) (bs : List Byte) (hc : s.canonical = true) :
    (writeWindow s m o bs).canonical = true := by
  unfold writeWindow
  refine foldl_keeps_canonical (fun b : State × Nat => b.1) _ ?_ _ _ ?_
  · rintro ⟨t, k⟩ b ht
    exact writeByte_canonical t m (o + k) b ht
  · exact foldl_keeps_canonical id _ (fun t i ht => readMb_canonical t i ht) _ _ hc

@[simp] theorem lockClaim_canonical (s : State) (d : Nat) (who : BitVec 7) :
    (lockClaim s d who).2.canonical = s.canonical := by
  unfold lockClaim
  (repeat' split) <;> simp

@[simp] theorem lockRelease_canonical (s : State) (d : Nat) (who : BitVec 7) :
    (lockRelease s d who).canonical = s.canonical := rfl

@[simp] theorem mbIgnore_canonical (s : State) (m : Nat) (who : BitVec 7) :
    (mbIgnore s m who).canonical = s.canonical := rfl

@[simp] theorem windowWrite_canonical (s : State) (m : Nat) (who : BitVec 7) (o : Nat) (bs : List Byte)
    (hc : s.canonical = true) :
    (windowWrite s m who o bs).canonical = true := by
  simp [windowWrite, hc]

@[simp] theorem mbStateWrite_canonical (s : State) (m v : Nat) : (mbStateWrite s m v).canonical = s.canonical := rfl

@[simp] theorem bktWrite_canonical (s : State) (m : Nat) (p : Part) (v : BitVec 64) :
    (bktWrite s m p v).canonical = s.canonical := by
  simp [bktWrite]

@[simp] theorem flipWrite_canonical (s : State) (v : BitVec 32) : (flipWrite s v).canonical = s.canonical := by
  simp [flipWrite]

@[simp] theorem injWrite_canonical (s : State) (v : BitVec 32) : (injWrite s v).canonical = s.canonical := rfl

@[simp] theorem rawCheck_canonical (s : State) (hc : s.canonical = true) : (rawCheck s).canonical = true := by
  unfold rawCheck
  dsimp only
  split
  · exact hc
  · rw [State_updInteg_canonical]
    split
    · exact readMb_canonical s _ hc
    · exact readFw_canonical s _ hc

@[simp] theorem rawCtlWrite_canonical (s : State) (v : BitVec 32) (hc : s.canonical = true) :
    (rawCtlWrite s v).canonical = true := by
  simp [rawCtlWrite, hc]

@[simp] theorem rawStore_canonical (s : State) (f : BitVec 39 → BitVec 39) (hc : s.canonical = true) :
    (rawStore s f).canonical = true := by
  obtain ⟨hn, hm, hf⟩ := rams_of_canonical hc
  have hmail : ∀ k v, State.canonical { s with mbram := ramSet s.mbram k v } = true := fun k v => by
    simp [hn, hf, ramWf_ramSet hm]
  have hfw : ∀ k v, State.canonical { s with fwram := ramSet s.fwram k v } = true := fun k v => by
    simp [hn, hm, ramWf_ramSet hf]
  unfold rawStore
  dsimp only
  split
  · exact hc
  · split
    · rw [canonical_ite, hmail]
      simp [hc]
    · exact hfw _ _

@[simp] theorem rawDataWrite_canonical (s : State) (v : BitVec 32) (hc : s.canonical = true) :
    (rawDataWrite s v).canonical = true := by
  simp [rawDataWrite, hc]

@[simp] theorem rawChkbWrite_canonical (s : State) (v : BitVec 32) (hc : s.canonical = true) :
    (rawChkbWrite s v).canonical = true := by
  simp [rawChkbWrite, hc]

@[simp] theorem statusClear_canonical (s : State) (mask : Nat) : (statusClear s mask).canonical = s.canonical := rfl

@[simp] theorem missedClear_canonical (s : State) (mask : Nat) : (missedClear s mask).canonical = s.canonical := rfl

@[simp] theorem platWrite_canonical (s : State) (o : Nat) (p : Part) (v : BitVec 64) (hc : s.canonical = true) :
    (platWrite s o p v).canonical = true := by
  unfold platWrite
  (repeat' split) <;> simp [hc]

/-! ## The Kettle and the forecaster -/

@[simp] theorem pllStart_canonical (s : State) : (pllStart s).canonical = s.canonical := by
  simp [pllStart]

@[simp] theorem netUpdate_canonical (s : State) : (netUpdate s).canonical = s.canonical := by
  simp [netUpdate]

@[simp] theorem beginExit_canonical (s : State) (p : Nat) : (beginExit s p).canonical = s.canonical := rfl

@[simp] theorem beginExits_canonical (s : State) :
    (beginExits s).canonical = s.canonical := foldl_canonical _ beginExit_canonical _ _

@[simp] theorem addCause_canonical (s : State) (c : Nat) : (addCause s c).canonical = s.canonical := rfl

@[simp] theorem wakeSteep_canonical (s : State) (cause : Nat) : (wakeSteep s cause).canonical = s.canonical := by
  simp [wakeSteep]

@[simp] theorem wakeDormant_canonical (s : State) (cause : Nat) :
    (wakeDormant s cause).canonical = s.canonical := by
  unfold wakeDormant
  dsimp only
  rw [pllStart_canonical, State_updSmb_canonical, foldl_canonical _ (fun t p => State_updLink_canonical ..)]
  simp

@[simp] theorem wake_canonical (s : State) (cause : Nat) : (wake s cause).canonical = s.canonical := by
  unfold wake
  (repeat' split) <;> simp

@[simp] theorem mbCheckTail_canonical (s : State) (m : Nat) (hc : s.canonical = true) :
    (mbCheckTail s m).canonical = true := by
  simp [mbCheckTail, hc]

@[simp] theorem mbChecks_canonical (s : State) (m : Nat) (hc : s.canonical = true) :
    (mbChecks s m).canonical = true := by
  simp [mbChecks, hc]

@[simp] theorem mbRing_canonical (s : State) (m : Nat) (who : BitVec 7) (v : Nat) (hc : s.canonical = true) :
    (mbRing s m who v).canonical = true := by
  simp [mbRing, hc]

@[simp] theorem trigger_canonical (s : State) (p : Nat) (large : Bool) (count : Forecast → Forecast) :
    (trigger s p large count).canonical = s.canonical := by
  simp [trigger]

@[simp] theorem growLarge_canonical (s : State) (p : Nat) : (growLarge s p).canonical = s.canonical := by
  simp [growLarge]

@[simp] theorem reqDelivered_canonical (s : State) (p : Nat) : (reqDelivered s p).canonical = s.canonical := by
  simp [reqDelivered]

@[simp] theorem wbDelivered_canonical (s : State) (p : Nat) : (wbDelivered s p).canonical = s.canonical := rfl

@[simp] theorem droopEdge_canonical (s : State) (p : Nat) : (droopEdge s p).canonical = s.canonical := by
  simp [droopEdge]

@[simp] theorem dropReady_canonical (s : State) (p sl t : Nat) : (dropReady s p sl t).canonical = s.canonical := rfl

@[simp] theorem placeReady_canonical (s : State) (p : Nat) (x : Tracker) (hc : s.canonical = true) :
    (placeReady s p x).canonical = true := by
  unfold placeReady
  (repeat' split) <;> simp [hc]

@[simp] theorem markPaced_canonical (s : State) (p : Nat) : (markPaced s p).canonical = s.canonical := by
  unfold markPaced
  (repeat' split) <;> simp

@[simp] theorem drainReady_canonical (s : State) (p : Nat) (n : Nat) (hc : s.canonical = true) :
    (drainReady s p n).canonical = true := by
  induction n generalizing s with
  | zero => simp [hc, drainReady]
  | succ n ih =>
    simp only [drainReady]
    split <;> simp [hc, ih]

/-! ## The aperture and messages that enter -/

@[simp] theorem aperAnswer_canonical (s : State) (r : Req) (m : Msg) (hc : s.canonical = true) :
    (aperAnswer s r m).canonical = true := by
  simp [aperAnswer, hc]

@[simp] theorem aperRead_canonical (s : State) (r : Req) (v : Nat) (hc : s.canonical = true) :
    (aperRead s r v).canonical = true := by
  simp [aperRead, hc]

@[simp] theorem aperWrote_canonical (s : State) (r : Req) (hc : s.canonical = true) :
    (aperWrote s r).canonical = true := by
  simp [aperWrote, hc]

@[simp] theorem mregRead_canonical (s : State) (m o : Nat) (who : BitVec 7) :
    (mregRead s m o who).2.canonical = s.canonical := by
  unfold mregRead
  (repeat' split) <;> simp

@[simp] theorem mregWrite_canonical (s : State) (m o : Nat) (who : BitVec 7) (v : Nat) (hc : s.canonical = true) :
    (mregWrite s m o who v).canonical = true := by
  simp [mregWrite, hc]

@[simp] theorem aperServe_canonical (s : State) (r : Req) (hc : s.canonical = true) :
    (aperServe s r).canonical = true := by
  unfold aperServe
  dsimp only
  (repeat' split) <;> simp [hc]

@[simp] theorem serveAper_canonical (s : State) (r : Req) (hc : s.canonical = true) :
    (serveAper s r).canonical = true := by
  unfold serveAper
  (repeat' split) <;> simp [hc]

@[simp] theorem dropConsent_canonical (s : State) (p : Nat) (m : Msg) (l : LAddr) :
    (dropConsent s p m l).canonical = s.canonical := by
  simp [dropConsent]

@[simp] theorem releasedDrop_canonical (s : State) (p d : Nat) (m : Msg) :
    (releasedDrop s p d m).canonical = s.canonical := by
  simp [releasedDrop]

theorem enter_st_canonical (s : State) (p : Nat) (m : Msg) (l : LAddr) (hc : s.canonical = true) :
    (enter s p m l).st.canonical = true := by
  unfold enter
  dsimp only
  (repeat' split) <;> simp [hc]

theorem enter_drop_canonical {s t : State} {p : Nat} {m : Msg} {l : LAddr} (hc : s.canonical = true)
    (h : enter s p m l = .drop t) :
    t.canonical = true := by
  have e := enter_st_canonical s p m l hc
  rwa [h] at e

theorem enter_take_canonical {s t : State} {p : Nat} {m : Msg} {l : LAddr} (hc : s.canonical = true)
    (h : enter s p m l = .take t) :
    t.canonical = true := by
  have e := enter_st_canonical s p m l hc
  rwa [h] at e

@[simp] theorem forward_canonical (s : State) (p : Nat) (m : Msg) (t key : Nat) (hc : s.canonical = true) :
    (forward s p m t key).canonical = true := by
  simp [forward, hc]

@[simp] theorem matchPmk_canonical (s : State) (p : Nat) (m : Msg) :
    (matchPmk s p m).2.canonical = s.canonical := by
  unfold matchPmk
  dsimp only
  (repeat' split) <;> simp

@[simp] theorem route_canonical (s : State) (r : Req) (hc : s.canonical = true) : (route s r).canonical = true := by
  simp [route, hc]

@[simp] theorem setGate_canonical (s : State) (p stream : Nat) (g : Gate) :
    (setGate s p stream g).canonical = s.canonical := rfl

@[simp] theorem gatePass_canonical (s : State) (r : Req) (hc : s.canonical = true) :
    (gatePass s r).canonical = true := by
  simp [gatePass, hc]

@[simp] theorem gateArrive_canonical (s : State) (r : Req) (hc : s.canonical = true) :
    (gateArrive s r).canonical = true := by
  unfold gateArrive
  (repeat' split) <;> simp [hc]

@[simp] theorem cureReq_canonical (s : State) (r : Req) (hc : s.canonical = true) :
    (cureReq s r).canonical = true := by
  have hd : ∀ (ms : List Merge) (u : State), u.canonical = true →
      (ms.foldl (fun s m => startDrain s m.id) u).canonical = true := fun ms u hu =>
    foldl_keeps_canonical id (fun s (m : Merge) => startDrain s m.id) (fun t m ht => startDrain_canonical t m.id ht)
      ms u hu
  unfold cureReq
  dsimp only
  (repeat' split) <;> simp [hd, hc]

@[simp] theorem agentServe_canonical (s : State) (r : Req) (hc : s.canonical = true) :
    (agentServe s r).canonical = true := by
  simp [agentServe, hc]

@[simp] theorem agentReq_canonical (s : State) (p : Nat) (op : ReqOp) (h : Hdr) (f : ReqF) (data : Line)
    (hc : s.canonical = true) :
    (agentReq s p op h f data).canonical = true := by
  unfold agentReq
  dsimp only
  (repeat' split) <;> simp [hc]

@[simp] theorem spanReq_canonical (s : State) (p : Nat) (op : ReqOp) (h : Hdr) (f : ReqF) (data : Line)
    (hc : s.canonical = true) :
    (spanReq s p op h f data).canonical = true := by
  unfold spanReq
  dsimp only
  (repeat' split) <;> simp [hc]

@[simp] theorem noteTurn_canonical (s : State) (p : Nat) (op : ReqOp) (h : Hdr) (f : ReqF) :
    (noteTurn s p op h f).canonical = s.canonical := by
  simp [noteTurn]

@[simp] theorem reqRow_canonical (s : State) (p : Nat) (op : ReqOp) (h : Hdr) (f : ReqF) (data : Line)
    (hc : s.canonical = true) :
    (reqRow s p op h f data).canonical = true := by
  unfold reqRow
  split
  · exact hc
  · have ht := serveStore_canonical _ ((noteTurn_canonical s p op h f).trans hc)
    exact serveStore_canonical _ (by split <;> simp [ht])

/-! ## Starts, sweeps and stages -/

@[simp] theorem raiseMismatch_canonical (s : State) (d h : Nat) (a : AssignF) :
    (raiseMismatch s d h a).canonical = s.canonical := rfl

@[simp] theorem sortNotices_canonical (s : State) (d : Nat) : (sortNotices s d).canonical = s.canonical := by
  unfold sortNotices
  dsimp only
  rw [foldl_canonical _ (fun t (e : Nat × AssignF) => raiseMismatch_canonical t d e.1 e.2)]
  simp

@[simp] theorem takeNotice_canonical (s : State) (p h : Nat) (n : AssignF) (stageR : Bool) :
    (takeNotice s p h n stageR).canonical = s.canonical := by
  simp [takeNotice]

@[simp] theorem finishMbx_canonical (s : State) (m : Option Nat) (status detail : Nat) (hc : s.canonical = true) :
    (finishMbx s m status detail).canonical = true := by
  unfold finishMbx
  (repeat' split) <;> simp [hc]

@[simp] theorem lookupHeld_canonical (s : State) (d : Nat) (e : Nat × Req) (hc : s.canonical = true) :
    (lookupHeld s d e).canonical = true := by
  simp [lookupHeld, hc]

@[simp] theorem enterStarted_canonical (s : State) (d : Nat) (hc : s.canonical = true) :
    (enterStarted s d).canonical = true := by
  have ha : ∀ (ps : List Nat) (u : State), (ps.foldl (fun s p => placeAssign s p false) u).canonical = u.canonical :=
    fun ps u => foldl_canonical _ (fun t p => placeAssign_canonical t p false) ps u
  unfold enterStarted
  exact finishMbx_canonical _ _ _ _ (foldl_keeps_canonical id _ (fun t e ht => lookupHeld_canonical t d e ht) _ _
    (by simp [ha, hc]))

@[simp] theorem failStart_canonical (s : State) (d detail : Nat) (hc : s.canonical = true) :
    (failStart s d detail).canonical = true := by
  unfold failStart
  dsimp only
  split
  · exact hc
  · refine finishMbx_canonical _ _ _ _ (foldl_keeps_canonical id _ (fun t e ht => ?_) _ _ ?_)
    · dsimp only [id] at ht ⊢
      split <;> simp [ht]
    · dsimp only [id]
      split
      · rw [foldl_canonical _ (fun t p => placeRelease_canonical t p d)]
        simp [hc]
      · simp [hc]

@[simp] theorem reachP_canonical (s : State) (d : Nat) : (reachP s d).canonical = s.canonical := by
  simp [reachP]

@[simp] theorem setStage_canonical (s : State) (d : Nat) (g : Stage) :
    (setStage s d g).canonical = s.canonical := rfl

@[simp] theorem afterSweep_canonical (s : State) (d : Nat) (hc : s.canonical = true) :
    (afterSweep s d).canonical = true := by
  simp [afterSweep, hc]

@[simp] theorem zeroDone_canonical (s : State) (d : Nat) (hc : s.canonical = true) :
    (zeroDone s d).canonical = true := by
  simp [zeroDone, hc]

@[simp] theorem beginZero_canonical (s : State) (d : Nat) (mbx : Option Nat) (hc : s.canonical = true) :
    (beginZero s d mbx).canonical = true := by
  simp [beginZero, hc]

@[simp] theorem zeroMwr_canonical (s : State) (d : Nat) (w : Sweep) (hc : s.canonical = true) :
    (zeroMwr s d w).canonical = true := by
  simp [zeroMwr, hc]

@[simp] theorem dirtyMwr_canonical (s : State) (d : Nat) (w : Sweep) (hc : s.canonical = true) :
    (dirtyMwr s d w).canonical = true := by
  unfold dirtyMwr
  split
  · exact hc
  · next k _ =>
    have h1 := readTag_canonical s k false .demand hc
    dsimp only
    split
    · exact h1
    · have h2 := readWord_canonical (readTag s k false .demand).2.2.2 k d .demand h1
      split
      · exact h2
      · simp [h2]

@[simp] theorem sweepEnd_canonical (s : State) (d : Nat) (hc : s.canonical = true) :
    (sweepEnd s d).canonical = true := by
  unfold sweepEnd
  (repeat' split) <;> simp [hc]

@[simp] theorem takeEntry_canonical (s : State) (d dan : Nat) (l : LAddr) (hc : s.canonical = true) :
    (takeEntry s d dan l).2.canonical = true := by
  unfold takeEntry
  dsimp only
  (repeat' split) <;> simp [hc]

@[simp] theorem wbRow_canonical (s : State) (p : Nat) (op : WbOp) (h : Hdr) (l : LAddr) (data : Line)
    (hc : s.canonical = true) :
    (wbRow s p op h l data).canonical = true := by
  unfold wbRow
  extract_lets m s0 d
  split
  · exact hc
  · have h0 : s0.canonical = true := by simp only [s0]; split <;> simp [hc]
    split
    · rename_i t e
      exact enter_drop_canonical h0 e
    · rename_i t e
      have ht := enter_take_canonical h0 e
      extract_lets s2
      have h2 : s2.canonical = true := by simp only [s2]; split <;> simp [ht]
      have h3 : (if p < 16 then takeEntry s2 d h.dan.toNat l else (0, s2)).2.canonical = true := by
        split <;> simp [h2]
      generalize (if p < 16 then takeEntry s2 d h.dan.toNat l else (0, s2)) = y at h3 ⊢
      obtain ⟨had, t2⟩ := y
      dsimp only at h3 ⊢
      (repeat' split) <;> simp [h3]

@[simp] theorem noteEntry_canonical (s : State) (d dan : Nat) (op : AnsOp) (f : AnsF) (hc : s.canonical = true) :
    (noteEntry s d dan op f).canonical = true := by
  unfold noteEntry
  (repeat' split) <;> simp [hc]

@[simp] theorem answerHome_canonical (s : State) (op : AnsOp) (f : AnsF) (data : Line) (hc : s.canonical = true) :
    (answerHome s op f data).canonical = true := by
  unfold answerHome
  dsimp only
  (repeat' split) <;> try exact hc
  exact serveStore_canonical _ (retryAllHeld_canonical _ (homeAnswer_canonical _ _ _ _ _ _ _ _ hc))

@[simp] theorem ansRow_canonical (s : State) (p : Nat) (op : AnsOp) (f : AnsF) (data : Line)
    (hc : s.canonical = true) :
    (ansRow s p op f data).canonical = true := by
  unfold ansRow
  extract_lets m d dan
  split
  · exact hc
  · split
    · rename_i t e
      exact enter_drop_canonical hc e
    · rename_i t e
      have ht := enter_take_canonical hc e
      extract_lets s1 proxy
      have h1 : s1.canonical = true := by simp only [s1]; split <;> simp [ht]
      clear_value s1 proxy
      split
      · simp [h1]
      · cases proxy
        · dsimp only
          split <;> simp [h1]
        · simp [h1]

@[simp] theorem mergeDone_canonical (s : State) (m : Merge) : (mergeDone s m).canonical = s.canonical := rfl

@[simp] theorem mcpHome_canonical (s : State) (h : Hdr) (l : LAddr) (htag : BitVec 14) (hc : s.canonical = true) :
    (mcpHome s h l htag).canonical = true := by
  unfold mcpHome
  dsimp only
  (repeat' split) <;> simp [hc]

@[simp] theorem mergeData_canonical (s : State) (m : Merge) (poi : Bool) (data : Line) (hc : s.canonical = true) :
    (mergeData s m poi data).canonical = true := by
  have hm := useMerge_canonical s m hc
  unfold mergeData
  generalize useMerge s m = q at hm ⊢
  obtain ⟨bad, n, t⟩ := q
  dsimp only at hm ⊢
  (repeat' split) <;> simp [hm]

@[simp] theorem dmmHome_canonical (s : State) (f : DatF) (data : Line) (hc : s.canonical = true) :
    (dmmHome s f data).canonical = true := by
  unfold dmmHome
  (repeat' split) <;> simp [hc]

@[simp] theorem deliverAgent_canonical (s : State) (p : Nat) (m : Msg) (dan : Nat) (hc : s.canonical = true) :
    (deliverAgent s p m dan).canonical = true := by
  unfold deliverAgent
  dsimp only
  (repeat' split) <;> simp [hc]

@[simp] theorem destNow_canonical (s : State) (p : Nat) (m : Msg) : (destNow s p m).2.canonical = s.canonical := by
  unfold destNow
  dsimp only
  (repeat' split) <;> simp

@[simp] theorem goOn_canonical (s : State) (p : Nat) (m : Msg) (t key : Nat) (hc : s.canonical = true) :
    (goOn s p m t key).canonical = true := by
  simp [goOn, hc]

@[simp] theorem passOn_canonical (s : State) (p : Nat) (m : Msg) (hc : s.canonical = true) :
    (passOn s p m).canonical = true := by
  unfold passOn
  extract_lets d
  split
  · simp [hc]
  · exact hc
  · exact hc
  · split
    · rename_i t e
      exact enter_drop_canonical hc e
    · rename_i t e
      have ht := enter_take_canonical hc e
      dsimp only
      (repeat' split) <;> simp [ht]
  · split
    · rename_i t e
      exact enter_drop_canonical hc e
    · rename_i t e
      have ht := enter_take_canonical hc e
      split
      · simp [ht]
      · split <;> rename_i e2 <;> have h := destNow_canonical t p (.dat .dfw ‹DatF› ‹Line›) <;> rw [e2] at h <;>
          simp_all
  · split
    · split
      · rename_i t e
        exact enter_drop_canonical hc e
      · rename_i t e
        simp [enter_take_canonical hc e]
    · split
      · exact hc
      · split
        · rename_i t e
          exact enter_drop_canonical hc e
        · rename_i t e
          simp [enter_take_canonical hc e]

/-! ## Scrubbing, rotation and slices -/

@[simp] theorem scrubSpareGroup_canonical (s : State) (a : StrAt) :
    (scrubSpareGroup s a).canonical = s.canonical := by
  simp [scrubSpareGroup]

@[simp] theorem scrubRows_canonical (s : State) (bank sub g : Nat) (by_ : Finder) (hc : s.canonical = true) :
    (scrubRows s bank sub g by_).canonical = true := by
  unfold scrubRows
  dsimp only
  refine foldl_keeps_canonical id _ (fun t i ht => readEnt_canonical t _ _ by_ ht) _ _ ?_
  dsimp only [id]
  split <;> simp [hc]

@[simp] theorem scrubDeadWord_canonical (s : State) (k : Nat) : (scrubDeadWord s k).canonical = s.canonical := by
  unfold scrubDeadWord
  dsimp only
  (repeat' split) <;> simp

@[simp] theorem scrubWay_canonical (s : State) (set i : Nat) (by_ : Finder) (hc : s.canonical = true) :
    (scrubWay s set i by_).canonical = true := by
  unfold scrubWay
  simp [hc]

@[simp] theorem trowelScrub_canonical (s : State) (n : Nat) (hc : s.canonical = true) :
    (trowelScrub s n).canonical = true := by
  unfold trowelScrub
  split
  · simp [hc]
  · exact foldl_keeps_canonical id _ (fun t i ht => scrubWay_canonical t _ i .scrub ht) _ _ hc

@[simp] theorem predReset_canonical (s : State) (p : Nat) : (predReset s p).canonical = s.canonical := rfl

@[simp] theorem releaseHeld_canonical (s : State) (f : Nat → Bool) (hc : s.canonical = true) :
    (releaseHeld s f).canonical = true :=
  foldl_keeps_canonical id _ (fun t x ht => releaseHold_canonical t x ht) _ _ hc

@[simp] theorem sliceWindow_canonical (s : State) (p : Nat) (hc : s.canonical = true) :
    (sliceWindow s p).canonical = true := by
  simp [sliceWindow, hc]

@[simp] theorem mapSlice_canonical (s : State) (k p : Nat) : (mapSlice s k p).canonical = s.canonical := by
  simp [mapSlice]

@[simp] theorem startStep_canonical (s : State) (u : Nat) (hc : s.canonical = true) :
    (startStep s u).canonical = true := by
  unfold startStep
  dsimp only
  (repeat' split) <;> simp [hc]

@[simp] theorem copyReads_canonical (s : State) (u src : Nat) (hc : s.canonical = true) :
    (copyReads s u src).canonical = true := by
  have hrows : ∀ gs : List Nat, (gs.foldl (fun s g => scrubRows s u src g .selftest) s).canonical = true := fun gs =>
    foldl_keeps_canonical id (fun s g => scrubRows s u src g .selftest)
      (fun t g ht => scrubRows_canonical t u src g .selftest ht) gs s hc
  have hways : ∀ ws : List Nat, (ws.foldl (fun s w => scrubWay s w src .selftest) s).canonical = true := fun ws =>
    foldl_keeps_canonical id (fun s w => scrubWay s w src .selftest)
      (fun t w ht => scrubWay_canonical t w src .selftest ht) ws s hc
  unfold copyReads
  split
  · exact hrows _
  · exact hways _

@[simp] theorem copyElem_canonical (s : State) (u src dst : Nat) :
    (copyElem s u src dst).canonical = s.canonical := by
  simp [copyElem]

@[simp] theorem wipeElem_canonical (s : State) (u x : Nat) : (wipeElem s u x).canonical = s.canonical := by
  simp [wipeElem]

@[simp] theorem setRole_canonical (s : State) (p : Nat) (r : Option Role) :
    (setRole s p r).canonical = s.canonical := rfl

@[simp] theorem testResult_canonical (s : State) (u x : Nat) (ok : Bool) :
    (testResult s u x ok).canonical = s.canonical := by
  simp [testResult]

@[simp] theorem dropSliceTest_canonical (s : State) : (dropSliceTest s).canonical = s.canonical := by
  unfold dropSliceTest
  (repeat' split) <;> simp

@[simp] theorem fenceSlice_canonical (s : State) (p cause : Nat) (hc : s.canonical = true) :
    (fenceSlice s p cause).canonical = true := by
  unfold fenceSlice
  dsimp only
  refine foldl_keeps_canonical id _ (fun t d ht => domainDown_canonical t d 30 [] none ht) _ _ ?_
  dsimp only [id]
  split <;> simp [hc]

/-! ## The NVM -/

@[simp] theorem nvmBytes_canonical (s : State) (a n : Nat) : (nvmBytes s a n).2.canonical = s.canonical := by
  unfold nvmBytes
  split
  · rfl
  · refine foldl_proj (fun b : List Byte × State => b.2.canonical) _ (fun b k => ?_) _ _
    dsimp only
    split <;> simp

@[simp] theorem freeRow_canonical (s : State) (row : Nat) : (freeRow s row).2.canonical = s.canonical := rfl

@[simp] theorem writeRow_canonical (s : State) (row : Nat) (bs : List Byte) (hc : s.canonical = true) :
    (writeRow s row bs).2.canonical = true := by
  obtain ⟨hn, hm, hf⟩ := rams_of_canonical hc
  have hw := ramWf_ramSetMany hn (row * 32) bs
  unfold writeRow
  dsimp only
  split
  · rw [raise_canonical, canonical_mk, canonical_rams, freeRow_canonical]
    simp [hm, hf, hw]
  · simp [hm, hf, hw]

@[simp] theorem writeRows_canonical (s : State) (row n : Nat) (bs : List Byte) (hc : s.canonical = true) :
    (writeRows s row n bs).2.canonical = true := by
  induction n generalizing s row bs with
  | zero => simp [hc, writeRows]
  | succ n ih =>
    simp only [writeRows]
    (repeat' split) <;> simp [hc, ih]

@[simp] theorem nvmWrite_canonical (s : State) (a : Nat) (bs : List Byte) (hc : s.canonical = true) :
    (nvmWrite s a bs).2.canonical = true := by
  simp [nvmWrite, hc]

@[simp] theorem writeHdr_canonical (s : State) (f : NvmHdr → NvmHdr) (hc : s.canonical = true) :
    (writeHdr s f).2.canonical = true := by
  simp [writeHdr, hc]

@[simp] theorem restoreCfg_canonical (s old : State) (hc : s.canonical = true) :
    (restoreCfg s old).canonical = true := by
  obtain ⟨hn, hm, hf⟩ := rams_of_canonical hc
  simp [restoreCfg, hm, hf, ramWf_ramSetMany hn]

@[simp] theorem saveCfg_canonical (s : State) (bs : List Byte) (hc : s.canonical = true) :
    (saveCfg s bs).2.canonical = true := by
  unfold saveCfg
  split
  · exact hc
  · extract_lets gen all
    have hw := nvmWrite_canonical s (cfgAddr (cfgTarget s)) all hc
    generalize nvmWrite s (cfgAddr (cfgTarget s)) all = q at hw ⊢
    obtain ⟨ok, t⟩ := q
    dsimp only at hw ⊢
    (repeat' split) <;> simp [hw]

/-! ## The fault collector -/

@[simp] theorem queueRec_canonical (s : State) (r : LogRec) : (queueRec s r).canonical = s.canonical := by
  simp [queueRec]

@[simp] theorem queueGrave_canonical (s : State) (r : LogRec) : (queueGrave s r).canonical = s.canonical := rfl

@[simp] theorem queueHnt_canonical (s : State) (p src : Nat) : (queueHnt s p src).canonical = s.canonical := by
  simp [queueHnt]

@[simp] theorem enterGrave_canonical (s : State) (src : Nat) (hc : s.canonical = true) :
    (enterGrave s src).canonical = true := by
  have hp := foldl_keeps_canonical id (fun s p => if s.up p then sendLinkDown s p 7
      else holdPort s p (s.port p).link.lastDown)
    (fun t p ht => by dsimp only [id] at ht ⊢; split <;> simp [ht]) allPorts
  unfold enterGrave
  dsimp only
  rw [State_updFlt_canonical, State_updFw_canonical, State_updKt_canonical]
  split
  · simpa using hc
  · exact hp _ (by simpa using hc)

@[simp] theorem react_canonical (s : State) (src : Nat) (dom : Option Nat) (set : BitVec 5)
    (hc : s.canonical = true) :
    (react s src dom set).canonical = true := by
  unfold react
  extract_lets int ports s1 live s2 s3 block s4 s5
  have h1 : s1.canonical = true := (foldl_canonical _ (fun t p => queueHnt_canonical t p src) _ _).trans hc
  have h2 : s2.canonical = true := by simp only [s2]; (repeat' split) <;> simp [h1]
  have h3 : s3.canonical = true := by simp only [s3]; (repeat' split) <;> simp [h2]
  have h4 : s4.canonical = true := by simp only [s4]; (repeat' split) <;> simp [h3]
  have h5 : s5.canonical = true := by
    simp only [s5]
    clear_value block s4
    cases block <;> cases dom <;> simp [h4]
  clear_value s5
  split <;> simp [h5]

@[simp] theorem latch_canonical (s : State) (src : Nat) (dom : Option Nat) (detail : BitVec 64) (inj : Bool)
    (hc : s.canonical = true) :
    (latch s src dom detail inj).canonical = true := by
  unfold latch
  (repeat' split) <;> simp [hc]

@[simp] theorem takeLine_canonical (s : State) (l : ErrLine) (hc : s.canonical = true) :
    (takeLine s l).canonical = true := by
  simp [takeLine, hc]

@[simp] theorem takeEvent_canonical (s : State) (src : Nat) (dom : Option Nat) (detail : BitVec 64)
    (hc : s.canonical = true) :
    (takeEvent s src dom detail).canonical = true := by
  simp [takeEvent, hc]

@[simp] theorem reclass_canonical (s : State) (src : Nat) : (reclass s src).canonical = s.canonical := rfl

/-! ## Mailbox commands -/

@[simp] theorem cmdOk_canonical (s : State) (resp : List Byte) : (cmdOk s resp).st.canonical = s.canonical := rfl

@[simp] theorem cmdFail_canonical (s : State) (code : Nat) : (cmdFail s code).st.canonical = s.canonical := rfl

@[simp] theorem cmdState_canonical (s : State) (code : Nat) : (cmdState s code).st.canonical = s.canonical := rfl

@[simp] theorem badValue_canonical (s : State) : (badValue s).st.canonical = s.canonical := rfl

@[simp] theorem releasePorts_canonical (s : State) :
    (releasePorts s).canonical = s.canonical :=
  (State_updFw_canonical ..).trans (foldl_canonical _ (fun t p => State_updLink_canonical ..) _ _)

theorem checkTails_canonical (l : List Nat) (t : State) (hc : t.canonical = true) :
    (l.foldl (fun s m => if (s.mb m).waiting then mbCheckTail s m else s) t).canonical = true :=
  foldl_keeps_canonical id _ (fun t m ht => by dsimp only [id] at ht ⊢; split <;> simp [ht]) _ _ hc

@[simp] theorem openMailboxes_canonical (s : State) (hc : s.canonical = true) :
    (openMailboxes s).canonical = true := by
  have h := checkTails_canonical (upto 10) (s.updFw fun w => { w with isOpen := true }) (by simp [hc])
  unfold openMailboxes
  dsimp only
  split <;> simp [h]

@[simp] theorem resizePorts_canonical (s : State) (old : Nat) (hc : s.canonical = true) :
    (resizePorts s old).canonical = true := by
  simp [resizePorts, hc]

@[simp] theorem commitApply_canonical (s : State) (hc : s.canonical = true) : (commitApply s).canonical = true := by
  unfold commitApply
  simp [hc]

@[simp] theorem proxSetRow_canonical (s : State) (d dan row : Nat) :
    (proxSetRow s d dan row).canonical = s.canonical := by
  simp [proxSetRow]

@[simp] theorem doHubInfo_canonical (s : State) (u1 : Option Nat) (u2 : List Byte) (hc : s.canonical = true) :
    (doHubInfo s u1 u2).st.canonical = true := by
  unfold doHubInfo
  dsimp only
  (repeat' split) <;> simp [hc]

@[simp] theorem doFwInfo_canonical (s : State) (x1 : Option Nat) (x2 : List Byte) :
    (doFwInfo s x1 x2).st.canonical = s.canonical := rfl

@[simp] theorem doCaps_canonical (s : State) (x1 : Option Nat) (x2 : List Byte) :
    (doCaps s x1 x2).st.canonical = s.canonical := rfl

@[simp] theorem doConfigRead_canonical (s : State) (x1 : Option Nat) (pl : List Byte) :
    (doConfigRead s x1 pl).st.canonical = s.canonical := by
  unfold doConfigRead
  dsimp only
  (repeat' split) <;> simp

@[simp] theorem doConfigWrite_canonical (s : State) (x1 : Option Nat) (pl : List Byte) :
    (doConfigWrite s x1 pl).st.canonical = s.canonical := by
  unfold doConfigWrite
  dsimp only
  (repeat' split) <;> simp

@[simp] theorem doConfigCommit_canonical (s : State) (x1 : Option Nat) (pl : List Byte) (hc : s.canonical = true) :
    (doConfigCommit s x1 pl).st.canonical = true := by
  unfold doConfigCommit
  dsimp only
  (repeat' split) <;> simp [hc]

@[simp] theorem doConfigLock_canonical (s : State) (x1 : Option Nat) (pl : List Byte) :
    (doConfigLock s x1 pl).st.canonical = s.canonical := rfl

@[simp] theorem doRegionSet_canonical (s : State) (x1 : Option Nat) (pl : List Byte) :
    (doRegionSet s x1 pl).st.canonical = s.canonical := by
  unfold doRegionSet
  dsimp only
  (repeat' split) <;> simp

@[simp] theorem doRegionGet_canonical (s : State) (x1 : Option Nat) (pl : List Byte) :
    (doRegionGet s x1 pl).st.canonical = s.canonical := by
  unfold doRegionGet
  dsimp only
  (repeat' split) <;> simp

@[simp] theorem doProximitySet_canonical (s : State) (x1 : Option Nat) (pl : List Byte) :
    (doProximitySet s x1 pl).st.canonical = s.canonical := by
  unfold doProximitySet
  dsimp only
  (repeat' split) <;> simp

@[simp] theorem doPortConfig_canonical (s : State) (x1 : Option Nat) (pl : List Byte) :
    (doPortConfig s x1 pl).st.canonical = s.canonical := by
  unfold doPortConfig
  dsimp only
  (repeat' split) <;> simp

@[simp] theorem answerDead_canonical (s : State) (d : Nat) (c : Awaited) (sl t : Nat) (hc : s.canonical = true) :
    (answerDead s d c sl t).canonical = true := by
  simp [answerDead, hc]

@[simp] theorem holdLimit_canonical (sl t : Nat) (s : State) (hc : s.canonical = true) :
    (holdLimit sl t s).canonical = true := by
  unfold holdLimit
  (repeat' split) <;> simp [hc]

@[simp] theorem noticeRow_canonical (p : Nat) (n : AssignF) (base : Nat) (stageR : Bool) (s : State) :
    (noticeRow p n base stageR s).canonical = s.canonical := by
  simp [noticeRow]

@[simp] theorem wrongState_canonical (s : State) : (wrongState s).st.canonical = s.canonical := rfl

@[simp] theorem createDom_canonical (s : State) (d : Nat) (p : Params) :
    (createDom s d p).canonical = s.canonical := by
  simp [createDom]

@[simp] theorem doDomainCreate_canonical (s : State) (x1 : Option Nat) (pl : List Byte) :
    (doDomainCreate s x1 pl).st.canonical = s.canonical := by
  unfold doDomainCreate
  dsimp only
  (repeat' split) <;> simp

@[simp] theorem restartDom_canonical (s : State) (d : Nat) : (restartDom s d).canonical = s.canonical := by
  simp [restartDom]

@[simp] theorem beginStart_canonical (s : State) (d : Nat) (mbx : Option Nat) (hc : s.canonical = true) :
    (beginStart s d mbx).canonical = true := by
  unfold beginStart
  simp [hc]

@[simp] theorem doDomainStart_canonical (s : State) (mbx : Option Nat) (pl : List Byte) (hc : s.canonical = true) :
    (doDomainStart s mbx pl).st.canonical = true := by
  unfold doDomainStart
  dsimp only
  (repeat' split) <;> simp [hc]

@[simp] theorem voidTickets_canonical (s : State) (d : Nat) (f : TQueue → Bool) :
    (voidTickets s d f).canonical = s.canonical := rfl

@[simp] theorem quiesceGates_canonical (s : State) (p : Nat) (hc : s.canonical = true) :
    (quiesceGates s p).canonical = true :=
  foldl_keeps_canonical id (fun s r => nakReq s r 7 none) (fun t r ht => nakReq_canonical t r 7 none ht) _ _ hc

@[simp] theorem beginQuiesce_canonical (s : State) (d : Nat) (mbx : Option Nat) (hc : s.canonical = true) :
    (beginQuiesce s d mbx).canonical = true := by
  unfold beginQuiesce
  refine serveStore_canonical _ (foldl_keeps_canonical id (fun s (m : Merge) => startDrain s m.id)
    (fun t m ht => startDrain_canonical t m.id ht) _ _ ?_)
  refine foldl_keeps_canonical id releaseHold (fun t x ht => releaseHold_canonical t x ht) _ _ ?_
  refine (voidTickets_canonical ..).trans (foldl_keeps_canonical id quiesceGates
    (fun t p ht => quiesceGates_canonical t p ht) _ _ ?_)
  exact foldl_keeps_canonical id (fun s p => placeAgent s p (hubNotice s p 3 0 0 0))
    (fun t p ht => placeAgent_canonical t p _ ht) _ _ hc

@[simp] theorem doDomainQuiesce_canonical (s : State) (mbx : Option Nat) (pl : List Byte)
    (hc : s.canonical = true) :
    (doDomainQuiesce s mbx pl).st.canonical = true := by
  unfold doDomainQuiesce
  dsimp only
  (repeat' split) <;> simp [hc]

@[simp] theorem stopDom_canonical (s : State) (d : Nat) (free : Bool) :
    (stopDom s d free).canonical = s.canonical := by
  simp [stopDom]

@[simp] theorem doDomainStop_canonical (s : State) (x1 : Option Nat) (pl : List Byte) :
    (doDomainStop s x1 pl).st.canonical = s.canonical := by
  unfold doDomainStop
  dsimp only
  (repeat' split) <;> simp

@[simp] theorem doDomainStatus_canonical (s : State) (x1 : Option Nat) (pl : List Byte) :
    (doDomainStatus s x1 pl).st.canonical = s.canonical := by
  unfold doDomainStatus
  dsimp only
  (repeat' split) <;> simp

@[simp] theorem doSweepWriteback_canonical (s : State) (mbx : Option Nat) (pl : List Byte)
    (hc : s.canonical = true) :
    (doSweepWriteback s mbx pl).st.canonical = true := by
  unfold doSweepWriteback
  dsimp only
  (repeat' split) <;> simp [hc]

@[simp] theorem doSweepZero_canonical (s : State) (mbx : Option Nat) (pl : List Byte) (hc : s.canonical = true) :
    (doSweepZero s mbx pl).st.canonical = true := by
  unfold doSweepZero
  dsimp only
  (repeat' split) <;> simp [hc]

@[simp] theorem doQuotaSet_canonical (s : State) (x1 : Option Nat) (pl : List Byte) :
    (doQuotaSet s x1 pl).st.canonical = s.canonical := by
  unfold doQuotaSet
  dsimp only
  (repeat' split) <;> simp

@[simp] theorem putAgent_canonical (s : State) (d dan : Nat) (a : Agent) :
    (putAgent s d dan a).canonical = s.canonical := by
  simp [putAgent]

@[simp] theorem admitPort_canonical (s : State) (d dan p : Nat) (c : CapF) (k : Kind) :
    (admitPort s d dan p c k).2.canonical = s.canonical := by
  simp [admitPort]

@[simp] theorem doAdmitPort_canonical (s : State) (x1 : Option Nat) (pl : List Byte) :
    (doAdmitPort s x1 pl).st.canonical = s.canonical := by
  unfold doAdmitPort
  dsimp only
  (repeat' split) <;> simp

@[simp] theorem doAdmitRecord_canonical (s : State) (x1 : Option Nat) (pl : List Byte) :
    (doAdmitRecord s x1 pl).st.canonical = s.canonical := by
  unfold doAdmitRecord
  dsimp only
  (repeat' split) <;> simp

@[simp] theorem doExpel_canonical (here : Bool) (s : State) (x1 : Option Nat) (pl : List Byte) :
    (doExpel here s x1 pl).st.canonical = s.canonical := by
  unfold doExpel
  dsimp only
  (repeat' split) <;> simp

/-! ## The link -/

@[simp] theorem trainFail_canonical (s : State) (p code : Nat) (hc : s.canonical = true) :
    (trainFail s p code).canonical = true := by
  simp [trainFail, hc]

@[simp] theorem trainUp_canonical (s : State) (p rate width wired : Nat) (r : Trained) :
    (trainUp s p rate width wired r).canonical = s.canonical := by
  simp [trainUp]

@[simp] theorem enterRecovery_canonical (s : State) (p : Nat) (hc : s.canonical = true) :
    (enterRecovery s p).canonical = true := by
  simp [enterRecovery, hc]

@[simp] theorem startReplay_canonical (s : State) (p : Nat) (timer : Bool) (hc : s.canonical = true) :
    (startReplay s p timer).canonical = true := by
  unfold startReplay
  (repeat' split) <;> simp [hc]

@[simp] theorem requestSimmer_canonical (s : State) (p : Nat) : (requestSimmer s p).canonical = s.canonical := by
  simp [requestSimmer]

@[simp] theorem steepRequest_canonical (s : State) (p : Nat) : (steepRequest s p).canonical = s.canonical := by
  simp [steepRequest]

@[simp] theorem recvDown_canonical (s : State) (p : Nat) (reason : BitVec 8) (hc : s.canonical = true) :
    (recvDown s p reason).canonical = true := by
  simp [recvDown, hc]

@[simp] theorem spanGrant_canonical (s : State) (p : Nat) : (spanGrant s p).canonical = s.canonical := by
  simp [spanGrant]

@[simp] theorem resetReleases_canonical (s : State) (p : Nat) : (resetReleases s p).canonical = s.canonical := by
  simp [resetReleases]

@[simp] theorem capAccept_canonical (s : State) (p : Nat) (c : CapF) (hc : s.canonical = true) :
    (capAccept s p c).canonical = true := by
  unfold capAccept
  dsimp only
  (repeat' split) <;> simp [hc]

@[simp] theorem capRefuse_canonical (s : State) (p : Nat) (result : BitVec 8) (hc : s.canonical = true) :
    (capRefuse s p result).canonical = true := by
  simp [capRefuse, hc]

@[simp] theorem enterSimmer_canonical (s : State) (p : Nat) (req : Bool) :
    (enterSimmer s p req).canonical = s.canonical := rfl

@[simp] theorem abandonSteep_canonical (s : State) : (abandonSteep s).canonical = s.canonical := by
  simp [abandonSteep]

@[simp] theorem simmerRefused_canonical (s : State) (p : Nat) : (simmerRefused s p).canonical = s.canonical := by
  simp [simmerRefused]

@[simp] theorem simmerUp_canonical (s : State) (p : Nat) : (simmerUp s p).canonical = s.canonical := rfl

@[simp] theorem exitTrigger_canonical (s : State) (p : Nat) (own : Bool) :
    (exitTrigger s p own).canonical = s.canonical := by
  simp [exitTrigger]

@[simp] theorem dormantPort_canonical (s : State) (p : Nat) (hc : s.canonical = true) :
    (dormantPort s p).canonical = true := by
  unfold dormantPort
  (repeat' split) <;> simp [hc]

@[simp] theorem dormantAssignPort_canonical (s : State) (p : Nat) :
    (dormantAssignPort s p).canonical = s.canonical := by
  simp [dormantAssignPort]

@[simp] theorem doLinkStatus_canonical (s : State) (x1 : Option Nat) (x2 : List Byte) (hc : s.canonical = true) :
    (doLinkStatus s x1 x2).st.canonical = true := by
  simp [doLinkStatus, hc]

@[simp] theorem retrainDown_canonical (s : State) (p : Nat) (hc : s.canonical = true) :
    (retrainDown s p).canonical = true := by
  unfold retrainDown
  dsimp only
  (repeat' split) <;> simp [hc]

@[simp] theorem doLinkRetrain_canonical (s : State) (mbx : Option Nat) (pl : List Byte) (hc : s.canonical = true) :
    (doLinkRetrain s mbx pl).st.canonical = true := by
  unfold doLinkRetrain
  dsimp only
  (repeat' split) <;> simp [hc]

@[simp] theorem doLinkMargin_canonical (s : State) (x1 : Option Nat) (pl : List Byte) :
    (doLinkMargin s x1 pl).st.canonical = s.canonical := by
  unfold doLinkMargin
  dsimp only
  (repeat' split) <;> simp

@[simp] theorem doLinkCounters_canonical (s : State) (x1 : Option Nat) (pl : List Byte) :
    (doLinkCounters s x1 pl).st.canonical = s.canonical := by
  unfold doLinkCounters
  dsimp only
  (repeat' split) <;> simp

@[simp] theorem doSpanSpare_canonical (s : State) (x1 : Option Nat) (pl : List Byte) :
    (doSpanSpare s x1 pl).st.canonical = s.canonical := by
  unfold doSpanSpare
  dsimp only
  (repeat' split) <;> simp

@[simp] theorem doPowerRead_canonical (s : State) (x1 : Option Nat) (pl : List Byte) :
    (doPowerRead s x1 pl).st.canonical = s.canonical := by
  unfold doPowerRead
  (repeat' split) <;> simp

@[simp] theorem doPowerClear_canonical (s : State) (x1 : Option Nat) (x2 : List Byte) :
    (doPowerClear s x1 x2).st.canonical = s.canonical := rfl

@[simp] theorem doPowerWake_canonical (s : State) (x1 : Option Nat) (x2 : List Byte) :
    (doPowerWake s x1 x2).st.canonical = s.canonical := rfl

@[simp] theorem setHubPolicy_canonical (s : State) (pl : List Byte) :
    (setHubPolicy s pl).canonical = s.canonical := by
  simp [setHubPolicy]

@[simp] theorem doPolicyHub_canonical (s : State) (x1 : Option Nat) (pl : List Byte) :
    (doPolicyHub s x1 pl).st.canonical = s.canonical := by
  unfold doPolicyHub
  dsimp only
  (repeat' split) <;> simp

@[simp] theorem doPolicyPort_canonical (s : State) (x1 : Option Nat) (pl : List Byte) :
    (doPolicyPort s x1 pl).st.canonical = s.canonical := by
  unfold doPolicyPort
  dsimp only
  (repeat' split) <;> simp

@[simp] theorem doForecastStatus_canonical (s : State) (x1 : Option Nat) (pl : List Byte) :
    (doForecastStatus s x1 pl).st.canonical = s.canonical := by
  unfold doForecastStatus
  dsimp only
  (repeat' split) <;> simp

@[simp] theorem doFaultRead_canonical (s : State) (m : Option Nat) (pl : List Byte) :
    (doFaultRead s m pl).st.canonical = s.canonical := by
  unfold doFaultRead
  dsimp only
  (repeat' split) <;> simp

@[simp] theorem doFaultClear_canonical (s : State) (x1 : Option Nat) (pl : List Byte) :
    (doFaultClear s x1 pl).st.canonical = s.canonical := by
  unfold doFaultClear
  (repeat' split) <;> simp

@[simp] theorem doFaultSource_canonical (s : State) (x1 : Option Nat) (pl : List Byte) :
    (doFaultSource s x1 pl).st.canonical = s.canonical := by
  unfold doFaultSource
  dsimp only
  (repeat' split) <;> simp

@[simp] theorem doFaultNotify_canonical (s : State) (x1 : Option Nat) (pl : List Byte) :
    (doFaultNotify s x1 pl).st.canonical = s.canonical := by
  unfold doFaultNotify
  dsimp only
  (repeat' split) <;> simp

@[simp] theorem doErrlogRead_canonical (s : State) (m : Option Nat) (pl : List Byte) :
    (doErrlogRead s m pl).st.canonical = s.canonical := by
  unfold doErrlogRead
  dsimp only
  (repeat' split) <;> simp

@[simp] theorem doInjectCollector_canonical (s : State) (x1 : Option Nat) (pl : List Byte)
    (hc : s.canonical = true) :
    (doInjectCollector s x1 pl).st.canonical = true := by
  unfold doInjectCollector
  dsimp only
  (repeat' split) <;> simp [hc]

@[simp] theorem doInjectChecker_canonical (s : State) (x1 : Option Nat) (pl : List Byte) :
    (doInjectChecker s x1 pl).st.canonical = s.canonical := by
  unfold doInjectChecker
  dsimp only
  (repeat' split) <;> simp

@[simp] theorem doInjectFlip_canonical (s : State) (x1 : Option Nat) (pl : List Byte) :
    (doInjectFlip s x1 pl).st.canonical = s.canonical := by
  unfold doInjectFlip
  dsimp only
  (repeat' split) <;> simp

@[simp] theorem doScrubConfig_canonical (s : State) (x1 : Option Nat) (pl : List Byte) :
    (doScrubConfig s x1 pl).st.canonical = s.canonical := by
  simp [doScrubConfig]

@[simp] theorem doSelftestStart_canonical (s : State) (x1 : Option Nat) (pl : List Byte) :
    (doSelftestStart s x1 pl).st.canonical = s.canonical := by
  unfold doSelftestStart
  dsimp only
  (repeat' split) <;> simp

@[simp] theorem doSelftestStatus_canonical (s : State) (x1 : Option Nat) (x2 : List Byte) :
    (doSelftestStatus s x1 x2).st.canonical = s.canonical := rfl

@[simp] theorem roleBytes_canonical (s : State) : (roleBytes s).2.canonical = s.canonical := by
  unfold roleBytes
  refine foldl_proj (fun b : List Byte × State => b.2.canonical) _ (fun b p => ?_) _ _
  dsimp only
  split <;> simp

@[simp] theorem doSliceStatus_canonical (s : State) (x1 : Option Nat) (x2 : List Byte) :
    (doSliceStatus s x1 x2).st.canonical = s.canonical := by
  simp [doSliceStatus]

@[simp] theorem doTempRead_canonical (s : State) (x1 : Option Nat) (pl : List Byte) :
    (doTempRead s x1 pl).st.canonical = s.canonical := by
  simp [doTempRead]

@[simp] theorem doStatsRead_canonical (s : State) (x1 : Option Nat) (pl : List Byte) :
    (doStatsRead s x1 pl).st.canonical = s.canonical := by
  simp [doStatsRead]

/-! ## Firmware -/

@[simp] theorem copyBody_canonical (s : State) (sl b : Nat) (prot : Bool) :
    (copyBody s sl b prot).canonical = s.canonical := rfl

@[simp] theorem countRows_canonical (s : State) (sl n : Nat) : (countRows s sl n).canonical = s.canonical := rfl

@[simp] theorem stageBytes_canonical (s : State) (sl off : Nat) (bs : List Byte) (hc : s.canonical = true) :
    (stageBytes s sl off bs).2.canonical = true := by
  unfold stageBytes
  dsimp only
  (repeat' split) <;> simp [hc]

@[simp] theorem bootFrom_canonical (s : State) (sl : Nat) (hc : s.canonical = true) :
    (bootFrom s sl).canonical = true := by
  simp [bootFrom, hc]

@[simp] theorem recovery_canonical (s : State) (hc : s.canonical = true) :
    (recovery s).canonical = true := checkTails_canonical _ _ (by simp [hc])

@[simp] theorem bootRom_canonical (s : State) (hc : s.canonical = true) : (bootRom s).canonical = true := by
  have h := useCosy_canonical s .boot hc
  unfold bootRom
  generalize useCosy s .boot = q at h ⊢
  obtain ⟨b, t⟩ := q
  dsimp only at h ⊢
  (repeat' split) <;> simp_all

@[simp] theorem resume_canonical (s : State) : (resume s).canonical = s.canonical := rfl

@[simp] theorem replayBody_canonical {op : Nat} {pl : List Byte} {body : State → Option Nat → List Byte → CmdRes}
    (h : replayBody op pl = some body) (s : State) (o : Option Nat) (q : List Byte) (hc : s.canonical = true) :
    (body s o q).st.canonical = true := by
  unfold replayBody at h
  split at h <;> cases h <;> (try split) <;> simp [hc]

@[simp] theorem applyRecord_canonical (s : State) (op : Nat) (pl : List Byte) (hc : s.canonical = true) :
    (applyRecord s op pl).canonical = true := by
  unfold applyRecord
  split
  · exact hc
  · rename_i body e
    split
    · exact hc
    · extract_lets s1
      have h1 : s1.canonical = true := by simp only [s1]; split <;> simp [hc]
      have h2 := replayBody_canonical e s1 none pl h1
      split <;> rename_i e2 <;> rw [e2] at h2 <;> exact h2

@[simp] theorem endPhaseA_canonical (s : State) (op : Nat) : (endPhaseA s op).canonical = s.canonical := by
  simp [endPhaseA]

@[simp] theorem replayNext_canonical (s : State) (i : Nat) : (replayNext s i).canonical = s.canonical := rfl

@[simp] theorem replayStep_canonical (s : State) (i : Nat) (hc : s.canonical = true) :
    (replayStep s i).canonical = true := by
  unfold replayStep
  (repeat' split) <;> simp [hc]

@[simp] theorem doFwStage_canonical (s : State) (x1 : Option Nat) (pl : List Byte) (hc : s.canonical = true) :
    (doFwStage s x1 pl).st.canonical = true := by
  unfold doFwStage
  dsimp only
  (repeat' split) <;> simp [hc]

@[simp] theorem doFwVerify_canonical (s : State) (x1 : Option Nat) (x2 : List Byte) (hc : s.canonical = true) :
    (doFwVerify s x1 x2).st.canonical = true := by
  unfold doFwVerify
  dsimp only
  (repeat' split) <;> simp [hc]

@[simp] theorem verifyBusy_canonical (s : State) (x1 : List Byte) (hc : s.canonical = true) :
    (verifyBusy s x1).2.canonical = true := by
  simp [verifyBusy, hc]

@[simp] theorem doFwActivate_canonical (s : State) (mbx : Option Nat) (x1 : List Byte) (hc : s.canonical = true) :
    (doFwActivate s mbx x1).st.canonical = true := by
  unfold doFwActivate
  (repeat' split) <;> simp [hc]

@[simp] theorem doFwCommit_canonical (s : State) (x1 : Option Nat) (pl : List Byte) (hc : s.canonical = true) :
    (doFwCommit s x1 pl).st.canonical = true := by
  unfold doFwCommit
  dsimp only
  (repeat' split) <;> simp [hc]

@[simp] theorem doNvmRead_canonical (s : State) (x1 : Option Nat) (pl : List Byte) :
    (doNvmRead s x1 pl).st.canonical = s.canonical := by
  unfold doNvmRead
  dsimp only
  (repeat' split) <;> simp

@[simp] theorem crcFinish_canonical (s : State) (u : Nat) (hc : s.canonical = true) :
    (crcFinish s u).canonical = true := by
  unfold crcFinish
  dsimp only
  (repeat' split) <;> simp [hc]

@[simp] theorem crcDirect_canonical (s : State) (u o v : Nat) : (crcDirect s u o v).canonical = s.canonical := by
  simp [crcDirect]

/-! ## Flits -/

@[simp] theorem ackTo_canonical (s : State) (p : Nat) (ack : BitVec 10) :
    (ackTo s p ack).canonical = s.canonical := by
  unfold ackTo
  dsimp only
  (repeat' split) <;> simp

@[simp] theorem rpqIn_canonical (s : State) (p : Nat) (ack : BitVec 10) (hc : s.canonical = true) :
    (rpqIn s p ack).canonical = true := by
  simp [rpqIn, hc]

@[simp] theorem wantReplay_canonical (s : State) (p : Nat) : (wantReplay s p).canonical = s.canonical := by
  simp [wantReplay]

@[simp] theorem acceptFlit_canonical (s : State) (p : Nat) (f : RawFlit) (hc : s.canonical = true) :
    (acceptFlit s p f).canonical = true := by
  simp [acceptFlit, hc]

@[simp] theorem dlfIn_canonical (s : State) (p : Nat) (f : RawFlit) (hc : s.canonical = true) :
    (dlfIn s p f).canonical = true := by
  simp [dlfIn, hc]

@[simp] theorem goodFlit_canonical (s : State) (p : Nat) (f : RawFlit) (hc : s.canonical = true) :
    (goodFlit s p f).canonical = true := by
  simp [goodFlit, hc]

@[simp] theorem resend_canonical (s : State) (p : Nat) (f : TxFlit) (rest : List TxFlit) :
    (resend s p f rest).canonical = s.canonical := rfl

@[simp] theorem settlePm_canonical (s : State) (p : Nat) : (settlePm s p).canonical = s.canonical := by
  simp [settlePm]

@[simp] theorem newFlit_canonical (s : State) (p : Nat) : (newFlit s p).canonical = s.canonical := by
  simp [newFlit]

@[simp] theorem trowelStep_canonical (s : State) (hc : s.canonical = true) : (trowelStep s).canonical = true := by
  simp [trowelStep, hc]

@[simp] theorem dueStep_canonical (s : State) (hc : s.canonical = true) : (dueStep s).canonical = true := by
  simp [dueStep, hc]

/-! ## The sideband -/

@[simp] theorem smb0Start_canonical (s : State) (addr : BitVec 7) (hc : s.canonical = true) :
    (smb0Start s addr).2.canonical = true := by
  unfold smb0Start
  dsimp only
  (repeat' split) <;> simp [hc]

@[simp] theorem smb1Start_canonical (s : State) (addr : BitVec 7) (hc : s.canonical = true) :
    (smb1Start s addr).2.canonical = true := by
  unfold smb1Start
  dsimp only
  (repeat' split) <;> simp [hc]

@[simp] theorem sent_canonical (s : State) (o : Option (List Byte)) : (sent s o).canonical = s.canonical := rfl

@[simp] theorem smb0Wake_canonical (s : State) : (smb0Wake s).canonical = s.canonical := by
  simp [smb0Wake]

@[simp] theorem ptrAdvance_canonical (s : State) (n : Nat) : (ptrAdvance s n).canonical = s.canonical := by
  simp [ptrAdvance]

@[simp] theorem mbbCheck_canonical (s : State) (p n : Nat) (hc : s.canonical = true) :
    (mbbCheck s p n).canonical = true := foldl_keeps_canonical id _ (fun t o ht => readMb_canonical t _ ht) _ _ hc

@[simp] theorem ptrRead_canonical (s : State) (p n : Nat) (hc : s.canonical = true) :
    (ptrRead s p n).2.canonical = true := by
  unfold ptrRead
  (repeat' split) <;> simp [hc]

@[simp] theorem crcWords_canonical (s : State) (u n o : Nat) (bs : List Byte) (hc : s.canonical = true) :
    (crcWords s u n o bs).canonical = true := by
  induction n generalizing s o bs with
  | zero => simp [hc, crcWords]
  | succ n ih =>
    simp only [crcWords]
    (repeat' split) <;> simp [hc, ih]

@[simp] theorem ptrWrite_canonical (s : State) (p : Nat) (bs : List Byte) (hc : s.canonical = true) :
    (ptrWrite s p bs).canonical = true := by
  unfold ptrWrite
  (repeat' split) <;> simp [hc]

@[simp] theorem discard_canonical (s : State) (forPec : Bool) : (discard s forPec).canonical = s.canonical := rfl

theorem blockWrite_canonical (s : State) (w : SmbWrite) (cmd : Nat) (fits : State → Bool) (use : State → State)
    (hu : ∀ s, s.canonical = true → (use s).canonical = true) (hc : s.canonical = true) :
    (blockWrite s w cmd fits use).canonical = true := by
  unfold blockWrite
  dsimp only
  (repeat' split) <;> simp [hu, hc]

@[simp] theorem setTelem_canonical (s : State) (n : Nat) (f : Telem → Telem) :
    (setTelem s n f).canonical = s.canonical := rfl

@[simp] theorem pollEnd_canonical (s : State) (n tries : Nat) (r : PollEnd) :
    (pollEnd s n tries r).canonical = s.canonical := by
  unfold pollEnd
  (repeat' split) <;> simp

@[simp] theorem smb1Read_canonical (s : State) (addr : BitVec 7) (cmd : Nat) (bs : List Byte)
    (hc : s.canonical = true) :
    (smb1Read s addr cmd bs).canonical = true := by
  simp [smb1Read, hc]

@[simp] theorem setBoard_canonical (s : State) (f : Board → Board) : (setBoard s f).canonical = s.canonical := rfl

@[simp] theorem enterSys_canonical (s : State) (hc : s.canonical = true) : (enterSys s).canonical = true := by
  simp [enterSys, hc]

@[simp] theorem startHub_canonical (s : State) (hc : s.canonical = true) : (startHub s).canonical = true := by
  simp [startHub, hc]

@[simp] theorem sampleStraps_canonical (s : State) : (sampleStraps s).canonical = s.canonical := rfl

@[simp] theorem regWrite_canonical (s : State) (o : Nat) (p : Part) (v : BitVec 64) (hc : s.canonical = true) :
    (regWrite s o p v).canonical = true := by
  unfold regWrite
  (repeat' split) <;> simp [hc]

end Sys2Proof.Machine
end

section
/-!
SUPPORT. What every command keeps: the queue of waiting commands, the Grave state and the canonical form of the memories
(O13, O14, O15); one step, and the reset state (O12, O16).
-/
namespace Sys2Proof.Machine

/-- Where a command's answer is a next state, that state satisfies P. -/
def Leaves (o : Out) (P : State → Prop) : Prop := ∀ t, o = .next t → P t

@[simp] theorem leaves_next {t : State} {P : State → Prop} : Leaves (.next t) P ↔ P t :=
  ⟨fun h => h t rfl, fun h u e => by injection e with e; exact e ▸ h⟩

theorem leaves_fault {r : Fault} {P : State → Prop} : Leaves (.fault r) P := fun _ e => by injection e

/-- The queue of waiting commands stands, a Grave state is not left, and memories in canonical form stay so. -/
def State.Keeps (s t : State) : Prop :=
  t.pending = s.pending ∧ (s.flt.grave = true → t.flt.grave = true) ∧ (s.canonical = true → t.canonical = true)

theorem State.Keeps.refl (s : State) : s.Keeps s := ⟨rfl, id, id⟩

theorem State.Keeps.trans {s t u : State} (h : s.Keeps t) (h' : t.Keeps u) : s.Keeps u :=
  ⟨h'.1.trans h.1, h'.2.1 ∘ h.2.1, h'.2.2 ∘ h.2.2⟩

theorem keeps_of {s t : State} (h : t.pending = s.pending ∧ t.flt.grave = s.flt.grave)
    (hc : s.canonical = true → t.canonical = true) : s.Keeps t :=
  ⟨h.1, fun hg => h.2.trans hg, hc⟩

/-- A mailbox row keeps what its body keeps. -/
theorem keeps_mbRun {s : State} {m op : Nat} {form : List Byte → Bool} {busy : State → List Byte → List Byte × State}
    {body : State → Option Nat → List Byte → CmdRes} (hb : ∀ (s : State) pl, s.Keeps (busy s pl).2)
    (hd : ∀ (s : State) o pl, s.Keeps (body s o pl).st) : s.Keeps (mbRun s m op form busy body) := by
  have hfin : ∀ (t : State) st de r, t.Keeps (mbFinish t m st de r) := fun t st de r =>
    keeps_of (by simp) fun hc => by simp [hc]
  unfold mbRun
  split
  · exact .refl s
  · extract_lets pl t
    have ht : s.Keeps t := by simp only [t]; split <;> exact keeps_of (by simp) fun hc => by simp [hc]
    clear_value t
    split
    · exact (ht.trans (hb t pl)).trans (hfin _ _ _ _)
    · have h := hd t (some m) pl
      split <;> rename_i e <;> rw [e] at h
      · exact (ht.trans h).trans (hfin _ _ _ _)
      · exact (ht.trans h).trans (keeps_of (by simp) fun hc => by simpa using hc)

theorem keeps_mbRun1 {s : State} {m op : Nat} {body : State → Option Nat → List Byte → CmdRes}
    (hd : ∀ (s : State) o pl, s.Keeps (body s o pl).st) : s.Keeps (mbRun1 s m op body) :=
  keeps_mbRun (fun s _ => .refl s) hd

theorem keeps_takeEvent (s : State) (src : Nat) (dom : Option Nat) (detail : BitVec 64) :
    s.Keeps (takeEvent s src dom detail) :=
  ⟨(takeEvent_frame ..).1, fun h => takeEvent_grave h .., fun hc => takeEvent_canonical _ _ _ _ hc⟩

theorem keeps_doInjectCollector (s : State) (o : Option Nat) (pl : List Byte) :
    s.Keeps (doInjectCollector s o pl).st :=
  ⟨(doInjectCollector_frame ..).1, fun h => doInjectCollector_grave h .., fun hc => doInjectCollector_canonical _ _ _ hc⟩

theorem keeps_of_drop {s t : State} {p : Nat} {m : Msg} {l : LAddr} (h : enter s p m l = .drop t) : s.Keeps t :=
  keeps_of ⟨(enter_drop h).1, (enter_drop h).2.2⟩ fun hc => enter_drop_canonical hc h

theorem keeps_of_take {s t : State} {p : Nat} {m : Msg} {l : LAddr} (h : enter s p m l = .take t) : s.Keeps t :=
  keeps_of ⟨(enter_take h).1, (enter_take h).2.2⟩ fun hc => enter_take_canonical hc h

theorem keeps_foldl {α : Type} (f : State → α → State) (hf : ∀ (s : State) a, s.Keeps (f s a)) (l : List α) (s : State) :
    s.Keeps (l.foldl f s) := by
  induction l generalizing s with
  | nil => exact .refl s
  | cons a l ih => exact (hf s a).trans (ih _)

theorem keeps_blockWrite (s : State) (w : SmbWrite) (cmd : Nat) (fits : State → Bool) (use : State → State)
    (hu : ∀ s, (use s).fx = s.fx) (hc : ∀ s, s.canonical = true → (use s).canonical = true) :
    s.Keeps (blockWrite s w cmd fits use) :=
  keeps_of ⟨(fx_of (blockWrite_fx s w cmd fits use hu)).1, (fx_of (blockWrite_fx s w cmd fits use hu)).2.2⟩
    fun h => blockWrite_canonical s w cmd fits use hc h

/-! ## Rows whose shape is their own -/

theorem flitReceive_keeps (p : Fin 20) (f : RawFlit) (s : State) : Leaves (execFlitReceive p f s) s.Keeps := by
  unfold execFlitReceive
  dsimp only
  split
  · exact leaves_fault
  · (repeat' split) <;> exact leaves_next.2 (keeps_of (by simp) fun hc => by simp [hc])

theorem mcp_keeps (p : Fin 20) (h : Hdr) (laddr : LAddr) (htag : BitVec 14) (s : State) :
    Leaves (execMcp p h laddr htag s) s.Keeps := by
  unfold execMcp
  dsimp only
  split
  · exact leaves_next.2 (.refl s)
  · split <;> rename_i t e
    · exact leaves_next.2 (keeps_of_drop e)
    · split <;> exact leaves_next.2 ((keeps_of_take e).trans (keeps_of (by simp) fun hc => by simp [hc]))

theorem dmm_keeps (p : Fin 20) (f : DatF) (data : Line) (s : State) : Leaves (execDmm p f data s) s.Keeps := by
  unfold execDmm
  dsimp only
  split
  · exact leaves_next.2 (.refl s)
  · split <;> rename_i t e
    · exact leaves_next.2 (keeps_of_drop e)
    · split <;> exact leaves_next.2 ((keeps_of_take e).trans (keeps_of (by simp) fun hc => by simp [hc]))

theorem directoryWordDmm_keeps (p : Fin 20) (f : DatF) (data : Line) (s : State) :
    Leaves (execDirectoryWordDmm p f data s) s.Keeps := by
  unfold execDirectoryWordDmm
  dsimp only
  split
  · exact leaves_next.2 (.refl s)
  · split <;> rename_i t e
    · exact leaves_next.2 (keeps_of_drop e)
    · split <;> exact leaves_next.2 ((keeps_of_take e).trans (keeps_of (by simp) fun hc => by simp [hc]))

theorem dfw_keeps (p : Fin 20) (f : DatF) (data : Line) (s : State) : Leaves (execDfw p f data s) s.Keeps := by
  unfold execDfw
  dsimp only
  split
  · exact leaves_next.2 (.refl s)
  · split <;> rename_i t e
    · exact leaves_next.2 (keeps_of_drop e)
    · have hk := keeps_of_take e
      have hd : t.Keeps (destNow t p (.dat .dfw f data)).2 := keeps_of (by simp) fun hc => by simp [hc]
      split
      · exact leaves_next.2 (hk.trans (keeps_of (by simp) fun hc => by simp [hc]))
      · split
        · exact leaves_next.2 (hk.trans (keeps_of (by simp) fun hc => by simp [hc]))
        · split <;> rename_i e2 <;> rw [e2] at hd <;>
            exact leaves_next.2 ((hk.trans hd).trans (keeps_of (by simp) fun hc => by simp [hc]))

theorem proxySnoop_keeps (p : Fin 20) (f : SnpF) (s : State) : Leaves (execProxySnoop p f s) s.Keeps := by
  unfold execProxySnoop
  dsimp only
  split
  · exact leaves_next.2 (.refl s)
  · split <;> rename_i t e
    · exact leaves_next.2 (keeps_of_drop e)
    · exact leaves_next.2 ((keeps_of_take e).trans (keeps_of (by simp) fun hc => by simp [hc]))

theorem directoryFillResume_keeps (sl : Fin 17) (t : Fin 64) (s : State) :
    Leaves (execDirectoryFillResume sl t s) s.Keeps := by
  unfold execDirectoryFillResume
  dsimp only
  split
  · split
    · next x _ _ _ w dirty _ =>
      have hk : s.Keeps (dirFill s x w dirty).2.2 := keeps_of (by simp) fun hc => by simp [hc]
      split
      · exact leaves_next.2 (hk.trans (keeps_of (by simp) fun hc => by simp [hc]))
      · exact leaves_next.2 hk
    · exact leaves_next.2 (.refl s)
  · exact leaves_next.2 (.refl s)

theorem dsGatePass_keeps (a : Fin 16) (stream : BitVec 6) (s : State) :
    Leaves (execDsGatePass a stream s) s.Keeps := by
  unfold execDsGatePass
  dsimp only
  split
  · split
    · exact leaves_next.2 (.refl s)
    · split
      · exact leaves_next.2 (.trans (keeps_of (by simp) fun hc => by simp [hc])
          (keeps_foldl (fun s r => nakReq s r 2 none) (fun t r => keeps_of (by simp) fun hc => by simp [hc]) _ _))
      · split <;> exact leaves_next.2 (keeps_of (by simp) fun hc => by simp [hc])
  · exact leaves_next.2 (.refl s)

theorem stopStep_keeps (s : State) : Leaves (execStopStep s) s.Keeps := by
  have hf := keeps_foldl (fun s p => s.updFore p foreEnd) (fun t p => keeps_of (by simp) fun hc => by simp [hc])
    agentPorts
  have hn : ∀ t : State, t.Keeps (netUpdate t) := fun t => keeps_of (by simp) fun hc => by simp [hc]
  unfold execStopStep
  dsimp only
  split
  · refine leaves_next.2 (State.Keeps.trans (State.Keeps.trans ?_ (hf (s.updKt _))) (hn _))
    exact keeps_of (by simp) fun hc => by simp [hc]
  · exact leaves_next.2 (.refl s)

theorem dormantEntry_keeps (s : State) : Leaves (execDormantEntry s) s.Keeps := by
  have hf := keeps_foldl dormantPort (fun t p => keeps_of (by simp) fun hc => by simp [hc]) allPorts s
  unfold execDormantEntry
  dsimp only
  split
  · exact leaves_next.2 (hf.trans (keeps_of (by simp) fun hc => by simp [hc]))
  · exact leaves_next.2 (.refl s)

theorem selftestCopyComplete_keeps (s : State) : Leaves (execSelftestCopyComplete s) s.Keeps := by
  unfold execSelftestCopyComplete
  dsimp only
  split
  · next t _ _ =>
    have hk : s.Keeps (copyReads s t.unit t.src) := keeps_of (by simp) fun hc => by simp [hc]
    split
    · split
      · exact leaves_next.2 hk
      · exact leaves_next.2 (hk.trans (keeps_of (by simp) fun hc => by simp [hc]))
    · exact leaves_next.2 (.refl s)
  · exact leaves_next.2 (.refl s)

theorem spareInitialTest_keeps (ok : BitVec 34) (s : State) : Leaves (execSpareInitialTest ok s) s.Keeps := by
  unfold execSpareInitialTest
  split
  · refine leaves_next.2 (keeps_foldl _ (fun t u => ?_) _ _)
    dsimp only
    split <;> exact keeps_of (by simp) fun hc => by simp [hc]
  · exact leaves_next.2 (.refl s)

theorem faultEvent_keeps (src : Fin 64) (dom : Option (Fin 8)) (detail : BitVec 64) (s : State) :
    Leaves (execFaultEvent src dom detail s) s.Keeps := by
  unfold execFaultEvent
  split
  · exact leaves_next.2 (keeps_takeEvent ..)
  · exact leaves_next.2 (.refl s)

theorem setPtr_keeps (w : SmbWrite) (s : State) : Leaves (execSetPtr w s) s.Keeps :=
  leaves_next.2 (keeps_blockWrite _ _ _ _ _ (fun s => by simp [State.fx]) fun s hc => by simp [hc])

theorem write_keeps (w : SmbWrite) (s : State) : Leaves (execWrite w s) s.Keeps :=
  leaves_next.2 (keeps_blockWrite _ _ _ _ _ (fun s => by simp [State.fx]) fun s hc => by simp [hc])

/-! ## One row after another -/

theorem portDetect_keeps (p : Fin 20) (found : Bool) (s : State) : Leaves (execPortDetect p found s) s.Keeps := by
  unfold execPortDetect
  dsimp only
  (repeat' split) <;> exact leaves_next.2 (keeps_of (by simp) fun hc => by simp [hc])

theorem trainingComplete_keeps (p : Fin 20) (r : Trained) (s : State) :
    Leaves (execTrainingComplete p r s) s.Keeps := by
  unfold execTrainingComplete
  dsimp only
  (repeat' split) <;> exact leaves_next.2 (keeps_of (by simp) fun hc => by simp [hc])

theorem replayTimeout_keeps (p : Fin 20) (s : State) : Leaves (execReplayTimeout p s) s.Keeps := by
  unfold execReplayTimeout
  (repeat' split) <;> exact leaves_next.2 (keeps_of (by simp) fun hc => by simp [hc])

theorem recoveryExit_keeps (p : Fin 20) (s : State) : Leaves (execRecoveryExit p s) s.Keeps := by
  unfold execRecoveryExit
  dsimp only
  (repeat' split) <;> exact leaves_next.2 (keeps_of (by simp) fun hc => by simp [hc])

theorem recoveryTimeout_keeps (p : Fin 20) (s : State) : Leaves (execRecoveryTimeout p s) s.Keeps := by
  unfold execRecoveryTimeout
  dsimp only
  (repeat' split) <;> exact leaves_next.2 (keeps_of (by simp) fun hc => by simp [hc])

theorem flitTransmit_keeps (p : Fin 20) (s : State) : Leaves (execFlitTransmit p s) s.Keeps := by
  unfold execFlitTransmit
  dsimp only
  (repeat' split) <;> exact leaves_next.2 (keeps_of (by simp) fun hc => by simp [hc])

theorem linkDown_keeps (p : Fin 20) (reason : BitVec 8) (s : State) : Leaves (execLinkDown p reason s) s.Keeps := by
  unfold execLinkDown
  (repeat' split) <;> exact leaves_next.2 (keeps_of (by simp) fun hc => by simp [hc])

theorem farEndIdle_keeps (p : Fin 20) (s : State) : Leaves (execFarEndIdle p s) s.Keeps := by
  unfold execFarEndIdle
  dsimp only
  (repeat' split) <;> exact leaves_next.2 (keeps_of (by simp) fun hc => by simp [hc])

theorem cap_keeps (p : Fin 20) (c : CapF) (s : State) : Leaves (execCap p c s) s.Keeps := by
  unfold execCap
  dsimp only
  (repeat' split) <;> exact leaves_next.2 (keeps_of (by simp) fun hc => by simp [hc])

theorem capAck_keeps (p : Fin 20) (result : BitVec 8) (port : BitVec 5) (s : State) :
    Leaves (execCapAck p result port s) s.Keeps := by
  unfold execCapAck
  dsimp only
  (repeat' split) <;> exact leaves_next.2 (keeps_of (by simp) fun hc => by simp [hc])

theorem capTimeout_keeps (p : Fin 20) (s : State) : Leaves (execCapTimeout p s) s.Keeps := by
  unfold execCapTimeout
  (repeat' split) <;> exact leaves_next.2 (keeps_of (by simp) fun hc => by simp [hc])

theorem simmerRequest_keeps (p : Fin 20) (s : State) : Leaves (execSimmerRequest p s) s.Keeps := by
  unfold execSimmerRequest
  dsimp only
  (repeat' split) <;> exact leaves_next.2 (keeps_of (by simp) fun hc => by simp [hc])

theorem simmerAccept_keeps (p : Fin 20) (s : State) : Leaves (execSimmerAccept p s) s.Keeps := by
  unfold execSimmerAccept
  dsimp only
  (repeat' split) <;> exact leaves_next.2 (keeps_of (by simp) fun hc => by simp [hc])

theorem simmerRefuse_keeps (p : Fin 20) (s : State) : Leaves (execSimmerRefuse p s) s.Keeps := by
  unfold execSimmerRefuse
  dsimp only
  (repeat' split) <;> exact leaves_next.2 (keeps_of (by simp) fun hc => by simp [hc])

theorem simmerRequestTimeout_keeps (p : Fin 20) (s : State) : Leaves (execSimmerRequestTimeout p s) s.Keeps := by
  unfold execSimmerRequestTimeout
  (repeat' split) <;> exact leaves_next.2 (keeps_of (by simp) fun hc => by simp [hc])

theorem simmerEntryComplete_keeps (p : Fin 20) (s : State) : Leaves (execSimmerEntryComplete p s) s.Keeps := by
  unfold execSimmerEntryComplete
  dsimp only
  (repeat' split) <;> exact leaves_next.2 (keeps_of (by simp) fun hc => by simp [hc])

theorem portIdleTimeout_keeps (p : Fin 20) (s : State) : Leaves (execPortIdleTimeout p s) s.Keeps := by
  unfold execPortIdleTimeout
  (repeat' split) <;> exact leaves_next.2 (keeps_of (by simp) fun hc => by simp [hc])

theorem simmerExit_keeps (p : Fin 20) (s : State) : Leaves (execSimmerExit p s) s.Keeps := by
  unfold execSimmerExit
  dsimp only
  (repeat' split) <;> exact leaves_next.2 (keeps_of (by simp) fun hc => by simp [hc])

theorem simmerExitStart_keeps (p : Fin 20) (s : State) : Leaves (execSimmerExitStart p s) s.Keeps := by
  unfold execSimmerExitStart
  dsimp only
  (repeat' split) <;> exact leaves_next.2 (keeps_of (by simp) fun hc => by simp [hc])

theorem simmerExitSlow_keeps (p : Fin 20) (s : State) : Leaves (execSimmerExitSlow p s) s.Keeps := by
  unfold execSimmerExitSlow
  dsimp only
  (repeat' split) <;> exact leaves_next.2 (keeps_of (by simp) fun hc => by simp [hc])

theorem assignAfterRelease_keeps (a : Fin 16) (s : State) : Leaves (execAssignAfterRelease a s) s.Keeps := by
  unfold execAssignAfterRelease
  dsimp only
  (repeat' split) <;> exact leaves_next.2 (keeps_of (by simp) fun hc => by simp [hc])

theorem rds_keeps (p : Fin 20) (h : Hdr) (f : ReqF) (s : State) : Leaves (execRds p h f s) s.Keeps := by
  unfold execRds
  exact leaves_next.2 (keeps_of (by simp) fun hc => by simp [hc])

theorem rdo_keeps (p : Fin 20) (h : Hdr) (f : ReqF) (s : State) : Leaves (execRdo p h f s) s.Keeps := by
  unfold execRdo
  exact leaves_next.2 (keeps_of (by simp) fun hc => by simp [hc])

theorem rdc_keeps (p : Fin 20) (h : Hdr) (f : ReqF) (s : State) : Leaves (execRdc p h f s) s.Keeps := by
  unfold execRdc
  exact leaves_next.2 (keeps_of (by simp) fun hc => by simp [hc])

theorem upg_keeps (p : Fin 20) (h : Hdr) (f : ReqF) (s : State) : Leaves (execUpg p h f s) s.Keeps := by
  unfold execUpg
  exact leaves_next.2 (keeps_of (by simp) fun hc => by simp [hc])

theorem wrl_keeps (p : Fin 20) (h : Hdr) (f : ReqF) (data : Line) (s : State) :
    Leaves (execWrl p h f data s) s.Keeps := by
  unfold execWrl
  exact leaves_next.2 (keeps_of (by simp) fun hc => by simp [hc])

theorem pmk_keeps (p : Fin 20) (h : Hdr) (stream : BitVec 6) (mask : BitVec 64) (s : State) :
    Leaves (execPmk p h stream mask s) s.Keeps := by
  unfold execPmk
  dsimp only
  (repeat' split) <;> exact leaves_next.2 (keeps_of (by simp) fun hc => by simp [hc])

theorem wrp_keeps (p : Fin 20) (h : Hdr) (f : ReqF) (data : Line) (s : State) :
    Leaves (execWrp p h f data s) s.Keeps := by
  unfold execWrp
  exact leaves_next.2 (keeps_of (by simp) fun hc => by simp [hc])

theorem atm_keeps (p : Fin 20) (h : Hdr) (f : ReqF) (data : Line) (s : State) :
    Leaves (execAtm p h f data s) s.Keeps := by
  unfold execAtm
  exact leaves_next.2 (keeps_of (by simp) fun hc => by simp [hc])

theorem rnc_keeps (p : Fin 20) (h : Hdr) (f : ReqF) (s : State) : Leaves (execRnc p h f s) s.Keeps := by
  unfold execRnc
  exact leaves_next.2 (keeps_of (by simp) fun hc => by simp [hc])

theorem wnc_keeps (p : Fin 20) (h : Hdr) (f : ReqF) (data : Line) (s : State) :
    Leaves (execWnc p h f data s) s.Keeps := by
  unfold execWnc
  exact leaves_next.2 (keeps_of (by simp) fun hc => by simp [hc])

theorem cure_keeps (p : Fin 20) (h : Hdr) (f : ReqF) (s : State) : Leaves (execCure p h f s) s.Keeps := by
  unfold execCure
  exact leaves_next.2 (keeps_of (by simp) fun hc => by simp [hc])

theorem wbm_keeps (p : Fin 20) (h : Hdr) (laddr : LAddr) (data : Line) (s : State) :
    Leaves (execWbm p h laddr data s) s.Keeps := by
  unfold execWbm
  exact leaves_next.2 (keeps_of (by simp) fun hc => by simp [hc])

theorem evc_keeps (p : Fin 20) (h : Hdr) (laddr : LAddr) (s : State) : Leaves (execEvc p h laddr s) s.Keeps := by
  unfold execEvc
  exact leaves_next.2 (keeps_of (by simp) fun hc => by simp [hc])

theorem sri_keeps (p : Fin 20) (f : AnsF) (s : State) : Leaves (execSri p f s) s.Keeps := by
  unfold execSri
  exact leaves_next.2 (keeps_of (by simp) fun hc => by simp [hc])

theorem srs_keeps (p : Fin 20) (f : AnsF) (s : State) : Leaves (execSrs p f s) s.Keeps := by
  unfold execSrs
  exact leaves_next.2 (keeps_of (by simp) fun hc => by simp [hc])

theorem srf_keeps (p : Fin 20) (f : AnsF) (s : State) : Leaves (execSrf p f s) s.Keeps := by
  unfold execSrf
  exact leaves_next.2 (keeps_of (by simp) fun hc => by simp [hc])

theorem srm_keeps (p : Fin 20) (f : AnsF) (s : State) : Leaves (execSrm p f s) s.Keeps := by
  unfold execSrm
  exact leaves_next.2 (keeps_of (by simp) fun hc => by simp [hc])

theorem srd_keeps (p : Fin 20) (f : AnsF) (data : Line) (s : State) : Leaves (execSrd p f data s) s.Keeps := by
  unfold execSrd
  exact leaves_next.2 (keeps_of (by simp) fun hc => by simp [hc])

theorem passOn_keeps (p : Fin 20) (m : Msg) (s : State) : Leaves (execPassOn p m s) s.Keeps := by
  unfold execPassOn
  dsimp only
  (repeat' split) <;> exact leaves_next.2 (keeps_of (by simp) fun hc => by simp [hc])

theorem pwi_keeps (a : Fin 16) (f : PwiF) (s : State) : Leaves (execPwi a f s) s.Keeps := by
  unfold execPwi
  dsimp only
  (repeat' split) <;> exact leaves_next.2 (keeps_of (by simp) fun hc => by simp [hc])

theorem grantPlacement_keeps (sl : Fin 17) (t : Fin 64) (s : State) : Leaves (execGrantPlacement sl t s) s.Keeps := by
  unfold execGrantPlacement
  (repeat' split) <;> exact leaves_next.2 (keeps_of (by simp) fun hc => by simp [hc])

theorem mrqPlacement_keeps (sl : Fin 17) (t : Fin 64) (s : State) : Leaves (execMrqPlacement sl t s) s.Keeps := by
  unfold execMrqPlacement
  dsimp only
  (repeat' split) <;> exact leaves_next.2 (keeps_of (by simp) fun hc => by simp [hc])

theorem ticketWindowExpiry_keeps (sl : Fin 17) (t : Fin 64) (s : State) :
    Leaves (execTicketWindowExpiry sl t s) s.Keeps := by
  unfold execTicketWindowExpiry
  (repeat' split) <;> exact leaves_next.2 (keeps_of (by simp) fun hc => by simp [hc])

theorem tAnswerExpiry_keeps (sl : Fin 17) (t : Fin 64) (s : State) : Leaves (execTAnswerExpiry sl t s) s.Keeps := by
  unfold execTAnswerExpiry
  (repeat' split) <;> exact leaves_next.2 (keeps_of (by simp) fun hc => by simp [hc])

theorem tSnoopExpiry_keeps (w : AnswerWait) (s : State) : Leaves (execTSnoopExpiry w s) s.Keeps := by
  unfold execTSnoopExpiry
  (repeat' split) <;> exact leaves_next.2 (keeps_of (by simp) fun hc => by simp [hc])

theorem tTrackerExpiry_keeps (sl : Fin 17) (t : Fin 64) (s : State) : Leaves (execTTrackerExpiry sl t s) s.Keeps := by
  unfold execTTrackerExpiry
  (repeat' split) <;> exact leaves_next.2 (keeps_of (by simp) fun hc => by simp [hc])

theorem quiesced_keeps (d : Fin 8) (s : State) : Leaves (execQuiesced d s) s.Keeps := by
  unfold execQuiesced
  (repeat' split) <;> exact leaves_next.2 (keeps_of (by simp) fun hc => by simp [hc])

theorem holdIdleLimit_keeps (sl : Fin 17) (t : Fin 64) (s : State) : Leaves (execHoldIdleLimit sl t s) s.Keeps := by
  unfold execHoldIdleLimit
  exact leaves_next.2 (keeps_of (by simp) fun hc => by simp [hc])

theorem holdTimeLimit_keeps (sl : Fin 17) (t : Fin 64) (s : State) : Leaves (execHoldTimeLimit sl t s) s.Keeps := by
  unfold execHoldTimeLimit
  exact leaves_next.2 (keeps_of (by simp) fun hc => by simp [hc])

theorem cureComplete_keeps (a : Fin 16) (tid : BitVec 12) (s : State) :
    Leaves (execCureComplete a tid s) s.Keeps := by
  unfold execCureComplete
  (repeat' split) <;> exact leaves_next.2 (keeps_of (by simp) fun hc => by simp [hc])

theorem mergeEntryAge_keeps (i : Fin 64) (s : State) : Leaves (execMergeEntryAge i s) s.Keeps := by
  unfold execMergeEntryAge
  (repeat' split) <;> exact leaves_next.2 (keeps_of (by simp) fun hc => by simp [hc])

theorem mergePressureDrain_keeps (s : State) : Leaves (execMergePressureDrain s) s.Keeps := by
  unfold execMergePressureDrain
  dsimp only
  (repeat' split) <;> exact leaves_next.2 (keeps_of (by simp) fun hc => by simp [hc])

theorem drainWaiterResume_keeps (sl : Fin 17) (t : Fin 64) (s : State) :
    Leaves (execDrainWaiterResume sl t s) s.Keeps := by
  unfold execDrainWaiterResume
  dsimp only
  (repeat' split) <;> exact leaves_next.2 (keeps_of (by simp) fun hc => by simp [hc])

theorem sweepMwr_keeps (d : Fin 8) (s : State) : Leaves (execSweepMwr d s) s.Keeps := by
  unfold execSweepMwr
  (repeat' split) <;> exact leaves_next.2 (keeps_of (by simp) fun hc => by simp [hc])

theorem zeroSweepComplete_keeps (d : Fin 8) (s : State) : Leaves (execZeroSweepComplete d s) s.Keeps := by
  unfold execZeroSweepComplete
  (repeat' split) <;> exact leaves_next.2 (keeps_of (by simp) fun hc => by simp [hc])

theorem sweepTimeout_keeps (d : Fin 8) (s : State) : Leaves (execSweepTimeout d s) s.Keeps := by
  unfold execSweepTimeout
  (repeat' split) <;> exact leaves_next.2 (keeps_of (by simp) fun hc => by simp [hc])

theorem stagePNotice_keeps (p : Fin 20) (n : AssignF) (s : State) : Leaves (execStagePNotice p n s) s.Keeps := by
  unfold execStagePNotice
  exact leaves_next.2 (keeps_of (by simp) fun hc => by simp [hc])

theorem stageRNotice_keeps (p : Fin 20) (n : AssignF) (s : State) : Leaves (execStageRNotice p n s) s.Keeps := by
  unfold execStageRNotice
  exact leaves_next.2 (keeps_of (by simp) fun hc => by simp [hc])

theorem spanRelease_keeps (p : Fin 20) (d : Fin 8) (s : State) : Leaves (execSpanRelease p d s) s.Keeps := by
  unfold execSpanRelease
  dsimp only
  (repeat' split) <;> exact leaves_next.2 (keeps_of (by simp) fun hc => by simp [hc])

theorem stagePComplete_keeps (d : Fin 8) (s : State) : Leaves (execStagePComplete d s) s.Keeps := by
  unfold execStagePComplete
  dsimp only
  (repeat' split) <;> exact leaves_next.2 (keeps_of (by simp) fun hc => by simp [hc])

theorem stageRComplete_keeps (d : Fin 8) (s : State) : Leaves (execStageRComplete d s) s.Keeps := by
  unfold execStageRComplete
  (repeat' split) <;> exact leaves_next.2 (keeps_of (by simp) fun hc => by simp [hc])

theorem stageTimeout_keeps (d : Fin 8) (s : State) : Leaves (execStageTimeout d s) s.Keeps := by
  unfold execStageTimeout
  (repeat' split) <;> exact leaves_next.2 (keeps_of (by simp) fun hc => by simp [hc])

theorem pllLock_keeps (s : State) : Leaves (execPllLock s) s.Keeps := by
  unfold execPllLock
  dsimp only
  (repeat' split) <;> exact leaves_next.2 (keeps_of (by simp) fun hc => by simp [hc])

theorem pllLockTimeout_keeps (s : State) : Leaves (execPllLockTimeout s) s.Keeps := by
  unfold execPllLockTimeout
  dsimp only
  (repeat' split) <;> exact leaves_next.2 (keeps_of (by simp) fun hc => by simp [hc])

theorem pllLockLoss_keeps (s : State) : Leaves (execPllLockLoss s) s.Keeps := by
  unfold execPllLockLoss
  (repeat' split) <;> exact leaves_next.2 (keeps_of (by simp) fun hc => by simp [hc])

theorem steepIdleElapsed_keeps (s : State) : Leaves (execSteepIdleElapsed s) s.Keeps := by
  unfold execSteepIdleElapsed
  (repeat' split) <;> exact leaves_next.2 (keeps_of (by simp) fun hc => by simp [hc])

theorem wakeNEdge_keeps (a : Fin 16) (s : State) : Leaves (execWakeNEdge a s) s.Keeps := by
  unfold execWakeNEdge
  dsimp only
  (repeat' split) <;> exact leaves_next.2 (keeps_of (by simp) fun hc => by simp [hc])

theorem wakeNetFall_keeps (s : State) : Leaves (execWakeNetFall s) s.Keeps := by
  unfold execWakeNetFall
  (repeat' split) <;> exact leaves_next.2 (keeps_of (by simp) fun hc => by simp [hc])

theorem dormantAssign_keeps (s : State) : Leaves (execDormantAssign s) s.Keeps := by
  unfold execDormantAssign
  (repeat' split) <;> exact leaves_next.2 (keeps_of (by simp) fun hc => by simp [hc])

theorem wakeTrainingTimeout_keeps (p : Fin 20) (s : State) : Leaves (execWakeTrainingTimeout p s) s.Keeps := by
  unfold execWakeTrainingTimeout
  (repeat' split) <;> exact leaves_next.2 (keeps_of (by simp) fun hc => by simp [hc])

theorem droopStretch_keeps (s : State) : Leaves (execDroopStretch s) s.Keeps := by
  unfold execDroopStretch
  dsimp only
  (repeat' split) <;> exact leaves_next.2 (keeps_of (by simp) fun hc => by simp [hc])

theorem droopEase_keeps (s : State) : Leaves (execDroopEase s) s.Keeps := by
  unfold execDroopEase
  dsimp only
  (repeat' split) <;> exact leaves_next.2 (keeps_of (by simp) fun hc => by simp [hc])

theorem stretchEpisodeLong_keeps (s : State) : Leaves (execStretchEpisodeLong s) s.Keeps := by
  unfold execStretchEpisodeLong
  (repeat' split) <;> exact leaves_next.2 (keeps_of (by simp) fun hc => by simp [hc])

theorem droopNEdge_keeps (a : Fin 16) (s : State) : Leaves (execDroopNEdge a s) s.Keeps := by
  unfold execDroopNEdge
  (repeat' split) <;> exact leaves_next.2 (keeps_of (by simp) fun hc => by simp [hc])

theorem pacingWindow_keeps (a : Fin 16) (sinceTrigger : Nat) (s : State) :
    Leaves (execPacingWindow a sinceTrigger s) s.Keeps := by
  unfold execPacingWindow
  (repeat' split) <;> exact leaves_next.2 (keeps_of (by simp) fun hc => by simp [hc])

theorem watchEnd_keeps (a : Fin 16) (s : State) : Leaves (execWatchEnd a s) s.Keeps := by
  unfold execWatchEnd
  (repeat' split) <;> exact leaves_next.2 (keeps_of (by simp) fun hc => by simp [hc])

theorem fallHintEnd_keeps (a : Fin 16) (s : State) : Leaves (execFallHintEnd a s) s.Keeps := by
  unfold execFallHintEnd
  (repeat' split) <;> exact leaves_next.2 (keeps_of (by simp) fun hc => by simp [hc])

theorem fallSignature_keeps (a : Fin 16) (s : State) : Leaves (execFallSignature a s) s.Keeps := by
  unfold execFallSignature
  dsimp only
  (repeat' split) <;> exact leaves_next.2 (keeps_of (by simp) fun hc => by simp [hc])

theorem ldhDeferredChange_keeps (a : Fin 16) (s : State) : Leaves (execLdhDeferredChange a s) s.Keeps := by
  unfold execLdhDeferredChange
  (repeat' split) <;> exact leaves_next.2 (keeps_of (by simp) fun hc => by simp [hc])

theorem paceForced_keeps (sl : Fin 17) (t : Fin 64) (s : State) : Leaves (execPaceForced sl t s) s.Keeps := by
  unfold execPaceForced
  (repeat' split) <;> exact leaves_next.2 (keeps_of (by simp) fun hc => by simp [hc])

theorem bucketLeak_keeps (m : Fin 12) (s : State) : Leaves (execBucketLeak m s) s.Keeps := by
  unfold execBucketLeak
  dsimp only
  (repeat' split) <;> exact leaves_next.2 (keeps_of (by simp) fun hc => by simp [hc])

theorem trowelStep_keeps (s : State) : Leaves (execTrowelStep s) s.Keeps := by
  unfold execTrowelStep
  (repeat' split) <;> exact leaves_next.2 (keeps_of (by simp) fun hc => by simp [hc])

theorem selftestStep_keeps (s : State) : Leaves (execSelftestStep s) s.Keeps := by
  unfold execSelftestStep
  (repeat' split) <;> exact leaves_next.2 (keeps_of (by simp) fun hc => by simp [hc])

theorem switchWindowEnd_keeps (s : State) : Leaves (execSwitchWindowEnd s) s.Keeps := by
  unfold execSwitchWindowEnd
  (repeat' split) <;> exact leaves_next.2 (keeps_of (by simp) fun hc => by simp [hc])

theorem sliceDrainComplete_keeps (s : State) : Leaves (execSliceDrainComplete s) s.Keeps := by
  unfold execSliceDrainComplete
  dsimp only
  (repeat' split) <;> exact leaves_next.2 (keeps_of (by simp) fun hc => by simp [hc])

theorem selftestTestComplete_keeps (pass : Bool) (s : State) : Leaves (execSelftestTestComplete pass s) s.Keeps := by
  unfold execSelftestTestComplete
  (repeat' split) <;> exact leaves_next.2 (keeps_of (by simp) fun hc => by simp [hc])

theorem sliceFail_keeps (phys : Fin 17) (cause : Fin 3) (s : State) :
    Leaves (execSliceFail phys cause s) s.Keeps := by
  unfold execSliceFail
  (repeat' split) <;> exact leaves_next.2 (keeps_of (by simp) fun hc => by simp [hc])

theorem spareTakeover_keeps (phys : Fin 17) (s : State) : Leaves (execSpareTakeover phys s) s.Keeps := by
  unfold execSpareTakeover
  (repeat' split) <;> exact leaves_next.2 (keeps_of (by simp) fun hc => by simp [hc])

theorem sliceSpread_keeps (phys : Fin 17) (s : State) : Leaves (execSliceSpread phys s) s.Keeps := by
  unfold execSliceSpread
  (repeat' split) <;> exact leaves_next.2 (keeps_of (by simp) fun hc => by simp [hc])

theorem itBkt_keeps (m : Fin 12) (part : Part) (v : BitVec 64) (s : State) :
    Leaves (execItBkt m part v s) s.Keeps := by
  unfold execItBkt
  (repeat' split) <;> exact leaves_next.2 (keeps_of (by simp) fun hc => by simp [hc])

theorem itFlipCtl_keeps (v : BitVec 32) (s : State) : Leaves (execItFlipCtl v s) s.Keeps := by
  unfold execItFlipCtl
  (repeat' split) <;> exact leaves_next.2 (keeps_of (by simp) fun hc => by simp [hc])

theorem chkrd_keeps (v : BitVec 32) (s : State) : Leaves (execChkrd v s) s.Keeps := by
  unfold execChkrd
  (repeat' split) <;> exact leaves_next.2 (keeps_of (by simp) fun hc => by simp [hc])

theorem itRawData_keeps (v : BitVec 32) (s : State) : Leaves (execItRawData v s) s.Keeps := by
  unfold execItRawData
  (repeat' split) <;> exact leaves_next.2 (keeps_of (by simp) fun hc => by simp [hc])

theorem itRawChkb_keeps (v : BitVec 32) (s : State) : Leaves (execItRawChkb v s) s.Keeps := by
  unfold execItRawChkb
  (repeat' split) <;> exact leaves_next.2 (keeps_of (by simp) fun hc => by simp [hc])

theorem itInjCtl_keeps (v : BitVec 32) (s : State) : Leaves (execItInjCtl v s) s.Keeps := by
  unfold execItInjCtl
  (repeat' split) <;> exact leaves_next.2 (keeps_of (by simp) fun hc => by simp [hc])

theorem cosyConfigCheck_keeps (s : State) : Leaves (execCosyConfigCheck s) s.Keeps := by
  unfold execCosyConfigCheck
  (repeat' split) <;> exact leaves_next.2 (keeps_of (by simp) fun hc => by simp [hc])

theorem faultNoticePlacement_keeps (a : Fin 16) (s : State) : Leaves (execFaultNoticePlacement a s) s.Keeps := by
  unfold execFaultNoticePlacement
  (repeat' split) <;> exact leaves_next.2 (keeps_of (by simp) fun hc => by simp [hc])

theorem logWrite_keeps (s : State) : Leaves (execLogWrite s) s.Keeps := by
  unfold execLogWrite
  dsimp only
  (repeat' split) <;> exact leaves_next.2 (keeps_of (by simp) fun hc => by simp [hc])

theorem tokenGain_keeps (s : State) : Leaves (execTokenGain s) s.Keeps := by
  unfold execTokenGain
  (repeat' split) <;> exact leaves_next.2 (keeps_of (by simp) fun hc => by simp [hc])

theorem logScan_keeps (s : State) : Leaves (execLogScan s) s.Keeps := by
  unfold execLogScan
  (repeat' split) <;> exact leaves_next.2 (keeps_of (by simp) fun hc => by simp [hc])

theorem fcStatus_keeps (part : Part) (v : BitVec 64) (s : State) : Leaves (execFcStatus part v s) s.Keeps := by
  unfold execFcStatus
  (repeat' split) <;> exact leaves_next.2 (keeps_of (by simp) fun hc => by simp [hc])

theorem sensorReading_keeps (v : BitVec 16) (s : State) : Leaves (execSensorReading v s) s.Keeps := by
  unfold execSensorReading
  dsimp only
  (repeat' split) <;> exact leaves_next.2 (keeps_of (by simp) fun hc => by simp [hc])

theorem mbDoorbell_keeps (m : Fin 10) (who : BitVec 7) (v : BitVec 32) (s : State) :
    Leaves (execMbDoorbell m who v s) s.Keeps := by
  unfold execMbDoorbell
  (repeat' split) <;> exact leaves_next.2 (keeps_of (by simp) fun hc => by simp [hc])

theorem mailboxWindowWrite_keeps (m : Fin 10) (who : BitVec 7) (off : Fin 320) (bytes : List Byte) (s : State) :
    Leaves (execMailboxWindowWrite m who off bytes s) s.Keeps := by
  unfold execMailboxWindowWrite
  (repeat' split) <;> exact leaves_next.2 (keeps_of (by simp) fun hc => by simp [hc])

theorem mbLockClaim_keeps (d : Fin 8) (who : BitVec 7) (s : State) : Leaves (execMbLockClaim d who s) s.Keeps := by
  unfold execMbLockClaim
  (repeat' split) <;> exact leaves_next.2 (keeps_of (by simp) fun hc => by simp [hc])

theorem mbLockRelease_keeps (d : Fin 8) (who : BitVec 7) (s : State) :
    Leaves (execMbLockRelease d who s) s.Keeps := by
  unfold execMbLockRelease
  (repeat' split) <;> exact leaves_next.2 (keeps_of (by simp) fun hc => by simp [hc])

theorem lockIdleTimeout_keeps (d : Fin 8) (s : State) : Leaves (execLockIdleTimeout d s) s.Keeps := by
  unfold execLockIdleTimeout
  (repeat' split) <;> exact leaves_next.2 (keeps_of (by simp) fun hc => by simp [hc])

theorem mailboxNoticePlacement_keeps (m : Fin 10) (s : State) : Leaves (execMailboxNoticePlacement m s) s.Keeps := by
  unfold execMailboxNoticePlacement
  (repeat' split) <;> exact leaves_next.2 (keeps_of (by simp) fun hc => by simp [hc])

theorem mailboxOpen_keeps (s : State) : Leaves (execMailboxOpen s) s.Keeps := by
  unfold execMailboxOpen
  (repeat' split) <;> exact leaves_next.2 (keeps_of (by simp) fun hc => by simp [hc])

theorem replayRecord_keeps (s : State) : Leaves (execReplayRecord s) s.Keeps := by
  unfold execReplayRecord
  (repeat' split) <;> exact leaves_next.2 (keeps_of (by simp) fun hc => by simp [hc])

theorem hubInfo_keeps (m : Fin 10) (s : State) : Leaves (execHubInfo m s) s.Keeps := by
  unfold execHubInfo
  exact leaves_next.2 (keeps_mbRun1 fun s o pl => keeps_of (by simp) fun hc => by simp [hc])

theorem fwInfo_keeps (m : Fin 10) (s : State) : Leaves (execFwInfo m s) s.Keeps := by
  unfold execFwInfo
  exact leaves_next.2 (keeps_mbRun1 fun s o pl => keeps_of (by simp) fun hc => by simp [hc])

theorem caps_keeps (m : Fin 10) (s : State) : Leaves (execCaps m s) s.Keeps := by
  unfold execCaps
  exact leaves_next.2 (keeps_mbRun1 fun s o pl => keeps_of (by simp) fun hc => by simp [hc])

theorem configRead_keeps (m : Fin 10) (s : State) : Leaves (execConfigRead m s) s.Keeps := by
  unfold execConfigRead
  exact leaves_next.2 (keeps_mbRun1 fun s o pl => keeps_of (by simp) fun hc => by simp [hc])

theorem configWrite_keeps (m : Fin 10) (s : State) : Leaves (execConfigWrite m s) s.Keeps := by
  unfold execConfigWrite
  exact leaves_next.2 (keeps_mbRun1 fun s o pl => keeps_of (by simp) fun hc => by simp [hc])

theorem configCommit_keeps (m : Fin 10) (s : State) : Leaves (execConfigCommit m s) s.Keeps := by
  unfold execConfigCommit
  exact leaves_next.2 (keeps_mbRun (fun s _ => .refl s) fun s o pl => keeps_of (by simp) fun hc => by simp [hc])

theorem configLock_keeps (m : Fin 10) (s : State) : Leaves (execConfigLock m s) s.Keeps := by
  unfold execConfigLock
  exact leaves_next.2 (keeps_mbRun1 fun s o pl => keeps_of (by simp) fun hc => by simp [hc])

theorem regionSet_keeps (m : Fin 10) (s : State) : Leaves (execRegionSet m s) s.Keeps := by
  unfold execRegionSet
  exact leaves_next.2 (keeps_mbRun1 fun s o pl => keeps_of (by simp) fun hc => by simp [hc])

theorem regionGet_keeps (m : Fin 10) (s : State) : Leaves (execRegionGet m s) s.Keeps := by
  unfold execRegionGet
  exact leaves_next.2 (keeps_mbRun1 fun s o pl => keeps_of (by simp) fun hc => by simp [hc])

theorem proximitySet_keeps (m : Fin 10) (s : State) : Leaves (execProximitySet m s) s.Keeps := by
  unfold execProximitySet
  exact leaves_next.2 (keeps_mbRun1 fun s o pl => keeps_of (by simp) fun hc => by simp [hc])

theorem portConfig_keeps (m : Fin 10) (s : State) : Leaves (execPortConfig m s) s.Keeps := by
  unfold execPortConfig
  exact leaves_next.2 (keeps_mbRun1 fun s o pl => keeps_of (by simp) fun hc => by simp [hc])

theorem domainCreate_keeps (m : Fin 10) (s : State) : Leaves (execDomainCreate m s) s.Keeps := by
  unfold execDomainCreate
  exact leaves_next.2 (keeps_mbRun1 fun s o pl => keeps_of (by simp) fun hc => by simp [hc])

theorem domainStart_keeps (m : Fin 10) (s : State) : Leaves (execDomainStart m s) s.Keeps := by
  unfold execDomainStart
  exact leaves_next.2 (keeps_mbRun1 fun s o pl => keeps_of (by simp) fun hc => by simp [hc])

theorem domainQuiesce_keeps (m : Fin 10) (s : State) : Leaves (execDomainQuiesce m s) s.Keeps := by
  unfold execDomainQuiesce
  exact leaves_next.2 (keeps_mbRun1 fun s o pl => keeps_of (by simp) fun hc => by simp [hc])

theorem domainStop_keeps (m : Fin 10) (s : State) : Leaves (execDomainStop m s) s.Keeps := by
  unfold execDomainStop
  exact leaves_next.2 (keeps_mbRun1 fun s o pl => keeps_of (by simp) fun hc => by simp [hc])

theorem domainStatus_keeps (m : Fin 10) (s : State) : Leaves (execDomainStatus m s) s.Keeps := by
  unfold execDomainStatus
  exact leaves_next.2 (keeps_mbRun1 fun s o pl => keeps_of (by simp) fun hc => by simp [hc])

theorem dirSweepWriteback_keeps (m : Fin 10) (s : State) : Leaves (execDirSweepWriteback m s) s.Keeps := by
  unfold execDirSweepWriteback
  exact leaves_next.2 (keeps_mbRun (fun s _ => .refl s) fun s o pl => keeps_of (by simp) fun hc => by simp [hc])

theorem dirSweepZero_keeps (m : Fin 10) (s : State) : Leaves (execDirSweepZero m s) s.Keeps := by
  unfold execDirSweepZero
  exact leaves_next.2 (keeps_mbRun (fun s _ => .refl s) fun s o pl => keeps_of (by simp) fun hc => by simp [hc])

theorem quotaSet_keeps (m : Fin 10) (s : State) : Leaves (execQuotaSet m s) s.Keeps := by
  unfold execQuotaSet
  exact leaves_next.2 (keeps_mbRun1 fun s o pl => keeps_of (by simp) fun hc => by simp [hc])

theorem agentAdmitPort_keeps (m : Fin 10) (s : State) : Leaves (execAgentAdmitPort m s) s.Keeps := by
  unfold execAgentAdmitPort
  exact leaves_next.2 (keeps_mbRun (fun s _ => .refl s) fun s o pl => keeps_of (by simp) fun hc => by simp [hc])

theorem agentAdmitRecord_keeps (m : Fin 10) (s : State) : Leaves (execAgentAdmitRecord m s) s.Keeps := by
  unfold execAgentAdmitRecord
  exact leaves_next.2 (keeps_mbRun (fun s _ => .refl s) fun s o pl => keeps_of (by simp) fun hc => by simp [hc])

theorem agentExpelPort_keeps (m : Fin 10) (s : State) : Leaves (execAgentExpelPort m s) s.Keeps := by
  unfold execAgentExpelPort
  exact leaves_next.2 (keeps_mbRun (fun s _ => .refl s) fun s o pl => keeps_of (by simp) fun hc => by simp [hc])

theorem agentExpelRecord_keeps (m : Fin 10) (s : State) : Leaves (execAgentExpelRecord m s) s.Keeps := by
  unfold execAgentExpelRecord
  exact leaves_next.2 (keeps_mbRun (fun s _ => .refl s) fun s o pl => keeps_of (by simp) fun hc => by simp [hc])

theorem linkStatus_keeps (m : Fin 10) (s : State) : Leaves (execLinkStatus m s) s.Keeps := by
  unfold execLinkStatus
  exact leaves_next.2 (keeps_mbRun1 fun s o pl => keeps_of (by simp) fun hc => by simp [hc])

theorem linkRetrain_keeps (m : Fin 10) (s : State) : Leaves (execLinkRetrain m s) s.Keeps := by
  unfold execLinkRetrain
  exact leaves_next.2 (keeps_mbRun1 fun s o pl => keeps_of (by simp) fun hc => by simp [hc])

theorem linkMargin_keeps (m : Fin 10) (s : State) : Leaves (execLinkMargin m s) s.Keeps := by
  unfold execLinkMargin
  exact leaves_next.2 (keeps_mbRun1 fun s o pl => keeps_of (by simp) fun hc => by simp [hc])

theorem linkCounters_keeps (m : Fin 10) (s : State) : Leaves (execLinkCounters m s) s.Keeps := by
  unfold execLinkCounters
  exact leaves_next.2 (keeps_mbRun1 fun s o pl => keeps_of (by simp) fun hc => by simp [hc])

theorem spanSpare_keeps (m : Fin 10) (s : State) : Leaves (execSpanSpare m s) s.Keeps := by
  unfold execSpanSpare
  exact leaves_next.2 (keeps_mbRun1 fun s o pl => keeps_of (by simp) fun hc => by simp [hc])

theorem powerStateRead_keeps (m : Fin 10) (s : State) : Leaves (execPowerStateRead m s) s.Keeps := by
  unfold execPowerStateRead
  exact leaves_next.2 (keeps_mbRun (fun s _ => .refl s) fun s o pl => keeps_of (by simp) fun hc => by simp [hc])

theorem powerStateClear_keeps (m : Fin 10) (s : State) : Leaves (execPowerStateClear m s) s.Keeps := by
  unfold execPowerStateClear
  exact leaves_next.2 (keeps_mbRun (fun s _ => .refl s) fun s o pl => keeps_of (by simp) fun hc => by simp [hc])

theorem powerStateWake_keeps (m : Fin 10) (s : State) : Leaves (execPowerStateWake m s) s.Keeps := by
  unfold execPowerStateWake
  exact leaves_next.2 (keeps_mbRun (fun s _ => .refl s) fun s o pl => keeps_of (by simp) fun hc => by simp [hc])

theorem powerPolicyHub_keeps (m : Fin 10) (s : State) : Leaves (execPowerPolicyHub m s) s.Keeps := by
  unfold execPowerPolicyHub
  exact leaves_next.2 (keeps_mbRun (fun s _ => .refl s) fun s o pl => keeps_of (by simp) fun hc => by simp [hc])

theorem powerPolicyPort_keeps (m : Fin 10) (s : State) : Leaves (execPowerPolicyPort m s) s.Keeps := by
  unfold execPowerPolicyPort
  exact leaves_next.2 (keeps_mbRun (fun s _ => .refl s) fun s o pl => keeps_of (by simp) fun hc => by simp [hc])

theorem forecastStatus_keeps (m : Fin 10) (s : State) : Leaves (execForecastStatus m s) s.Keeps := by
  unfold execForecastStatus
  exact leaves_next.2 (keeps_mbRun1 fun s o pl => keeps_of (by simp) fun hc => by simp [hc])

theorem faultRead_keeps (m : Fin 10) (s : State) : Leaves (execFaultRead m s) s.Keeps := by
  unfold execFaultRead
  exact leaves_next.2 (keeps_mbRun1 fun s o pl => keeps_of (by simp) fun hc => by simp [hc])

theorem faultClear_keeps (m : Fin 10) (s : State) : Leaves (execFaultClear m s) s.Keeps := by
  unfold execFaultClear
  exact leaves_next.2 (keeps_mbRun1 fun s o pl => keeps_of (by simp) fun hc => by simp [hc])

theorem faultConfigSource_keeps (m : Fin 10) (s : State) : Leaves (execFaultConfigSource m s) s.Keeps := by
  unfold execFaultConfigSource
  exact leaves_next.2 (keeps_mbRun (fun s _ => .refl s) fun s o pl => keeps_of (by simp) fun hc => by simp [hc])

theorem faultConfigNotify_keeps (m : Fin 10) (s : State) : Leaves (execFaultConfigNotify m s) s.Keeps := by
  unfold execFaultConfigNotify
  exact leaves_next.2 (keeps_mbRun (fun s _ => .refl s) fun s o pl => keeps_of (by simp) fun hc => by simp [hc])

theorem errlogRead_keeps (m : Fin 10) (s : State) : Leaves (execErrlogRead m s) s.Keeps := by
  unfold execErrlogRead
  exact leaves_next.2 (keeps_mbRun1 fun s o pl => keeps_of (by simp) fun hc => by simp [hc])

theorem injectCollector_keeps (m : Fin 10) (s : State) : Leaves (execInjectCollector m s) s.Keeps := by
  unfold execInjectCollector
  exact leaves_next.2 (keeps_mbRun (fun s _ => .refl s) keeps_doInjectCollector)

theorem injectChecker_keeps (m : Fin 10) (s : State) : Leaves (execInjectChecker m s) s.Keeps := by
  unfold execInjectChecker
  exact leaves_next.2 (keeps_mbRun (fun s _ => .refl s) fun s o pl => keeps_of (by simp) fun hc => by simp [hc])

theorem injectFlip_keeps (m : Fin 10) (s : State) : Leaves (execInjectFlip m s) s.Keeps := by
  unfold execInjectFlip
  exact leaves_next.2 (keeps_mbRun (fun s _ => .refl s) fun s o pl => keeps_of (by simp) fun hc => by simp [hc])

theorem scrubConfig_keeps (m : Fin 10) (s : State) : Leaves (execScrubConfig m s) s.Keeps := by
  unfold execScrubConfig
  exact leaves_next.2 (keeps_mbRun1 fun s o pl => keeps_of (by simp) fun hc => by simp [hc])

theorem selftestStart_keeps (m : Fin 10) (s : State) : Leaves (execSelftestStart m s) s.Keeps := by
  unfold execSelftestStart
  exact leaves_next.2 (keeps_mbRun1 fun s o pl => keeps_of (by simp) fun hc => by simp [hc])

theorem selftestStatus_keeps (m : Fin 10) (s : State) : Leaves (execSelftestStatus m s) s.Keeps := by
  unfold execSelftestStatus
  exact leaves_next.2 (keeps_mbRun1 fun s o pl => keeps_of (by simp) fun hc => by simp [hc])

theorem sliceStatus_keeps (m : Fin 10) (s : State) : Leaves (execSliceStatus m s) s.Keeps := by
  unfold execSliceStatus
  exact leaves_next.2 (keeps_mbRun1 fun s o pl => keeps_of (by simp) fun hc => by simp [hc])

theorem fwStage_keeps (m : Fin 10) (s : State) : Leaves (execFwStage m s) s.Keeps := by
  unfold execFwStage
  exact leaves_next.2 (keeps_mbRun1 fun s o pl => keeps_of (by simp) fun hc => by simp [hc])

theorem fwVerify_keeps (m : Fin 10) (s : State) : Leaves (execFwVerify m s) s.Keeps := by
  unfold execFwVerify
  exact leaves_next.2 (keeps_mbRun (fun s pl => keeps_of (by simp) fun hc => by simp [hc]) fun s o pl => keeps_of (by simp) fun hc => by simp [hc])

theorem fwActivate_keeps (m : Fin 10) (s : State) : Leaves (execFwActivate m s) s.Keeps := by
  unfold execFwActivate
  exact leaves_next.2 (keeps_mbRun1 fun s o pl => keeps_of (by simp) fun hc => by simp [hc])

theorem fwCommitSlot_keeps (m : Fin 10) (s : State) : Leaves (execFwCommitSlot m s) s.Keeps := by
  unfold execFwCommitSlot
  exact leaves_next.2 (keeps_mbRun1 fun s o pl => keeps_of (by simp) fun hc => by simp [hc])

theorem nvmRead_keeps (m : Fin 10) (s : State) : Leaves (execNvmRead m s) s.Keeps := by
  unfold execNvmRead
  exact leaves_next.2 (keeps_mbRun1 fun s o pl => keeps_of (by simp) fun hc => by simp [hc])

theorem tempRead_keeps (m : Fin 10) (s : State) : Leaves (execTempRead m s) s.Keeps := by
  unfold execTempRead
  exact leaves_next.2 (keeps_mbRun1 fun s o pl => keeps_of (by simp) fun hc => by simp [hc])

theorem statsRead_keeps (m : Fin 10) (s : State) : Leaves (execStatsRead m s) s.Keeps := by
  unfold execStatsRead
  exact leaves_next.2 (keeps_mbRun1 fun s o pl => keeps_of (by simp) fun hc => by simp [hc])

theorem watchdogExpiry_keeps (s : State) : Leaves (execWatchdogExpiry s) s.Keeps := by
  unfold execWatchdogExpiry
  dsimp only
  (repeat' split) <;> exact leaves_next.2 (keeps_of (by simp) fun hc => by simp [hc])

theorem exchangeBegin_keeps (s : State) : Leaves (execExchangeBegin s) s.Keeps := by
  unfold execExchangeBegin
  (repeat' split) <;> exact leaves_next.2 (keeps_of (by simp) fun hc => by simp [hc])

theorem exchangeFallback_keeps (pc : BitVec 32) (trapCause : Option (BitVec 8)) (s : State) :
    Leaves (execExchangeFallback pc trapCause s) s.Keeps := by
  unfold execExchangeFallback
  (repeat' split) <;> exact leaves_next.2 (keeps_of (by simp) fun hc => by simp [hc])

theorem firmwareTimer_keeps (id : Nat) (s : State) : Leaves (execFirmwareTimer id s) s.Keeps := by
  unfold execFirmwareTimer
  (repeat' split) <;> exact leaves_next.2 (keeps_of (by simp) fun hc => by simp [hc])

theorem crcCtl_keeps (u : Fin 2) (v : BitVec 32) (s : State) : Leaves (execCrcCtl u v s) s.Keeps := by
  unfold execCrcCtl
  exact leaves_next.2 (keeps_of (by simp) fun hc => by simp [hc])

theorem crcData8_keeps (u : Fin 2) (v : BitVec 8) (s : State) : Leaves (execCrcData8 u v s) s.Keeps := by
  unfold execCrcData8
  exact leaves_next.2 (keeps_of (by simp) fun hc => by simp [hc])

theorem crcData16_keeps (u : Fin 2) (v : BitVec 16) (s : State) : Leaves (execCrcData16 u v s) s.Keeps := by
  unfold execCrcData16
  exact leaves_next.2 (keeps_of (by simp) fun hc => by simp [hc])

theorem crcData32_keeps (u : Fin 2) (v : BitVec 32) (s : State) : Leaves (execCrcData32 u v s) s.Keeps := by
  unfold execCrcData32
  exact leaves_next.2 (keeps_of (by simp) fun hc => by simp [hc])

theorem crcAbsorbDone_keeps (u : Fin 2) (s : State) : Leaves (execCrcAbsorbDone u s) s.Keeps := by
  unfold execCrcAbsorbDone
  (repeat' split) <;> exact leaves_next.2 (keeps_of (by simp) fun hc => by simp [hc])

theorem smb0AddressMatch_keeps (addr : BitVec 7) (s : State) : Leaves (execSmb0AddressMatch addr s) s.Keeps := by
  unfold execSmb0AddressMatch
  dsimp only
  (repeat' split) <;> exact leaves_next.2 (keeps_of (by simp) fun hc => by simp [hc])

theorem read_keeps (addr : BitVec 7) (stop : Bool) (s : State) : Leaves (execRead addr stop s) s.Keeps := by
  unfold execRead
  dsimp only
  (repeat' split) <;> exact leaves_next.2 (keeps_of (by simp) fun hc => by simp [hc])

theorem status_keeps (addr : BitVec 7) (s : State) : Leaves (execStatus addr s) s.Keeps := by
  unfold execStatus
  dsimp only
  (repeat' split) <;> exact leaves_next.2 (keeps_of (by simp) fun hc => by simp [hc])

theorem alertResponse_keeps (others : Byte) (s : State) : Leaves (execAlertResponse others s) s.Keeps := by
  unfold execAlertResponse
  dsimp only
  (repeat' split) <;> exact leaves_next.2 (keeps_of (by simp) fun hc => by simp [hc])

theorem smbusTimeout_keeps (i : SmbIf) (s : State) : Leaves (execSmbusTimeout i s) s.Keeps := by
  unfold execSmbusTimeout
  (repeat' split) <;> exact leaves_next.2 (keeps_of (by simp) fun hc => by simp [hc])

theorem datapathRegate_keeps (i : SmbIf) (s : State) : Leaves (execDatapathRegate i s) s.Keeps := by
  unfold execDatapathRegate
  (repeat' split) <;> exact leaves_next.2 (keeps_of (by simp) fun hc => by simp [hc])

theorem smb1Wake_keeps (s : State) : Leaves (execSmb1Wake s) s.Keeps := by
  unfold execSmb1Wake
  (repeat' split) <;> exact leaves_next.2 (keeps_of (by simp) fun hc => by simp [hc])

theorem smb1TempNow_keeps (addr : BitVec 7) (s : State) : Leaves (execSmb1TempNow addr s) s.Keeps := by
  unfold execSmb1TempNow
  exact leaves_next.2 (keeps_of (by simp) fun hc => by simp [hc])

theorem smb1TempMax_keeps (addr : BitVec 7) (s : State) : Leaves (execSmb1TempMax addr s) s.Keeps := by
  unfold execSmb1TempMax
  exact leaves_next.2 (keeps_of (by simp) fun hc => by simp [hc])

theorem smb1TempLimit_keeps (addr : BitVec 7) (s : State) : Leaves (execSmb1TempLimit addr s) s.Keeps := by
  unfold execSmb1TempLimit
  exact leaves_next.2 (keeps_of (by simp) fun hc => by simp [hc])

theorem smb1State_keeps (addr : BitVec 7) (s : State) : Leaves (execSmb1State addr s) s.Keeps := by
  unfold execSmb1State
  exact leaves_next.2 (keeps_of (by simp) fun hc => by simp [hc])

theorem smb1HubInfo_keeps (addr : BitVec 7) (s : State) : Leaves (execSmb1HubInfo addr s) s.Keeps := by
  unfold execSmb1HubInfo
  dsimp only
  (repeat' split) <;> exact leaves_next.2 (keeps_of (by simp) fun hc => by simp [hc])

theorem smb1FcStatus_keeps (addr : BitVec 7) (s : State) : Leaves (execSmb1FcStatus addr s) s.Keeps := by
  unfold execSmb1FcStatus
  exact leaves_next.2 (keeps_of (by simp) fun hc => by simp [hc])

theorem smb1TelemetrySelect_keeps (addr : BitVec 7) (port : Byte) (p : Option Byte) (s : State) :
    Leaves (execSmb1TelemetrySelect addr port p s) s.Keeps := by
  unfold execSmb1TelemetrySelect
  dsimp only
  (repeat' split) <;> exact leaves_next.2 (keeps_of (by simp) fun hc => by simp [hc])

theorem smb1Telemetry_keeps (addr : BitVec 7) (s : State) : Leaves (execSmb1Telemetry addr s) s.Keeps := by
  unfold execSmb1Telemetry
  exact leaves_next.2 (keeps_of (by simp) fun hc => by simp [hc])

theorem smbcPoll_keeps (r : PollEnd) (s : State) : Leaves (execSmbcPoll r s) s.Keeps := by
  unfold execSmbcPoll
  (repeat' split) <;> exact leaves_next.2 (keeps_of (by simp) fun hc => by simp [hc])

theorem regulatorProbe_keeps (n : Fin 16) (r : ProbeEnd) (s : State) : Leaves (execRegulatorProbe n r s) s.Keeps := by
  unfold execRegulatorProbe
  (repeat' split) <;> exact leaves_next.2 (keeps_of (by simp) fun hc => by simp [hc])

theorem smbcRetry_keeps (r : PollEnd) (s : State) : Leaves (execSmbcRetry r s) s.Keeps := by
  unfold execSmbcRetry
  (repeat' split) <;> exact leaves_next.2 (keeps_of (by simp) fun hc => by simp [hc])

theorem busRecovery_keeps (clocks : Fin 10) (sdaLow : Bool) (s : State) :
    Leaves (execBusRecovery clocks sdaLow s) s.Keeps := by
  unfold execBusRecovery
  (repeat' split) <;> exact leaves_next.2 (keeps_of (by simp) fun hc => by simp [hc])

theorem smbcAbandon_keeps (s : State) : Leaves (execSmbcAbandon s) s.Keeps := by
  unfold execSmbcAbandon
  (repeat' split) <;> exact leaves_next.2 (keeps_of (by simp) fun hc => by simp [hc])

theorem pwrOk_keeps (level : Bool) (s : State) : Leaves (execPwrOk level s) s.Keeps := by
  unfold execPwrOk
  (repeat' split) <;> exact leaves_next.2 (keeps_of (by simp) fun hc => by simp [hc])

theorem sysRstN_keeps (level : Bool) (s : State) : Leaves (execSysRstN level s) s.Keeps := by
  unfold execSysRstN
  (repeat' split) <;> exact leaves_next.2 (keeps_of (by simp) fun hc => by simp [hc])

theorem resetRelease_keeps (s : State) : Leaves (execResetRelease s) s.Keeps := by
  unfold execResetRelease
  (repeat' split) <;> exact leaves_next.2 (keeps_of (by simp) fun hc => by simp [hc])

theorem tapInstruction_keeps (i : TapOp) (s : State) : Leaves (execTapInstruction i s) s.Keeps := by
  unfold execTapInstruction
  exact leaves_next.2 (keeps_of (by simp) fun hc => by simp [hc])

theorem registerWrite_keeps (off : BitVec 18) (part : Part) (v : BitVec 64) (s : State) :
    Leaves (execRegisterWrite off part v s) s.Keeps := by
  unfold execRegisterWrite
  (repeat' split) <;> exact leaves_next.2 (keeps_of (by simp) fun hc => by simp [hc])

theorem largeRiseImminent_keeps (a : Fin 16) (s : State) : Leaves (execLargeRiseImminent a s) s.Keeps := by
  unfold execLargeRiseImminent
  dsimp only
  (repeat' split) <;> exact leaves_next.2 (keeps_of (by simp) fun hc => by simp [hc])

theorem exchangeComplete_keeps (s : State) : Leaves (execExchangeComplete s) s.Keeps := by
  unfold execExchangeComplete
  (repeat' split) <;> exact leaves_next.2 (keeps_of (by simp) fun hc => by simp [hc])

theorem downProcessingComplete_keeps (d : Fin 8) (s : State) : Leaves (execDownProcessingComplete d s) s.Keeps := by
  unfold execDownProcessingComplete
  (repeat' split) <;> exact leaves_next.2 (keeps_of (by simp) fun hc => by simp [hc])

theorem replayAdmitTimeout_keeps (s : State) : Leaves (execReplayAdmitTimeout s) s.Keeps := by
  unfold execReplayAdmitTimeout
  (repeat' split) <;> exact leaves_next.2 (keeps_of (by simp) fun hc => by simp [hc])

theorem farEndRecovery_keeps (p : Fin 20) (s : State) : Leaves (execFarEndRecovery p s) s.Keeps := by
  unfold execFarEndRecovery
  (repeat' split) <;> exact leaves_next.2 (keeps_of (by simp) fun hc => by simp [hc])

/-! ## Every command -/

/-- What every command but a power-on reset leaves as it is. -/
theorem exec_keeps (c : Instr) (s : State) (hpor : c ≠ .powerOnReset) : Leaves (exec c s) s.Keeps := by
  cases c with
  | powerOnReset => exact absurd rfl hpor
  | portDetect _ _ => exact portDetect_keeps _ _ _
  | trainingComplete _ _ => exact trainingComplete_keeps _ _ _
  | flitReceive _ _ => exact flitReceive_keeps _ _ _
  | replayTimeout _ => exact replayTimeout_keeps _ _
  | recoveryExit _ => exact recoveryExit_keeps _ _
  | recoveryTimeout _ => exact recoveryTimeout_keeps _ _
  | flitTransmit _ => exact flitTransmit_keeps _ _
  | linkDown _ _ => exact linkDown_keeps _ _ _
  | farEndIdle _ => exact farEndIdle_keeps _ _
  | cap _ _ => exact cap_keeps _ _ _
  | capAck _ _ _ => exact capAck_keeps _ _ _ _
  | capTimeout _ => exact capTimeout_keeps _ _
  | simmerRequest _ => exact simmerRequest_keeps _ _
  | simmerAccept _ => exact simmerAccept_keeps _ _
  | simmerRefuse _ => exact simmerRefuse_keeps _ _
  | simmerRequestTimeout _ => exact simmerRequestTimeout_keeps _ _
  | simmerEntryComplete _ => exact simmerEntryComplete_keeps _ _
  | portIdleTimeout _ => exact portIdleTimeout_keeps _ _
  | simmerExit _ => exact simmerExit_keeps _ _
  | simmerExitStart _ => exact simmerExitStart_keeps _ _
  | simmerExitSlow _ => exact simmerExitSlow_keeps _ _
  | assignAfterRelease _ => exact assignAfterRelease_keeps _ _
  | rds _ _ _ => exact rds_keeps _ _ _ _
  | rdo _ _ _ => exact rdo_keeps _ _ _ _
  | rdc _ _ _ => exact rdc_keeps _ _ _ _
  | upg _ _ _ => exact upg_keeps _ _ _ _
  | wrl _ _ _ _ => exact wrl_keeps _ _ _ _ _
  | pmk _ _ _ _ => exact pmk_keeps _ _ _ _ _
  | wrp _ _ _ _ => exact wrp_keeps _ _ _ _ _
  | atm _ _ _ _ => exact atm_keeps _ _ _ _ _
  | rnc _ _ _ => exact rnc_keeps _ _ _ _
  | wnc _ _ _ _ => exact wnc_keeps _ _ _ _ _
  | cure _ _ _ => exact cure_keeps _ _ _ _
  | wbm _ _ _ _ => exact wbm_keeps _ _ _ _ _
  | evc _ _ _ => exact evc_keeps _ _ _ _
  | sri _ _ => exact sri_keeps _ _ _
  | srs _ _ => exact srs_keeps _ _ _
  | srf _ _ => exact srf_keeps _ _ _
  | srm _ _ => exact srm_keeps _ _ _
  | srd _ _ _ => exact srd_keeps _ _ _ _
  | mcp _ _ _ _ => exact mcp_keeps _ _ _ _ _
  | dmm _ _ _ => exact dmm_keeps _ _ _ _
  | directoryWordDmm _ _ _ => exact directoryWordDmm_keeps _ _ _ _
  | dfw _ _ _ => exact dfw_keeps _ _ _ _
  | proxySnoop _ _ => exact proxySnoop_keeps _ _ _
  | passOn _ _ => exact passOn_keeps _ _ _
  | pwi _ _ => exact pwi_keeps _ _ _
  | grantPlacement _ _ => exact grantPlacement_keeps _ _ _
  | mrqPlacement _ _ => exact mrqPlacement_keeps _ _ _
  | directoryFillResume _ _ => exact directoryFillResume_keeps _ _ _
  | ticketWindowExpiry _ _ => exact ticketWindowExpiry_keeps _ _ _
  | tAnswerExpiry _ _ => exact tAnswerExpiry_keeps _ _ _
  | tSnoopExpiry _ => exact tSnoopExpiry_keeps _ _
  | tTrackerExpiry _ _ => exact tTrackerExpiry_keeps _ _ _
  | quiesced _ => exact quiesced_keeps _ _
  | holdIdleLimit _ _ => exact holdIdleLimit_keeps _ _ _
  | holdTimeLimit _ _ => exact holdTimeLimit_keeps _ _ _
  | dsGatePass _ _ => exact dsGatePass_keeps _ _ _
  | cureComplete _ _ => exact cureComplete_keeps _ _ _
  | mergeEntryAge _ => exact mergeEntryAge_keeps _ _
  | mergePressureDrain => exact mergePressureDrain_keeps _
  | drainWaiterResume _ _ => exact drainWaiterResume_keeps _ _ _
  | sweepMwr _ => exact sweepMwr_keeps _ _
  | zeroSweepComplete _ => exact zeroSweepComplete_keeps _ _
  | sweepTimeout _ => exact sweepTimeout_keeps _ _
  | stagePNotice _ _ => exact stagePNotice_keeps _ _ _
  | stageRNotice _ _ => exact stageRNotice_keeps _ _ _
  | spanRelease _ _ => exact spanRelease_keeps _ _ _
  | stagePComplete _ => exact stagePComplete_keeps _ _
  | stageRComplete _ => exact stageRComplete_keeps _ _
  | stageTimeout _ => exact stageTimeout_keeps _ _
  | pllLock => exact pllLock_keeps _
  | pllLockTimeout => exact pllLockTimeout_keeps _
  | pllLockLoss => exact pllLockLoss_keeps _
  | steepIdleElapsed => exact steepIdleElapsed_keeps _
  | stopStep => exact stopStep_keeps _
  | wakeNEdge _ => exact wakeNEdge_keeps _ _
  | wakeNetFall => exact wakeNetFall_keeps _
  | dormantEntry => exact dormantEntry_keeps _
  | dormantAssign => exact dormantAssign_keeps _
  | wakeTrainingTimeout _ => exact wakeTrainingTimeout_keeps _ _
  | droopStretch => exact droopStretch_keeps _
  | droopEase => exact droopEase_keeps _
  | stretchEpisodeLong => exact stretchEpisodeLong_keeps _
  | droopNEdge _ => exact droopNEdge_keeps _ _
  | pacingWindow _ _ => exact pacingWindow_keeps _ _ _
  | watchEnd _ => exact watchEnd_keeps _ _
  | fallHintEnd _ => exact fallHintEnd_keeps _ _
  | fallSignature _ => exact fallSignature_keeps _ _
  | ldhDeferredChange _ => exact ldhDeferredChange_keeps _ _
  | paceForced _ _ => exact paceForced_keeps _ _ _
  | bucketLeak _ => exact bucketLeak_keeps _ _
  | trowelStep => exact trowelStep_keeps _
  | selftestStep => exact selftestStep_keeps _
  | selftestCopyComplete => exact selftestCopyComplete_keeps _
  | switchWindowEnd => exact switchWindowEnd_keeps _
  | sliceDrainComplete => exact sliceDrainComplete_keeps _
  | selftestTestComplete _ => exact selftestTestComplete_keeps _ _
  | spareInitialTest _ => exact spareInitialTest_keeps _ _
  | sliceFail _ _ => exact sliceFail_keeps _ _ _
  | spareTakeover _ => exact spareTakeover_keeps _ _
  | sliceSpread _ => exact sliceSpread_keeps _ _
  | itBkt _ _ _ => exact itBkt_keeps _ _ _ _
  | itFlipCtl _ => exact itFlipCtl_keeps _ _
  | chkrd _ => exact chkrd_keeps _ _
  | itRawData _ => exact itRawData_keeps _ _
  | itRawChkb _ => exact itRawChkb_keeps _ _
  | itInjCtl _ => exact itInjCtl_keeps _ _
  | faultEvent _ _ _ => exact faultEvent_keeps _ _ _ _
  | cosyConfigCheck => exact cosyConfigCheck_keeps _
  | faultNoticePlacement _ => exact faultNoticePlacement_keeps _ _
  | logWrite => exact logWrite_keeps _
  | tokenGain => exact tokenGain_keeps _
  | logScan => exact logScan_keeps _
  | fcStatus _ _ => exact fcStatus_keeps _ _ _
  | sensorReading _ => exact sensorReading_keeps _ _
  | mbDoorbell _ _ _ => exact mbDoorbell_keeps _ _ _ _
  | mailboxWindowWrite _ _ _ _ => exact mailboxWindowWrite_keeps _ _ _ _ _
  | mbLockClaim _ _ => exact mbLockClaim_keeps _ _ _
  | mbLockRelease _ _ => exact mbLockRelease_keeps _ _ _
  | lockIdleTimeout _ => exact lockIdleTimeout_keeps _ _
  | mailboxNoticePlacement _ => exact mailboxNoticePlacement_keeps _ _
  | mailboxOpen => exact mailboxOpen_keeps _
  | replayRecord => exact replayRecord_keeps _
  | hubInfo _ => exact hubInfo_keeps _ _
  | fwInfo _ => exact fwInfo_keeps _ _
  | caps _ => exact caps_keeps _ _
  | configRead _ => exact configRead_keeps _ _
  | configWrite _ => exact configWrite_keeps _ _
  | configCommit _ => exact configCommit_keeps _ _
  | configLock _ => exact configLock_keeps _ _
  | regionSet _ => exact regionSet_keeps _ _
  | regionGet _ => exact regionGet_keeps _ _
  | proximitySet _ => exact proximitySet_keeps _ _
  | portConfig _ => exact portConfig_keeps _ _
  | domainCreate _ => exact domainCreate_keeps _ _
  | domainStart _ => exact domainStart_keeps _ _
  | domainQuiesce _ => exact domainQuiesce_keeps _ _
  | domainStop _ => exact domainStop_keeps _ _
  | domainStatus _ => exact domainStatus_keeps _ _
  | dirSweepWriteback _ => exact dirSweepWriteback_keeps _ _
  | dirSweepZero _ => exact dirSweepZero_keeps _ _
  | quotaSet _ => exact quotaSet_keeps _ _
  | agentAdmitPort _ => exact agentAdmitPort_keeps _ _
  | agentAdmitRecord _ => exact agentAdmitRecord_keeps _ _
  | agentExpelPort _ => exact agentExpelPort_keeps _ _
  | agentExpelRecord _ => exact agentExpelRecord_keeps _ _
  | linkStatus _ => exact linkStatus_keeps _ _
  | linkRetrain _ => exact linkRetrain_keeps _ _
  | linkMargin _ => exact linkMargin_keeps _ _
  | linkCounters _ => exact linkCounters_keeps _ _
  | spanSpare _ => exact spanSpare_keeps _ _
  | powerStateRead _ => exact powerStateRead_keeps _ _
  | powerStateClear _ => exact powerStateClear_keeps _ _
  | powerStateWake _ => exact powerStateWake_keeps _ _
  | powerPolicyHub _ => exact powerPolicyHub_keeps _ _
  | powerPolicyPort _ => exact powerPolicyPort_keeps _ _
  | forecastStatus _ => exact forecastStatus_keeps _ _
  | faultRead _ => exact faultRead_keeps _ _
  | faultClear _ => exact faultClear_keeps _ _
  | faultConfigSource _ => exact faultConfigSource_keeps _ _
  | faultConfigNotify _ => exact faultConfigNotify_keeps _ _
  | errlogRead _ => exact errlogRead_keeps _ _
  | injectCollector _ => exact injectCollector_keeps _ _
  | injectChecker _ => exact injectChecker_keeps _ _
  | injectFlip _ => exact injectFlip_keeps _ _
  | scrubConfig _ => exact scrubConfig_keeps _ _
  | selftestStart _ => exact selftestStart_keeps _ _
  | selftestStatus _ => exact selftestStatus_keeps _ _
  | sliceStatus _ => exact sliceStatus_keeps _ _
  | fwStage _ => exact fwStage_keeps _ _
  | fwVerify _ => exact fwVerify_keeps _ _
  | fwActivate _ => exact fwActivate_keeps _ _
  | fwCommitSlot _ => exact fwCommitSlot_keeps _ _
  | nvmRead _ => exact nvmRead_keeps _ _
  | tempRead _ => exact tempRead_keeps _ _
  | statsRead _ => exact statsRead_keeps _ _
  | watchdogExpiry => exact watchdogExpiry_keeps _
  | exchangeBegin => exact exchangeBegin_keeps _
  | exchangeFallback _ _ => exact exchangeFallback_keeps _ _ _
  | firmwareTimer _ => exact firmwareTimer_keeps _ _
  | crcCtl _ _ => exact crcCtl_keeps _ _ _
  | crcData8 _ _ => exact crcData8_keeps _ _ _
  | crcData16 _ _ => exact crcData16_keeps _ _ _
  | crcData32 _ _ => exact crcData32_keeps _ _ _
  | crcAbsorbDone _ => exact crcAbsorbDone_keeps _ _
  | smb0AddressMatch _ => exact smb0AddressMatch_keeps _ _
  | setPtr _ => exact setPtr_keeps _ _
  | write _ => exact write_keeps _ _
  | read _ _ => exact read_keeps _ _ _
  | status _ => exact status_keeps _ _
  | alertResponse _ => exact alertResponse_keeps _ _
  | smbusTimeout _ => exact smbusTimeout_keeps _ _
  | datapathRegate _ => exact datapathRegate_keeps _ _
  | smb1Wake => exact smb1Wake_keeps _
  | smb1TempNow _ => exact smb1TempNow_keeps _ _
  | smb1TempMax _ => exact smb1TempMax_keeps _ _
  | smb1TempLimit _ => exact smb1TempLimit_keeps _ _
  | smb1State _ => exact smb1State_keeps _ _
  | smb1HubInfo _ => exact smb1HubInfo_keeps _ _
  | smb1FcStatus _ => exact smb1FcStatus_keeps _ _
  | smb1TelemetrySelect _ _ _ => exact smb1TelemetrySelect_keeps _ _ _ _
  | smb1Telemetry _ => exact smb1Telemetry_keeps _ _
  | smbcPoll _ => exact smbcPoll_keeps _ _
  | regulatorProbe _ _ => exact regulatorProbe_keeps _ _ _
  | smbcRetry _ => exact smbcRetry_keeps _ _
  | busRecovery _ _ => exact busRecovery_keeps _ _ _
  | smbcAbandon => exact smbcAbandon_keeps _
  | pwrOk _ => exact pwrOk_keeps _ _
  | sysRstN _ => exact sysRstN_keeps _ _
  | resetRelease => exact resetRelease_keeps _
  | tapInstruction _ => exact tapInstruction_keeps _ _
  | registerWrite _ _ _ => exact registerWrite_keeps _ _ _ _
  | largeRiseImminent _ => exact largeRiseImminent_keeps _ _
  | exchangeComplete => exact exchangeComplete_keeps _
  | downProcessingComplete _ => exact downProcessingComplete_keeps _ _
  | replayAdmitTimeout => exact replayAdmitTimeout_keeps _
  | farEndRecovery _ => exact farEndRecovery_keeps _ _

/-- A power-on reset leaves the queue of waiting commands and the canonical form of the memories. -/
theorem powerOnReset_keeps (s : State) : Leaves (exec .powerOnReset s) fun t =>
    t.pending = s.pending ∧ (s.canonical = true → t.canonical = true) :=
  leaves_next.2 ⟨clearPower_frame s, fun hc => clearPower_canonical s hc⟩

/-- Settles O12, by the equations of step. -/
theorem stepTakesTheFrontCommand : Obligations.StepTakesTheFrontCommand :=
  ⟨fun _ _ _ => rfl, fun _ => rfl⟩

/-- Settles O13: a power-on reset keeps the queue as every other command does. -/
theorem everyCommandLeavesTheQueue : Obligations.EveryCommandLeavesTheQueue := by
  intro c s t ht
  by_cases hpor : c = .powerOnReset
  · subst hpor
    exact (powerOnReset_keeps s t ht).1
  · exact (exec_keeps c s hpor t ht).1

/-- Settles O14: the front command is no power-on reset, and an idle tick changes the uptime alone. -/
theorem graveIsLeftOnlyByPowerOn : Obligations.GraveIsLeftOnlyByPowerOn := by
  intro s t hgrave hpor ht
  unfold step at ht
  split at ht
  · injection ht with ht
    exact ht ▸ hgrave
  · next c rest hpending => exact (exec_keeps c _ (hpor c rest hpending) t ht).2.1 hgrave

/-- Settles O15: every command, a power-on reset included, and the idle tick keep the canonical form. -/
theorem memoriesStayCanonical : Obligations.MemoriesStayCanonical := by
  intro s t hcanonical ht
  unfold step at ht
  split at ht
  · injection ht with ht
    exact ht ▸ hcanonical
  · next c rest _ =>
    by_cases hpor : c = .powerOnReset
    · subst hpor
      exact (powerOnReset_keeps _ t ht).2 hcanonical
    · exact (exec_keeps c _ hpor t ht).2.2 hcanonical

/-- Settles O16: the reset state is written out, field by field. -/
theorem resetStandsAsTheSpecSays : Obligations.ResetStandsAsTheSpecSays :=
  ⟨rfl, rfl, fun _ => rfl, fun _ => rfl, rfl, rfl, fun _ => rfl, rfl, rfl, rfl, rfl, rfl, rfl, rfl, rfl, rfl, rfl, rfl⟩

end Sys2Proof.Machine
end

section
/-!
SUPPORT. What the boot ROM leaves alone, and the rows of the resets and of the TAP (O45).
-/
namespace Sys2Proof.Machine

/-! ## What the boot ROM leaves alone (R487, R488) -/

/-- The ports, the domains and the mailboxes' registers. -/
def State.fabric (s : State) : Tbl Port × Tbl Dom × Tbl Mailbox := (s.ports, s.doms, s.mbs)

theorem of_fabric {s t : State} (h : t.fabric = s.fabric) : t.ports = s.ports ∧ t.doms = s.doms ∧ t.mbs = s.mbs := by
  simpa [State.fabric] using h

@[simp] theorem raise_fabric (s : State) (src : Nat) (dom : Option Nat) (detail : Nat) :
    (raise s src dom detail).fabric = s.fabric := rfl

@[simp] theorem injTake_fabric (s : State) (m : Nat) (d : Option Nat) :
    (injTake s m d).2.fabric = s.fabric := by
  unfold injTake
  dsimp only
  split <;> rfl

@[simp] theorem dropErr_fabric (s : State) (m k : Nat) : (dropErr s m k).fabric = s.fabric := rfl

@[simp] theorem ceEvent_fabric (s : State) (m : Nat) (inj : Bool) :
    (ceEvent s m inj).fabric = s.fabric := by
  unfold ceEvent
  dsimp only
  split <;> rfl

/-- An uncorrectable word of platform scope raises its lines and ends nothing. -/
theorem ueEvent_fabric (s : State) (u : UeAt) (by_ : Finder) (inj : Bool) (h : u.scope = 4) :
    (ueEvent s u by_ inj).fabric = s.fabric := by
  unfold ueEvent
  simp only [h]
  rfl

@[simp] theorem useCosy_fabric (s : State) (c : CosyItem) : (useCosy s c).2.fabric = s.fabric := by
  have drop : (dropErr (injTake s 0xB none).2 0xB (Config.cosyWord c.code).toNat).fabric = s.fabric := by simp
  unfold useCosy useMem
  rw [if_pos (Or.inr rfl)]
  dsimp only
  split
  · exact drop
  · split
    · exact drop
    · exact (ceEvent_fabric ..).trans drop
    · rw [ueEvent_fabric _ _ _ _ rfl]
      exact drop

theorem fabric_foldl {β γ : Type} (f : β × State → γ → β × State) (hf : ∀ b a, (f b a).2.fabric = b.2.fabric)
    (l : List γ) (b : β × State) : (l.foldl f b).2.fabric = b.2.fabric :=
  foldl_proj (fun b : β × State => b.2.fabric) f hf l b

@[simp] theorem freeRow_fabric (s : State) (row : Nat) : (freeRow s row).2.fabric = s.fabric := by
  unfold freeRow
  refine fabric_foldl _ (fun b i => ?_) _ _
  rfl

@[simp] theorem nvmBytes_fabric (s : State) (a n : Nat) : (nvmBytes s a n).2.fabric = s.fabric := by
  unfold nvmBytes
  split
  · rfl
  · refine fabric_foldl _ (fun b k => ?_) _ _
    dsimp only
    split <;> rfl

@[simp] theorem writeRow_fabric (s : State) (row : Nat) (bs : List Byte) :
    (writeRow s row bs).2.fabric = s.fabric := by
  unfold writeRow
  extract_lets t
  have ht : t.fabric = s.fabric := rfl
  split
  · have hf := freeRow_fabric t row
    simp only [State.fabric] at hf ht ⊢
    exact hf.trans ht
  · exact ht

@[simp] theorem writeRows_fabric (s : State) (row n : Nat) (bs : List Byte) :
    (writeRows s row n bs).2.fabric = s.fabric := by
  induction n generalizing s row bs with
  | zero => rfl
  | succ n ih =>
    simp only [writeRows]
    split
    · rfl
    · split <;> split <;> simp [ih]

@[simp] theorem writeHdr_fabric (s : State) (f : NvmHdr → NvmHdr) : (writeHdr s f).2.fabric = s.fabric :=
  writeRows_fabric _ _ _ _

@[simp] theorem bootFrom_fabric (s : State) (sl : Nat) : (bootFrom s sl).fabric = s.fabric := by
  have mark : (if slotVerified (hdrNow s) sl then s
      else (writeHdr s (markSlot sl true (slotVersion s sl))).2).fabric = s.fabric := by
    split <;> simp
  exact mark

/-- With no ring waiting, recovery changes the firmware alone. -/
theorem recovery_of_mbs_nil (s : State) (h : s.mbs = []) : recovery s = s.updFw fun w => { w with boot := .recovery } := by
  have idle (t : State) (m : Nat) (ht : t.mbs = []) : (t.mb m).waiting = false := by simp [State.mb, ht]
  unfold recovery
  generalize hs : s.updFw (fun w => { w with boot := .recovery }) = r
  have hr : r.mbs = [] := by rw [← hs]; exact h
  induction upto 10 with
  | nil => rfl
  | cons m l ih => simp [idle r m hr, ih]

@[simp] theorem updFw_fabric (s : State) (f : Firmware → Firmware) : (s.updFw f).fabric = s.fabric := rfl

theorem recovery_fabric (s : State) (h : s.mbs = []) : (recovery s).fabric = s.fabric := by
  rw [recovery_of_mbs_nil s h]
  rfl

theorem bootRom_fabric (s : State) (h : s.mbs = []) : (bootRom s).fabric = s.fabric := by
  have cosy := useCosy_fabric s .boot
  unfold bootRom
  generalize useCosy s .boot = q at cosy ⊢
  obtain ⟨bad, t⟩ := q
  have ht : t.mbs = [] := (of_fabric cosy).2.2.trans h
  split
  · rfl
  · simp_all
  · dsimp only
    split
    · simp_all
    · split <;> simp_all [recovery_fabric]

/-! ## A hub that a reset holds -/

theorem up_freshPort (t : Nat) (q : Port) : (freshPort t q).link.st.isUp = false := rfl

/-- After a rewrite of every port that leaves its link Down, no port is up. -/
theorem up_of_tmap {s : State} {t : Tbl Port} {f : Nat → Port → Port} (h : s.ports = tmap t f)
    (hf : ∀ k q, (f k q).link.st.isUp = false) (p : Nat) : s.up p = false := by
  have get (l : Tbl Port) : (tget {} (tmap l f) p).link.st.isUp = false := by
    induction l with
    | nil => rfl
    | cons e l ih =>
      simp only [tmap, List.map_cons, tget] at ih ⊢
      split
      · exact hf _ _
      · exact ih
  rw [State.up, State.port, h]
  exact get t

/-! ## The rows of the resets and of the TAP -/

theorem up_clearCommon (s : State) (p : Nat) : (clearCommon s).up p = false :=
  up_of_tmap (s := clearCommon s) (f := fun _ => freshPort s.uptime) rfl (fun _ _ => rfl) p

theorem up_clearPower (s : State) (p : Nat) : (clearPower s).up p = false :=
  up_of_tmap (s := clearPower s) (f := fun _ q => { tx := { wire := q.tx.wire } }) rfl (fun _ _ => rfl) p

theorem enterSys_of_idle {s : State} (hg : s.flt.grave = false) (hh : s.board.held = .none) :
    enterSys s = setBoard (clearSys s) fun b => { b with held := .sys } := by
  simp [enterSys, hg, hh]

theorem exec_resetRelease {s : State} (hh : s.board.held ≠ .none) (hp : s.board.pwrOk = true)
    (hr : s.board.sysRstN = true) : exec .resetRelease s = .next (startHub (sampleStraps s)) := by
  show execResetRelease s = _
  simp [execResetRelease, hh, hp, hr]

theorem tapNow_eq (level : Bool) (i : TapOp) :
    tapNow level i = if level = true ∧ tapSafe i = false then .bypass else i := by
  simp [tapNow]

/-- Settles O45: each reset row is one update of the state; on a release the boot ROM leaves the ports, the domains
and the board alone. -/
theorem resetsClearAndRelease : Obligations.ResetsClearAndRelease := by
  intro s
  refine ⟨⟨clearPower s, rfl, rfl, rfl, rfl, rfl, rfl, rfl, up_clearPower s, rfl, rfl⟩, ?_, ⟨_, rfl, rfl⟩, ?_, ?_⟩
  · intro hg hh
    constructor
    · refine ⟨_, congrArg Host.Outcome.next (enterSys_of_idle hg hh), rfl, rfl, rfl, ?_, rfl, rfl⟩
      exact up_clearCommon _
    · refine ⟨_, congrArg Host.Outcome.next (enterSys_of_idle hg hh), rfl, rfl, rfl, ?_, rfl, rfl⟩
      exact up_clearCommon _
  · intro hh hp hr hm
    have frame := bootRom_frame ((sampleStraps s).updKt fun k => { k with pllFrom := (sampleStraps s).uptime })
    have fab := of_fabric (bootRom_fabric ((sampleStraps s).updKt fun k => { k with pllFrom := (sampleStraps s).uptime }) hm)
    refine ⟨_, exec_resetRelease hh hp hr, ?_, ?_, fab.2.1, fab.1⟩
    · exact congrArg Board.held frame.2.1
    · exact congrArg Board.straps frame.2.1
  · exact fun i => ⟨_, rfl, tapNow_eq .., rfl⟩

end Sys2Proof.Machine
end

section
/-!
SUPPORT. A CRC unit's control word and its absorptions (O41).
-/
namespace Sys2Proof.Machine

theorem crcDirect_idle {s : State} {u : Nat} (ha : s.alive = true) (hb : (s.crcu u).busy = []) (o v : Nat) :
    crcDirect s u o v = s.setCrc u (crcWrite (s.crcu u) o v none) := by
  simp [crcDirect, ha, hb]

theorem crcWidth_le (poly : BitVec 2) : crcWidth poly ≤ 32 := by
  unfold crcWidth
  split
  · decide
  · split <;> decide

theorem toNat_ofNat_mod_crcWidth (n : Nat) (poly : BitVec 2) :
    (BitVec.ofNat 32 (n % 2 ^ crcWidth poly)).toNat = n % 2 ^ crcWidth poly := by
  rw [BitVec.toNat_ofNat]
  refine Nat.mod_eq_of_lt (Nat.lt_of_lt_of_le (Nat.mod_lt _ (by positivity)) ?_)
  exact Nat.pow_le_pow_right (by decide) (crcWidth_le poly)

theorem ofNat_toNat_low2 (v : BitVec 32) : BitVec.ofNat 2 v.toNat = v.extractLsb' 0 2 := by
  apply BitVec.eq_of_toNat_eq
  simp

/-- What a control word leaves of a unit: the value cut to the polynomial's width, or INIT with LOAD. -/
theorem crcCtlWrite_eq (c : Crc) (v : BitVec 32) :
    crcCtlWrite c v.toNat = { c with
      poly := v.extractLsb' 0 2, refin := v.getLsbD 2, refout := v.getLsbD 3, xout := v.getLsbD 4
      value := BitVec.ofNat 32 ((if v.getLsbD 8 then c.init else c.value).toNat % 2 ^ crcWidth (v.extractLsb' 0 2))
      count := if v.getLsbD 8 then 0 else c.count } := by
  simp only [crcCtlWrite, nbit, BitVec.testBit_toNat, ofNat_toNat_low2]
  cases v.getLsbD 8 <;> rfl

theorem foldl_crcByte_count (c : Crc) (bs : List Byte) : (bs.foldl crcByte c).count = c.count :=
  foldl_proj Crc.count crcByte (fun _ _ => rfl) bs c

/-- Settles O41: each write of an idle unit is one update of that unit, and the end of an absorption folds the inner
loop over the bytes it holds. -/
theorem crcUnitsAbsorb : Obligations.CrcUnitsAbsorb := by
  intro s u ha
  refine ⟨fun hb => ⟨fun v => ?_, fun v => ?_, fun v => ?_, fun v => ?_⟩, fun hb hans => ?_⟩
  · refine ⟨_, congrArg Host.Outcome.next (crcDirect_idle ha hb 0 v.toNat), rfl, ?_⟩
    rw [State.setCrc_crcu_same]
    simp only [crcWrite, crcCtlWrite_eq, toNat_ofNat_mod_crcWidth]
    simp +contextual
  · refine ⟨_, congrArg Host.Outcome.next (crcDirect_idle ha hb 0x20 v.toNat), rfl, ?_⟩
    simp [crcWrite, crcFeed, toBytes]
  · refine ⟨_, congrArg Host.Outcome.next (crcDirect_idle ha hb 0x24 v.toNat), rfl, ?_⟩
    simp [crcWrite, crcFeed]
  · refine ⟨_, congrArg Host.Outcome.next (crcDirect_idle ha hb 0x28 v.toNat), rfl, ?_⟩
    simp [crcWrite, crcFeed]
  · refine ⟨s.setCrc u (crcAbsorb (s.crcu u)), ?_, rfl, ?_, ?_, ?_⟩
    · show execCrcAbsorbDone u s = _
      simp [execCrcAbsorbDone, ha, hb, crcFinish, hans]
    · simp [crcAbsorb]
    · simp [crcAbsorb, foldl_crcByte_count]
    · simp [crcAbsorb]

end Sys2Proof.Machine
end

section
/-!
SUPPORT. The regulator controller's polls, probes and recoveries (O44).
-/
namespace Sys2Proof.Machine

theorem telemOf_setTelem_same (s : State) (n : Nat) (f : Telem → Telem) :
    telemOf (setTelem s n f) n = f (telemOf s n) := tget_tset_same ..

theorem telemOf_setTelem_ne (s : State) {n j : Nat} (f : Telem → Telem) (h : j ≠ n) :
    telemOf (setTelem s n f) j = telemOf s j := tget_tset_ne _ _ _ (Ne.symm h)

theorem exec_smbcPoll {s : State} {n : Nat} (h : smbcRuns s = true) (hp : s.smb.polling = none)
    (hn : nextReg s = some n) (r : PollEnd) :
    exec (.smbcPoll r) s = .next (pollEnd (s.updSmb fun b => { b with pollAt := (n + 1) % 16 }) n 0 r) := by
  show execSmbcPoll r s = _
  simp [execSmbcPoll, h, hp, hn]

theorem exec_smbcAbandon {s : State} {n : Nat} (h : smbcRuns s = true) (hp : s.smb.polling = none)
    (hn : nextReg s = some n) :
    exec .smbcAbandon s = .next (pollEnd (s.updSmb fun b => { b with pollAt := (n + 1) % 16 }) n 0 .failed) := by
  show execSmbcAbandon s = _
  simp [execSmbcAbandon, h, hp, hn]

theorem exec_smbcRetry {s : State} {n : Nat} (h : smbcRuns s = true) (hp : s.smb.polling = some n) (r : PollEnd) :
    exec (.smbcRetry r) s = .next (pollEnd s n (s.smb.retries + 1) r) := by
  show execSmbcRetry r s = _
  simp [execSmbcRetry, h, hp]

/-- A poll, however it ends, writes the controller's registers alone. -/
theorem pollEnd_rest (s : State) (n tries : Nat) (r : PollEnd) (b : Smb) :
    { pollEnd s n tries r with smb := b } = { s with smb := b } := by
  cases r with
  | lost => unfold pollEnd; dsimp only; split <;> split <;> rfl
  | ok vout iout temp => rfl
  | failed => rfl
  | badPec => rfl

theorem exec_regulatorProbe_found {s : State} (h : smbcRuns s = true) (n : Fin 16) (rev vmode : BitVec 8) (ok : Bool) :
    exec (.regulatorProbe n (.found rev vmode ok)) s = .next (setTelem s n fun t =>
      { t with rev, vmode, stat := (t.stat &&& 0b01110#5) ||| 1#5 ||| (if ok then 0b10000#5 else 0) }) := by
  show execRegulatorProbe n (.found rev vmode ok) s = _
  simp [execRegulatorProbe, h]

theorem exec_busRecovery {s : State} (h : smbcRuns s = true) (k : Fin 10) (low : Bool) :
    exec (.busRecovery k low) s = .next (raise s 45 none (flag low 0 + 16 * k)) := by
  show execBusRecovery k low s = _
  simp [execBusRecovery, h]

/-- The regulators' entries after a poll that writes the entry of regulator n with f. -/
theorem telemOf_pollEnd {s : State} {n tries : Nat} {r : PollEnd} {f : Telem → Telem}
    (h : (pollEnd s n tries r).smb.telem = tset s.smb.telem n (f (telemOf s n))) :
    telemOf (pollEnd s n tries r) n = f (telemOf s n) ∧
      ∀ j, j ≠ n → telemOf (pollEnd s n tries r) j = telemOf s j := by
  unfold telemOf
  rw [h]
  exact ⟨tget_tset_same .., fun j hj => tget_tset_ne _ _ _ (Ne.symm hj)⟩

theorem bit1_or_failed (x : BitVec 5) : ((x &&& 0b10001#5) ||| 0b00010#5).getLsbD 1 = true := by simp

/-- Settles O44: a poll's end is one update of its regulator's entry and of the controller's registers. -/
theorem regulatorsArePolled : Obligations.RegulatorsArePolled := by
  intro s h
  refine ⟨fun n vout iout temp hp hn => ⟨?_, ?_⟩, fun n hp => ?_, fun n rev vmode ok => ?_, fun k low => ?_⟩
  · obtain ⟨same, others⟩ := telemOf_pollEnd (s := s.updSmb fun b => { b with pollAt := (n + 1) % 16 }) (n := n)
      (tries := 0) (r := .ok vout iout temp)
      (f := fun t => { setPoll t 0 with vout, iout, temp, polled := some s.uptime }) rfl
    refine ⟨_, exec_smbcPoll h hp hn _, ?_⟩
    rw [same]
    exact ⟨rfl, rfl, rfl, rfl, BitVec.or_zero, rfl, others, pollEnd_rest ..⟩
  · obtain ⟨same, -⟩ := telemOf_pollEnd (s := s.updSmb fun b => { b with pollAt := (n + 1) % 16 }) (n := n)
      (tries := 0) (r := .failed) (f := fun t => setPoll t 0b00010) rfl
    refine ⟨_, exec_smbcAbandon h hp hn, ?_⟩
    rw [same]
    exact ⟨bit1_or_failed _, rfl, pollEnd_rest ..⟩
  · refine ⟨_, exec_smbcRetry h hp _, fun hr => ?_, fun hr => ?_, pollEnd_rest ..⟩
    · simp [pollEnd, hr, telemOf]
    · have h2 : 2 ≤ s.smb.retries + 1 := by omega
      have h3 : 3 ≤ s.smb.retries + 1 := by omega
      obtain ⟨same, -⟩ := telemOf_pollEnd (s := s) (n := n) (tries := s.smb.retries + 1) (r := .lost)
        (f := fun t => setPoll t 0b01000) (by simp [pollEnd, h2, h3, setTelem, telemOf])
      rw [same]
      exact ⟨by simp [pollEnd, h2, h3], by simp [setPoll]⟩
  · have same := telemOf_setTelem_same s n.val fun t =>
      { t with rev, vmode, stat := (t.stat &&& 0b01110#5) ||| 1#5 ||| (if ok then 0b10000#5 else 0) }
    refine ⟨_, exec_regulatorProbe_found h n rev vmode ok, ?_⟩
    rw [same]
    exact ⟨rfl, rfl, by simp, by cases ok <;> simp, fun j hj => telemOf_setTelem_ne s _ hj⟩
  · exact ⟨_, exec_busRecovery h k low, raised_raise .., rfl⟩

end Sys2Proof.Machine
end

section
/-!
SUPPORT. The alert, time-outs and gating of the sideband, and SMB1 (O43).
-/
namespace Sys2Proof.Machine

/-! ## Words of MEM 0xB that are as intended (R358) -/

theorem State.inert.useCosy {s : State} (hi : s.inert) (c : CosyItem) : useCosy s c = (false, s) := by
  simp [Machine.useCosy, hi.useMem]

theorem smb0Start_eq {s : State} (hi : s.flt.grave = true ∨ s.inert) (addr : BitVec 7) :
    smb0Start s addr = (smb0Match s addr, s) := by
  unfold smb0Start
  split
  · rfl
  · rename_i hg
    rw [(hi.resolve_left hg).useCosy]
    rfl

theorem smb1Start_eq {s : State} (hg : s.flt.grave = false) (hi : s.inert) (addr : BitVec 7) :
    smb1Start s addr = (smb1Match s addr, s) := by
  simp [smb1Start, hg, hi.useCosy]

/-! ## The alert, a time-out, the datapaths -/

theorem alertAddr_lt {s : State} {a : Nat} (h : alertAddr s = some a) : a < 128 := by
  simpa [upto] using List.mem_of_find?_eq_some h

/-- The outcome of an alert response of a hub that asks for service at address a. -/
theorem exec_alertResponse {s : State} {a : Nat} (hh : s.board.held = .none) (hal : s.smb.alert = true)
    (ha : alertAddr s = some a) (others : Byte) :
    exec (.alertResponse others) s = .next (if 2 * a ≤ others.toNat then
      sent (s.updSmb fun b => { b with alert := false }) 
        (some [BitVec.ofNat 8 (2 * a), pec [0x19, BitVec.ofNat 8 (2 * a)]])
      else sent s (some [])) := by
  have lt := alertAddr_lt ha
  have byte : (BitVec.ofNat 8 (2 * a)).toNat = 2 * a := by simp; omega
  show execAlertResponse others s = _
  simp only [execAlertResponse, hh, hal, ha, byte]
  by_cases le : 2 * a ≤ others.toNat <;> simp [le]

theorem exec_datapathRegate {s : State} (ha : s.alive = true) (hd : s.kt.st = .dormant) (i : SmbIf) :
    exec (.datapathRegate i) s = .next
      (s.updSmb fun b => if i = .smb0 then { b with gated0 := true } else { b with gated1 := true }) := by
  show execDatapathRegate i s = _
  simp [execDatapathRegate, ha, hd]

theorem alive_of {s : State} (hh : s.board.held = .none) (hg : s.flt.grave = false) : s.alive = true := by
  simp [State.alive, hh, hg]

theorem grave_of_alive {s : State} (ha : s.alive = true) : s.flt.grave = false := by
  simp only [State.alive, Bool.and_eq_true, Bool.not_eq_true'] at ha
  exact ha.2

/-! ## SMB1 (R464, R465) -/

section
variable {s : State} {addr : BitVec 7} (ha : s.alive = true) (hi : s.inert) (hg : smb1Gated s = false)
  (hm : smb1Match s addr = true)
include ha hi hg hm

/-- A matched read of an open datapath changes what it sends and nothing else. -/
theorem smb1Read_matched (cmd : Nat) (bs : List Byte) :
    smb1Read s addr cmd bs = { s with smb := { s.smb with out := some (readAnswer addr cmd bs) } } := by
  simp only [smb1Read, ha, hg, smb1Start_eq (grave_of_alive ha) hi, hm]
  rfl

theorem exec_smb1HubInfo :
    exec (.smb1HubInfo addr) s = .next (smb1Read s addr 5 (block ((hubInfoBytes s).take 16))) := by
  show execSmb1HubInfo addr s = _
  simp [execSmb1HubInfo, ha, hg, hm, hi.useCosy]

theorem exec_smb1TelemetrySelect {port : Byte} (hp : port.toNat ≤ 15) :
    exec (.smb1TelemetrySelect addr port (some (pec [addrW addr, 7, port]))) s =
      .next (sent (s.updSmb fun b => { b with telPort := port.toNat }) (some [])) := by
  have hle : ¬ 15 < port.toNat := by omega
  show execSmb1TelemetrySelect addr port _ s = _
  simp [execSmb1TelemetrySelect, ha, hg, smb1Start_eq (grave_of_alive ha) hi, hm, pecBad, hle]

end

theorem block_take16_hubInfoBytes (s : State) : block ((hubInfoBytes s).take 16) = 16 :: (hubInfoBytes s).take 16 := by
  have h : ((hubInfoBytes s).take 16).length = 16 := by
    simp only [List.length_take, hubInfoBytes, List.length_append, length_toBytes, List.length_map]
    simp
  rw [block, h]
  rfl

theorem telemBytes_length (s : State) (n : Nat) : (telemBytes s n).length = 16 := by
  simp [telemBytes, length_toBytes]

theorem block_telemBytes (s : State) (n : Nat) : block (telemBytes s n) = 16 :: telemBytes s n := by
  rw [block, telemBytes_length]
  rfl

theorem block_toBytes8 (v : Nat) : block (toBytes 8 v) = 8 :: toBytes 8 v := by
  rw [block, length_toBytes]
  rfl

/-- The byte of STATE: the power state's code in the low three bits, ERR's two bits above. -/
theorem smb1State_byte (k : Power) (e x : Bool) :
    (BitVec.ofNat 8 (k.code + flag e 3 + flag x 4)).toNat % 8 = k.code ∧
      (BitVec.ofNat 8 (k.code + flag e 3 + flag x 4)).getLsbD 3 = e ∧
      (BitVec.ofNat 8 (k.code + flag e 3 + flag x 4)).getLsbD 4 = x := by
  revert e x
  cases k <;> decide

/-- Settles O43: on an open datapath whose words are as intended each row is one update of the sideband's registers. -/
theorem sidebandAlertsAndAnswers : Obligations.SidebandAlertsAndAnswers := by
  refine ⟨fun s hh => ⟨fun a others hal ha => ?_, ?_, fun hg => ?_, fun hg hd => ?_⟩,
    fun s ha hi => ⟨fun hg => ?_, fun addr hg hm => ?_⟩⟩
  · refine ⟨_, exec_alertResponse hh hal ha others, fun le => ?_, fun lt => ?_, ?_⟩
    · simp [le, sent]
    · simp [Nat.not_le.2 lt, sent, hal]
    · split <;> rfl
  · refine ⟨_, ?_, rfl⟩
    show execSmbusTimeout .smb0 s = _
    simp [execSmbusTimeout, hh, sent, discard]
    rfl
  · refine ⟨_, ?_, rfl⟩
    show execSmbusTimeout .smb1 s = _
    simp [execSmbusTimeout, hh, sent, hg]
    rfl
  · exact ⟨⟨_, exec_datapathRegate (alive_of hh hg) hd .smb0, rfl⟩,
      ⟨_, exec_datapathRegate (alive_of hh hg) hd .smb1, rfl⟩⟩
  · refine ⟨_, ?_, rfl⟩
    show execSmb1Wake s = _
    simp [execSmb1Wake, ha, hg, sent]
    rfl
  · have read (cmd : Nat) (bs : List Byte) : (.next (smb1Read s addr cmd bs) : Out) = _ :=
      congrArg Host.Outcome.next (smb1Read_matched ha hi hg hm cmd bs)
    obtain ⟨code, e3, e4⟩ := smb1State_byte s.kt.st (errDriven s) (errDriven s || s.flt.extErr)
    refine ⟨read 1 _, read 2 _, read 3 _, ⟨_, read 4 _, code, e3, e4⟩, ?_, ?_, ⟨_, ?_, rfl, telemBytes_length ..⟩,
      fun port hp => ⟨_, exec_smb1TelemetrySelect ha hi hg hm hp, rfl⟩⟩
    · refine (exec_smb1HubInfo ha hi hg hm).trans ((read 5 _).trans ?_)
      rw [block_take16_hubInfoBytes]
      rfl
    · refine (read 6 _).trans ?_
      rw [block_toBytes8]
      rfl
    · refine (read 7 _).trans ?_
      rw [block_telemBytes]
      rfl

end Sys2Proof.Machine
end

section
/-!
SUPPORT. Bytes written to a mailbox window: what the window reads afterwards, and what stands (R387).
-/
namespace Sys2Proof.Machine

/-! ## Bytes written to a window (R387) -/

/-- The window's two areas, header and payload. -/
def inWindow (o : Nat) : Prop := o < 0x10 ∨ 0x40 ≤ o ∧ o < 0x140

/-- Within the areas a word index and a byte lane name one offset. -/
theorem mbIdx_lane_inj {m o o' : Nat} (h : inWindow o) (h' : inWindow o') :
    mbIdx m o = mbIdx m o' ∧ o % 4 = o' % 4 ↔ o = o' := by
  unfold inWindow at h h'
  unfold mbIdx
  split <;> split <;> omega

theorem mbIdx_le {m o o' : Nat} (hle : o ≤ o') : mbIdx m o ≤ mbIdx m o' := by
  unfold mbIdx
  split <;> split <;> omega

/-- A byte lane of a word into which a byte has been written. -/
theorem lane_setFld (w j j' : Nat) (b : Byte) (hj : j < 4) (hj' : j' < 4) :
    BitVec.ofNat 8 ((setFld w (8 * j + 7) (8 * j) b.toNat % 2 ^ 32) >>> (8 * j'))
      = if j' = j then b else BitVec.ofNat 8 (w >>> (8 * j')) := by
  apply BitVec.eq_of_getLsbD_eq
  intro i hi
  have hb : 8 * j' + i < 32 := by omega
  have lane : (8 * j ≤ 8 * j' + i ∧ 8 * j' + i ≤ 8 * j + 7) ↔ j' = j := by omega
  rw [BitVec.getLsbD_ofNat, Nat.testBit_shiftRight, Nat.testBit_mod_two_pow, testBit_setFld]
  by_cases e : j' = j
  · subst e
    have hlane : 8 * j' ≤ 8 * j' + i ∧ 8 * j' + i ≤ 8 * j' + 7 := by omega
    simp [hb, hi, hlane, BitVec.testBit_toNat]
  · have hlane : ¬ (8 * j ≤ 8 * j' + i ∧ 8 * j' + i ≤ 8 * j + 7) := fun h => e (lane.1 h)
    rw [if_neg hlane, if_neg e, BitVec.getLsbD_ofNat, Nat.testBit_shiftRight]
    simp [hb]

theorem writeByte_rest (s : State) (m o : Nat) (b : Byte) (r : List (Nat × BitVec 39)) :
    { writeByte s m o b with mbram := r } = { s with mbram := r } := rfl

theorem ramWf_writeByte {s : State} (h : ramWf s.mbram = true) (m o : Nat) (b : Byte) :
    ramWf (writeByte s m o b).mbram = true := ramWf_ramSet h _ _

theorem ramGet_writeByte_ne {s : State} (h : ramWf s.mbram = true) {m o i : Nat} (b : Byte) (hi : i ≠ mbIdx m o) :
    ramGet (writeByte s m o b).mbram i = ramGet s.mbram i := ramGet_ramSet_ne h _ hi

theorem window_writeByte {s : State} (h : ramWf s.mbram = true) {m o o' : Nat} (b : Byte) (ho : inWindow o)
    (ho' : inWindow o') : (writeByte s m o b).window m o' = if o' = o then b else s.window m o' := by
  have inj := mbIdx_lane_inj (m := m) ho' ho
  unfold State.window writeByte
  dsimp only
  rw [mbWord_mbPut h]
  by_cases hi : mbIdx m o' = mbIdx m o
  · rw [if_pos hi, lane_setFld _ _ _ _ (Nat.mod_lt _ (by decide)) (Nat.mod_lt _ (by decide)), hi]
    by_cases e : o' = o
    · simp [e]
    · have hl : ¬ o' % 4 = o % 4 := fun h => e (inj.1 ⟨hi, h⟩)
      simp [e, hl]
  · have e : ¬ o' = o := fun e => hi (inj.2 e).1
    simp [hi, e]

/-- Bytes written one after the other from window offset o. -/
def writeBytes (s : State) (m o : Nat) : List Byte → State
  | [] => s
  | b :: bs => writeBytes (writeByte s m o b) m (o + 1) bs

theorem foldl_writeByte (s : State) (m o k : Nat) (bs : List Byte) :
    (bs.foldl (fun (s, k) b => (writeByte s m (o + k) b, k + 1)) (s, k)).1 = writeBytes s m (o + k) bs := by
  induction bs generalizing s k with
  | nil => rfl
  | cons b bs ih => exact ih _ (k + 1)

theorem writeBytes_rest (s : State) (m o : Nat) (bs : List Byte) (r : List (Nat × BitVec 39)) :
    { writeBytes s m o bs with mbram := r } = { s with mbram := r } := by
  induction bs generalizing s o with
  | nil => rfl
  | cons b bs ih => exact (ih _ _).trans (writeByte_rest ..)

theorem ramGet_writeBytes_ne {s : State} (h : ramWf s.mbram = true) {m o i : Nat} {bs : List Byte}
    (hi : ∀ k, k < bs.length → i ≠ mbIdx m (o + k)) :
    ramGet (writeBytes s m o bs).mbram i = ramGet s.mbram i := by
  induction bs generalizing s o with
  | nil => rfl
  | cons b bs ih =>
    have rest (k : Nat) (hk : k < bs.length) : i ≠ mbIdx m (o + 1 + k) := by
      rw [Nat.add_right_comm]
      exact hi (k + 1) (Nat.succ_lt_succ hk)
    exact (ih (ramWf_writeByte h m o b) rest).trans (ramGet_writeByte_ne h b (hi 0 (Nat.succ_pos _)))

theorem window_writeBytes {s : State} (h : ramWf s.mbram = true) {m o o' : Nat} {bs : List Byte}
    (ho : ∀ k, k < bs.length → inWindow (o + k)) (ho' : inWindow o') :
    (writeBytes s m o bs).window m o'
      = if o ≤ o' ∧ o' < o + bs.length then (bs[o' - o]?).getD 0 else s.window m o' := by
  induction bs generalizing s o with
  | nil =>
    have none : ¬ (o ≤ o' ∧ o' < o + 0) := by omega
    exact (if_neg none).symm
  | cons b bs ih =>
    have head := window_writeByte h (m := m) b (show inWindow o from ho 0 (Nat.succ_pos _)) ho'
    have rest (k : Nat) (hk : k < bs.length) : inWindow (o + 1 + k) := by
      rw [Nat.add_right_comm]
      exact ho (k + 1) (Nat.succ_lt_succ hk)
    rw [writeBytes, ih (ramWf_writeByte h m o b) rest, head]
    by_cases e : o' = o
    · subst e
      have h1 : ¬ (o' + 1 ≤ o' ∧ o' < o' + 1 + bs.length) := by omega
      have h2 : o' ≤ o' ∧ o' < o' + (b :: bs).length := by simp
      rw [if_neg h1, if_pos h2]
      simp
    · by_cases c : o + 1 ≤ o' ∧ o' < o + 1 + bs.length
      · have h2 : o ≤ o' ∧ o' < o + (b :: bs).length := by simp; omega
        obtain ⟨k, rfl⟩ : ∃ k, o' = o + 1 + k := ⟨o' - (o + 1), by omega⟩
        rw [if_pos c, if_pos h2, show o + 1 + k - (o + 1) = k by omega, show o + 1 + k - o = k + 1 by omega]
        simp
      · have h2 : ¬ (o ≤ o' ∧ o' < o + (b :: bs).length) := by simp; omega
        rw [if_neg c, if_neg h2, if_neg e]

theorem inWindow_of_inArea {o n k : Nat} (h : inArea o n = true) (hk : k < n) : inWindow (o + k) := by
  unfold inArea at h
  unfold inWindow
  simp at h
  omega

/-! ### Words -/

theorem mbWord_lt_of_write {s : State} (h : ramWf s.mbram = true) (m o : Nat) (b : Byte) :
    mbWord (writeByte s m o b) (mbIdx m o) < 2 ^ 32 := by
  unfold writeByte
  dsimp only
  rw [mbWord_mbPut h, if_pos rfl]
  exact Nat.mod_lt _ (by decide)

/-- A word below 2^32 is given by its four byte lanes. -/
theorem eq_ofBytes_of_lanes {w : Nat} (hw : w < 2 ^ 32) {a b c d : Byte} (h0 : BitVec.ofNat 8 w = a)
    (h1 : BitVec.ofNat 8 (w >>> 8) = b) (h2 : BitVec.ofNat 8 (w >>> 16) = c) (h3 : BitVec.ofNat 8 (w >>> 24) = d) :
    w = ofBytes [a, b, c, d] := by
  subst h0 h1 h2 h3
  simp only [ofBytes, BitVec.toNat_ofNat, Nat.shiftRight_eq_div_pow]
  omega

/-- A whole word written: it holds the bytes, whatever it held before. -/
theorem mbWord_writeBytes_word {s : State} (h : ramWf s.mbram = true) {m o : Nat} {bs : List Byte} (h0 : 0x40 ≤ o)
    (h1 : o < 0x140) (h4 : o % 4 = 0) (hl : bs.length = 4) :
    mbWord (writeBytes s m o bs) (mbIdx m o) = ofBytes bs := by
  obtain ⟨a, b, c, d, rfl⟩ : ∃ a b c d, bs = [a, b, c, d] := List.length_eq_four.1 hl
  have area (k : Nat) (hk : k < 4) : inWindow (o + k) := by unfold inWindow; omega
  have idx (k : Nat) (hk : k < 4) : mbIdx m (o + k) = mbIdx m o := by unfold mbIdx; split <;> split <;> omega
  have byte (k : Nat) (hk : k < 4) := window_writeBytes h (m := m) (bs := [a, b, c, d]) area (area k hk)
  have lane (k : Nat) (hk : k < 4) : (o + k) % 4 = k := by omega
  simp only [State.window] at byte
  have lt : mbWord (writeBytes s m o [a, b, c, d]) (mbIdx m o) < 2 ^ 32 := by
    have wf := ramWf_writeByte (ramWf_writeByte (ramWf_writeByte h m o a) m (o + 1) b) m (o + 1 + 1) c
    have := mbWord_lt_of_write wf m (o + 1 + 1 + 1) d
    rwa [idx 3 (by decide)] at this
  refine eq_ofBytes_of_lanes lt ?_ ?_ ?_ ?_
  · simpa [h4] using byte 0 (by decide)
  · simpa [idx 1, lane 1] using byte 1 (by decide)
  · simpa [idx 2, lane 2] using byte 2 (by decide)
  · simpa [idx 3, lane 3] using byte 3 (by decide)

/-! ### A window write that the mailbox accepts -/

theorem foldl_stays {β γ : Type} (f : β → γ → β) (b : β) (l : List γ) (h : ∀ a ∈ l, f b a = b) : l.foldl f b = b := by
  induction l with
  | nil => rfl
  | cons a l ih =>
    rw [List.foldl_cons, h a (List.mem_cons_self ..)]
    exact ih fun c hc => h c (List.mem_cons_of_mem _ hc)

/-- A checked read of a clean word while nothing is injected. -/
theorem readMb_of_clean {s : State} {i : Nat} (hi : fld s.integ.injCtl.toNat 31 24 = 0)
    (hc : chk39 (ramGet s.mbram i) = .clean) : readMb s i = (.clean, fld (ramGet s.mbram i).toNat 31 0, s) := by
  have take (d : Option Nat) : injTake s 8 d = (0, s) := by simp [injTake, hi]
  unfold chk39 at hc
  simp [readMb, take, hc]

theorem windowWrite_accepted {s : State} {m : Nat} {who : BitVec 7} (ha : mbAccepts s m who = true)
    (hb : (s.mb m).st ≠ .busy) (o : Nat) (bs : List Byte) : windowWrite s m who o bs = writeWindow s m o bs := by
  simp [windowWrite, ha, hb]

/-- Words written whole are not read first. -/
theorem writeWindow_word (s : State) (m : Nat) {o : Nat} {bs : List Byte} (ho : o % 4 = 0) (hl : bs.length = 4) :
    writeWindow s m o bs = writeBytes s m o bs := by
  have hend : (o + 4) % 4 = 0 := by omega
  have fold := foldl_writeByte s m o 0 bs
  simpa [writeWindow, ho, hl, hend] using fold

/-- Words written in part are read first; where they are clean that changes nothing. -/
theorem writeWindow_clean {s : State} {m o : Nat} {bs : List Byte} (hi : fld s.integ.injCtl.toNat 31 24 = 0)
    (hf : chk39 (ramGet s.mbram (mbIdx m o)) = .clean)
    (hl : chk39 (ramGet s.mbram (mbIdx m (o + bs.length - 1))) = .clean) :
    writeWindow s m o bs = writeBytes s m o bs := by
  have fold := foldl_writeByte s m o 0 bs
  unfold writeWindow
  dsimp only
  rw [foldl_stays (fun s i => (readMb s i).2.2)]
  · exact fold
  · intro i hm
    refine congrArg (fun r => r.2.2) (readMb_of_clean hi ?_)
    rcases List.mem_append.1 hm with h | h
    · split at h
      · rwa [List.mem_singleton.1 h]
      · exact absurd h (by simp)
    · split at h
      · rwa [List.mem_singleton.1 h]
      · exact absurd h (by simp)

end Sys2Proof.Machine
end

section
/-!
SUPPORT. SMB0's transactions (O42).
-/
namespace Sys2Proof.Machine

/-! ## The target while a transaction of its own address goes on -/

theorem smb0Wake_rest (s : State) (b : Smb) : { smb0Wake s with smb := b } = { s with smb := b } := by
  unfold smb0Wake
  split <;> rfl

/-- The parts of the state that a transaction reads are those before its wake. -/
theorem smb0Wake_smb (s : State) : (smb0Wake s).smb.ptr = s.smb.ptr ∧ (smb0Wake s).smb.rlen = s.smb.rlen := by
  unfold smb0Wake
  split <;> exact ⟨rfl, rfl⟩

theorem smb0Wake_gated0 {s : State} (h : s.kt.st = .dormant) : (smb0Wake s).smb.gated0 = false := by
  unfold smb0Wake
  split
  · rfl
  · rename_i hg
    simpa [h] using hg

/-- What `smb0Wake` leaves alone, field by field. -/
theorem smb0Wake_fields (s : State) : (smb0Wake s).mbs = s.mbs ∧ (smb0Wake s).mbram = s.mbram ∧
    (smb0Wake s).cfg = s.cfg := by
  unfold smb0Wake
  split <;> exact ⟨rfl, rfl, rfl⟩

/-- The bytes that a READ of n from PTR answers outside the windows. -/
def ptrBytes (s : State) (n : Nat) : List Byte := (upto n).map fun k => ptrByte (smb0Wake s) (s.smb.ptr + k)

/-- What a READ of n bytes outside the windows leaves. -/
def readEnds (s : State) (addr : BitVec 7) (stop : Bool) (n : Nat) : State :=
  let t := sent (smb0Wake s) (some (readAnswer addr 0x12 (block (ptrBytes s n))))
  if stop then ptrAdvance t n else t

theorem ptrBytes_length (s : State) (n : Nat) : (ptrBytes s n).length = n := by simp [ptrBytes, upto]

theorem ptrAdvance_inside {s : State} {n : Nat} (h : (ptrEnd (s.smb.ptr + n)).isSome = true) :
    ptrAdvance s n = s.updSmb fun b => { b with ptr := s.smb.ptr + n } := by
  rw [ptrAdvance]
  dsimp only
  rw [if_pos h]

theorem ptrAdvance_out (s : State) (n : Nat) : (ptrAdvance s n).smb.out = s.smb.out := by
  unfold ptrAdvance
  dsimp only
  split <;> rfl

theorem readEnds_out (s : State) (addr : BitVec 7) (stop : Bool) (n : Nat) :
    (readEnds s addr stop n).smb.out = some (readAnswer addr 0x12 (block (ptrBytes s n))) := by
  unfold readEnds
  dsimp only
  split
  · exact ptrAdvance_out _ _
  · rfl

theorem readEnds_ptr {s : State} (addr : BitVec 7) {n : Nat} (h0 : 0x400 ≤ s.smb.ptr) (h : s.smb.ptr + n < 0x500) :
    (readEnds s addr true n).smb.ptr = s.smb.ptr + n := by
  obtain ⟨ptr, -⟩ := smb0Wake_smb s
  have inside : (ptrEnd (s.smb.ptr + n)).isSome = true := by
    rw [ptrEnd, if_neg (by omega), if_neg (by omega), if_neg (by omega), if_pos ⟨by omega, h⟩]
    rfl
  rw [readEnds, if_pos rfl, ptrAdvance_inside]
  · exact congrArg (· + n) ptr
  · show (ptrEnd ((smb0Wake s).smb.ptr + n)).isSome = true
    rwa [ptr]

/-- What is sent and the target's registers are the sideband's alone. -/
theorem sent_updSmb_rest (s : State) (f : Smb → Smb) (o : Option (List Byte)) (b : Smb) :
    { sent (s.updSmb f) o with smb := b } = { s with smb := b } := rfl

theorem readAnswer_byte (addr : BitVec 7) (cmd : Nat) (b : Byte) :
    readAnswer addr cmd [b] = [b, pec [addrW addr, BitVec.ofNat 8 cmd, addrR addr, b]] := rfl

theorem block_eq (bs : List Byte) : block bs = BitVec.ofNat 8 bs.length :: bs := rfl

section
variable {s : State} (hh : s.board.held = .none) (hi : s.flt.grave = true ∨ s.inert)
include hh hi

theorem exec_smb0AddressMatch (addr : BitVec 7) : exec (.smb0AddressMatch addr) s
    = .next (if smb0Match s addr then sent (smb0Wake s) (some []) else sent s none) := by
  show execSmb0AddressMatch addr s = _
  simp only [execSmb0AddressMatch, hh, smb0Start_eq hi]
  cases smb0Match s addr <;> rfl

/-- A block write that nothing discards applies its bytes and is acknowledged. -/
theorem blockWrite_applied {w : SmbWrite} {cmd : Nat} {fits : State → Bool} {use : State → State}
    (hm : smb0Match s w.addr = true) (hs : w.stop = true)
    (hp : (w.pec = none ∧ pecReq s.cfg.eff.smb0 = false) ∨
      w.pec = some (pec ([addrW w.addr, BitVec.ofNat 8 cmd, w.count] ++ w.bytes)))
    (hc : w.count.toNat ≠ 0) (hl : w.bytes.length = w.count.toNat) (hf : fits (smb0Wake s) = true) :
    blockWrite s w cmd fits use = sent (use (smb0Wake s)) (some []) := by
  obtain ⟨-, -, hcfg⟩ := smb0Wake_fields s
  have good : pecBad (pecReq (smb0Wake s).cfg.eff.smb0) (pec ([addrW w.addr, BitVec.ofNat 8 cmd, w.count] ++ w.bytes))
      w.pec = false := by
    rw [hcfg]
    rcases hp with ⟨hn, hr⟩ | hx
    · rw [hn]; exact hr
    · rw [hx]; simp [pecBad]
  have takes : ¬ (w.count.toNat = 0 ∨ w.bytes.length ≠ w.count.toNat ∨ (!fits (smb0Wake s)) = true) := by
    simp [hc, hl, hf]
  unfold blockWrite
  simp only [hh, smb0Start_eq hi, hm, good, hs, if_neg takes]
  rfl

theorem exec_setPtr {w : SmbWrite} (hm : smb0Match s w.addr = true) (hs : w.stop = true)
    (hp : (w.pec = none ∧ pecReq s.cfg.eff.smb0 = false) ∨
      w.pec = some (pec ([addrW w.addr, 0x10, w.count] ++ w.bytes)))
    (hc : w.count = 3) (hl : w.bytes.length = 3) (he : (ptrEnd (numAt w.bytes 0 2)).isSome = true)
    (hn : numAt w.bytes 2 1 ≠ 0) :
    exec (.setPtr w) s = .next (sent ((smb0Wake s).updSmb fun b =>
      { b with ptr := numAt w.bytes 0 2, rlen := numAt w.bytes 2 1 }) (some [])) := by
  have count : w.count.toNat = 3 := by simp [hc]
  refine congrArg Host.Outcome.next (blockWrite_applied hh hi hm hs hp (by omega) (by omega) ?_)
  simp [hc, he, hn]

/-- A WRITE of one word of MBB's payload. -/
theorem exec_write_word {w : SmbWrite} (hm : smb0Match s w.addr = true) (hs : w.stop = true)
    (hp : (w.pec = none ∧ pecReq s.cfg.eff.smb0 = false) ∨
      w.pec = some (pec ([addrW w.addr, 0x11, w.count] ++ w.bytes)))
    (hc : w.count = 4) (hl : w.bytes.length = 4) (h0 : 0x40 ≤ s.smb.ptr) (h1 : s.smb.ptr + 4 < 0x140)
    (h4 : s.smb.ptr % 4 = 0) (hb : (s.mb 9).st ≠ .busy) :
    exec (.write w) s = .next (sent ((writeBytes (smb0Wake s) 9 s.smb.ptr w.bytes).updSmb fun b =>
      { b with ptr := s.smb.ptr + 4 }) (some [])) := by
  have count : w.count.toNat = 4 := by simp [hc]
  obtain ⟨ptr, -⟩ := smb0Wake_smb s
  obtain ⟨mbs, -, -⟩ := smb0Wake_fields s
  have idle : ((smb0Wake s).mb 9).st ≠ .busy := by rwa [State.mb, mbs]
  have area : inArea s.smb.ptr 4 = true := by simp [inArea]; omega
  have unit : ptrCrc s.smb.ptr = none := by
    rw [ptrCrc, if_neg (by omega), if_neg (by omega)]
  have store : ptrWrite (smb0Wake s) s.smb.ptr w.bytes = writeBytes (smb0Wake s) 9 s.smb.ptr w.bytes := by
    simp only [ptrWrite, unit, hl, area, if_true]
    rw [windowWrite_accepted rfl idle, writeWindow_word _ _ h4 hl]
  have stays := congrArg (fun t : State => t.smb) (writeBytes_rest (smb0Wake s) 9 s.smb.ptr w.bytes [])
  refine congrArg Host.Outcome.next ((blockWrite_applied hh hi hm hs hp (by omega) (by omega) ?_).trans ?_)
  · simp only [ptr, hl, writable, unit, area, Bool.true_or]
  · rw [ptr, store, ptrAdvance, stays, ptr, hl]
    have inside : (ptrEnd (s.smb.ptr + 4)).isSome = true := by rw [ptrEnd, if_pos h1]; rfl
    rw [if_pos inside]

/-- A READ of telemetry answers min(RLEN, what is left) bytes and their PEC. -/
theorem exec_read_telemetry {addr : BitVec 7} (stop : Bool) (hm : smb0Match s addr = true) (h0 : 0x400 ≤ s.smb.ptr)
    (h1 : s.smb.ptr < 0x500) :
    exec (.read addr stop) s = .next (readEnds s addr stop (min s.smb.rlen (0x500 - s.smb.ptr))) := by
  obtain ⟨ptr, rlen⟩ := smb0Wake_smb s
  have unit : ptrCrc s.smb.ptr = none := by
    rw [ptrCrc, if_neg (by omega), if_neg (by omega)]
  have fin : ptrEnd s.smb.ptr = some 0x500 := by
    rw [ptrEnd, if_neg (by omega), if_neg (by omega), if_neg (by omega), if_pos ⟨h0, h1⟩]
  have noWindow : ¬ s.smb.ptr < 0x140 := by omega
  have noState : ¬ s.smb.ptr ≤ 0x20 := by omega
  show execRead addr stop s = _
  simp only [execRead, hh, smb0Start_eq hi, hm, ptr, rlen, ptrRead, unit, fin, noWindow, noState, readEnds, ptrBytes]
  cases stop <;> rfl

theorem exec_status {addr : BitVec 7} (hm : smb0Match s addr = true) :
    exec (.status addr) s = .next (sent ((smb0Wake s).updSmb fun b =>
      { b with woke := false, tmo := false, pec := false, discard := false })
      (some (readAnswer addr 0x13 [smbStatus (smb0Wake s)]))) := by
  show execStatus addr s = _
  simp only [execStatus, hh, smb0Start_eq hi, hm]
  rfl

end

/-- Settles O42: a transaction of SMB0's own address wakes the datapath and makes one update of the target's
registers; a WRITE also stores its word. -/
theorem smb0TargetServes : Obligations.Smb0TargetServes := by
  intro s hh hi
  refine ⟨fun addr => ?_, fun w hm hs hp hc hl he hn => ?_, fun w hm hs hp hc hl h0 h1 h4 hb hw => ?_,
    fun addr stop hm h0 h1 => ?_, fun addr hm => ?_⟩
  · refine ⟨_, exec_smb0AddressMatch hh hi addr, ?_⟩
    cases smb0Match s addr
    · exact ⟨rfl, fun h => absurd h (by decide), rfl⟩
    · exact ⟨rfl, fun _ hd => smb0Wake_gated0 hd, smb0Wake_rest s s.smb⟩
  · exact ⟨_, exec_setPtr hh hi hm hs hp hc hl he hn, rfl, rfl, rfl,
      (sent_updSmb_rest ..).trans (smb0Wake_rest s s.smb)⟩
  · obtain ⟨-, ram, -⟩ := smb0Wake_fields s
    refine ⟨_, exec_write_word hh hi hm hs hp hc hl h0 h1 h4 hb, ?_, rfl, rfl, ?_⟩
    · exact mbWord_writeBytes_word (ram ▸ hw) h0 (by omega) h4 hl
    · have rest := writeBytes_rest (smb0Wake s) 9 s.smb.ptr w.bytes s.mbram
      exact (congrArg (fun t : State => { t with smb := s.smb }) rest).trans
        (congrArg (fun t : State => { t with mbram := s.mbram }) (smb0Wake_rest s s.smb))
  · obtain ⟨ptr, -⟩ := smb0Wake_smb s
    refine ⟨_, ptrBytes s (min s.smb.rlen (0x500 - s.smb.ptr)), _, exec_read_telemetry hh hi stop hm h0 h1, ?_,
      ptrBytes_length .., rfl, ?_, ?_⟩
    · rw [readEnds_out, readAnswer, block_eq, ptrBytes_length]
      rfl
    · rintro rfl
      exact ptr
    · rintro rfl lt
      exact readEnds_ptr addr h0 lt
  · exact ⟨_, smbStatus (smb0Wake s), pec [addrW addr, 0x13, addrR addr, smbStatus (smb0Wake s)],
      exec_status hh hi hm, congrArg some (readAnswer_byte ..), rfl, rfl, rfl, rfl, rfl, rfl,
      (sent_updSmb_rest ..).trans (smb0Wake_rest s s.smb)⟩

end Sys2Proof.Machine
end

section
/-!
SUPPORT. A ring's checks, and the writes of a mailbox window (O39).
-/
namespace Sys2Proof.Machine

/-! ## A wake leaves the mailboxes alone -/

/-- The mailboxes and their RAM. -/
def State.mail (s : State) : Tbl Mailbox × List (Nat × BitVec 39) := (s.mbs, s.mbram)

theorem of_mail {s t : State} (h : t.mail = s.mail) : t.mbs = s.mbs ∧ t.mbram = s.mbram := by
  simpa [State.mail] using h

theorem netUpdate_mail (s : State) : (netUpdate s).mail = s.mail := by
  obtain ⟨pull, net, n, h⟩ := netUpdate_eq s
  rw [h]
  rfl

theorem pllStart_mail (s : State) : (pllStart s).mail = s.mail := by
  unfold pllStart
  split <;> rfl

@[simp] theorem updKt_mail (s : State) (f : Kettle → Kettle) : (s.updKt f).mail = s.mail := rfl
@[simp] theorem updSmb_mail (s : State) (f : Smb → Smb) : (s.updSmb f).mail = s.mail := rfl
@[simp] theorem updLink_mail (s : State) (p : Nat) (f : Link → Link) : (s.updLink p f).mail = s.mail := rfl
@[simp] theorem addCause_mail (s : State) (c : Nat) : (addCause s c).mail = s.mail := rfl

@[simp] theorem foldl_updLink_mail (s : State) (f : Nat → Link → Link) (l : List Nat) :
    (l.foldl (fun s p => s.updLink p (f p)) s).mail = s.mail :=
  foldl_frame State.mail (fun s p => s.updLink p (f p)) (fun _ _ => rfl) l s

@[simp] theorem beginExits_mail (s : State) : (beginExits s).mail = s.mail :=
  foldl_frame State.mail beginExit (fun _ _ => rfl) allPorts s

theorem wake_mail (s : State) (c : Nat) : (wake s c).mail = s.mail := by
  unfold wake
  split
  · rfl
  · split
    · simp [wakeSteep, netUpdate_mail, pllStart_mail]
    · simp [wakeDormant, pllStart_mail]
    · simp [netUpdate_mail]
    · rfl

/-! ## The checks of a ring (R390) -/

/-- Clean words are read without an event. -/
theorem useMbWords_of_clean {s : State} {m i n : Nat} (hi : fld s.integ.injCtl.toNat 31 24 = 0)
    (hc : ∀ k, k < n → chk39 (ramGet s.mbram (0x60 * m + i + k)) = .clean) : useMbWords s m i n = (false, s) := by
  refine foldl_stays _ _ _ fun k hk => ?_
  simp [readMb_of_clean hi (hc k (List.mem_range.1 hk))]

/-- A command whose words are sound meets only the checks of its opcode, or waits for the opening. -/
theorem mbChecks_of_sound {s : State} {m : Fin 10} (hs : s.sound m) (he : s.fw.exch = none) :
    mbChecks s m = if s.flt.grave ∨ s.fw.isOpen ∨ s.fw.boot = .recovery then mbCheckTail s m
      else s.updMb m fun b => { b with waiting := true } := by
  obtain ⟨hi, hl, hc, hp⟩ := hs
  have head := useMbWords_of_clean (m := m) (i := 0) (n := 4) hi fun k hk => hc k (by omega)
  have body := useMbWords_of_clean (m := m) (i := 4) (n := (mbLen s m + 3) / 4) hi fun k hk => by
    have := hc (4 + k) (by omega)
    rwa [← Nat.add_assoc] at this
  have len : ¬ 256 < mbLen s m := by omega
  simp [mbChecks, head, he, len, body, hp]

/-- A command that passes its checks goes on to its execution, and one that needs the clock wakes the hub. -/
theorem mbCheckTail_passes {s : State} {m : Fin 10}
    (ho : mbOpcodes.contains (mbOpcode s m) = true)
    (hp : mbPermits s m (mbOpcode s m) (mbLen s m) (mbPayload s m (mbLen s m)) = true)
    (hl : lenFits (mbOpcode s m) (mbLen s m) (mbPayload s m (mbLen s m)) = true)
    (hs : mbServed s m (mbOpcode s m) = true) :
    (mbCheckTail s m).mail = (s.updMb m fun b => { b with checked := true, waiting := false }).mail := by
  unfold mbCheckTail
  dsimp only
  rw [if_neg (by rw [ho]; decide), if_neg (by simp [hp]), if_neg (by simp [hl]), if_neg (by simp [hs])]
  split
  · exact wake_mail _ _
  · rfl

/-! ## A ring (R388, R389) -/

/-- The mailbox that has just been rung. -/
def rung (s : State) (m : Nat) (who : BitVec 7) (b : Mailbox) : Mailbox :=
  { b with st := .busy, tag := BitVec.ofNat 8 (mbTag s m), ringer := if m = 9 then 0x7F else who,
           notify := none, checked := false, waiting := false, running := false }

theorem rung_ringer (s : State) (m : Fin 10) (who : BitVec 7) (b : Mailbox) :
    (rung s m who b).ringer = if m = 9 then 0x7F else who := by
  simp [rung, Fin.ext_iff]

/-- The state that a ring's checks find. -/
def ringState (s : State) (m : Nat) (who : BitVec 7) : State :=
  let s := s.updMb m (rung s m who)
  if m = 9 then s.updSmb fun b => { b with alert := false } else s

theorem mbRing_accepted {s : State} {m : Nat} {who : BitVec 7} {v : Nat} (hv : nbit v 0 = true)
    (ha : mbAccepts s m who = true) (hb : (s.mb m).st ≠ .busy) : mbRing s m who v = mbChecks (ringState s m who) m := by
  simp only [mbRing, hv, ha, hb]
  rfl

theorem mbRing_turned {s : State} {m : Nat} {who : BitVec 7} {v : Nat} (hv : nbit v 0 = true)
    (h : mbAccepts s m who = false ∨ (s.mb m).st = .busy) : mbRing s m who v = mbIgnore s m who := by
  have hc : (!mbAccepts s m who) = true ∨ (s.mb m).st = .busy := by simpa using h
  rw [mbRing, if_neg (by simp [hv]), if_pos hc]

theorem windowWrite_turned {s : State} {m : Nat} {who : BitVec 7}
    (h : mbAccepts s m who = false ∨ (s.mb m).st = .busy) (o : Nat) (bs : List Byte) :
    windowWrite s m who o bs = mbIgnore s m who := by
  have hc : (!mbAccepts s m who) = true ∨ (s.mb m).st = .busy := by simpa using h
  rw [windowWrite, if_pos hc]

theorem exec_mbDoorbell {s : State} {m : Fin 10} {who : BitVec 7} (h : mbReached s m who = true) (v : BitVec 32) :
    exec (.mbDoorbell m who v) s = .next (mbRing s m who v.toNat) := by
  show execMbDoorbell m who v s = _
  simp [execMbDoorbell, h]

theorem exec_mailboxWindowWrite {s : State} {m : Fin 10} {who : BitVec 7} (h : mbReached s m who = true)
    {off : Fin 320} {bytes : List Byte} (hb : bytes ≠ []) (ha : inArea off bytes.length = true) :
    exec (.mailboxWindowWrite m who off bytes) s = .next (windowWrite s m who off bytes) := by
  show execMailboxWindowWrite m who off bytes s = _
  simp [execMailboxWindowWrite, h, hb, ha]

theorem ringState_facts (s : State) (m : Fin 10) (who : BitVec 7) :
    (ringState s m who).mbram = s.mbram ∧ (ringState s m who).flt = s.flt ∧ (ringState s m who).fw = s.fw ∧
      (ringState s m who).integ = s.integ ∧ (ringState s m who).ports = s.ports ∧
      (ringState s m who).mbs = (s.updMb m (rung s m who)).mbs := by
  unfold ringState
  dsimp only
  split <;> exact ⟨rfl, rfl, rfl, rfl, rfl, rfl⟩

theorem sound_ringState {s : State} {m : Fin 10} (who : BitVec 7) (hs : s.sound m) : (ringState s m who).sound m := by
  unfold ringState
  dsimp only
  split <;> exact hs

/-- The checks that need the opcode find after the ring what they found before it. -/
theorem mbCheckTail_ringState {s : State} {m : Fin 10} (who : BitVec 7)
    (ho : mbOpcodes.contains (mbOpcode s m) = true)
    (hp : mbPermits s m (mbOpcode s m) (mbLen s m) (mbPayload s m (mbLen s m)) = true)
    (hl : lenFits (mbOpcode s m) (mbLen s m) (mbPayload s m (mbLen s m)) = true)
    (hs : mbServed s m (mbOpcode s m) = true) :
    (mbCheckTail (ringState s m who) m).mail
      = ((ringState s m who).updMb m fun b => { b with checked := true, waiting := false }).mail := by
  apply mbCheckTail_passes <;> unfold ringState <;> dsimp only <;> split <;> assumption

theorem mb_of_ring {s t : State} {m : Fin 10} {who : BitVec 7} {g : Mailbox → Mailbox}
    (h : t.mbs = ((ringState s m who).updMb m g).mbs) :
    t.mb m = g (rung s m who (s.mb m)) ∧ ∀ j, j ≠ m.val → t.mb j = s.mb j := by
  obtain ⟨-, -, -, -, -, mbs⟩ := ringState_facts s m who
  have base (j : Nat) : (ringState s m who).mb j = (s.updMb m (rung s m who)).mb j := mb_of_mbs mbs j
  constructor
  · rw [mb_of_mbs h, State.updMb_mb_same, base, State.updMb_mb_same]
  · intro j hj
    rw [mb_of_mbs h, State.updMb_mb_ne _ _ (Ne.symm hj), base, State.updMb_mb_ne _ _ (Ne.symm hj)]

theorem mbIgnore_spec (s : State) (m : Nat) (who : BitVec 7) :
    (mbIgnore s m who).mb m = { s.mb m with blocked := (s.mb m).blocked || !mbAccepts s m who,
                                            overrun := (s.mb m).overrun || (s.mb m).st == .busy } ∧
      (∀ j, j ≠ m → (mbIgnore s m who).mb j = s.mb j) ∧ { mbIgnore s m who with mbs := s.mbs } = s :=
  ⟨State.updMb_mb_same .., fun _ hj => State.updMb_mb_ne _ _ (Ne.symm hj), rfl⟩

/-- A write of MB_DOORBELL without RING. -/
theorem mbRing_quiet {s : State} {m : Nat} {who : BitVec 7} {v : Nat} (hv : nbit v 0 = false) :
    mbRing s m who v = if mbAccepts s m who then s else s.updMb m fun b => { b with blocked := true } := by
  simp [mbRing, hv]

/-- What the checks leave of a ring whose words are sound: it waits while the mailboxes are closed, and goes on to
its execution where it is served. -/
theorem mbChecks_ringState {s : State} {m : Fin 10} {who : BitVec 7} (hs : s.sound m) (he : s.fw.exch = none) :
    let pl := mbPayload s m (mbLen s m)
    let closed := s.flt.grave = false ∧ s.fw.isOpen = false ∧ s.fw.boot ≠ .recovery
    let served := (s.flt.grave = true ∨ s.fw.isOpen = true ∨ s.fw.boot = .recovery) ∧
      mbOpcodes.contains (mbOpcode s m) = true ∧ mbPermits s m (mbOpcode s m) (mbLen s m) pl = true ∧
      lenFits (mbOpcode s m) (mbLen s m) pl = true ∧ mbServed s m (mbOpcode s m) = true
    let t := mbChecks (ringState s m who) m
    closed ∨ served → (t.mb m).st = .busy ∧ (t.mb m).ringer = (if m = 9 then 0x7F else who) ∧
      (t.mb m).tag = BitVec.ofNat 8 (mbTag s m) ∧ (t.mb m).notify = none ∧
      (t.mb m).running = false ∧ (closed → (t.mb m).waiting = true) ∧
      (served → (t.mb m).checked = true ∧ (t.mb m).waiting = false) ∧
      (∀ j, j ≠ m.val → t.mb j = s.mb j) ∧ t.mbram = s.mbram := by
  intro pl closed served t hc
  obtain ⟨ram, flt, fw, -, -, -⟩ := ringState_facts s m who
  have ht : t = if s.flt.grave ∨ s.fw.isOpen ∨ s.fw.boot = .recovery then mbCheckTail (ringState s m who) m
      else (ringState s m who).updMb m fun b => { b with waiting := true } := by
    have := mbChecks_of_sound (sound_ringState who hs) (by rw [fw]; exact he)
    rwa [flt, fw] at this
  rcases hc with hc | hc
  · obtain ⟨hg, ho, hb⟩ := hc
    have shut : ¬ (s.flt.grave ∨ s.fw.isOpen ∨ s.fw.boot = .recovery) := by simp [hg, ho, hb]
    rw [if_neg shut] at ht
    obtain ⟨same, others⟩ := mb_of_ring (congrArg State.mbs ht)
    rw [same]
    exact ⟨rfl, rung_ringer s m who (s.mb m), rfl, rfl, rfl, fun _ => rfl, fun h => absurd h.1 shut, others,
      (congrArg State.mbram ht).trans ram⟩
  · obtain ⟨hopen, hop, hp, hl, hs⟩ := hc
    rw [if_pos hopen] at ht
    obtain ⟨mbs, mbram⟩ := of_mail ((congrArg State.mail ht).trans (mbCheckTail_ringState who hop hp hl hs))
    obtain ⟨same, others⟩ := mb_of_ring mbs
    rw [same]
    refine ⟨rfl, rung_ringer s m who (s.mb m), rfl, rfl, rfl, fun h => ?_, fun _ => ⟨rfl, rfl⟩, others, mbram.trans ram⟩
    obtain ⟨hg, ho, hb⟩ := h
    simp [hg, ho, hb] at hopen

/-- Settles O39: a ring that is accepted meets only its checks, a write only its bytes; one that is not sets its
mailbox's flags. -/
theorem ringsAndWritesOfAWindow : Obligations.RingsAndWritesOfAWindow := by
  intro s m who hr
  refine ⟨fun ha hb => ⟨fun v hv he hs => ?_, fun off bytes hw h0 h4 hl => ?_, fun off bytes hw hne har hi => ?_⟩,
    fun h => ⟨fun v hv => ?_, fun off bytes hne har => ?_⟩, fun v hv => ?_⟩
  · intro pl closed served hc
    have hv0 : nbit v.toNat 0 = true := by rw [nbit, BitVec.testBit_toNat]; exact hv
    refine ⟨_, (exec_mbDoorbell hr v).trans (congrArg Host.Outcome.next (mbRing_accepted hv0 ha hb)), ?_⟩
    exact mbChecks_ringState hs he hc
  · have hne : bytes ≠ [] := by rintro rfl; simp at hl
    have har : inArea off bytes.length = true := by simp [inArea, hl]; omega
    have idx (k : Nat) (hk : k < 4) : mbIdx m (off + k) = mbIdx m off := by unfold mbIdx; split <;> split <;> omega
    refine ⟨_, exec_mailboxWindowWrite hr hne har, ?_⟩
    rw [windowWrite_accepted ha hb, writeWindow_word s m h4 hl]
    refine ⟨mbWord_writeBytes_word hw h0 off.isLt h4 hl, fun i hi => ramGet_writeBytes_ne hw fun k hk => ?_,
      writeBytes_rest s m off bytes s.mbram⟩
    rwa [idx k (hl ▸ hk)]
  · intro first last hc
    have pos : 0 < bytes.length := List.length_pos_of_ne_nil hne
    refine ⟨_, exec_mailboxWindowWrite hr hne har, ?_⟩
    rw [windowWrite_accepted ha hb,
      writeWindow_clean hi (hc _ le_rfl (mbIdx_le (by omega))) (hc _ (mbIdx_le (by omega)) le_rfl)]
    refine ⟨fun o ho => window_writeBytes hw (fun k hk => inWindow_of_inArea har hk) ho,
      fun i hi => ramGet_writeBytes_ne hw fun k hk => ?_, writeBytes_rest s m off bytes s.mbram⟩
    have lo : first ≤ mbIdx m (off + k) := mbIdx_le (by omega)
    have up : mbIdx m (off + k) ≤ last := mbIdx_le (by omega)
    omega
  · have hv0 : nbit v.toNat 0 = true := by rw [nbit, BitVec.testBit_toNat]; exact hv
    exact ⟨_, (exec_mbDoorbell hr v).trans (congrArg Host.Outcome.next (mbRing_turned hv0 h)), mbIgnore_spec s m who⟩
  · exact ⟨_, (exec_mailboxWindowWrite hr hne har).trans (congrArg Host.Outcome.next (windowWrite_turned h ..)),
      mbIgnore_spec s m who⟩
  · have hv0 : nbit v.toNat 0 = false := by rw [nbit, BitVec.testBit_toNat]; exact hv
    refine ⟨_, exec_mbDoorbell hr v, ?_⟩
    rw [mbRing_quiet hv0]
    cases ha : mbAccepts s m who <;> simp

end Sys2Proof.Machine
end

section
/-!
SUPPORT. Reads of the NVM depend on the NVM and its errors alone.
-/
namespace Sys2Proof.Machine

/-! ## Reads of the NVM depend on the NVM and its errors alone (R430) -/

section
variable {s t : State} (h : t.nvm = s.nvm) (he : t.nvmErr = s.nvmErr)

include he in
theorem nvmDiff_of_nvm (k : Nat) : nvmDiff t k = nvmDiff s k := by
  unfold nvmDiff
  rw [he]

include he in
theorem nvmBadAt_of_nvm (a n : Nat) : nvmBadAt t a n = nvmBadAt s a n := by
  unfold nvmBadAt
  simp only [he, nvmDiff_of_nvm he]

include h he

theorem nvmByte_of_nvm (a : Nat) : nvmByte t a = nvmByte s a := by
  rw [nvmByte, nvmByte, h, nvmDiff_of_nvm he]

theorem nvmRead_of_nvm (a n : Nat) : nvmRead t a n = nvmRead s a n := by
  unfold nvmRead
  simp only [h, he, nvmByte_of_nvm h he]

theorem readCfg_of_nvm (c : Nat) : readCfg t c = readCfg s c := by
  unfold readCfg
  simp only [nvmRead_of_nvm h he, nvmBadAt_of_nvm he]

theorem storedCfg_of_nvm : storedCfg t = storedCfg s := by
  unfold storedCfg
  rw [readCfg_of_nvm h he, readCfg_of_nvm h he]

theorem readHdr_of_nvm (c : Nat) : readHdr t c = readHdr s c := by
  unfold readHdr
  simp only [nvmRead_of_nvm h he, nvmBadAt_of_nvm he]

theorem header_of_nvm : header t = header s := by
  unfold header
  rw [readHdr_of_nvm h he, readHdr_of_nvm h he]

end

end Sys2Proof.Machine
end

section
/-!
SUPPORT. Mailbox locks, completion notices and the opening (O40).
-/
namespace Sys2Proof.Machine

/-! ## Locks (R389, R393) -/

theorem exec_mbLockClaim {s : State} {d : Fin 8} {who : BitVec 7} (h : mbReached s d who = true) :
    exec (.mbLockClaim d who) s = .next (lockClaim s d who).2 := by
  show execMbLockClaim d who s = _
  simp [execMbLockClaim, h]

theorem exec_mbLockRelease {s : State} {d : Fin 8} {who : BitVec 7} (h : mbReached s d who = true) :
    exec (.mbLockRelease d who) s = .next (lockRelease s d who) := by
  show execMbLockRelease d who s = _
  simp [execMbLockRelease, h]

theorem lockClaim_spec (s : State) (d : Nat) (who : BitVec 7) :
    { (lockClaim s d who).2 with mbs := s.mbs } = s ∧
      ((lockClaim s d who).2.mb d).holder = some (((s.mb d).holder).getD who) ∧
      ∀ j, j ≠ d → (lockClaim s d who).2.mb j = s.mb j := by
  unfold lockClaim
  split
  · rename_i h
    refine ⟨rfl, ?_, fun j hj => State.updMb_mb_ne _ _ (Ne.symm hj)⟩
    rw [h, State.updMb_mb_same]
    rfl
  · rename_i x h
    exact ⟨rfl, h ▸ rfl, fun _ _ => rfl⟩

theorem lockRelease_spec (s : State) (d : Nat) (who : BitVec 7) :
    { lockRelease s d who with mbs := s.mbs } = s ∧ (∀ j, j ≠ d → (lockRelease s d who).mb j = s.mb j) ∧
      ((s.mb d).holder = some who → (lockRelease s d who).mb d = { s.mb d with holder := none }) ∧
      ((s.mb d).holder ≠ some who → (lockRelease s d who).mb d = { s.mb d with blocked := true }) := by
  refine ⟨rfl, fun j hj => State.updMb_mb_ne _ _ (Ne.symm hj), fun h => ?_, fun h => ?_⟩
  · rw [lockRelease, State.updMb_mb_same, if_pos h]
  · rw [lockRelease, State.updMb_mb_same, if_neg h]

theorem exec_lockIdleTimeout {s : State} {d : Fin 8} (ha : s.alive = true) (hb : (s.mb d).st ≠ .busy) :
    exec (.lockIdleTimeout d) s = .next (s.updMb d fun b => { b with holder := none }) := by
  show execLockIdleTimeout d s = _
  simp [execLockIdleTimeout, ha, hb]

/-! ## Completion notices (R393) -/

theorem exec_mailboxNoticePlacement {s : State} {m : Fin 10} {p : Nat} {st : BitVec 8}
    (h : (s.mb m).notify = some (p, st)) (hf : noticeFree s p = true) :
    exec (.mailboxNoticePlacement m) s = .next (placeAgent (s.updMb m fun b => { b with notify := none }) p
      (hubNotice s p 1 (BitVec.ofNat 4 m) st 0)) := by
  show execMailboxNoticePlacement m s = _
  simp [execMailboxNoticePlacement, h, hf]

/-- A notice goes to the port of the domain that it names. -/
theorem posts_hubNotice {s t : State} {p : Nat} {d : Fin 8} (hf : noticeFree s p = true)
    (hd : (s.port p).mem.dom = some d.val) (hmem : (t.port p).mem = (s.port p).mem)
    (hst : (t.port p).link.st = (s.port p).link.st) (kind mbx : BitVec 4) (st : BitVec 8) (src : BitVec 6) :
    t.Posts (placeAgent t p (hubNotice s p kind mbx st src)) [p]
      (hubNotice s p kind mbx st src).hdr.dom.toNat [(p, hubNotice s p kind mbx st src)] := by
  simp only [noticeFree, Bool.and_eq_true] at hf
  obtain ⟨⟨⟨-, hup⟩, hsent⟩, -⟩ := hf
  have dom : (hubNotice s p kind mbx st src).hdr.dom.toNat = d.val := by
    have lt := d.isLt
    show (BitVec.ofNat 3 (((s.port p).mem.dom).getD 0)).toNat = d.val
    rw [hd, Option.getD_some, BitVec.toNat_ofNat]
    omega
  refine posts_placeAgent (List.mem_singleton.2 rfl) ?_ ?_ ?_ fun h => absurd h Bool.false_ne_true
  · rw [hmem, hd, dom]
  · rw [hmem, hsent]
  · rwa [State.up, hst]

/-! ## The opening (R489, R491) -/

/-- With no ring waiting, the opening serves none. -/
theorem foldl_waiting_none {s : State} (h : ∀ m : Fin 10, (s.mb m).waiting = false) :
    (upto 10).foldl (fun s m => if (s.mb m).waiting then mbCheckTail s m else s) s = s := by
  refine foldl_stays _ _ _ fun m hm => ?_
  have hw := h ⟨m, List.mem_range.1 hm⟩
  simp [hw]

/-- The state in which the opened mailboxes are served. -/
def opened (s : State) : State := s.updFw fun w => { w with isOpen := true }

theorem openMailboxes_eq {s : State} (hw : ∀ m : Fin 10, (s.mb m).waiting = false) :
    openMailboxes s = if (storedCfg s).isSome then
        (opened s).updFw fun w => { w with replay := some 0, replayFc := collectorFresh (opened s) }
      else releasePorts (opened s) := by
  unfold openMailboxes
  extract_lets u v
  have hv : v = opened s := foldl_waiting_none (s := opened s) hw
  rw [hv, show storedCfg (opened s) = storedCfg s from storedCfg_of_nvm rfl rfl]
  cases storedCfg s <;> rfl

theorem exec_mailboxOpen {s : State} (ha : s.alive = true) (hb : s.fw.boot = .running) (ho : s.fw.isOpen = false)
    (he : s.fw.exch = none) : exec .mailboxOpen s = .next (openMailboxes s) := by
  show execMailboxOpen s = _
  simp only [execMailboxOpen, ha, hb, ho, he]
  rfl

/-- One port released from the hold of a reset. -/
def releasePort (s : State) (p : Nat) : State :=
  s.updLink p fun l => if l.st = .held ∧ releasable s p then { l with st := .noReceiver } else l

theorem releasePorts_eq (s : State) :
    releasePorts s = (allPorts.foldl releasePort s).updFw fun w => { w with released := true } := rfl

theorem releasePort_otherPorts (s : State) (p : Nat) : s.otherPorts (releasePort s p) p :=
  fun _ hj => State.updLink_port_ne _ _ (Ne.symm hj)

theorem foldl_releasePort_st {l : List Nat} (hl : l.Nodup) {p : Nat} (hp : p ∈ l) {s : State}
    (hh : (s.port p).link.st = .held) (hr : releasable s p = true) :
    ((l.foldl releasePort s).port p).link.st = .noReceiver := by
  induction l generalizing s with
  | nil => exact absurd hp List.not_mem_nil
  | cons a l ih =>
    obtain ⟨hal, hl⟩ := List.nodup_cons.1 hl
    rw [List.foldl_cons]
    by_cases hpa : p = a
    · subst hpa
      rw [foldl_port_of_notMem releasePort_otherPorts hal, releasePort, State.updLink_port_same]
      simp [hh, hr]
    · have same := releasePort_otherPorts s a p hpa
      exact ih hl ((List.mem_cons.1 hp).resolve_left hpa) (by rw [same, hh]) hr

theorem releasePorts_port {s : State} {p : Fin 20} (hh : (s.port p).link.st = .held)
    (hr : releasable s p = true) : ((releasePorts s).port p).link.st = .noReceiver := by
  have nodup : allPorts.Nodup := List.nodup_range
  rw [releasePorts_eq, State.updFw_port]
  exact foldl_releasePort_st nodup (mem_allPorts p) hh hr

theorem releasePorts_keeps (s : State) : (releasePorts s).mbs = s.mbs ∧
    (releasePorts s).fw = { s.fw with released := true } := by
  rw [releasePorts_eq]
  generalize allPorts = l
  have mbs := foldl_frame State.mbs releasePort (fun _ _ => rfl) l s
  have fw := foldl_frame State.fw releasePort (fun _ _ => rfl) l s
  exact ⟨mbs, congrArg (fun w : Firmware => { w with released := true }) fw⟩

/-- Settles O40: a lock's rows are one update of its mailbox, a notice one message placed, the opening one update of
the firmware and the ports' release. -/
theorem locksNoticesAndOpening : Obligations.LocksNoticesAndOpening := by
  intro s
  refine ⟨fun d who hr => ⟨?_, ?_⟩, fun d ha hb => ?_, fun m p st d hn hf hp hd => ?_, fun ha hb ho he hw => ?_⟩
  · exact ⟨_, exec_mbLockClaim hr, lockClaim_spec s d who⟩
  · exact ⟨_, exec_mbLockRelease hr, lockRelease_spec s d who⟩
  · exact ⟨_, exec_lockIdleTimeout ha hb, State.updMb_mb_same .., rfl⟩
  · have posts := posts_hubNotice (t := s.updMb m fun b => { b with notify := none }) hf hd rfl rfl 1
      (BitVec.ofNat 4 m) st 0
    have mbs := congrArg (fun t : State => t.mbs) posts.rest
    refine ⟨_, exec_mailboxNoticePlacement hn hf, (mb_of_mbs mbs m).trans (State.updMb_mb_same ..),
      fun j hj => posts.others j (fun h => hj (List.mem_singleton.1 h)), posts.placed_of_single rfl⟩
  · refine ⟨_, exec_mailboxOpen ha hb ho he, ?_⟩
    rw [openMailboxes_eq hw]
    split
    · rename_i hsome
      refine ⟨rfl, rfl, fun _ => ⟨rfl, rfl⟩, fun h => ?_⟩
      simp [h] at hsome
    · rename_i hsome
      obtain ⟨mbs, fw⟩ := releasePorts_keeps (opened s)
      rw [fw]
      refine ⟨rfl, mbs, fun h => absurd h hsome, fun _ => ⟨rfl, rfl, fun p hh hr => ?_⟩⟩
      exact releasePorts_port (s := opened s) hh hr

end Sys2Proof.Machine
end

section
/-!
SUPPORT. HUB_INFO, FW_INFO and CAPS (O1).
-/
namespace Sys2Proof.Machine

/-! ## HUB_INFO, FW_INFO and CAPS (Table 15-3) -/

theorem numAt_of_bytesAt {bs : List Byte} {k n v : Nat} (h : bytesAt bs k n = toBytes n v) :
    numAt bs k n = v % 2 ^ (8 * n) := by
  rw [numAt, h, ofBytes_toBytes]

/-- The first 12 bytes of HUB_INFO. -/
def hubInfoHead (s : State) : List Byte :=
  toBytes 2 0x1C7E ++ toBytes 2 0x0120
    ++ (([0xB0, flag Config.variantX 0, s.hubId, s.hubs, strapsByte s.board.straps, s.kt.st.code,
          flag s.flt.grave 0 + 2 * s.cfg.lock.toNat, s.cfg.eff.pport.getD 0xFF]).map fun v => BitVec.ofNat 8 v)

theorem numAt_hubInfoBytes_head (s : State) {k n : Nat} (h : k + n ≤ 12) :
    numAt (hubInfoBytes s) k n = numAt (hubInfoHead s) k n := by
  unfold hubInfoBytes
  dsimp only
  iterate 7 rw [numAt_append_left (by simp [allDoms, upto]; omega)]
  rfl

theorem hubInfoBytes_fields (s : State) : (hubInfoBytes s).length = 64 ∧
    numAt (hubInfoBytes s) 0 2 = 0x1C7E ∧ numAt (hubInfoBytes s) 2 2 = 0x0120 ∧ numAt (hubInfoBytes s) 4 1 = 0xB0 ∧
    numAt (hubInfoBytes s) 6 1 = s.hubId ∧ numAt (hubInfoBytes s) 7 1 = s.hubs % 256 ∧
    numAt (hubInfoBytes s) 16 6 = s.uptime % 2 ^ 48 ∧ numAt (hubInfoBytes s) 40 8 = s.flt.status.toNat := by
  have head {k n : Nat} (h : k + n ≤ 12) := numAt_hubInfoBytes_head s h
  refine ⟨?_, ?_, ?_, ?_, ?_, ?_, ?_, ?_⟩
  · simp [hubInfoBytes, allDoms, upto]
  · exact head (by decide)
  · exact head (by decide)
  · exact head (by decide)
  · have id : s.hubId < 2 ^ (8 * 1) := Nat.lt_trans s.board.straps.hubId.isLt (by decide)
    rw [head (by decide)]
    exact (numAt_of_bytesAt (v := s.hubId) rfl).trans (Nat.mod_eq_of_lt id)
  · rw [head (by decide)]
    exact numAt_of_bytesAt (v := s.hubs) rfl
  · unfold hubInfoBytes
    dsimp only
    iterate 4 rw [numAt_append_left (by simp [allDoms, upto])]
    exact numAt_field (by simp) 6 s.uptime _
  · unfold hubInfoBytes
    exact (numAt_field (by simp [allDoms, upto]) 8 _ _).trans (Nat.mod_eq_of_lt s.flt.status.isLt)

/-- The answer of FW_INFO, of the firmware's registers and the header. -/
def fwInfoBytes (w : Firmware) (h : NvmHdr) : List Byte :=
  toBytes 1 w.slot ++ toBytes 1 (hdrSelect h) ++ toBytes 1 (fld h.slots 4 1 + flag w.fellBack 4) ++ [0]
    ++ toBytes 4 w.version ++ toBytes 4 h.verA ++ toBytes 4 h.verB ++ toBytes 4 w.exchanges
    ++ List.replicate 12 0

theorem fwInfoBytes_fields (w : Firmware) (h : NvmHdr) : (fwInfoBytes w h).length = 32 ∧
    numAt (fwInfoBytes w h) 0 1 = w.slot % 256 ∧ numAt (fwInfoBytes w h) 1 1 = hdrSelect h % 256 ∧
    numAt (fwInfoBytes w h) 4 4 = w.version % 2 ^ 32 ∧ numAt (fwInfoBytes w h) 16 4 = w.exchanges % 2 ^ 32 := by
  unfold fwInfoBytes
  refine ⟨by simp, ?_, ?_, ?_, numAt_field (by simp) 4 w.exchanges _⟩
  · simp only [List.append_assoc, numAt_toBytes_one]
  · iterate 6 rw [numAt_append_left (by simp)]
    exact numAt_field (by simp) 1 (hdrSelect h) _
  · iterate 3 rw [numAt_append_left (by simp)]
    exact numAt_field (by simp) 4 w.version _

theorem hdrNow_turned (s : State) (m : Nat) : hdrNow (s.turned m) = hdrNow s := by
  rw [hdrNow, hdrNow, header_of_nvm (s := s) (t := s.turned m) rfl rfl]

/-- The answer of CAPS: whether a spare is usable, and how many shelves are free. -/
def capsBytes (spare : Bool) (shelves : Nat) : List Byte :=
  [16, 4, 8, 16] ++ toBytes 1 (flag spare 0) ++ [56, 8, 32] ++ toBytes 1 shelves
    ++ [16, 64, 16] ++ [64, 10, 1, 7] ++ toBytes 2 256 ++ toBytes 2 512 ++ List.replicate 12 0

theorem capsBytes_fields (spare : Bool) {shelves : Nat} (h : shelves < 256) : (capsBytes spare shelves).length = 32 ∧
    numAt (capsBytes spare shelves) 0 4 = 0x10080410 ∧ numAt (capsBytes spare shelves) 8 1 = shelves :=
  ⟨rfl, numAt_of_bytesAt (v := 0x10080410) rfl, (numAt_of_bytesAt (v := shelves) rfl).trans (Nat.mod_eq_of_lt h)⟩

theorem doFwInfo_eq (s : State) (m : Option Nat) (pl : List Byte) : doFwInfo s m pl = .done 0 0 (fwInfoBytes s.fw (hdrNow s)) s := rfl
theorem doCaps_eq (s : State) (m : Option Nat) (pl : List Byte) : doCaps s m pl = .done 0 0
    (capsBytes (spareUsable s) (freeShelves s).length) s := rfl

theorem doHubInfo_of_inert {s : State} (hi : s.inert) (m : Option Nat) (pl : List Byte) :
    doHubInfo s m pl = .done 0 0 (hubInfoBytes s) s := by
  have use : (if s.flt.grave then (false, s) else useCosy s .straps) = (false, s) := by
    rw [hi.useCosy, ite_self]
  simp only [doHubInfo, use]
  rfl

theorem freeShelves_length_lt (s : State) : (freeShelves s).length < 256 := by
  have := List.length_filter_le (fun b => (tget none s.arr.shelf b).isNone) (upto 32)
  have : (upto 32).length = 32 := List.length_range
  unfold freeShelves
  omega

/-- Settles O1: each command is its body, which answers and changes nothing. -/
theorem infoCommandsAnswerAndOnlyRead : Obligations.InfoCommandsAnswerAndOnlyRead := by
  refine fun s m pl => ⟨fun h hi => ?_, fun h => ?_, fun h => ?_⟩
  · have fields := hubInfoBytes_fields (s.turned m)
    obtain ⟨hrun, hend, hmail⟩ := mbRun1_done h (doHubInfo_of_inert (s := s.turned m) hi (some m.val) pl) rfl rfl
      (by rw [fields.1]; decide)
    exact ⟨_, _, hrun, hend, onlyMail_of_turned hmail, fields⟩
  · have fields := fwInfoBytes_fields (s.turned m).fw (hdrNow (s.turned m))
    obtain ⟨hrun, hend, hmail⟩ := mbRun1_done h (doFwInfo_eq ..) rfl rfl (by rw [fields.1]; decide)
    rw [hdrNow_turned] at fields
    exact ⟨_, _, hrun, hend, onlyMail_of_turned hmail, fields⟩
  · have fields := capsBytes_fields (spareUsable (s.turned m)) (freeShelves_length_lt (s.turned m))
    obtain ⟨hrun, hend, hmail⟩ := mbRun1_done h (doCaps_eq ..) rfl rfl (by rw [fields.1]; decide)
    exact ⟨_, _, hrun, hend, onlyMail_of_turned hmail, fields⟩

end Sys2Proof.Machine
end

section
/-!
SUPPORT. Configuration items and locks (O2).
-/
namespace Sys2Proof.Machine

/-! ## A command that ends with any status -/

section
variable {s t : State} {m : Fin 10} {op : Nat} {pl r : List Byte} {st de : Nat}

/-- A command whose body leaves the mailboxes alone ends with its body's status and answer; besides what the body
did, nothing but the mailbox differs. -/
theorem mbRun_endsWith (h : s.holds m op pl) {form : List Byte → Bool} (hf : form pl = true)
    (busy : State → List Byte → List Byte × State) {body : State → Option Nat → List Byte → CmdRes}
    (hb : body (s.turned m) (some m.val) pl = .done st de r t) (hm : t.mbs = s.mbs) (hr : t.mbram = s.mbram)
    (hl : r.length ≤ 256) (hs : st < 256) (hd : de < 65536) :
    Host.Outcome.next (mbRun s m op form busy body) = (.next (mbFinish t m st de r) : Out) ∧
      (mbFinish t m st de r).ended m st de r ∧ t.onlyMail (mbFinish t m st de r) m :=
  ⟨congrArg _ (mbRun_done h form hf busy body st de r hb), ended_of h (mb_of_mbs hm m) hr st de r hl hs hd,
    mbFinish_onlyMail (by rw [hr]; exact h.ramWf) st de r hl⟩

/-- A refused command changes its mailbox and nothing else. -/
theorem mbRun1_refused (h : s.holds m op pl) {body : State → Option Nat → List Byte → CmdRes}
    (hb : body (s.turned m) (some m.val) pl = .done st de [] (s.turned m)) (hs : st < 256) (hd : de < 65536) :
    ∃ t, Host.Outcome.next (mbRun1 s m op body) = (.next t : Out) ∧ t.ended m st de [] ∧ s.onlyMail t m := by
  obtain ⟨hrun, hend, hmail⟩ := mbRun_endsWith h (form := anyForm) rfl noBusy hb rfl rfl (Nat.zero_le _) hs hd
  exact ⟨_, hrun, hend, onlyMail_of_turned hmail⟩

end

/-! ## Configuration items (Table 15-5) -/

theorem itemSize_cases {i n : Nat} (h : itemSize i = some n) :
    (n = 1 ∧ (i = 1 ∨ i = 2 ∨ i = 6)) ∨ (n = 2 ∧ i = 3) ∨ n = 8 ∧ (i = 4 ∨ i = 5) := by
  unfold itemSize at h
  split at h <;> cases h <;> simp

theorem itemMask_lt (i : Nat) : itemMask i < 2 ^ 64 := by
  unfold itemMask
  split <;> decide

theorem and_itemMask (v i : Nat) : v &&& (2 ^ 64 - 1 &&& itemMask i) = v &&& itemMask i := by
  rw [Nat.and_comm (2 ^ 64 - 1), Nat.and_two_pow_sub_one_of_lt_two_pow (itemMask_lt i)]

/-- A valid value within an item's bits is read back as it was set. -/
theorem itemGet_itemSet {i n : Nat} (hn : itemSize i = some n) (c : Items) {v : Nat} (hv : v ≤ itemMask i)
    (hok : itemValid i v = true) : itemGet (itemSet c i v) i = v := by
  rcases itemSize_cases hn with ⟨-, rfl | rfl | rfl⟩ | ⟨-, rfl⟩ | ⟨-, rfl | rfl⟩
  · rfl
  · show (if v = 0xFF then none else some v).getD 0xFF = v
    split
    · rename_i e
      exact e.symm
    · rfl
  · rfl
  · exact Nat.mod_eq_of_lt (Nat.lt_of_le_of_lt hv (by decide))
  · exact Nat.mod_eq_of_lt (Nat.lt_of_le_of_lt hv (by decide))
  · exact Nat.mod_eq_of_lt (Nat.lt_of_le_of_lt hv (by decide))

/-! ## CONFIG_READ, CONFIG_WRITE and CONFIG_LOCK -/

/-- The answer of CONFIG_READ: the item's number and size, its flags, its value. -/
def itemBytes (i n f v : Nat) : List Byte := toBytes 2 i ++ toBytes 1 n ++ toBytes 1 f ++ toBytes n v

theorem itemBytes_fields {n : Nat} (i f v : Nat) (hn : n < 256) : (itemBytes i n f v).length = 4 + n ∧
    numAt (itemBytes i n f v) 2 1 = n ∧ numAt (itemBytes i n f v) 4 n = v % 256 ^ n := by
  unfold itemBytes
  refine ⟨by simp; omega, ?_, ?_⟩
  · rw [numAt_append_left (by simp)]
    exact (numAt_field (by simp) 1 n _).trans (Nat.mod_eq_of_lt hn)
  · have field := numAt_field (a := toBytes 2 i ++ toBytes 1 n ++ toBytes 1 f) (k := 4) (by simp) n v []
    rw [List.append_nil, Nat.pow_mul] at field
    exact field

theorem doConfigRead_of_sel {s : State} {pl : List Byte} {n : Nat} (hn : itemSize (numAt pl 0 2) = some n)
    (hs : byteAt pl 2 ≤ 1) (m : Option Nat) : ∃ f, doConfigRead s m pl = .done 0 0 (itemBytes (numAt pl 0 2) n f
      (itemGet (if byteAt pl 2 = 0 then s.cfg.eff else s.cfg.staged) (numAt pl 0 2))) s := by
  refine ⟨flag (itemsLocked s) 0 + flag (itemGet s.cfg.staged (numAt pl 0 2) != itemGet s.cfg.eff (numAt pl 0 2)) 1, ?_⟩
  unfold doConfigRead
  simp only [hn, if_neg (Nat.not_lt.2 hs)]
  split <;> rfl

theorem doConfigWrite_of_valid {s : State} {pl : List Byte} {n : Nat} (hn : itemSize (numAt pl 0 2) = some n)
    (hl : s.cfg.lock.getLsbD 0 = false) (hv : itemValid (numAt pl 0 2) (numAt pl 4 n &&& itemMask (numAt pl 0 2)) = true)
    (m : Option Nat) : doConfigWrite s m pl = .done 0 0 [] { s with cfg := { s.cfg with
      staged := itemSet s.cfg.staged (numAt pl 0 2) (numAt pl 4 n &&& itemMask (numAt pl 0 2)) } } := by
  unfold doConfigWrite
  simp only [hn, itemsLocked, hl, and_itemMask, hv]
  rfl

theorem doConfigWrite_of_locked {s : State} {pl : List Byte} {n : Nat} (hn : itemSize (numAt pl 0 2) = some n)
    (hl : s.cfg.lock.getLsbD 0 = true) (m : Option Nat) : doConfigWrite s m pl = .done 6 0x102 [] s := by
  unfold doConfigWrite
  simp only [hn, itemsLocked, hl]
  rfl

theorem toBytes_one_toNat (l : BitVec 2) : toBytes 1 l.toNat = [l.setWidth 8] := by
  revert l
  decide

theorem doConfigLock_eq (s : State) (m : Option Nat) (pl : List Byte) : doConfigLock s m pl
    = .done 0 0 [(s.cfg.lock ||| BitVec.ofNat 2 (byteAt pl 0)).setWidth 8, 0, 0, 0]
        { s with cfg := { s.cfg with lock := s.cfg.lock ||| BitVec.ofNat 2 (byteAt pl 0) } } := by
  simp only [doConfigLock, cmdOk, toBytes_one_toNat]
  rfl

/-- Settles O2: each command is its body, which ends at once. -/
theorem configItemsAndLocks : Obligations.ConfigItemsAndLocks := by
  refine ⟨fun s m pl n hn => ⟨fun h hs => ?_, fun h hl => ?_, fun h hl => ?_⟩, fun s m pl h => ?_⟩
  · obtain ⟨f, hbody⟩ := doConfigRead_of_sel (s := s.turned m) hn hs (some m.val)
    have size : n ≤ 8 := by rcases itemSize_cases hn with ⟨h, -⟩ | ⟨h, -⟩ | ⟨h, -⟩ <;> omega
    obtain ⟨hlen, hn, hval⟩ := itemBytes_fields (n := n) (numAt pl 0 2) f
      (itemGet (if byteAt pl 2 = 0 then s.cfg.eff else s.cfg.staged) (numAt pl 0 2)) (by omega)
    obtain ⟨hrun, hend, hmail⟩ := mbRun1_done h hbody rfl rfl (le_of_eq_of_le hlen (by omega))
    exact ⟨_, _, hrun, hend, onlyMail_of_turned hmail, hlen, hn, hval⟩
  · intro v hv
    obtain ⟨hrun, hend, hmail⟩ := mbRun1_done h (doConfigWrite_of_valid (s := s.turned m) hn hl hv _) rfl rfl
      (Nat.zero_le _)
    refine ⟨_, hrun, hend, mbFinish_cfg .., ?_, onlyMail_of_turned (onlyMail_but_cfg hmail)⟩
    rw [mbFinish_cfg]
    exact itemGet_itemSet hn s.cfg.staged Nat.and_le_right hv
  · exact mbRun1_refused h (doConfigWrite_of_locked (s := s.turned m) hn hl _) (by decide) (by decide)
  · obtain ⟨hrun, hend, hmail⟩ := mbRun1_done h (doConfigLock_eq (s.turned m) _ pl) rfl rfl (by simp)
    refine ⟨_, hrun, mbFinish_cfg .., ?_, onlyMail_of_turned (onlyMail_but_cfg hmail)⟩
    rw [mbFinish_cfg]
    exact hend

end Sys2Proof.Machine
end

section
/-!
SUPPORT. A commit of the staging area (O3).
-/
namespace Sys2Proof.Machine

/-! ## CONFIG_COMMIT (R405, R406) -/

/-- What stored configuration words and CRC units leave alone: all but the stored words' errors, the flip register
and the units. -/
def State.butStores (s : State) : State := { s with arr := {}, integ := {}, crc := [] }

theorem storeMem_butStores (s : State) (m u k : Nat) (d : Option Nat) :
    (storeMem s m u k d).butStores = s.butStores :=
  (congrArg State.butStores (arraysOnly_storeMem s m u k d) :)

theorem storeRegion_butStores (s : State) (i d : Nat) : (storeRegion s i d).butStores = s.butStores :=
  (storeMem_butStores ..).trans (storeMem_butStores ..)

/-- A commit that leaves N as it is makes the staging area effective; what else it writes is stored words and CRC
units. -/
theorem commitApply_of_n {s : State} (h : s.cfg.staged.n = s.cfg.eff.n) :
    (commitApply s).butStores = { s with cfg := { s.cfg with eff := s.cfg.staged } }.butStores := by
  unfold commitApply
  dsimp only
  rw [if_pos h]
  refine (foldl_frame State.butStores _ (fun t u => ?_) _ _).trans
    (foldl_frame State.butStores _ (fun t i => storeRegion_butStores t i _) _ _)
  split <;> rfl

theorem commitApply_keeps {s : State} (h : s.cfg.staged.n = s.cfg.eff.n) :
    (commitApply s).cfg = { s.cfg with eff := s.cfg.staged } ∧ (commitApply s).mbs = s.mbs ∧
      (commitApply s).mbram = s.mbram ∧ (commitApply s).doms = s.doms ∧ (commitApply s).ports = s.ports := by
  have applied := commitApply_of_n h
  generalize commitApply s = t at applied ⊢
  exact ⟨(congrArg State.cfg applied :), (congrArg State.mbs applied :), (congrArg State.mbram applied :),
    (congrArg State.doms applied :), (congrArg State.ports applied :)⟩

theorem doConfigCommit_discard {s : State} {pl : List Byte} (h : nbit (byteAt pl 0) 2 = true) (m : Option Nat) :
    doConfigCommit s m pl = .done 0 0 commitNone { s with cfg := { s.cfg with staged := s.cfg.eff } } := by
  simp only [doConfigCommit, h, if_true]
  rfl

theorem doConfigCommit_applies {s : State} {pl : List Byte} (h2 : nbit (byteAt pl 0) 2 = false)
    (h1 : nbit (byteAt pl 0) 1 = false) (hl : s.cfg.lock = 0) (hc : commitCheck s (nbit (byteAt pl 0) 0) = none)
    (m : Option Nat) : doConfigCommit s m pl = .done 0 0 commitNone (commitApply s) := by
  simp [doConfigCommit, h2, h1, regionsLocked, itemsLocked, hl, hc, cmdOk]

theorem doConfigCommit_locked {s : State} {pl : List Byte} (h2 : nbit (byteAt pl 0) 2 = false)
    (hl : s.cfg.lock.getLsbD 1 = true) (hd : regionsDiffer s.cfg.staged s.cfg.eff = true) (m : Option Nat) :
    doConfigCommit s m pl = .done 6 0x102 commitNone s := by
  simp [doConfigCommit, h2, regionsLocked, hl, hd]

/-- Settles O3: a commit is refused before it writes, or its one update of the configuration in effect stands. -/
theorem commitMakesStagedEffective : Obligations.CommitMakesStagedEffective := by
  intro s m pl h
  refine ⟨fun h2 => ?_, fun h2 h1 hl hn hc => ?_, fun h2 hl hd => ?_⟩
  · obtain ⟨hrun, hend, -⟩ := mbRun_endsWith h (form := anyForm) rfl (fun s _ => (commitNone, s))
      (doConfigCommit_discard (s := s.turned m) h2 _) rfl rfl (show 4 ≤ 256 by decide) (by decide) (by decide)
    exact ⟨_, hrun, hend, mbFinish_cfg ..⟩
  · obtain ⟨cfg, mbs, mbram, doms, ports⟩ := commitApply_keeps (s := s.turned m) hn
    obtain ⟨hrun, hend, -⟩ := mbRun_endsWith h (form := anyForm) rfl (fun s _ => (commitNone, s))
      (doConfigCommit_applies (s := s.turned m) h2 h1 hl hc _) mbs mbram (show 4 ≤ 256 by decide) (by decide) (by decide)
    exact ⟨_, hrun, hend, (mbFinish_cfg ..).trans cfg, (mbFinish_doms ..).trans doms, (mbFinish_ports ..).trans ports⟩
  · obtain ⟨hrun, hend, hmail⟩ := mbRun_endsWith h (form := anyForm) rfl (fun s _ => (commitNone, s))
      (doConfigCommit_locked (s := s.turned m) h2 hl hd _) rfl rfl (show 4 ≤ 256 by decide) (by decide) (by decide)
    exact ⟨_, hrun, hend, onlyMail_of_turned hmail⟩

end Sys2Proof.Machine
end

section
/-!
SUPPORT. FAULT_READ, FAULT_CLEAR and FAULT_CONFIG (O34).
-/
namespace Sys2Proof.Machine

/-- The collector set apart, only a mailbox differs where only it differed from a state with another collector. -/
theorem onlyMail_but_flt {s t : State} {m : Fin 10} {f : Collector} (h : { s with flt := f }.onlyMail t m) :
    s.onlyMail { t with flt := s.flt } m := by
  obtain ⟨hrest, hmb, hram⟩ := h
  exact ⟨congrArg (fun x => { x with flt := s.flt }) hrest, hmb, hram⟩

/-! ## FAULT_READ (R417) -/

theorem length_srcBytes (s : State) (src dom : Nat) : (srcBytes s src dom).length = 19 := by
  unfold srcBytes
  split <;> simp

theorem faultBytes_fields (s : State) (m : Option Nat) {src : Nat} (dom : Nat) (h : src ≤ 63) :
    (faultBytes s m src dom).length = 64 ∧ numAt (faultBytes s m src dom) 0 8 = s.flt.status.toNat ∧
      numAt (faultBytes s m src dom) 8 8 = s.flt.missed.toNat ∧ numAt (faultBytes s m src dom) 40 1 = src ∧
      numAt (faultBytes s m src dom) 60 1 = s.flt.pnp.getD 0xFF % 256 := by
  unfold faultBytes
  refine ⟨by simp [length_srcBytes], ?_, ?_, ?_, ?_⟩
  · simp only [List.append_assoc]
    exact (numAt_field (a := []) rfl 8 _ _).trans (Nat.mod_eq_of_lt s.flt.status.isLt)
  · iterate 8 rw [numAt_append_left (by simp [length_srcBytes])]
    exact (numAt_field (by simp) 8 _ _).trans (Nat.mod_eq_of_lt s.flt.missed.isLt)
  · iterate 3 rw [numAt_append_left (by simp [length_srcBytes])]
    exact (numAt_field (by simp) 1 src _).trans (Nat.mod_eq_of_lt (by omega))
  · rw [numAt_append_left (by simp [length_srcBytes])]
    exact numAt_field (by simp [length_srcBytes]) 1 _ _

theorem doFaultRead_of_source {s : State} {pl : List Byte} (hs : byteAt pl 0 ≤ 63)
    (hd : byteAt pl 1 ≤ 7 ∨ byteAt pl 1 = 0xFF) (m : Option Nat) :
    doFaultRead s m pl = .done 0 0 (faultBytes s m (byteAt pl 0) (byteAt pl 1)) s :=
  if_neg (by omega)

/-! ## FAULT_CLEAR (R369, R418) -/

/-- The escalation units of the sources of a set are dropped; the rest of the collector stands. -/
theorem foldl_reclass (mask : Nat) (l : List Nat) (s : State) : ∃ us,
    l.foldl (fun s i => if nbit mask i then reclass s i else s) s = { s with flt := { s.flt with units := us } } := by
  induction l generalizing s with
  | nil => exact ⟨s.flt.units, rfl⟩
  | cons i l ih =>
    rw [List.foldl_cons]
    split
    · obtain ⟨us, h⟩ := ih (reclass s i)
      exact ⟨us, h⟩
    · exact ih s

theorem doFaultClear_eq (s : State) (m : Option Nat) (pl : List Byte) : ∃ us, doFaultClear s m pl = .done 0 0 []
    { s with flt := { s.flt with
      status := s.flt.status &&& ~~~clearMask (numAt pl 0 8), errPin := s.flt.errPin &&& ~~~clearMask (numAt pl 0 8)
      missed := s.flt.missed &&& ~~~clearMask (numAt pl 8 8), units := us } } := by
  unfold doFaultClear
  simp only [statusClear_eq, missedClear_eq]
  split
  · obtain ⟨us, h⟩ := foldl_reclass (numAt pl 0 8) (upto 64) _
    exact ⟨us, congrArg (CmdRes.done 0 0 []) h⟩
  · exact ⟨s.flt.units, rfl⟩

/-! ## FAULT_CONFIG (R362, R363) -/

/-- The configuration that form 0 gives a source. -/
def sourceOf (pl : List Byte) : SrcCfg :=
  { cls := classOf (byteAt pl 2), base := BitVec.ofNat 5 (byteAt pl 3), severe := BitVec.ofNat 5 (byteAt pl 4),
    escN := byteAt pl 5, escW := byteAt pl 6 }

/-- A source configured: its word is stored, its configuration is the one given, its escalation units are dropped. -/
def configureSource (s : State) (src : Nat) (c : SrcCfg) : State :=
  reclass ((storeMem s 0xA 0 src none).updFlt fun f => { f with src := tset f.src src (some c) }) src

theorem doFaultSource_of_source {s : State} {pl : List Byte} (h0 : byteAt pl 0 = 0) (h1 : byteAt pl 1 ≤ 63)
    (hr : srcReserved (byteAt pl 1) = false) (hg : srcGrave (byteAt pl 1) = false) (h2 : byteAt pl 2 ≤ 2)
    (h6 : byteAt pl 6 ≤ 14) (hb : srcDom (byteAt pl 1) = true ∨ nbit (byteAt pl 3 ||| byteAt pl 4) 2 = false)
    (m : Option Nat) : doFaultSource s m pl = .done 0 0 [] (configureSource s (byteAt pl 1) (sourceOf pl)) := by
  have block : ((BitVec.ofNat 5 (byteAt pl 3) ||| BitVec.ofNat 5 (byteAt pl 4)).getLsbD 2 && !srcDom (byteAt pl 1))
      = false := by
    have bit : (BitVec.ofNat 5 (byteAt pl 3) ||| BitVec.ofNat 5 (byteAt pl 4)).getLsbD 2
        = nbit (byteAt pl 3 ||| byteAt pl 4) 2 := by
      rw [BitVec.getLsbD_or, BitVec.getLsbD_ofNat, BitVec.getLsbD_ofNat, nbit, Nat.testBit_or]
      rfl
    rw [bit]
    rcases hb with hd | hn
    · simp [hd]
    · simp [hn]
  unfold doFaultSource
  dsimp only
  rw [if_neg (by omega), hr, hg, if_neg Bool.false_ne_true, if_neg Bool.false_ne_true, if_neg (by omega), block]
  rfl

theorem configureSource_rest (s : State) (src : Nat) (c : SrcCfg) :
    (configureSource s src c).flt.status = s.flt.status ∧ (configureSource s src c).mbs = s.mbs ∧
      (configureSource s src c).mbram = s.mbram ∧ (configureSource s src c).flt.src = tset s.flt.src src (some c) := by
  have store := arraysOnly_storeMem s 0xA 0 src none
  unfold configureSource
  generalize storeMem s 0xA 0 src none = t at store ⊢
  have flt : t.flt = s.flt := (congrArg State.flt store :)
  exact ⟨(congrArg Collector.status flt :), (congrArg State.mbs store :), (congrArg State.mbram store :),
    (congrArg (fun f : Collector => tset f.src src (some c)) flt :)⟩

theorem srcCfg_configureSource (s : State) (src : Nat) (c : SrcCfg) (n : Nat) :
    (configureSource s src c).srcCfg n = if n = src then c else s.srcCfg n := by
  obtain ⟨-, -, -, hsrc⟩ := configureSource_rest s src c
  rw [State.srcCfg, hsrc, tget_tset]
  by_cases h : n = src
  · simp [h]
  · simp [h, Ne.symm h, State.srcCfg]

/-- A byte that names a port or an agent, 0xFF none. -/
def named? (v : Nat) : Option Nat := if v = 0xFF then none else some v

theorem doFaultNotify_of_ok {s : State} {pl : List Byte} (h1 : byteAt pl 1 ≤ 15 ∨ byteAt pl 1 = 0xFF)
    (hd : ∀ d, d < 8 → byteAt pl (2 + d) ≤ 127 ∨ byteAt pl (2 + d) = 0xFF) (m : Option Nat) :
    doFaultNotify s m pl = .done 0 0 [] { s with flt := { s.flt with
      pnp := named? (byteAt pl 1), dna := allDoms.foldl (fun t d => tset t d (named? (byteAt pl (2 + d)))) s.flt.dna } } := by
  have doms : (allDoms.any fun d => decide (127 < byteAt pl (2 + d) ∧ byteAt pl (2 + d) ≠ 0xFF)) = false := by
    simp only [List.any_eq_false, decide_eq_true_eq]
    intro d hm
    have := hd d (List.mem_range.1 hm)
    omega
  unfold doFaultNotify
  dsimp only
  rw [doms, if_neg (by simp; omega)]
  rfl

/-! ## The rows -/

section
variable {s : State} {m : Fin 10} {pl : List Byte}

theorem faultRead_answers (h : s.holds m 0x500 pl) (hs : byteAt pl 0 ≤ 63) (hd : byteAt pl 1 ≤ 7 ∨ byteAt pl 1 = 0xFF) :
    ∃ t r, exec (.faultRead m) s = .next t ∧ t.ended m 0 0 r ∧ s.onlyMail t m ∧ r.length = 64 ∧
      numAt r 0 8 = s.flt.status.toNat ∧ numAt r 8 8 = s.flt.missed.toNat ∧
      numAt r 40 1 = byteAt pl 0 ∧ numAt r 60 1 = s.flt.pnp.getD 0xFF % 256 := by
  have fields := faultBytes_fields (s.turned m) (some m.val) (byteAt pl 1) hs
  obtain ⟨hrun, hend, hmail⟩ := mbRun1_done h (doFaultRead_of_source (s := s.turned m) hs hd _) rfl rfl
    (by rw [fields.1]; decide)
  exact ⟨_, _, hrun, hend, onlyMail_of_turned hmail, fields⟩

theorem faultClear_clears (h : s.holds m 0x501 pl) : ∃ t, exec (.faultClear m) s = .next t ∧ t.ended m 0 0 [] ∧
    (∀ i, i < 64 → i ≠ 56 → i ≠ 57 →
      t.flt.status.getLsbD i = (s.flt.status.getLsbD i && !(numAt pl 0 8).testBit i) ∧
      t.flt.missed.getLsbD i = (s.flt.missed.getLsbD i && !(numAt pl 8 8).testBit i)) ∧
    t.flt.status.getLsbD 56 = s.flt.status.getLsbD 56 ∧ t.flt.status.getLsbD 57 = s.flt.status.getLsbD 57 ∧
    s.onlyMail { t with flt := s.flt } m := by
  obtain ⟨us, hbody⟩ := doFaultClear_eq (s.turned m) (some m.val) pl
  obtain ⟨hrun, hend, hmail⟩ := mbRun1_done h hbody rfl rfl (Nat.zero_le _)
  refine ⟨_, hrun, hend, fun i hi h6 h7 => ?_, ?_, ?_, onlyMail_of_turned (onlyMail_but_flt hmail)⟩
  all_goals rw [mbFinish_flt]
  · have free : i < 56 ∨ 58 ≤ i := by omega
    exact ⟨getLsbD_cleared_free _ _ free, getLsbD_cleared_free _ _ free⟩
  · exact getLsbD_cleared_fixed _ _ (.inl rfl)
  · exact getLsbD_cleared_fixed _ _ (.inr rfl)

theorem faultConfigSource_sets (h : s.holds m 0x502 pl) (h0 : byteAt pl 0 = 0) (h1 : byteAt pl 1 ≤ 63)
    (hr : srcReserved (byteAt pl 1) = false) (hg : srcGrave (byteAt pl 1) = false) (h2 : byteAt pl 2 ≤ 2)
    (h6 : byteAt pl 6 ≤ 14) (hb : srcDom (byteAt pl 1) = true ∨ nbit (byteAt pl 3 ||| byteAt pl 4) 2 = false) :
    ∃ t, exec (.faultConfigSource m) s = .next t ∧ t.ended m 0 0 [] ∧ t.srcCfg (byteAt pl 1) = sourceOf pl ∧
      (∀ n, n ≠ byteAt pl 1 → t.srcCfg n = s.srcCfg n) ∧ t.flt.status = s.flt.status := by
  obtain ⟨status, mbs, mbram, -⟩ := configureSource_rest (s.turned m) (byteAt pl 1) (sourceOf pl)
  have cfg := srcCfg_configureSource (s.turned m) (byteAt pl 1) (sourceOf pl)
  obtain ⟨hrun, hend, -⟩ := mbRun_endsWith h (form := formNot 0 1) (by simp [formNot, h0]) noBusy
    (doFaultSource_of_source (s := s.turned m) h0 h1 hr hg h2 h6 hb _) mbs mbram (Nat.zero_le _) (by decide) (by decide)
  refine ⟨_, hrun, hend, ?_, fun n hn => ?_, ?_⟩
  all_goals simp only [State.srcCfg, mbFinish_flt] at cfg ⊢
  · exact (cfg _).trans (if_pos rfl)
  · exact (cfg n).trans (if_neg hn)
  · exact status

theorem faultConfigNotify_sets (h : s.holds m 0x502 pl) (h0 : byteAt pl 0 = 1)
    (h1 : byteAt pl 1 ≤ 15 ∨ byteAt pl 1 = 0xFF)
    (hd : ∀ d, d < 8 → byteAt pl (2 + d) ≤ 127 ∨ byteAt pl (2 + d) = 0xFF) :
    ∃ t, exec (.faultConfigNotify m) s = .next t ∧ t.ended m 0 0 [] ∧ t.flt.pnp = named? (byteAt pl 1) ∧
      (∀ d, d < 8 → tget none t.flt.dna d = named? (byteAt pl (2 + d))) ∧ s.onlyMail { t with flt := s.flt } m := by
  obtain ⟨hrun, hend, hmail⟩ := mbRun_endsWith h (form := formIs 0 1) (by simp [formIs, h0]) noBusy
    (doFaultNotify_of_ok (s := s.turned m) h1 hd _) rfl rfl (Nat.zero_le _) (by decide) (by decide)
  refine ⟨_, hrun, hend, ?_, fun d lt => ?_, onlyMail_of_turned (onlyMail_but_flt hmail)⟩
  all_goals rw [mbFinish_flt]
  have set := tget_foldl_tset none s.flt.dna 0 (fun d => named? (byteAt pl (2 + d))) lt
  simp only [Nat.zero_add] at set
  exact set

end

/-- Settles O34: each command is its body, which ends at once. -/
theorem faultCommandsReadAndSet : Obligations.FaultCommandsReadAndSet := by
  unfold Obligations.FaultCommandsReadAndSet
  exact fun s m pl => ⟨faultRead_answers, faultClear_clears, faultConfigSource_sets, fun _ => ⟨rfl, rfl⟩,
    faultConfigNotify_sets⟩

end Sys2Proof.Machine
end

section
/-!
SUPPORT. Notices, the log writer and the sensor (O33).
-/
namespace Sys2Proof.Machine

/-! ## Notices (R374) -/

theorem exec_faultNoticePlacement {s : State} {a : Fin 16} {src : BitVec 6} {rest : List (BitVec 6)}
    (h : (s.port a).hntQ = src :: rest) (hf : noticeFree s a = true) :
    exec (.faultNoticePlacement a) s = .next (placeAgent (s.updPort a fun q => { q with hntQ := rest }) a
      (hubNotice s a 2 0 0 src)) := by
  show execFaultNoticePlacement a s = _
  simp [execFaultNoticePlacement, h, hf]

theorem apart_hntQ : Apart Port.hntQ :=
  ⟨fun _ _ => rfl, fun _ _ => rfl, fun _ _ => rfl, fun _ _ => rfl⟩

/-- A notice that is placed leaves the notices that wait. -/
theorem portsKeep_hubNotice (s : State) (p : Nat) (kind mbx : BitVec 4) (st : BitVec 8) (src : BitVec 6) :
    s.portsKeep Port.hntQ (placeAgent s p (hubNotice s p kind mbx st src)) := by
  rcases placeAgent_hubNotice s p kind mbx st src with hsame | hqueue
  · rw [hsame]
    exact .refl _ s
  · rw [hqueue]
    exact portsKeep_queueMsg apart_hntQ s p _

/-- The notices that wait are no part of a notice. -/
theorem hubNotice_hntQ (s : State) (p : Nat) (q : List (BitVec 6)) (kind mbx : BitVec 4) (st : BitVec 8)
    (src : BitVec 6) :
    hubNotice (s.updPort p fun x => { x with hntQ := q }) p kind mbx st src = hubNotice s p kind mbx st src := by
  simp only [hubNotice, State.updPort_port_same]
  rfl

theorem notice_is_placed {s : State} {a : Fin 16} {d : Fin 8} {src : BitVec 6} {rest : List (BitVec 6)}
    (hf : noticeFree s a = true) (hd : (s.port a).mem.dom = some d.val) :
    let t := placeAgent (s.updPort a fun q => { q with hntQ := rest }) a (hubNotice s a 2 0 0 src)
    (t.port a).hntQ = rest ∧ s.placed t a (hubNotice s a 2 0 0 src) ∧ s.otherPorts t a := by
  intro t
  have taken := State.updPort_port_same s a fun q => { q with hntQ := rest }
  have posts := posts_hubNotice (t := s.updPort a fun q => { q with hntQ := rest }) hf hd
    (by rw [taken]) (by rw [taken]) 2 0 0 src
  have waits := portsKeep_hubNotice (s.updPort a fun q => { q with hntQ := rest }) a 2 0 0 src a
  rw [hubNotice_hntQ, taken] at waits
  have placed := posts.placed_of_single rfl
  rw [State.placed, taken] at placed
  exact ⟨waits, placed, fun j hj => (posts.others j fun h => hj (List.mem_singleton.1 h)).trans
    (State.updPort_port_ne _ _ (Ne.symm hj))⟩

/-! ## The log writer (R375 to R377) -/

theorem length_logBytes (s : State) (r : LogRec) : (logBytes s r).length = 32 := by simp [logBytes]

/-- A row of the NVM written: its words are as intended again. -/
def State.withRow (s : State) (row : Nat) (bs : List Byte) : State :=
  { s with nvm := ramSetMany s.nvm (row * 32) bs, nvmErr := s.nvmErr.filter fun e => e.1 / 4 != row }

theorem writeRow_of_good {s : State} {row : Nat} (h : s.nvmFail.contains row = false) (bs : List Byte) :
    writeRow s row bs = (true, s.withRow row bs) := by
  simp only [writeRow, h]
  rfl

/-- Bytes that fill one row. -/
theorem nvmWrite_row {s : State} {row : Nat} (h : s.nvmFail.contains row = false) {bs : List Byte}
    (hl : bs.length = 32) : nvmWrite s (32 * row) bs = (true, s.withRow row bs) := by
  have full : ¬ bs.isEmpty = true := by
    intro he
    rw [List.isEmpty_iff.1 he] at hl
    exact absurd hl (by decide)
  have one : (bs.length + 31) / 32 = 0 + 1 := by omega
  have row' : 32 * row / 32 = row := by omega
  have whole : bs.take 32 ++ List.drop bs.length ([] : List Byte) = bs := by
    rw [List.drop_nil, List.append_nil, List.take_of_length_le hl.le]
  rw [nvmWrite, one, row', writeRows, if_neg full, if_neg (by omega)]
  simp only [whole, writeRow_of_good h, if_true, writeRows]

theorem nvmDiff_of_none {s : State} {k : Nat} (h : ∀ e ∈ s.nvmErr, e.1 ≠ k) : nvmDiff s k = some 0 := by
  have none : (s.nvmErr.find? fun e => e.1 == k) = none := by
    rw [List.find?_eq_none]
    exact fun e he => by simpa using h e he
  rw [nvmDiff, none]

theorem nvmByte_of_none {s : State} {a : Nat} (h : ∀ e ∈ s.nvmErr, e.1 ≠ a / 8) : nvmByte s a = ramGet s.nvm a := by
  simp [nvmByte, nvmDiff_of_none h]

/-- Bytes without an error among their words are read as they are stored. -/
theorem nvmRead_of_none {s : State} {a n : Nat} (h : ∀ i, i < n → ∀ e ∈ s.nvmErr, e.1 ≠ (a + i) / 8) :
    nvmRead s a n = ramRead s.nvm a n := by
  unfold nvmRead
  split
  · rfl
  · exact List.map_congr_left fun i hi => nvmByte_of_none (h i (List.mem_range.1 hi))

/-- A row that has been written is read back. -/
theorem nvmRead_written {s : State} {row : Nat} {bs : List Byte} (hw : ramWf s.nvm = true) (hl : bs.length = 32) :
    nvmRead (s.withRow row bs) (32 * row) 32 = bs := by
  rw [nvmRead_of_none]
  · refine List.ext_getElem (by simp [ramRead, hl]) fun i hi hi' => ?_
    simp only [ramRead, List.getElem_map, List.getElem_range]
    rw [Nat.mul_comm]
    exact ramGet_ramSetMany hw bs hi'
  · intro i hi e he hword
    have other := (List.mem_filter.1 he).2
    have : e.1 / 4 = row := by omega
    simp [this] at other

/-- Writing a row leaves the bytes of the others. -/
theorem withRow_nvm_outside {s : State} {row i : Nat} {bs : List Byte} (hw : ramWf s.nvm = true) (hl : bs.length = 32)
    (hi : i < 32 * row ∨ 32 * row + 32 ≤ i) : ramGet (s.withRow row bs).nvm i = ramGet s.nvm i := by
  show ramGet (ramSetMany s.nvm (row * 32) bs) i = _
  rcases hi with below | above
  · exact ramGet_ramSetMany_below hw _ (by omega)
  · exact ramGet_ramSetMany_above hw _ (by omega)

/-- The collector once the log writer has taken a record. -/
def logTaken (s : State) (r : LogRec) (rest : List LogRec) : State := s.updFlt fun f => { f with
  queue := rest, firstDone := true, tokens := if r.grave then f.tokens else f.tokens - 1,
  copy := f.copy.map fun x => if x.seq = r.seq then { r with first := !s.flt.firstDone } else x }

theorem exec_logWrite {s : State} {r : LogRec} {rest : List LogRec} (hq : s.flt.queue = r :: rest)
    (hh : s.board.held = .none) (hsc : s.flt.scanning = false) (ht : 0 < s.flt.tokens) :
    exec .logWrite s = .next (nvmWrite (logTaken s r rest) (logAddr + 32 * (r.seq % 512))
      (logBytes s { r with first := !s.flt.firstDone })).2 := by
  have none : ¬ (s.board.held ≠ .none ∨ s.flt.scanning = true ∨ s.flt.tokens = 0 ∧ (!r.grave) = true) := by
    rw [hh, hsc]
    simp [ht.ne']
  show execLogWrite s = _
  unfold execLogWrite
  simp only [hq]
  rw [if_neg none]
  rfl

theorem log_row_is_written {s : State} {r : LogRec} {rest : List LogRec} (hq : s.flt.queue = r :: rest)
    (hh : s.board.held = .none) (hsc : s.flt.scanning = false) (ht : 0 < s.flt.tokens) (hw : ramWf s.nvm = true)
    (hf : s.nvmFail.contains ((logAddr + 32 * (r.seq % 512)) / 32) = false) : ∃ t, exec .logWrite s = .next t ∧
      t.flt.queue = rest ∧ t.flt.tokens = (if r.grave then s.flt.tokens else s.flt.tokens - 1) ∧
      t.flt.firstDone = true ∧
      nvmRead t (logAddr + 32 * (r.seq % 512)) 32 = logBytes s { r with first := !s.flt.firstDone } ∧
      ∀ i, i < logAddr + 32 * (r.seq % 512) ∨ logAddr + 32 * (r.seq % 512) + 32 ≤ i →
        ramGet t.nvm i = ramGet s.nvm i := by
  obtain ⟨row, hrow⟩ : ∃ row, logAddr + 32 * (r.seq % 512) = 32 * row := ⟨0x1E00 + r.seq % 512, by
    unfold logAddr; omega⟩
  have len := length_logBytes s { r with first := !s.flt.firstDone }
  rw [hrow, Nat.mul_div_cancel_left _ (by decide)] at hf
  rw [exec_logWrite hq hh hsc ht, hrow, nvmWrite_row (s := logTaken s r rest) hf len]
  have read := nvmRead_written (s := logTaken s r rest) (row := row) hw len
  have outside (i : Nat) := withRow_nvm_outside (s := logTaken s r rest) (row := row) (i := i) hw len
  exact ⟨_, rfl, rfl, rfl, rfl, read, outside⟩

theorem exec_tokenGain {s : State} (h : s.board.held ≠ .powerOn) : exec .tokenGain s = .next
    { s with flt := { s.flt with tokens := min 16 (s.flt.tokens + 1) } } := by
  show execTokenGain s = _
  simp only [execTokenGain, ne_eq, h, not_false_eq_true, if_true]
  rfl

theorem exec_logScan {s : State} (hh : s.board.held = .none) (hsc : s.flt.scanning = true) :
    ∃ t, exec .logScan s = .next t ∧ t.flt.scanning = false ∧
      t.flt.nextSeq = (scanSeq s + s.flt.nextSeq) % 2 ^ 32 ∧ t.flt.queue.length = s.flt.queue.length ∧
      t.nvm = s.nvm := by
  refine ⟨_, if_pos ⟨hh, hsc⟩, rfl, rfl, ?_, rfl⟩
  exact List.length_map _

/-! ## The sensor (R508) -/

/-- The sensor after a reading. -/
def Sensor.read (k : Sensor) (v : BitVec 16) : Sensor where
  now := v
  max := if k.max.toInt < v.toInt then v else k.max
  armed := if (tjMax : Int) ≤ v.toInt then false else k.armed || decide (v.toInt ≤ (tjMax : Int) - 40)

theorem exec_sensorReading {s : State} (hh : s.board.held = .none) (v : BitVec 16) : exec (.sensorReading v) s =
    if (tjMax : Int) ≤ v.toInt ∧ s.sens.armed = true then
      .next (raise { s with sens := s.sens.read v } 35 none ((v.sshiftRight 3).toNat % 256))
    else .next { s with sens := s.sens.read v } := by
  show execSensorReading v s = _
  unfold execSensorReading
  rw [if_neg (not_not_intro hh)]
  simp only [decide_eq_true_eq]
  rfl

theorem reading_is_kept {s : State} (hh : s.board.held = .none) (v : BitVec 16) :
    ∃ t, exec (.sensorReading v) s = .next t ∧ t.sens.now = v ∧
      t.sens.max = (if s.sens.max.toInt < v.toInt then v else s.sens.max) ∧
      ((tjMax : Int) ≤ v.toInt → t.sens.armed = false ∧ (s.sens.armed = true → t.raised 35 none)) ∧
      (v.toInt < (tjMax : Int) → t = { s with sens := t.sens }) := by
  have armed (h : (tjMax : Int) ≤ v.toInt) : (s.sens.read v).armed = false := by simp [Sensor.read, h]
  rw [exec_sensorReading hh]
  split
  · rename_i hot
    exact ⟨_, rfl, rfl, rfl, fun h => ⟨armed h, fun _ => raised_raise ..⟩, fun h => absurd hot.1 (by omega)⟩
  · rename_i cool
    exact ⟨_, rfl, rfl, rfl, fun h => ⟨armed h, fun ha => absurd ⟨h, ha⟩ cool⟩, fun _ => rfl⟩

/-- Settles O33: a notice is one message placed, a log record one row of the NVM written and read back, and a token,
the scan and a reading are one update each. -/
theorem logAndNoticesAreServed : Obligations.LogAndNoticesAreServed := by
  intro s
  refine ⟨fun a d src rest hq hf hd => ?_, fun r rest hq hh hsc ht hw hfail => ?_, fun hh => ?_, fun hh hsc => ?_,
    fun v hh => reading_is_kept hh v⟩
  · exact ⟨_, exec_faultNoticePlacement hq hf, notice_is_placed hf hd⟩
  · exact log_row_is_written hq hh hsc ht hw hfail
  · exact ⟨_, exec_tokenGain hh, rfl⟩
  · exact exec_logScan hh hsc

end Sys2Proof.Machine
end

section
/-!
SUPPORT. What the reactions of an event leave of the collector, and the row of an event (O32).
-/
namespace Sys2Proof.Machine

variable {s t : State}

/-! ## What the reactions leave of the collector -/

/-- What the collector holds of its sources, its interrupt, and the configuration. -/
def State.collected (s : State) := (s.flt.status, s.flt.events, s.flt.int, s.flt.grave, s.cfg)

theorem State.portsOnly.collected (h : s.portsOnly t) : t.collected = s.collected := (congrArg State.collected h :)

theorem State.arraysOnly.collected (h : s.arraysOnly t) : t.collected = s.collected := (congrArg State.collected h :)

theorem mbFinish_collected (s : State) (m st de : Nat) (r : List Byte) :
    (mbFinish s m st de r).collected = s.collected := by
  unfold State.collected
  rw [mbFinish_flt, mbFinish_cfg]

theorem returnCredit_collected (s : State) (p : Nat) (c : Cls) (d : Nat) :
    (returnCredit s p c d).collected = s.collected := by
  unfold returnCredit
  split <;> rfl

theorem dropNotices_collected (s : State) (p : Nat) : (dropNotices s p).collected = s.collected := by
  unfold dropNotices
  dsimp only
  (repeat' split) <;> rfl

theorem holdPort_collected (s : State) (p : Nat) (reason : BitVec 8) :
    (holdPort s p reason).collected = s.collected := by
  have forget : (forgetCredits (dropNotices s p) p).collected = s.collected := dropNotices_collected s p
  unfold holdPort
  dsimp only
  split
  · exact (mbFinish_collected _ _ 8 0x301 []).trans forget
  · exact forget

theorem leavePort_collected (s : State) (p d : Nat) : (leavePort s p d).collected = s.collected :=
  (dropNotices_collected _ p).trans (portsOnly_placeRelease s p d).collected

theorem expel_collected (s : State) (d dan : Nat) : (expel s d dan).collected = s.collected := by
  unfold expel
  split
  · rfl
  · refine (arraysOnly_storeMem _ 9 0 _ _).collected.trans ?_
    rw [show ∀ (u : State) f, (u.updDom d f).collected = u.collected from fun _ _ => rfl, apply_ite State.collected,
      (arraysOnly_setShelves _ _ none).collected, ite_self, apply_ite State.collected,
      (arraysOnly_clearShelves _ _).collected, ite_self]
    split
    · exact leavePort_collected s _ d
    · rfl

theorem expelAll_collected (s : State) (d : Nat) (dans : List Nat) : (expelAll s d dans).collected = s.collected :=
  foldl_frame State.collected _ (fun s n => expel_collected s d n) dans s

theorem abortJobs_collected (s : State) (d : Nat) : (abortJobs s d).collected = s.collected :=
  foldl_frame State.collected _ (fun s m => mbFinish_collected s m 8 0x206 []) _ _

theorem freeDomain_collected (s : State) (d : Nat) : (freeDomain s d).collected = s.collected := by
  have proxies (s : State) (x : Proxy) :
      (if x.f.h.dom.toNat == d then returnCredit s x.port .snp d else s).collected = s.collected := by
    split
    · exact returnCredit_collected s _ _ _
    · rfl
  unfold freeDomain
  dsimp only
  rw [show ∀ (u : State) f, (u.updHome f).collected = u.collected from fun _ _ => rfl,
    foldl_frame State.collected _ proxies,
    show ∀ (u : State) f, (u.updDom d f).collected = u.collected from fun _ _ => rfl,
    foldl_frame State.collected _ fun s e => returnCredit_collected s _ _ _,
    foldl_frame State.collected _ fun s w => returnCredit_collected s _ _ _]

theorem crcRelease_collected (s : State) (d : Nat) : (crcRelease s d).collected = s.collected :=
  foldl_frame State.collected _ (fun s u => by split <;> rfl) [0, 1] s

theorem cleanDown_collected (s : State) (d : Nat) (dead : List Nat) :
    (cleanDown s d dead).collected = s.collected := by
  have down (s : State) (p : Nat) :
      (if s.up p then raiseFatal (sendLinkDown s p 7) p 7 else s).collected = s.collected := by
    split
    · exact holdPort_collected _ p 7
    · rfl
  have ports (s : State) (p : Nat) : (downPort s d p).collected = s.collected := (portsOnly_placeRelease s p d).collected
  have queues : (dropQueued s d).collected = s.collected :=
    foldl_frame State.collected _ (fun _ _ => rfl) spanPorts s
  unfold cleanDown
  dsimp only
  rw [expelAll_collected, foldl_frame State.collected _ down, expelAll_collected,
    foldl_frame State.collected _ ports, crcRelease_collected,
    (arraysOnly_clearShelves _ _).collected]
  exact queues

theorem domainDown_collected (s : State) (d cause : Nat) (dead : List Nat) (src : Option Nat) :
    (domainDown s d cause dead src).collected = s.collected := by
  cases h : (s.dom d).st.inService with
  | false => rw [domainDown, domainDownBy, if_pos (by rw [h]; rfl)]
  | true =>
    rw [domainDown, domainDownBy_eq false h]
    refine (cleanDown_collected _ d dead).trans ?_
    rw [freeDomain_collected, abortJobs_collected, (portsOnly_spanNotice _ src _).collected]
    rfl

theorem pllStart_collected (s : State) : (pllStart s).collected = s.collected := by
  obtain ⟨on, lock, n, since, h⟩ := pllStart_eq s
  rw [h]
  rfl

theorem netUpdate_collected (s : State) : (netUpdate s).collected = s.collected := by
  obtain ⟨pull, net, n, h⟩ := netUpdate_eq s
  rw [h]
  rfl

/-- Ports' links updated one after another. -/
theorem foldl_updLink_collected (f : State → Nat → Link → Link) (l : List Nat) (s : State) :
    (l.foldl (fun s p => s.updLink p (f s p)) s).collected = s.collected :=
  foldl_frame State.collected (fun s p => s.updLink p (f s p)) (fun _ _ => rfl) l s

theorem beginExits_collected (s : State) : (beginExits s).collected = s.collected := by
  unfold beginExits
  generalize allPorts = l
  exact foldl_updLink_collected _ l s

theorem wakeSteep_collected (s : State) (cause : Nat) : (wakeSteep s cause).collected = s.collected := by
  unfold wakeSteep
  rw [netUpdate_collected, pllStart_collected, beginExits_collected]
  rfl

theorem wakeDormant_collected (s : State) (cause : Nat) : (wakeDormant s cause).collected = s.collected := by
  unfold wakeDormant
  dsimp only
  rw [pllStart_collected]
  generalize allPorts = l
  exact foldl_updLink_collected _ l _

theorem wake_collected (s : State) (cause : Nat) : (wake s cause).collected = s.collected := by
  unfold wake
  split
  · rfl
  · split
    · exact wakeSteep_collected s cause
    · exact wakeDormant_collected s cause
    · exact netUpdate_collected _
    · rfl

theorem queueRec_collected (s : State) (r : LogRec) : (queueRec s r).collected = s.collected := by
  unfold queueRec
  dsimp only
  (repeat' split) <;> rfl

theorem queueHnt_collected (s : State) (p src : Nat) : (queueHnt s p src).collected = s.collected := by
  unfold queueHnt
  dsimp only
  (repeat' split) <;> rfl

theorem queueRec_fw (s : State) (r : LogRec) : (queueRec s r).fw = s.fw := by
  unfold queueRec
  dsimp only
  (repeat' split) <;> rfl

theorem queueHnt_fw (s : State) (p src : Nat) : (queueHnt s p src).fw = s.fw := by
  unfold queueHnt
  dsimp only
  (repeat' split) <;> rfl

/-! ## An event of class Notice (R365 to R368) -/

/-- The reactions of an event, as far as its notices. -/
def notified (s : State) (src : Nat) (dom : Option Nat) : State :=
  (notifyPorts s dom).foldl (fun s p => queueHnt s p src) s

theorem notified_collected (s : State) (src : Nat) (dom : Option Nat) :
    (notified s src dom).collected = s.collected :=
  foldl_frame State.collected _ (fun s p => queueHnt_collected s p src) _ s

theorem notified_fw (s : State) (src : Nat) (dom : Option Nat) : (notified s src dom).fw = s.fw :=
  foldl_frame State.fw _ (fun s p => queueHnt_fw s p src) _ s

/-- Reactions with an interrupt and without a chip reset. -/
theorem react_collected {set : BitVec 5} (hint : set.getLsbD 0 = true) (hchip : set.getLsbD 3 = false)
    (he : s.fw.exch = none) {status events int grave cfg} (hs : s.collected = (status, events, int, grave, cfg))
    (src : Nat) (dom : Option Nat) : (react s src dom set).collected = (status, events, true, grave, cfg) := by
  have notices := (notified_collected s src dom).trans hs
  have exch : (notified s src dom).fw.exch = none := by rw [notified_fw, he]
  have interrupt : ((notified s src dom).updFlt fun f => { f with int := true }).collected
      = (status, events, true, grave, cfg) := by
    simp only [State.collected, Prod.mk.injEq] at notices
    obtain ⟨hstatus, hevents, -, hgrave, hcfg⟩ := notices
    exact Prod.ext hstatus (Prod.ext hevents (Prod.ext rfl (Prod.ext hgrave hcfg)))
  rw [← interrupt]
  have woken (c : Prop) [Decidable c] (v : State) : (if c then wake v causeFault else v).collected = v.collected := by
    split
    · exact wake_collected v causeFault
    · rfl
  have fold : (notifyPorts s dom).foldl (fun s p => queueHnt s p src) s = notified s src dom := rfl
  unfold react
  simp only [hint, hchip, if_true, fold, exch, Option.any_none, Bool.false_eq_true, if_false, Bool.or_false]
  generalize notified s src dom = u
  split
  · rw [domainDown_collected, woken]
    split <;> rfl
  · rw [woken]
    split <;> rfl

/-- What an event of a source of class Notice may set off, escalated or not: an interrupt and no chip reset. -/
theorem notice_set {src : Nat} (h : srcClass src = .notice) (esc : Bool) (dom : Option Nat) :
    let set := if esc then (defaultSrc src).severe else (defaultSrc src).base
    let set := if dom.isSome then set else set &&& 0b11011
    (set.getLsbD 0 = true ∧ set.getLsbD 3 = false) ∧ (set &&& 0b11011 != 0) = true := by
  simp only [defaultSrc, h, classSet]
  generalize dom.isSome = named
  generalize srcDom src = ofDomain
  revert esc named ofDomain
  decide

theorem srcGrave_of_notice {src : Nat} (h : srcClass src = .notice) : srcGrave src = false := by
  by_contra hg
  rw [srcClass, if_pos (by simpa using hg)] at h
  exact FClass.noConfusion h

/-- The escalation unit that an event meets (R367). -/
def eventUnit (s : State) (src : Nat) (dom : Option Nat) : EscUnit :=
  tget {} s.flt.units (unitKey src (match srcDom src, dom with
    | true, some d => d
    | _, _ => 8))

theorem latch_collected {src : Nat} (hst : s.flt.status.getLsbD src = false) (hi : s.inert)
    (hcfg : s.srcCfg src = defaultSrc src) (hcls : srcClass src = .notice) (he : s.fw.exch = none)
    (dom : Option Nat) (detail : BitVec 64) (inj : Bool) : (latch s src dom detail inj).collected
      = (s.flt.status ||| (1#64 <<< src), tset s.flt.events src (bump (tget 0 s.flt.events src)), true, s.flt.grave,
          s.cfg) := by
  have word : (useCfg s 0xA src none).2 = s := by rw [useCfg, hi.useMem]
  have cls : (defaultSrc src).cls = .notice := hcls
  unfold latch
  simp only [hst, srcGrave_of_notice hcls, word, hcfg, cls, Bool.false_eq_true, if_false,
    show (FClass.notice == FClass.grave) = false from rfl]
  obtain ⟨⟨hint, hchip⟩, hheld⟩ :=
    notice_set hcls (escalate (defaultSrc src) (eventUnit s src dom) s.uptime).2.esc dom
  refine react_collected (int := s.flt.int) hint hchip ?_ ((queueRec_collected _ _).trans ?_) src dom
  · rw [queueRec_fw]
    exact he
  · exact Prod.ext (if_pos hheld) rfl

/-! ## One row -/

theorem ErrLine.before_irrefl (l : ErrLine) : l.before l = false := by simp [ErrLine.before]

/-- An error line that rises, and falls back (R365). -/
def State.withLine (s : State) (l : ErrLine) : State := s.updFlt fun f => { f with lines := f.lines ++ [l] }

def State.withoutLine (s : State) (l : ErrLine) : State := s.updFlt fun f => { f with lines := f.lines.erase l }

theorem withoutLine_withLine (hl : s.flt.lines = []) (l : ErrLine) : (s.withLine l).withoutLine l = s := by
  have gone : (s.flt.lines ++ [l]).erase l = s.flt.lines := by simp [hl]
  exact congrArg (fun ls => s.updFlt fun f => { f with lines := ls }) gone

/-- With no line before it, an event is handled where it rises. -/
theorem takeEvent_of_quiet {src : Nat} (hg : s.flt.grave = false) (hr : srcReserved src = false)
    (hl : s.flt.lines = []) (dom : Option Nat) (detail : BitVec 64) : takeEvent s src dom detail =
      if tget none s.flt.latchedAt src = some s.uptime then
        s.updFlt fun f => { f with missed := f.missed ||| (1#64 <<< src) }
      else latch (s.updFlt fun f => { f with latchedAt := tset f.latchedAt src (some s.uptime) }) src
        (if srcDom src || false then dom else none) detail false := by
  let l : ErrLine := ⟨src, dom, detail, false, s.uptime⟩
  have first : ((s.withLine l).flt.lines.any fun x => x.before l) = false := by
    show ((s.flt.lines ++ [l]).any fun x => x.before l) = false
    simp [hl, ErrLine.before_irrefl]
  have back : takeLine (s.withLine l) l =
      let u := (s.withLine l).withoutLine l
      if tget none u.flt.latchedAt src = some s.uptime then
        u.updFlt fun f => { f with missed := f.missed ||| (1#64 <<< src) }
      else latch (u.updFlt fun f => { f with latchedAt := tset f.latchedAt src (some s.uptime) }) src
        (if srcDom src || false then dom else none) detail false := rfl
  rw [withoutLine_withLine hl] at back
  refine Eq.trans ?_ back
  rw [takeEvent, if_neg (by simp [hg, hr])]
  simp only [hl, List.find?_nil, Option.getD_none, Option.isSome_none, Bool.false_eq_true, if_false]
  exact if_neg (by rw [Bool.not_eq_true]; exact first)

/-- A line that stands before every line of a source keeps that source's events waiting. -/
theorem takeEvent_of_before {x : ErrLine} (hx : x ∈ s.flt.lines) {src : Nat} {dom : Option Nat} {detail : BitVec 64}
    (hn : ∃ y ∈ s.flt.lines, y.src = src ∧ y.dom = dom ∧ y.detail = detail)
    (hb : ∀ y ∈ s.flt.lines, y.src = src → x.before y = true) : takeEvent s src dom detail = s := by
  obtain ⟨y, hy, hsrc, hdom, hdet⟩ := hn
  unfold takeEvent
  split
  · rfl
  · cases hf : s.flt.lines.find? fun l => l.src == src && l.dom == dom && l.detail == detail with
    | none =>
      have none := List.find?_eq_none.1 hf y hy
      simp [hsrc, hdom, hdet] at none
    | some l =>
      have named := List.find?_some hf
      simp only [Bool.and_eq_true, beq_iff_eq] at named
      have waits : (s.flt.lines.any fun x => x.before l) = true :=
        List.any_eq_true.2 ⟨x, hx, hb l (List.mem_of_find?_eq_some hf) named.1.1⟩
      exact if_pos waits

/-- Settles O32: an event of class Notice goes through its latch and its reactions, which leave the collector's
status, counters and configuration alone but for the interrupt; any other sets its missed bit or waits. -/
theorem eventsAreLatchedOrMissed : Obligations.EventsAreLatchedOrMissed := by
  intro s src dom detail hh hg
  have run : exec (.faultEvent src dom detail) s = .next (takeEvent s src (dom.map Fin.val) detail) := if_pos hh
  rw [run]
  refine ⟨fun hr => ⟨_, rfl, ?_⟩, fun hl hr => ⟨fun hm => ⟨_, rfl, ?_⟩, fun hst hlat hi hcfg hcls he => ⟨_, rfl, ?_⟩⟩,
    fun x hx _ hn hb => by rw [takeEvent_of_before hx hn hb]⟩
  · exact if_pos (by rw [hr, Bool.or_true])
  · rw [takeEvent_of_quiet hg hr hl]
    split
    · rfl
    · rename_i hlat
      have held : (latch (s.updFlt fun f => { f with latchedAt := tset f.latchedAt src (some s.uptime) }) src
        (if srcDom src || false then dom.map Fin.val else none) detail false) = _ := if_pos (hm.resolve_right hlat)
      rw [held]
      rfl
  · rw [takeEvent_of_quiet hg hr hl, if_neg hlat]
    have latched := latch_collected
      (s := s.updFlt fun f => { f with latchedAt := tset f.latchedAt src (some s.uptime) }) hst hi hcfg hcls he
      (if srcDom src || false then dom.map Fin.val else none) detail false
    simp only [State.collected, Prod.mk.injEq] at latched
    obtain ⟨hstatus, hevents, hint, hgrave, hcf⟩ := latched
    refine ⟨?_, ?_, hint, hgrave.trans hg, hcf⟩
    · rw [hstatus]
      have lt := src.isLt
      simp [lt]
    · rw [hevents, tget_tset_same]
      rfl

end Sys2Proof.Machine
end

section
/-!
SUPPORT. LINK_RETRAIN, with FORCE and without (O6).
-/
namespace Sys2Proof.Machine

variable {s t : State}

/-! ## FORCE on the port of an agent in service (R414) -/

/-- A domain that is down for this cause, its event raised. -/
def State.broughtDown (t : State) (d cause : Nat) : Prop := t.domDown d cause ∧ t.raised 14 (some d)

theorem domainDown_broughtDown {d : Nat} (h : (s.dom d).st.inService = true) (cause : Nat) (dead : List Nat)
    (src : Option Nat) : (domainDown s d cause dead src).broughtDown d cause :=
  ⟨(domainDown_inService h cause dead src).1, (domainDown_inService h cause dead src).2.1⟩

/-- The loss of an agent of a domain in service brings the domain down, or leaves it in service. -/
theorem agentGone_inService {p d : Nat} (hd : (s.port p).mem.dom = some d) (h : (s.dom d).st.inService = true) :
    (agentGone s p).broughtDown d 2 ∨ ((agentGone s p).dom d).st.inService = true := by
  have down := domainDown_broughtDown h 2 [(s.port p).mem.dan] none
  have either (io : Bool) (u : State) (hu : u = if io then expel s d (s.port p).mem.dan
      else domainDown s d 2 [(s.port p).mem.dan] none) :
      u.broughtDown d 2 ∨ (u.dom d).st.inService = true := by
    cases io with
    | true => exact .inr (by rw [hu, if_pos rfl, (downStands_expel s d d _).st, h])
    | false => exact .inl (hu ▸ down)
  unfold agentGone
  simp only [hd]
  cases hst : (s.dom d).st with
  | started | quiescing => exact .inl down
  | quiesced => exact either _ _ rfl
  | none | created | down => simp [hst, DomSt.inService] at h

theorem fatal_inService {p d : Nat} (hp : p < 16) (hd : (s.port p).mem.dom = some d)
    (h : (s.dom d).st.inService = true) (reason : BitVec 8) :
    (fatal s p reason).broughtDown d 2 ∨ ((fatal s p reason).dom d).st.inService = true := by
  have member : ((sendLinkDown (raiseFatal s p reason) p reason).port p).mem.dom = some d := by
    rw [sendLinkDown, sendDownAfter, holdPort_port_same]
    simpa [heldPort, clearLink, cntAdd, raiseFatal, raiseFatalBy] using hd
  have stands : s.DownStands (sendLinkDown (raiseFatal s p reason) p reason) d := by
    unfold sendLinkDown sendDownAfter
    refine .trans ?_ (downStands_holdPort _ d p reason)
    exact (downStands_raiseInj s d 2 _ _ false).trans (downStands_of_rest rfl rfl rfl)
  have gone := agentGone_inService member (by rw [stands.st, h])
  have agent : fatal s p reason = agentGone (sendLinkDown (raiseFatal s p reason) p reason) p := if_pos hp
  rw [agent]
  exact gone

theorem retrainDown_broughtDown {p d : Nat} (hp : p < 16) (hd : (s.port p).mem.dom = some d)
    (h : (s.dom d).st.inService = true) : (retrainDown s p).broughtDown d 2 := by
  have refused : (decide (p < 16) && retrainRefused s p) = true := by simp [hp, retrainRefused, hd, h]
  have before : (if s.up p then fatal s p 7 else s).broughtDown d 2 ∨
      ((if s.up p then fatal s p 7 else s).dom d).st.inService = true := by
    split
    · exact fatal_inService hp hd h 7
    · exact .inr h
  unfold retrainDown
  simp only [refused, hd]
  generalize (if s.up p then fatal s p 7 else s) = u at before ⊢
  split
  · rename_i hu
    exact domainDown_broughtDown hu 2 _ none
  · rename_i hu
    exact before.resolve_right hu

/-! ## LINK_RETRAIN (R414) -/

variable {m : Fin 10} {pl : List Byte}

/-- The port of a LINK_RETRAIN in training. -/
def retrained (s : State) (m p : Nat) : State := s.updLink p fun l =>
  { l with st := .training, retrain := some m, coeff := none, wakeTrain := false }

theorem retrained_link (s : State) (m p : Nat) : ((retrained s m p).port p).link =
    { (s.port p).link with st := .training, retrain := some m, coeff := none, wakeTrain := false } :=
  congrArg Port.link (State.updPort_port_same s p _)

theorem retrained_otherPorts (s : State) (m p : Nat) : s.otherPorts (retrained s m p) p := otherPorts_updLink s p _

theorem doLinkRetrain_trains (hp : byteAt pl 0 ≤ 19)
    (hr : nbit (byteAt pl 1) 0 = true ∨ retrainRefused s (byteAt pl 0) = false)
    (hu : portUsed (retrainDown s (byteAt pl 0)) (byteAt pl 0) = true) :
    doLinkRetrain s (some m.val) pl = .later (retrained (retrainDown s (byteAt pl 0)) m (byteAt pl 0)) := by
  unfold doLinkRetrain
  dsimp only
  rw [if_neg (by omega), if_neg (by rcases hr with h | h <;> simp [h]), if_neg (by simp [hu])]
  rfl

theorem retrainDown_of_down {p : Nat} (hr : retrainRefused s p = false) (hu : s.up p = false) :
    retrainDown s p = s := by
  simp [retrainDown, hr, hu]

/-- Settles O6: a port that is Down goes straight into training; FORCE takes the port's domain down first. -/
theorem linkRetrainStartsTraining : Obligations.LinkRetrainStartsTraining := by
  intro s m pl h hp
  refine ⟨fun hr hu hused => ?_, fun d hforce hlt hd hst => ?_, fun hforce hr => ?_⟩
  · have ⟨_, _, hbusy, _⟩ := h
    have down : retrainDown (s.turned m) (byteAt pl 0) = s.turned m := retrainDown_of_down hr hu
    have body := doLinkRetrain_trains (s := s.turned m) (m := m) hp (.inr hr) (by rw [down]; exact hused)
    rw [down] at body
    have busy : ((retrained (s.turned m) m (byteAt pl 0)).mb m).st = .busy := hbusy
    refine ⟨_, mbRun_goesOn h rfl noBusy body, ?_, (goesOn_running busy).1, (goesOn_running busy).2, ?_⟩
    · exact retrained_link (s.turned m) m _
    · exact retrained_otherPorts (s.turned m) m _
  · have body := doLinkRetrain_trains (s := s.turned m) (m := m) hp (.inl hforce) (by simp [portUsed, hlt])
    have down := retrainDown_broughtDown (s := s.turned m) hlt hd hst
    generalize retrainDown (s.turned m) (byteAt pl 0) = u at body down
    have link := retrained_link u m (byteAt pl 0)
    exact ⟨_, mbRun_goesOn h rfl noBusy body, down.1, down.2, congrArg Link.st link, congrArg Link.retrain link⟩
  · have body : doLinkRetrain (s.turned m) (some m.val) pl = .done 6 0x302 [] (s.turned m) := by
      have refused : (!nbit (byteAt pl 1) 0 && retrainRefused (s.turned m) (byteAt pl 0)) = true := by
        rw [hforce]
        exact hr
      exact (if_neg (by omega)).trans (if_pos refused)
    exact mbRun1_refused h body (by decide) (by decide)

end Sys2Proof.Machine
end

section
/-!
SUPPORT. A write of the NVM leaves everything else alone, error lines apart.
-/
namespace Sys2Proof.Machine

/-! ## What a write of the NVM leaves alone (R430) -/

/-- Besides the NVM, the errors among its words and what a free choice takes, only error lines differ, and those that
had risen stand. -/
structure State.NvmOnly (s t : State) : Prop where
  rest : { t with nvm := s.nvm, nvmErr := s.nvmErr, free := s.free, flt := { t.flt with lines := s.flt.lines } } = s
  lines : s.linesStand t

section
variable {s t u : State}

theorem State.NvmOnly.refl (s : State) : s.NvmOnly s := ⟨rfl, fun _ h => h⟩

theorem State.NvmOnly.trans (h : s.NvmOnly t) (k : t.NvmOnly u) : s.NvmOnly u where
  rest := by
    have before := congrArg (fun x : State => { x with
      nvm := s.nvm, nvmErr := s.nvmErr, free := s.free, flt := { x.flt with lines := s.flt.lines } }) k.rest
    exact Eq.trans before h.rest
  lines := h.lines.trans k.lines

theorem State.NvmOnly.of_free {n : Nat} (h : t = { s with free := n }) : s.NvmOnly t := h ▸ ⟨rfl, fun _ h => h⟩

theorem State.NvmOnly.fw (h : s.NvmOnly t) : t.fw = s.fw := (congrArg State.fw h.rest :)

theorem State.NvmOnly.mbs (h : s.NvmOnly t) : t.mbs = s.mbs := (congrArg State.mbs h.rest :)

theorem State.NvmOnly.mbram (h : s.NvmOnly t) : t.mbram = s.mbram := (congrArg State.mbram h.rest :)

end

/-- A fold that draws bits and changes nothing else. -/
theorem foldl_draws {β γ : Type} (f : β × State → γ → β × State)
    (hf : ∀ b a, ∃ n, (f b a).2 = { b.2 with free := n }) (l : List γ) (b : β × State) :
    ∃ n, (l.foldl f b).2 = { b.2 with free := n } := by
  induction l generalizing b with
  | nil => exact ⟨b.2.free, rfl⟩
  | cons a l ih =>
    obtain ⟨m, hm⟩ := hf b a
    obtain ⟨n, hn⟩ := ih (f b a)
    exact ⟨n, hn.trans (by rw [hm])⟩

theorem freeRow_draws (s : State) (row : Nat) : ∃ n, (freeRow s row).2 = { s with free := n } :=
  foldl_draws _ (fun b _ => ⟨b.2.nextFree.2.nextFree.2.free, rfl⟩) _ _

theorem nvmBytes_draws (s : State) (a n : Nat) : ∃ k, (nvmBytes s a n).2 = { s with free := k } := by
  unfold nvmBytes
  split
  · exact ⟨s.free, rfl⟩
  · refine foldl_draws _ (fun b k => ?_) _ _
    dsimp only
    split
    · exact ⟨b.2.nextFree.2.free, rfl⟩
    · exact ⟨b.2.free, rfl⟩

theorem nvmOnly_writeRow (s : State) (row : Nat) (bs : List Byte) : s.NvmOnly (writeRow s row bs).2 := by
  unfold writeRow
  extract_lets t
  have stored : s.NvmOnly t := ⟨rfl, fun _ h => h⟩
  split
  · obtain ⟨n, hn⟩ := freeRow_draws t row
    generalize freeRow t row = q at hn ⊢
    obtain ⟨es, v⟩ := q
    subst hn
    exact stored.trans ⟨rfl, fun _ h => List.mem_append_left _ h⟩
  · exact stored

theorem nvmOnly_writeRows (s : State) (row n : Nat) (bs : List Byte) : s.NvmOnly (writeRows s row n bs).2 := by
  induction n generalizing s row bs with
  | zero => exact .refl s
  | succ n ih =>
    simp only [writeRows]
    split
    · exact .refl s
    · generalize hq : (if bs.length < 32 then nvmBytes s (row * 32) 32 else ([], s)) = q
      have read : s.NvmOnly q.2 := by
        rw [← hq]
        split
        · exact .of_free (nvmBytes_draws s _ _).choose_spec
        · exact .refl s
      have written := read.trans (nvmOnly_writeRow q.2 row (bs.take 32 ++ q.1.drop bs.length))
      split
      · exact written.trans (ih ..)
      · exact written

theorem nvmOnly_writeHdr (s : State) (f : NvmHdr → NvmHdr) :
    (s.updFw fun w => { w with rowsA := 0, rowsB := 0 }).NvmOnly (writeHdr s f).2 := nvmOnly_writeRows _ _ _ _

end Sys2Proof.Machine
end

section
/-!
SUPPORT. The watchdog, the live exchange, the timers and replay (O38).
-/
namespace Sys2Proof.Machine

variable {s t : State}

/-! ## The watchdog (R441) -/

theorem exec_watchdogExpiry (ha : s.alive = true) : exec .watchdogExpiry s =
    if s.fw.wdog.any fun t => decide (s.uptime ≤ t + wdogPeriod) then .next (chipReset s)
    else .next (raise (s.nextFree.2.updFw fun w => { w with wdog := some s.uptime }) 40 none
      (s.nextFree.1.toNat % 2 ^ 32)) := by
  show execWatchdogExpiry s = _
  rw [execWatchdogExpiry, if_neg (by simp [ha])]
  rfl

theorem watchdog_first (ha : s.alive = true) (hw : ∀ w, s.fw.wdog = some w → w + wdogPeriod < s.uptime) :
    ∃ t, exec .watchdogExpiry s = .next t ∧ t.fw.wdog = some s.uptime ∧ t.raised 40 none ∧ t.ports = s.ports ∧
      t.doms = s.doms := by
  have late : ¬ (s.fw.wdog.any fun t => decide (s.uptime ≤ t + wdogPeriod)) = true := by
    cases h : s.fw.wdog with
    | none => simp
    | some w => simpa using hw w h
  exact ⟨_, (exec_watchdogExpiry ha).trans (if_neg late), rfl, raised_raise .., rfl, rfl⟩

theorem watchdog_second (ha : s.alive = true) {w : Nat} (hw : s.fw.wdog = some w) (h : s.uptime ≤ w + wdogPeriod) :
    exec .watchdogExpiry s = .next (chipReset s) :=
  (exec_watchdogExpiry ha).trans (if_pos (by simpa [hw] using h))

/-! ## The exchange (R442 to R445) -/

theorem exec_exchangeBegin (ha : s.alive = true) {e : Exchange} (he : s.fw.exch = some e) (hb : e.begun = false)
    (hw : ∀ j ∈ e.waits, (s.mb j).st ≠ .busy) : exec .exchangeBegin s =
      .next ((s.updSmb fun b => { b with polling := none, retries := 0 }).updFw fun w =>
        { w.jump (1 - w.bank) with exch := some { e with begun := true }, handover := w.timers, timers := [],
                                   wdog := none }) := by
  have ended : (!e.begun) = true ∧ (e.waits.all fun j => (s.mb j).st != .busy) = true :=
    ⟨by rw [hb]; rfl, List.all_eq_true.2 fun j hj => bne_iff_ne.2 (hw j hj)⟩
  show execExchangeBegin s = _
  simp only [execExchangeBegin, ha, he]
  exact if_pos ended

/-- The state in which the old image goes on. -/
def fellBack (s : State) (pc : BitVec 32) : Option (BitVec 8) → State
  | some c => raise (resume (raise s 41 none (pc.toNat + 2 ^ 32 * c.toNat))) 42 none 3
  | none => raise (resume s) 42 none 3

theorem exec_exchangeFallback (ha : s.alive = true) {e : Exchange} (he : s.fw.exch = some e) (hb : e.begun = true)
    (pc : BitVec 32) (cause : Option (BitVec 8)) : exec (.exchangeFallback pc cause) s =
      .next (mbFinish ((writeHdr (fellBack s pc cause) (unmarkSlot (inactiveSlot (fellBack s pc cause)))).2.updFw
        fun w => { w.jump (1 - w.bank) with loaded := false }) e.mbx 8 0x705 []) := by
  show execExchangeFallback pc cause s = _
  simp only [execExchangeFallback, ha, he]
  rw [if_pos hb]
  cases cause <;> rfl

theorem exec_exchangeComplete (ha : s.alive = true) {e : Exchange} (he : s.fw.exch = some e) (hb : e.begun = true) :
    exec .exchangeComplete s = .next (mbFinish ((resume s).updFw fun w =>
      { w with slot := inactiveSlot s, version := slotVersion s (inactiveSlot s), loaded := false,
               exchanges := bump w.exchanges }) e.mbx 0 0
        (toBytes 4 (slotVersion s (inactiveSlot s)) ++ toBytes 1 (inactiveSlot s) ++ [0, 0, 0])) := by
  show execExchangeComplete s = _
  simp only [execExchangeComplete, ha, he]
  rw [if_pos hb]

/-- The firmware once its old image, or its new one, goes on: no exchange, the timers armed again. -/
def resumed (s : State) : Firmware :=
  { s.fw with exch := none, heldInt := false, heldNmi := false, wdog := none,
              timers := rearm s.uptime s.fw.handover, handover := [] }

theorem fellBack_keeps (s : State) (pc : BitVec 32) (cause : Option (BitVec 8)) :
    (fellBack s pc cause).fw = resumed s ∧ (fellBack s pc cause).mbs = s.mbs := by
  cases cause <;> exact ⟨rfl, rfl⟩

theorem fellBack_raised (s : State) (pc : BitVec 32) (cause : Option (BitVec 8)) :
    (fellBack s pc cause).raised 42 none ∧ (cause.isSome = true → (fellBack s pc cause).raised 41 none) := by
  cases cause with
  | none => exact ⟨raised_raise .., fun h => Bool.noConfusion h⟩
  | some c =>
    have trap := raised_raise s 41 none (pc.toNat + 2 ^ 32 * c.toNat)
    exact ⟨raised_raise .., fun _ => (linesStand_raiseInj _ 42 none 3 false).raised trap⟩

/-- The exchange ends with the old image: the core at the ENTRY of its bank, the mailbox answered. -/
theorem fallback_ends {u : State} (f : NvmHdr → NvmHdr) {j : Nat} (hb : (u.mb j).st = .busy) :
    let t := mbFinish ((writeHdr u f).2.updFw fun w => { w.jump (1 - w.bank) with loaded := false }) j 8 0x705 []
    t.fw = { u.fw.jump (1 - u.fw.bank) with loaded := false, rowsA := 0, rowsB := 0 } ∧ u.linesStand t ∧
      (t.mb j).st = .done ∧ (t.mb j).status = 8 := by
  have written := nvmOnly_writeHdr u f
  generalize (writeHdr u f).2 = v at written
  generalize hw : v.updFw (fun w => { w.jump (1 - w.bank) with loaded := false }) = x
  have fw : x.fw = { u.fw.jump (1 - u.fw.bank) with loaded := false, rowsA := 0, rowsB := 0 } := by
    rw [← hw]
    show { v.fw.jump (1 - v.fw.bank) with loaded := false } = _
    rw [written.fw]
    rfl
  have flt : x.flt = v.flt := by rw [← hw]; rfl
  have busy : (x.mb j).st = .busy := by
    rw [← hw]
    exact (congrArg Mailbox.st (mb_of_mbs written.mbs j)).trans hb
  have ended := mbFinish_mb busy 8 0x705 []
  have keeps : (mbFinish x j 8 0x705 []).fw = x.fw := by simp
  refine ⟨keeps.trans fw, ?_, ended.1, ended.2⟩
  have lines : u.linesStand v := written.lines
  exact lines.trans (linesStand_of_flt ((mbFinish_flt ..).trans flt))

theorem exchange_falls_back (ha : s.alive = true) {e : Exchange} (he : s.fw.exch = some e) (hb : e.begun = true)
    (hm : (s.mb e.mbx).st = .busy) (pc : BitVec 32) (cause : Option (BitVec 8)) :
    ∃ t, exec (.exchangeFallback pc cause) s = .next t ∧ t.fw.exch = none ∧
      (cause.isSome = true → t.raised 41 none) ∧ t.fw.loaded = false ∧ t.fw.slot = s.fw.slot ∧
      t.fw.bank = 1 - s.fw.bank ∧ t.raised 42 none ∧ t.fw.timers = rearm s.uptime s.fw.handover ∧
      (t.mb e.mbx).st = .done ∧ (t.mb e.mbx).status = 8 := by
  obtain ⟨hfw, hmbs⟩ := fellBack_keeps s pc cause
  obtain ⟨hraised, htrap⟩ := fellBack_raised s pc cause
  have busy : ((fellBack s pc cause).mb e.mbx).st = .busy := (congrArg Mailbox.st (mb_of_mbs hmbs _)).trans hm
  rw [exec_exchangeFallback ha he hb]
  obtain ⟨fw, lines, hdone, hstatus⟩ := fallback_ends (unmarkSlot (inactiveSlot (fellBack s pc cause))) busy
  generalize mbFinish _ e.mbx 8 0x705 [] = t at fw lines hdone hstatus
  rw [hfw] at fw
  refine ⟨t, rfl, ?_, fun h => lines.raised (htrap h), ?_, ?_, ?_, lines.raised hraised, ?_, hdone, hstatus⟩ <;>
    rw [fw] <;> rfl

theorem exchange_completes (ha : s.alive = true) {e : Exchange} (he : s.fw.exch = some e) (hb : e.begun = true)
    (hm : (s.mb e.mbx).st = .busy) : ∃ t, exec .exchangeComplete s = .next t ∧ t.fw.exch = none ∧
      t.fw.slot = inactiveSlot s ∧ t.fw.bank = s.fw.bank ∧ t.fw.exchanges = bump s.fw.exchanges ∧
      t.fw.timers = rearm s.uptime s.fw.handover ∧ (t.mb e.mbx).st = .done ∧ (t.mb e.mbx).status = 0 := by
  rw [exec_exchangeComplete ha he hb]
  generalize hu : (resume s).updFw (fun w => { w with
    slot := inactiveSlot s, version := slotVersion s (inactiveSlot s), loaded := false,
    exchanges := bump w.exchanges }) = u
  generalize toBytes 4 (slotVersion s (inactiveSlot s)) ++ toBytes 1 (inactiveSlot s) ++ [0, 0, 0] = r
  have busy : (u.mb e.mbx).st = .busy := by rw [← hu]; exact hm
  have ended := mbFinish_mb busy 0 0 r
  have fw : (mbFinish u e.mbx 0 0 r).fw = u.fw := by simp
  generalize mbFinish u e.mbx 0 0 r = t at ended fw
  rw [← hu] at fw
  refine ⟨t, rfl, ?_, ?_, ?_, ?_, ?_, ended⟩ <;> rw [fw] <;> rfl

/-! ## Timers (R443) -/

theorem timerNext_id {t : Nat} {x y : FwTimer} (h : timerNext t x = some y) : y.id = x.id := by
  unfold timerNext at h
  split at h
  · exact nomatch h
  · split at h <;> cases h <;> rfl

theorem timerNext_period {t : Nat} {x y : FwTimer} (h : timerNext t x = some y) : x.period ≠ 0 ∧ y.period = x.period := by
  unfold timerNext at h
  split at h
  · exact nomatch h
  · rename_i hp
    split at h <;> cases h <;> exact ⟨hp, rfl⟩

/-- The next time of a periodic timer is whole periods on, and still to come. -/
theorem timerNext_due {t : Nat} {x : FwTimer} (hp : x.period ≠ 0) :
    ∃ y, timerNext t x = some y ∧ t < y.due ∧ x.due < y.due := by
  unfold timerNext
  rw [if_neg hp]
  have pos := Nat.pos_of_ne_zero hp
  split
  · exact ⟨_, rfl, by dsimp only; omega, by dsimp only; omega⟩
  · have more : t - x.due < ((t - x.due) / x.period + 1) * x.period := by
      rw [Nat.mul_comm]
      exact Nat.lt_mul_div_succ _ pos
    exact ⟨_, rfl, by dsimp only; omega, by dsimp only; omega⟩

theorem exec_firmwareTimer (ha : s.alive = true) (hb : s.fw.boot = .running) (he : s.fw.exch = none) (id : Nat) :
    exec (.firmwareTimer id) s = .next (s.updFw fun w => { w with
      timers := w.timers.filterMap fun x => if x.id = id then timerNext s.uptime x else some x }) :=
  if_pos ⟨ha, hb, by rw [he]; rfl⟩

theorem firmwareTimer_fires (ha : s.alive = true) (hb : s.fw.boot = .running) (he : s.fw.exch = none) (id : Nat) :
    ∃ t, exec (.firmwareTimer id) s = .next t ∧ { t with fw := s.fw } = s ∧
      (∀ x ∈ s.fw.timers, x.id ≠ id → x ∈ t.fw.timers) ∧ (∀ x ∈ t.fw.timers, x.id = id → x.period ≠ 0) ∧
      ∀ x ∈ s.fw.timers, x.id = id → x.period ≠ 0 → ∃ y ∈ t.fw.timers, y.id = id ∧
        s.uptime < y.due ∧ x.due < y.due ∧ y.period = x.period := by
  refine ⟨_, exec_firmwareTimer ha hb he id, rfl, fun x hx hne => ?_, fun x hx hid => ?_, fun x hx hid hp => ?_⟩
  · exact List.mem_filterMap.2 ⟨x, hx, if_neg hne⟩
  · obtain ⟨y, -, hy⟩ := List.mem_filterMap.1 hx
    split at hy
    · obtain ⟨hp, hperiod⟩ := timerNext_period hy
      rwa [hperiod]
    · rename_i hne
      cases hy
      exact absurd hid hne
  · obtain ⟨y, hy, hlate, hon⟩ := timerNext_due (t := s.uptime) hp
    refine ⟨y, List.mem_filterMap.2 ⟨x, hx, (if_pos hid).trans hy⟩, ?_, hlate, hon, (timerNext_period hy).2⟩
    rw [timerNext_id hy, hid]

/-! ## Replay (R491) -/

theorem exec_replayRecord {i : Nat} (hr : replays s = true) (hi : s.fw.replay = some i) :
    exec .replayRecord s = .next (replayStep s i) := by
  show execReplayRecord s = _
  simp only [execReplayRecord, hr, hi]

theorem releasePorts_cfg (s : State) : (releasePorts s).cfg = s.cfg ∧ (releasePorts s).doms = s.doms := by
  rw [releasePorts_eq]
  generalize allPorts = l
  exact ⟨foldl_frame State.cfg releasePort (fun _ _ => rfl) l s, foldl_frame State.doms releasePort (fun _ _ => rfl) l s⟩

/-- Past the last record the ports are released and replay has ended. -/
theorem replayStep_none {i : Nat} (h : storedRecord s i = none) :
    (replayStep s i).fw.replay = none ∧ (replayStep s i).fw.released = true := by
  unfold replayStep
  simp only [h]
  refine ⟨rfl, ?_⟩
  split
  · rename_i released
    exact released
  · rfl

theorem endPhaseA_keeps (s : State) (op : Nat) :
    (endPhaseA s op).cfg = s.cfg ∧ (endPhaseA s op).doms = s.doms := by
  unfold endPhaseA
  split
  · exact ⟨rfl, rfl⟩
  · exact releasePorts_cfg s

theorem replayStep_some {i op : Nat} {pl : List Byte} (h : storedRecord s i = some (op, pl))
    (hw : admitWaits (endPhaseA s op) op pl = false) :
    replayStep s i = replayNext (applyRecord (endPhaseA s op) op pl) i := by
  unfold replayStep
  simp [h, hw]

/-- A record applied is the command it is, without a mailbox. -/
theorem applyRecord_runs {u : State} {op : Nat} {pl : List Byte} {body : State → Option Nat → List Byte → CmdRes}
    (hb : replayBody op pl = some body) (hl : lenFits op pl.length pl = true) (hn : replayBlocked u op pl = false)
    (hf : op = 0x502 → u.fw.replayFc = true) : let v := if mbWakes op pl then wake u causeFw else u
    (∃ st detail r, body v none pl = .done st detail r (applyRecord u op pl)) ∨
      body v none pl = .later (applyRecord u op pl) := by
  intro v
  have runs : ¬ ((!lenFits op pl.length pl || replayBlocked u op pl || decide (op = 0x502 ∧ (!u.fw.replayFc) = true))
      = true) := by
    simpa [hl, hn] using hf
  unfold applyRecord
  simp only [hb]
  rw [if_neg runs]
  cases body v none pl with
  | done st detail r t => exact .inl ⟨st, detail, r, rfl⟩
  | later t => exact .inr rfl

theorem applyRecord_of_none {u : State} {op : Nat} {pl : List Byte} (h : replayBody op pl = none) :
    applyRecord u op pl = u := by
  unfold applyRecord
  rw [h]

theorem admitWaits_of_none {u : State} {op : Nat} {pl : List Byte} (h : replayBody op pl = none) :
    admitWaits u op pl = false := by
  have other : op ≠ 0x207 := by
    rintro rfl
    exact absurd h (by simp [replayBody])
  simp [admitWaits, other]

theorem exec_replayAdmitTimeout {i op : Nat} {pl : List Byte} (hr : replays s = true) (hi : s.fw.replay = some i)
    (h : storedRecord s i = some (op, pl)) (hp : s.fw.released = true) (hw : admitWaits s op pl = true) :
    exec .replayAdmitTimeout s = .next (replayNext s i) := by
  show execReplayAdmitTimeout s = _
  simp only [execReplayAdmitTimeout, hr, hi, h, hp, hw]
  rfl

/-- Settles O38: the watchdog, the exchange, the timers and the replay, each row by its equation; a write of the
header in between touches none of what they leave. -/
theorem firmwareLives : Obligations.FirmwareLives := by
  intro s ha
  refine ⟨watchdog_first ha, fun w => watchdog_second ha, fun e he => ⟨fun hb hw => ?_, fun hb _ hm => ⟨?_, ?_⟩⟩,
    fun id hb he => firmwareTimer_fires ha hb he id, fun i hr hi => ⟨fun hn => ?_, ?_, ?_, ?_⟩⟩
  · exact ⟨_, exec_exchangeBegin ha he hb hw, rfl, rfl, rfl⟩
  · exact exchange_falls_back ha he hb hm
  · exact exchange_completes ha he hb hm
  · exact ⟨_, exec_replayRecord hr hi, replayStep_none hn⟩
  · intro op pl body hrec hbody u v hw hl hn hf
    have run := exec_replayRecord hr hi
    rw [replayStep_some hrec hw] at run
    exact ⟨_, run, applyRecord_runs hbody hl hn hf⟩
  · intro op pl hrec hbody
    have run := exec_replayRecord hr hi
    rw [replayStep_some hrec (admitWaits_of_none hbody), applyRecord_of_none hbody] at run
    exact ⟨_, run, rfl, endPhaseA_keeps s op⟩
  · intro op pl hrec hp hw
    exact ⟨_, exec_replayAdmitTimeout hr hi hrec hp hw, rfl⟩

end Sys2Proof.Machine
end

section
/-!
SUPPORT. Bytes written to an NVM without errors, and read back (R430).
-/
namespace Sys2Proof.Machine

variable {s t u : State}

/-! ## Bytes written to an NVM without errors (R430) -/

/-- The NVM has no word that differs from what was written and no row that fails. -/
structure State.NvmClean (s : State) : Prop where
  errors : s.nvmErr = []
  fails : s.nvmFail = []
  wf : ramWf s.nvm = true

theorem State.NvmClean.read (h : s.NvmClean) (a n : Nat) : nvmRead s a n = ramRead s.nvm a n := by
  rw [nvmRead, h.errors]
  rfl

theorem State.NvmClean.badAt (h : s.NvmClean) (a n : Nat) : nvmBadAt s a n = false := by
  rw [nvmBadAt, h.errors]
  rfl

theorem State.NvmClean.bytes (h : s.NvmClean) (a n : Nat) : nvmBytes s a n = (nvmRead s a n, s) := by
  rw [nvmBytes, if_pos (by rw [h.badAt]; rfl)]

/-- A memory with bytes from address a on laid over it: what address i reads. -/
def overlay (m : List (Nat × Byte)) (a : Nat) (bs : List Byte) (i : Nat) : Byte :=
  if a ≤ i then (bs[i - a]?).getD (ramGet m i) else ramGet m i

theorem ramGet_ramSetMany_overlay {m : List (Nat × Byte)} (h : ramWf m = true) (a : Nat) (bs : List Byte) (i : Nat) :
    ramGet (ramSetMany m a bs) i = overlay m a bs i := by
  unfold overlay
  split
  · rename_i low
    obtain ⟨j, rfl⟩ := Nat.exists_eq_add_of_le low
    rw [Nat.add_sub_cancel_left]
    by_cases hj : j < bs.length
    · rw [ramGet_ramSetMany h bs hj, List.getElem?_eq_getElem hj, Option.getD_some]
    · rw [ramGet_ramSetMany_above h bs (by omega), List.getElem?_eq_none (by omega), Option.getD_none]
  · exact ramGet_ramSetMany_below h bs (by omega)

/-- Bytes have been written to the NVM from an address on; nothing else differs. -/
structure State.Wrote (s t : State) (a : Nat) (bs : List Byte) : Prop where
  rest : { t with nvm := s.nvm } = s
  wf : ramWf t.nvm = true
  get : ∀ i, ramGet t.nvm i = overlay s.nvm a bs i

section
variable {a : Nat} {bs : List Byte}

theorem State.Wrote.clean (h : s.Wrote t a bs) (hs : s.NvmClean) : t.NvmClean :=
  ⟨(congrArg State.nvmErr h.rest :).trans hs.errors, (congrArg State.nvmFail h.rest :).trans hs.fails, h.wf⟩

theorem State.Wrote.fw (h : s.Wrote t a bs) : t.fw = s.fw := (congrArg State.fw h.rest :)

/-- What has been written is read back. -/
theorem State.Wrote.read_inside (h : s.Wrote t a bs) (hs : s.NvmClean) : nvmRead t a bs.length = bs := by
  rw [(h.clean hs).read]
  refine List.ext_getElem (by simp [ramRead]) fun i hi hi' => ?_
  simp only [ramRead, List.getElem_map, List.getElem_range]
  rw [h.get, overlay, if_pos (Nat.le_add_right a i), Nat.add_sub_cancel_left, List.getElem?_eq_getElem hi',
    Option.getD_some]

/-- Bytes below or above what has been written read as before. -/
theorem State.Wrote.read_outside (h : s.Wrote t a bs) (hs : s.NvmClean) {b n : Nat}
    (hb : b + n ≤ a ∨ a + bs.length ≤ b) : nvmRead t b n = nvmRead s b n := by
  rw [(h.clean hs).read, hs.read]
  refine List.map_congr_left fun i hi => ?_
  have lt := List.mem_range.1 hi
  rw [h.get, overlay]
  split
  · rw [List.getElem?_eq_none (by omega), Option.getD_none]
  · rfl

end

/-- What a row holds once bytes have been written from its beginning: the old bytes where they are fewer. -/
def rowImage (s : State) (row : Nat) (bs : List Byte) : List Byte :=
  bs.take 32 ++ (if bs.length < 32 then nvmRead s (row * 32) 32 else []).drop bs.length

theorem getElem?_rowImage (hs : s.NvmClean) (row : Nat) (bs : List Byte) {i : Nat} (hi : i < 32) :
    (rowImage s row bs)[i]? = some ((bs[i]?).getD (ramGet s.nvm (row * 32 + i))) := by
  unfold rowImage
  by_cases hb : i < bs.length
  · rw [List.getElem?_append_left (by simp; omega), List.getElem?_take_of_lt hi, List.getElem?_eq_getElem hb,
      Option.getD_some]
  · have short : bs.length < 32 := by omega
    rw [List.take_of_length_le short.le, List.getElem?_append_right (by omega), List.getElem?_drop,
      Nat.add_sub_cancel' (by omega), if_pos short, hs.read, List.getElem?_eq_none (l := bs) (by omega),
      Option.getD_none]
    simp [ramRead, hi]

theorem length_rowImage (hs : s.NvmClean) (row : Nat) (bs : List Byte) : (rowImage s row bs).length = 32 := by
  have last := getElem?_rowImage hs row bs (i := 31) (by decide)
  have lt := (List.getElem?_eq_some_iff.1 last).1
  have le : (rowImage s row bs).length ≤ 32 := by
    unfold rowImage
    split
    · simp only [hs.read, ramRead, List.length_append, List.length_take, List.length_drop, List.length_map,
        List.length_range]
      omega
    · simp
  omega

theorem writeRows_succ (hs : s.NvmClean) (row n : Nat) {bs : List Byte} (hne : bs ≠ []) :
    writeRows s row (n + 1) bs
      = writeRows { s with nvm := ramSetMany s.nvm (row * 32) (rowImage s row bs) } (row + 1) n (bs.drop 32) := by
  have good (full : List Byte) : s.withRow row full = { s with nvm := ramSetMany s.nvm (row * 32) full } := by
    rw [State.withRow, hs.errors]
    rfl
  have row' := writeRow_of_good (s := s) (row := row) (by rw [hs.fails]; rfl) (rowImage s row bs)
  rw [good] at row'
  have old : (if bs.length < 32 then nvmBytes s (row * 32) 32 else ([], s))
      = ((if bs.length < 32 then nvmRead s (row * 32) 32 else []), s) := by
    split
    · exact hs.bytes _ _
    · rfl
  rw [writeRows, if_neg (by simpa using hne), old]
  dsimp only
  rw [show bs.take 32 ++ (if bs.length < 32 then nvmRead s (row * 32) 32 else []).drop bs.length
    = rowImage s row bs from rfl, row']
  rfl

/-- A row written, and the rest from the next row on, are the whole written. -/
theorem overlay_rowImage (hs : s.NvmClean) (row : Nat) (bs : List Byte) (i : Nat) :
    overlay (ramSetMany s.nvm (row * 32) (rowImage s row bs)) ((row + 1) * 32) (bs.drop 32) i
      = overlay s.nvm (row * 32) bs i := by
  have one := ramGet_ramSetMany_overlay hs.wf (row * 32) (rowImage s row bs) i
  have len := length_rowImage hs row bs
  rw [overlay, one]
  unfold overlay
  by_cases low : row * 32 ≤ i
  · obtain ⟨j, rfl⟩ := Nat.exists_eq_add_of_le low
    simp only [low, if_true, Nat.add_sub_cancel_left]
    by_cases hj : j < 32
    · rw [if_neg (by omega), getElem?_rowImage hs row bs hj, Option.getD_some]
    · rw [if_pos (by omega), List.getElem?_drop, List.getElem?_eq_none (l := rowImage s row bs) (by omega),
        Option.getD_none, show 32 + (row * 32 + j - (row + 1) * 32) = j by omega]
  · rw [if_neg (by omega), if_neg low, if_neg low]

/-- Rows written one after another. -/
theorem writeRows_wrote (n : Nat) (hs : s.NvmClean) (row : Nat) {bs : List Byte} (hl : bs.length ≤ 32 * n) :
    ∃ t, writeRows s row n bs = (true, t) ∧ s.Wrote t (row * 32) bs := by
  have nothing : s.Wrote s (row * 32) [] := ⟨rfl, hs.wf, fun i => by simp [overlay]⟩
  induction n generalizing s row bs with
  | zero =>
    obtain rfl : bs = [] := List.length_eq_zero_iff.1 (by omega)
    exact ⟨s, rfl, nothing⟩
  | succ n ih =>
    by_cases hne : bs = []
    · subst hne
      exact ⟨s, rfl, nothing⟩
    · have clean : State.NvmClean { s with nvm := ramSetMany s.nvm (row * 32) (rowImage s row bs) } :=
        ⟨hs.errors, hs.fails, ramWf_ramSetMany hs.wf _ _⟩
      obtain ⟨t, run, wrote⟩ := ih clean (row + 1) (bs := bs.drop 32) (by simp; omega)
        ⟨rfl, clean.wf, fun i => by simp [overlay]⟩
      refine ⟨t, (writeRows_succ hs row n hne).trans run, ?_, wrote.wf, fun i => ?_⟩
      · exact congrArg (fun x : State => { x with nvm := s.nvm }) wrote.rest
      · exact (wrote.get i).trans (overlay_rowImage hs row bs i)

/-- Bytes written from the beginning of a row on. -/
theorem nvmWrite_wrote (hs : s.NvmClean) {a : Nat} (ha : a % 32 = 0) (bs : List Byte) :
    ∃ t, nvmWrite s a bs = (true, t) ∧ s.Wrote t a bs := by
  have whole : a / 32 * 32 = a := by omega
  have rows := writeRows_wrote ((bs.length + 31) / 32) hs (a / 32) (bs := bs) (by omega)
  rwa [whole] at rows

end Sys2Proof.Machine
end

section
/-!
SUPPORT. The header: its bytes, and the copy in effect after a write (R432).
-/
namespace Sys2Proof.Machine

variable {s t : State}

/-! ## A header's bytes (Table 16-4) -/

/-- The bytes of a header before its CRC. -/
def hdrHead (h : NvmHdr) : List Byte :=
  toBytes 4 0x4E564844 ++ toBytes 4 h.gen ++ toBytes 1 h.slots ++ [0] ++ toBytes 2 1
    ++ toBytes 4 h.minSvn ++ toBytes 4 h.verA ++ toBytes 4 h.verB ++ toBytes 4 h.wrA ++ toBytes 4 h.wrB
    ++ toBytes 4 h.wrCfg ++ toBytes 4 h.wrHdr ++ List.replicate 84 0

theorem hdrBytes_eq (h : NvmHdr) : hdrBytes h = hdrHead h ++ toBytes 4 (crc32c (hdrHead h)).toNat := rfl

theorem length_hdrHead (h : NvmHdr) : (hdrHead h).length = 124 := by simp [hdrHead]

theorem length_hdrBytes (h : NvmHdr) : (hdrBytes h).length = 128 := by
  rw [hdrBytes_eq, List.length_append, length_hdrHead, length_toBytes]

theorem numAt_hdrBytes (h : NvmHdr) : numAt (hdrBytes h) 0 4 = 0x4E564844 ∧ numAt (hdrBytes h) 4 4 = h.gen % 2 ^ 32 ∧
    numAt (hdrBytes h) 8 1 = h.slots % 2 ^ 8 ∧ numAt (hdrBytes h) 10 2 = 1 ∧
    numAt (hdrBytes h) 12 4 = h.minSvn % 2 ^ 32 ∧ numAt (hdrBytes h) 124 4 = (crc32c (hdrHead h)).toNat := by
  have head {k n : Nat} (hk : k + n ≤ 124) : numAt (hdrBytes h) k n = numAt (hdrHead h) k n := by
    rw [hdrBytes_eq, numAt_append_left (by rw [length_hdrHead]; exact hk)]
  refine ⟨(head (by decide)).trans ?_, (head (by decide)).trans ?_, (head (by decide)).trans ?_,
    (head (by decide)).trans ?_, (head (by decide)).trans ?_, ?_⟩
  · unfold hdrHead
    iterate 12 rw [numAt_append_left (by simp)]
    decide
  · unfold hdrHead
    iterate 10 rw [numAt_append_left (by simp)]
    exact numAt_field (by simp) 4 h.gen _
  · unfold hdrHead
    iterate 9 rw [numAt_append_left (by simp)]
    exact numAt_field (by simp) 1 h.slots _
  · unfold hdrHead
    iterate 7 rw [numAt_append_left (by simp)]
    exact numAt_field (by simp) 2 1 _
  · unfold hdrHead
    iterate 6 rw [numAt_append_left (by simp)]
    exact numAt_field (by simp) 4 h.minSvn _
  · have crc := numAt_append_toBytes (hdrHead h) 4 (crc32c (hdrHead h)).toNat
    rw [length_hdrHead, ← hdrBytes_eq] at crc
    exact crc.trans (Nat.mod_eq_of_lt (crc32c (hdrHead h)).isLt)

/-- A header that fits its fields. -/
structure NvmHdr.Fits (h : NvmHdr) : Prop where
  gen : h.gen < 2 ^ 32
  slots : h.slots < 2 ^ 8
  minSvn : h.minSvn < 2 ^ 32

/-- The generation, the slots' marks and MIN_SVN are another header's. -/
structure NvmHdr.Same (k h : NvmHdr) : Prop where
  gen : k.gen = h.gen
  slots : k.slots = h.slots
  minSvn : k.minSvn = h.minSvn

/-- A header that stands as its bytes is read. -/
theorem readHdr_of_bytes (ht : t.NvmClean) {c : Nat} {h : NvmHdr} (hf : h.Fits)
    (hr : nvmRead t (hdrAddr c) 128 = hdrBytes h) : ∃ k, readHdr t c = some k ∧ k.Same h := by
  obtain ⟨hmagic, hgen, hslots, hver, hsvn, hcrc⟩ := numAt_hdrBytes h
  have take : (hdrBytes h).take 124 = hdrHead h := by
    rw [hdrBytes_eq, List.take_left' (length_hdrHead h)]
  obtain ⟨gen, slots, minSvn⟩ : numAt (hdrBytes h) 4 4 = h.gen ∧ numAt (hdrBytes h) 8 1 = h.slots ∧
      numAt (hdrBytes h) 12 4 = h.minSvn :=
    ⟨hgen.trans (Nat.mod_eq_of_lt hf.gen), hslots.trans (Nat.mod_eq_of_lt hf.slots),
      hsvn.trans (Nat.mod_eq_of_lt hf.minSvn)⟩
  unfold readHdr
  dsimp only
  rw [hr, if_pos ⟨hmagic, hver, by rw [hcrc, take], by rw [ht.badAt]; rfl⟩]
  exact ⟨_, rfl, gen, slots, minSvn⟩

/-! ## The header written anew (R432) -/

/-- The copy that a header write goes to: the one that is not in effect. -/
def freeCopy (s : State) : Nat :=
  match header s with
  | some (c, _) => 1 - c
  | none => 0

theorem freeCopy_le (s : State) : freeCopy s ≤ 1 := by
  unfold freeCopy
  split <;> omega

/-- A newer header in the free copy, the other copy as it was, is the header in effect. -/
theorem hdrNow_of_freeCopy {k : NvmHdr} (hk : readHdr t (freeCopy s) = some k)
    (ho : readHdr t (1 - freeCopy s) = readHdr s (1 - freeCopy s)) (hg : (hdrNow s).gen < k.gen) : hdrNow t = k := by
  cases h0 : readHdr s 0 with
  | none => cases h1 : readHdr s 1 with
    | none =>
      have free : freeCopy s = 0 := by simp [freeCopy, header, h0, h1]
      rw [free] at hk ho
      simp [hdrNow, header, hk, ho, h1]
    | some b =>
      have free : freeCopy s = 0 := by simp [freeCopy, header, h0, h1]
      have now : hdrNow s = b := by simp [hdrNow, header, h0, h1]
      rw [free] at hk ho
      rw [now] at hg
      simp [hdrNow, header, hk, ho, h1, hg.le.not_gt]
  | some a => cases h1 : readHdr s 1 with
    | none =>
      have free : freeCopy s = 1 := by simp [freeCopy, header, h0, h1]
      have now : hdrNow s = a := by simp [hdrNow, header, h0, h1]
      rw [free] at hk ho
      rw [now] at hg
      simp [hdrNow, header, hk, ho, h0, hg]
    | some b =>
      by_cases newer : a.gen < b.gen
      · have free : freeCopy s = 0 := by simp [freeCopy, header, h0, h1, newer]
        have now : hdrNow s = b := by simp [hdrNow, header, h0, h1, newer]
        rw [free] at hk ho
        rw [now] at hg
        simp [hdrNow, header, hk, ho, h1, hg.le.not_gt]
      · have free : freeCopy s = 1 := by simp [freeCopy, header, h0, h1, newer]
        have now : hdrNow s = a := by simp [hdrNow, header, h0, h1, newer]
        rw [free] at hk ho
        rw [now] at hg
        simp [hdrNow, header, hk, ho, h0, hg]

/-- The header that a header write stores. -/
def nextHdr (s : State) (f : NvmHdr → NvmHdr) : NvmHdr :=
  { f (hdrNow s) with gen := (f (hdrNow s)).gen + 1, wrA := satAdd 32 (f (hdrNow s)).wrA s.fw.rowsA,
                      wrB := satAdd 32 (f (hdrNow s)).wrB s.fw.rowsB, wrHdr := satAdd 32 (f (hdrNow s)).wrHdr 1 }

/-- The state that a header write begins from: the counts of rows written are in the header. -/
def rowsCounted (s : State) : State := s.updFw fun w => { w with rowsA := 0, rowsB := 0 }

theorem State.NvmClean.rowsCounted (h : s.NvmClean) : (rowsCounted s).NvmClean := ⟨h.errors, h.fails, h.wf⟩

theorem writeHdr_wrote (hs : s.NvmClean) (f : NvmHdr → NvmHdr) : ∃ t, writeHdr s f = (true, t) ∧
    (rowsCounted s).Wrote t (hdrAddr (freeCopy s)) (hdrBytes (nextHdr s f)) :=
  nvmWrite_wrote hs.rowsCounted (by have := freeCopy_le s; unfold hdrAddr; omega) (hdrBytes (nextHdr s f))

/-- The other copy stands. -/
theorem readHdr_other (hs : s.NvmClean) {f : NvmHdr → NvmHdr}
    (hw : (rowsCounted s).Wrote t (hdrAddr (freeCopy s)) (hdrBytes (nextHdr s f))) :
    readHdr t (1 - freeCopy s) = readHdr s (1 - freeCopy s) := by
  have le := freeCopy_le s
  have same : nvmRead t (hdrAddr (1 - freeCopy s)) 128 = nvmRead s (hdrAddr (1 - freeCopy s)) 128 := by
    have outside := hw.read_outside hs.rowsCounted (b := hdrAddr (1 - freeCopy s)) (n := 128)
      (by rw [length_hdrBytes]; unfold hdrAddr; omega)
    rw [outside, hs.read, hs.rowsCounted.read]
    rfl
  unfold readHdr
  rw [same, (hw.clean hs.rowsCounted).badAt, hs.badAt]

theorem nextHdr_fits {f : NvmHdr → NvmHdr} (hf : ∀ h, (f h).gen = h.gen) (hg : (hdrNow s).gen + 1 < 2 ^ 32)
    (hslots : (f (hdrNow s)).slots < 2 ^ 8) (hsvn : (f (hdrNow s)).minSvn < 2 ^ 32) : (nextHdr s f).Fits where
  gen := by
    rw [← hf] at hg
    exact hg
  slots := hslots
  minSvn := hsvn

/-- After a header write, the header in effect is the one written. -/
theorem hdrNow_written (hs : s.NvmClean) {f : NvmHdr → NvmHdr} (hf : ∀ h, (f h).gen = h.gen)
    (hfit : (nextHdr s f).Fits) (hw : (rowsCounted s).Wrote t (hdrAddr (freeCopy s)) (hdrBytes (nextHdr s f))) :
    (hdrNow t).slots = (f (hdrNow s)).slots ∧ (hdrNow t).minSvn = (f (hdrNow s)).minSvn := by
  have read := hw.read_inside hs.rowsCounted
  rw [length_hdrBytes] at read
  obtain ⟨k, hk, same⟩ := readHdr_of_bytes (hw.clean hs.rowsCounted) hfit read
  have newer : (hdrNow s).gen < k.gen := by
    rw [same.gen]
    show (hdrNow s).gen < (f (hdrNow s)).gen + 1
    rw [hf]
    exact Nat.lt_succ_self _
  rw [hdrNow_of_freeCopy hk (readHdr_other hs hw) newer]
  exact ⟨same.slots, same.minSvn⟩

end Sys2Proof.Machine
end

section
/-!
SUPPORT. The Firmware commands (O37).
-/
namespace Sys2Proof.Machine

variable {s t : State} {m : Fin 10} {pl : List Byte}

/-! ## The marks of a slot (R432, R439) -/

theorem ofBytes_lt (bs : List Byte) : ofBytes bs < 2 ^ (8 * bs.length) := by
  induction bs with
  | nil => exact Nat.one_pos
  | cons b bs ih =>
    have lt := b.isLt
    have pow : 2 ^ (8 * (b :: bs).length) = 2 ^ 8 * 2 ^ (8 * bs.length) := by
      rw [List.length_cons, ← pow_add]
      congr 1
      omega
    rw [ofBytes, pow]
    omega

theorem numAt_lt (bs : List Byte) (k n : Nat) : numAt bs k n < 2 ^ (8 * n) := by
  have lt := ofBytes_lt (bytesAt bs k n)
  rwa [bytesAt, List.length_map, List.length_range] at lt

theorem readHdr_fits {c : Nat} {h : NvmHdr} (hr : readHdr s c = some h) : h.slots < 2 ^ 8 ∧ h.minSvn < 2 ^ 32 := by
  unfold readHdr at hr
  dsimp only at hr
  split at hr
  · cases hr
    exact ⟨numAt_lt _ 8 1, numAt_lt _ 12 4⟩
  · exact nomatch hr

/-- The header in effect fits its fields, but for its next generation. -/
theorem hdrNow_fits (s : State) : (hdrNow s).slots < 2 ^ 8 ∧ (hdrNow s).minSvn < 2 ^ 32 := by
  have read {c : Nat} {h : NvmHdr} (hh : header s = some (c, h)) : h.slots < 2 ^ 8 ∧ h.minSvn < 2 ^ 32 := by
    unfold header at hh
    cases h0 : readHdr s 0 <;> cases h1 : readHdr s 1 <;> simp only [h0, h1] at hh
    · exact nomatch hh
    · cases hh
      exact readHdr_fits h1
    · cases hh
      exact readHdr_fits h0
    · split at hh <;> cases hh
      · exact readHdr_fits h1
      · exact readHdr_fits h0
  unfold hdrNow
  cases hh : header s with
  | none => exact ⟨by decide, by decide⟩
  | some p => exact read (c := p.1) hh

theorem setFld_lt {v hi k : Nat} (hv : v < 2 ^ k) (hk : hi < k) (lo x : Nat) : setFld v hi lo x < 2 ^ k := by
  refine Nat.lt_pow_two_of_testBit _ fun i hi' => ?_
  rw [testBit_setFld, if_neg (by omega)]
  exact Nat.testBit_lt_two_pow (hv.trans_le (Nat.pow_le_pow_right (by decide) hi'))

theorem setFld_bit0 (v x : Nat) : setFld v 0 0 x % 2 = x % 2 := by
  simp [setFld, fld]
  omega

theorem markSlot_fields (sl : Nat) (ok : Bool) (ver : Nat) (h : NvmHdr) :
    (markSlot sl ok ver h).slots = (if ok then setFld (setFld h.slots (1 + sl) (1 + sl) 1) (3 + sl) (3 + sl) 1
      else setFld h.slots (1 + sl) (1 + sl) 0) ∧
    (markSlot sl ok ver h).minSvn = h.minSvn ∧ (markSlot sl ok ver h).gen = h.gen := by
  cases ok with
  | false => exact ⟨rfl, rfl, rfl⟩
  | true => by_cases h0 : sl = 0 <;> simp [markSlot, h0]

/-- A verification that passes marks its slot verified, and one that fails unmarks none. -/
theorem slotVerified_markSlot (sl : Nat) (ok : Bool) (ver : Nat) (h : NvmHdr) :
    slotVerified (markSlot sl ok ver h) sl = (ok || slotVerified h sl) := by
  rw [slotVerified, (markSlot_fields sl ok ver h).1]
  cases ok <;> simp [slotVerified, nbit, testBit_setFld]

theorem markSlot_slots_lt {sl : Nat} (hsl : sl ≤ 1) (ok : Bool) (ver : Nat) {h : NvmHdr} (hs : h.slots < 2 ^ 8) :
    (markSlot sl ok ver h).slots < 2 ^ 8 := by
  rw [(markSlot_fields sl ok ver h).1]
  split
  · exact setFld_lt (setFld_lt hs (by omega) _ _) (by omega) _ _
  · exact setFld_lt hs (by omega) _ _

/-! ## FW_STAGE (R421) -/

theorem inactiveSlot_le (s : State) : inactiveSlot s ≤ 1 := by
  unfold inactiveSlot
  split <;> omega

theorem hdrNow_of_nvm (h : t.nvm = s.nvm) (he : t.nvmErr = s.nvmErr) : hdrNow t = hdrNow s := by
  rw [hdrNow, hdrNow, header_of_nvm h he]

theorem State.NvmClean.turned (h : s.NvmClean) (m : Nat) : (s.turned m).NvmClean := ⟨h.errors, h.fails, h.wf⟩

theorem inactiveSlot_turned (s : State) (m : Nat) : inactiveSlot (s.turned m) = inactiveSlot s := by
  rw [inactiveSlot, inactiveSlot, hdrNow_turned]
  rfl

/-- The end of a command leaves the firmware, and what the NVM reads. -/
theorem mbFinish_nvm (s : State) (m st de : Nat) (r : List Byte) : (mbFinish s m st de r).fw = s.fw ∧
    (∀ a n, nvmRead (mbFinish s m st de r) a n = nvmRead s a n) ∧ hdrNow (mbFinish s m st de r) = hdrNow s :=
  ⟨by simp, fun a n => nvmRead_of_nvm (by simp) (by simp) a n, hdrNow_of_nvm (by simp) (by simp)⟩

/-- The state in which FW_STAGE writes its bytes: the free bank is no longer protected. -/
def staging (s : State) (sl n : Nat) : State := countRows (s.updFw fun w =>
  { w.setBank (1 - w.bank) { w.bankOf (1 - w.bank) with prot := false } with loaded := false }) sl n

theorem staging_fw (s : State) (sl n : Nat) : (staging s sl n).fw.loaded = false ∧
    ((staging s sl n).fw.bankOf (1 - s.fw.bank)).prot = false := by
  have free : 1 - s.fw.bank = 0 ∨ 1 - s.fw.bank = 1 := by omega
  unfold staging countRows State.updFw Firmware.setBank Firmware.bankOf
  rcases free with h | h <;> by_cases hsl : sl = 0 <;> simp [h, hsl]

theorem State.NvmClean.staging (h : s.NvmClean) (sl n : Nat) : (staging s sl n).NvmClean :=
  ⟨h.errors, h.fails, h.wf⟩

/-- A slot that is not marked verified takes bytes without a header write. -/
theorem stageBytes_of_not_verified {sl : Nat} (hv : slotVerified (hdrNow s) sl = false) (off : Nat) (bs : List Byte) :
    stageBytes s sl off bs = nvmWrite (staging s sl (rowsOf bs.length)) (slotAddr sl + off) bs := by
  unfold stageBytes
  extract_lets u
  rw [show hdrNow u = hdrNow s from hdrNow_of_nvm rfl rfl, hv]
  rfl

theorem doFwStage_stages (hs : s.NvmClean) (hn : 1 ≤ numAt pl 4 2) (hm : numAt pl 4 2 ≤ 224)
    (ha : numAt pl 0 4 % 32 = 0) (hfit : numAt pl 0 4 + numAt pl 4 2 ≤ 98304)
    (hsel : inactiveSlot s ≠ hdrSelect (hdrNow s)) (hv : slotVerified (hdrNow s) (inactiveSlot s) = false)
    (x : Option Nat) : ∃ n t, doFwStage s x pl = .done 0 0 [] t ∧
      (staging s (inactiveSlot s) n).Wrote t (slotAddr (inactiveSlot s) + numAt pl 0 4)
        (bytesAt pl 8 (numAt pl 4 2)) := by
  obtain ⟨t, run, wrote⟩ := nvmWrite_wrote
    (hs.staging (inactiveSlot s) (rowsOf (bytesAt pl 8 (numAt pl 4 2)).length))
    (a := slotAddr (inactiveSlot s) + numAt pl 0 4) (by unfold slotAddr; omega) (bytesAt pl 8 (numAt pl 4 2))
  rw [← stageBytes_of_not_verified hv] at run
  refine ⟨_, t, ?_, wrote⟩
  unfold doFwStage
  dsimp only
  rw [if_neg (by omega), if_neg (by unfold slotSize; omega), if_neg hsel, run]
  rfl

theorem fwStage_stages (h : s.holds m 0x700 pl) (hs : s.NvmClean) (hn : 1 ≤ numAt pl 4 2) (hm : numAt pl 4 2 ≤ 224)
    (ha : numAt pl 0 4 % 32 = 0) (hfit : numAt pl 0 4 + numAt pl 4 2 ≤ 98304)
    (hsel : inactiveSlot s ≠ hdrSelect (hdrNow s)) (hv : slotVerified (hdrNow s) (inactiveSlot s) = false) :
    ∃ t, exec (.fwStage m) s = .next t ∧ t.ended m 0 0 [] ∧ t.fw.loaded = false ∧
      (t.fw.bankOf (1 - s.fw.bank)).prot = false ∧
      nvmRead t (slotAddr (inactiveSlot s) + numAt pl 0 4) (numAt pl 4 2) = bytesAt pl 8 (numAt pl 4 2) := by
  have hslot := inactiveSlot_turned s m
  have hnow := hdrNow_turned s m
  obtain ⟨n, u, body, wrote⟩ := doFwStage_stages (hs.turned m) hn hm ha hfit (by rw [hslot, hnow]; exact hsel)
    (by rw [hslot, hnow]; exact hv) (some m.val)
  rw [hslot] at wrote
  have read := wrote.read_inside ((hs.turned m).staging _ n)
  have len : (bytesAt pl 8 (numAt pl 4 2)).length = numAt pl 4 2 := by simp [bytesAt]
  rw [len] at read
  obtain ⟨hrun, hend, -⟩ := mbRun_endsWith h (form := anyForm) rfl noBusy body (congrArg State.mbs wrote.rest :)
    (congrArg State.mbram wrote.rest :) (Nat.zero_le _) (by decide) (by decide)
  obtain ⟨hfw, hread, -⟩ := mbFinish_nvm u m 0 0 []
  obtain ⟨hloaded, hprot⟩ := staging_fw (s.turned m) (inactiveSlot s) n
  rw [← wrote.fw, ← hfw] at hloaded hprot
  generalize mbFinish u m 0 0 [] = t at hrun hend hread hloaded hprot
  exact ⟨t, hrun, hend, hloaded, hprot, (hread _ _).trans read⟩

theorem fwStage_refused (h : s.holds m 0x700 pl) (hn : 1 ≤ numAt pl 4 2) (hm : numAt pl 4 2 ≤ 224)
    (ha : numAt pl 0 4 % 32 = 0) (hfit : numAt pl 0 4 + numAt pl 4 2 ≤ 98304)
    (hsel : inactiveSlot s = hdrSelect (hdrNow s)) :
    ∃ t, exec (.fwStage m) s = .next t ∧ t.ended m 6 0x704 [] ∧ s.onlyMail t m := by
  have body : doFwStage (s.turned m) (some m.val) pl = .done 6 0x704 [] (s.turned m) := by
    unfold doFwStage
    dsimp only
    rw [if_neg (by omega), if_neg (by unfold slotSize; omega), if_pos (by rw [inactiveSlot_turned, hdrNow_turned, hsel])]
    rfl
  exact mbRun1_refused h body (by decide) (by decide)

/-! ## FW_ACTIVATE and NVM_READ (R422, R425) -/

theorem slotField_of_nvm (h : t.nvm = s.nvm) (he : t.nvmErr = s.nvmErr) (sl o : Nat) :
    slotField t sl o = slotField s sl o := by
  rw [slotField, slotField, slotHead, slotHead, nvmRead_of_nvm h he]

/-- The exchange that FW_ACTIVATE of mailbox m asks for. -/
def asked (s : State) (m : Nat) : Exchange :=
  { mbx := m, waits := (upto 10).filter fun j => j != m && (s.mb j).st == .busy, begun := false }

theorem doFwActivate_begins (hl : s.fw.loaded = true) (hx : slotXabi s (inactiveSlot s) = slotXabi s s.fw.slot)
    (m : Nat) (pl : List Byte) :
    doFwActivate s (some m) pl = .later (s.updFw fun w => { w with exch := some (asked s m) }) := by
  unfold doFwActivate
  dsimp only
  rw [if_neg (by simp [hl]), if_neg (not_not_intro hx)]
  rfl

theorem fwActivate_begins (h : s.holds m 0x702 pl) (hl : s.fw.loaded = true)
    (hx : slotXabi s (inactiveSlot s) = slotXabi s s.fw.slot) : ∃ t, exec (.fwActivate m) s = .next t ∧
      (t.mb m).st = .busy ∧ (t.mb m).running = true ∧
      (∃ e, t.fw.exch = some e ∧ e.mbx = m.val ∧ e.begun = false ∧
        ∀ j : Fin 10, j.val ∈ e.waits ↔ j ≠ m ∧ (s.mb j).st = .busy) ∧ t.nvm = s.nvm ∧ t.doms = s.doms := by
  have ⟨_, _, hbusy, _⟩ := h
  have xabi : slotXabi (s.turned m) (inactiveSlot (s.turned m)) = slotXabi (s.turned m) (s.turned m).fw.slot := by
    rw [inactiveSlot_turned, slotXabi, slotXabi, slotField_of_nvm (t := s.turned m) (s := s) rfl rfl,
      slotField_of_nvm (t := s.turned m) (s := s) rfl rfl]
    exact hx
  have body := doFwActivate_begins (s := s.turned m) hl xabi m pl
  have going := goesOn_running (m := m)
    (t := (s.turned m).updFw fun w => { w with exch := some (asked (s.turned m) m) }) hbusy
  have waits (j : Fin 10) : j.val ∈ (asked (s.turned m) m).waits ↔ j ≠ m ∧ (s.mb j).st = .busy := by
    have lt := j.isLt
    simp [asked, State.turned, upto, List.mem_filter, lt, Fin.ext_iff]
  obtain ⟨hmbx, hbegun⟩ : (asked (s.turned m) m).mbx = m.val ∧ (asked (s.turned m) m).begun = false := ⟨rfl, rfl⟩
  generalize asked (s.turned m) m = e at body going waits hmbx hbegun
  exact ⟨_, mbRun_goesOn h (form := anyForm) rfl noBusy body, going.1, going.2, ⟨e, rfl, hmbx, hbegun, waits⟩, rfl, rfl⟩

theorem nvmRead_answers (h : s.holds m 0x704 pl) (hs : s.NvmClean) (ha : byteAt pl 0 ≤ 3) (hn : 1 ≤ numAt pl 8 2)
    (hm : numAt pl 8 2 ≤ 256) (hfit : numAt pl 4 4 + numAt pl 8 2 ≤ (nvmArea (byteAt pl 0)).2) :
    ∃ t, exec (.nvmRead m) s = .next t ∧
      t.ended m 0 0 (nvmRead s ((nvmArea (byteAt pl 0)).1 + numAt pl 4 4) (numAt pl 8 2)) ∧ s.onlyMail t m := by
  have body : doNvmRead (s.turned m) (some m.val) pl = .done 0 0
      (nvmRead s ((nvmArea (byteAt pl 0)).1 + numAt pl 4 4) (numAt pl 8 2)) (s.turned m) := by
    unfold doNvmRead
    dsimp only
    rw [if_neg (by omega), if_neg (by omega), (hs.turned m).bytes, nvmRead_of_nvm (t := s.turned m) (s := s) rfl rfl]
    rfl
  have len : (nvmRead s ((nvmArea (byteAt pl 0)).1 + numAt pl 4 4) (numAt pl 8 2)).length ≤ 256 := by
    rw [hs.read]
    simpa [ramRead] using hm
  obtain ⟨hrun, hend, hmail⟩ :=
    mbRun_endsWith h (form := anyForm) rfl noBusy body rfl rfl len (by decide) (by decide)
  exact ⟨_, hrun, hend, onlyMail_of_turned hmail⟩

theorem nvmRead_refused (h : s.holds m 0x704 pl) (ha : byteAt pl 0 ≤ 3) (hn : 1 ≤ numAt pl 8 2)
    (hm : numAt pl 8 2 ≤ 256) (hfit : (nvmArea (byteAt pl 0)).2 < numAt pl 4 4 + numAt pl 8 2) :
    ∃ t, exec (.nvmRead m) s = .next t ∧ t.ended m 8 0x706 [] ∧ s.onlyMail t m := by
  have body : doNvmRead (s.turned m) (some m.val) pl = .done 8 0x706 [] (s.turned m) := by
    unfold doNvmRead
    dsimp only
    rw [if_neg (by omega), if_pos hfit]
    rfl
  exact mbRun1_refused h body (by decide) (by decide)

/-! ## FW_COMMIT_SLOT (R423, R424) -/

/-- The header that selects a slot. -/
def selectSlot (sl svn : Nat) (h : NvmHdr) : NvmHdr :=
  { h with slots := setFld h.slots 0 0 sl, minSvn := max h.minSvn svn }

theorem doFwCommit_selects (hs : s.NvmClean) (hb : byteAt pl 0 ≤ 1)
    (hv : slotVerified (hdrNow s) (byteAt pl 0) = true) (x : Option Nat) : ∃ t, doFwCommit s x pl = .done 0 0 [] t ∧
      (rowsCounted s).Wrote t (hdrAddr (freeCopy s))
        (hdrBytes (nextHdr s (selectSlot (byteAt pl 0) (slotSvn s (byteAt pl 0))))) := by
  obtain ⟨t, run, wrote⟩ := writeHdr_wrote hs (selectSlot (byteAt pl 0) (slotSvn s (byteAt pl 0)))
  refine ⟨t, ?_, wrote⟩
  unfold doFwCommit
  dsimp only
  rw [if_neg (by omega), if_neg (by simp [hv])]
  exact congrArg (fun q : Bool × State => if q.1 then cmdOk q.2 [] else cmdFail q.2 0x116) run

theorem selectSlot_fields (sl svn : Nat) (h : NvmHdr) : (selectSlot sl svn h).gen = h.gen ∧
    hdrSelect (selectSlot sl svn h) = sl % 2 ∧ (selectSlot sl svn h).minSvn = max h.minSvn svn :=
  ⟨rfl, setFld_bit0 h.slots sl, rfl⟩

theorem selectSlot_fits {sl svn : Nat} {h : NvmHdr} (hs : h.slots < 2 ^ 8) (hm : h.minSvn < 2 ^ 32)
    (hv : svn < 2 ^ 32) : (selectSlot sl svn h).slots < 2 ^ 8 ∧ (selectSlot sl svn h).minSvn < 2 ^ 32 :=
  ⟨setFld_lt hs (by decide) 0 sl, max_lt hm hv⟩

/-- After FW_COMMIT_SLOT's header write, the slot is selected and MIN_SVN raised. -/
theorem hdrNow_selected (hs : s.NvmClean) (hg : (hdrNow s).gen + 1 < 2 ^ 32) {sl svn : Nat} (hsl : sl ≤ 1)
    (hv : svn < 2 ^ 32) (hw : (rowsCounted s).Wrote t (hdrAddr (freeCopy s)) (hdrBytes (nextHdr s (selectSlot sl svn)))) :
    hdrSelect (hdrNow t) = sl ∧ (hdrNow t).minSvn = max (hdrNow s).minSvn svn := by
  have gen (h : NvmHdr) := (selectSlot_fields sl svn h).1
  obtain ⟨-, select, minSvn⟩ := selectSlot_fields sl svn (hdrNow s)
  obtain ⟨slotsFit, svnFit⟩ := selectSlot_fits (sl := sl) (hdrNow_fits s).1 (hdrNow_fits s).2 hv
  obtain ⟨hslots, hminSvn⟩ := hdrNow_written hs gen (nextHdr_fits gen hg slotsFit svnFit) hw
  constructor
  · rw [hdrSelect, hslots]
    exact select.trans (Nat.mod_eq_of_lt (by omega))
  · rw [hminSvn, minSvn]

theorem fwCommit_selects (h : s.holds m 0x703 pl) (hs : s.NvmClean) (hb : byteAt pl 0 ≤ 1)
    (hv : slotVerified (hdrNow s) (byteAt pl 0) = true) : ∃ t, exec (.fwCommitSlot m) s = .next t ∧
      t.ended m 0 0 [] ∧ t.doms = s.doms ∧ t.cfg = s.cfg ∧
      ((hdrNow s).gen + 1 < 2 ^ 32 → hdrSelect (hdrNow t) = byteAt pl 0 ∧
        (hdrNow t).minSvn = max (hdrNow s).minSvn (slotSvn s (byteAt pl 0))) := by
  have now := hdrNow_turned s m
  have svn : slotSvn (s.turned m) (byteAt pl 0) = slotSvn s (byteAt pl 0) := slotField_of_nvm rfl rfl _ _
  obtain ⟨u, body, wrote⟩ := doFwCommit_selects (hs.turned m) hb (by rw [now]; exact hv) (some m.val)
  obtain ⟨hrun, hend, -⟩ := mbRun_endsWith h (form := anyForm) rfl noBusy body (congrArg State.mbs wrote.rest :)
    (congrArg State.mbram wrote.rest :) (Nat.zero_le _) (by decide) (by decide)
  have doms : u.doms = s.doms := (congrArg State.doms wrote.rest :)
  have cfg : u.cfg = s.cfg := (congrArg State.cfg wrote.rest :)
  have doms' := mbFinish_doms u m 0 0 []
  have cfg' := mbFinish_cfg u m 0 0 []
  obtain ⟨-, -, hnow⟩ := mbFinish_nvm u m 0 0 []
  generalize mbFinish u m 0 0 [] = t at hrun hend hnow doms' cfg'
  refine ⟨t, hrun, hend, doms'.trans doms, cfg'.trans cfg, fun hg => ?_⟩
  rw [hnow, ← now, ← svn]
  exact hdrNow_selected (hs.turned m) (by rw [now]; exact hg) hb (numAt_lt _ _ 4) wrote

theorem fwCommit_refused (h : s.holds m 0x703 pl) (hb : byteAt pl 0 ≤ 1)
    (hv : slotVerified (hdrNow s) (byteAt pl 0) = false) :
    ∃ t, exec (.fwCommitSlot m) s = .next t ∧ t.ended m 6 0x703 [] ∧ s.onlyMail t m := by
  have body : doFwCommit (s.turned m) (some m.val) pl = .done 6 0x703 [] (s.turned m) := by
    unfold doFwCommit
    dsimp only
    rw [if_neg (by omega), if_pos (by rw [hdrNow_turned, hv]; rfl)]
    rfl
  exact mbRun1_refused h body (by decide) (by decide)

/-! ## FW_VERIFY (R436, R439) -/

section
variable (h : t.nvm = s.nvm) (he : t.nvmErr = s.nvmErr)
include h he

theorem slotBody_of_nvm (sl : Nat) : slotBody t sl = slotBody s sl := by
  rw [slotBody, slotBody, slotField_of_nvm h he, nvmRead_of_nvm h he]

theorem signedOk_of_nvm (sl : Nat) : signedOk t sl = signedOk s sl := by
  unfold signedOk
  simp only [slotHead, nvmRead_of_nvm h he, slotField_of_nvm h he, slotBody_of_nvm h he]

theorem verifySlot_of_nvm (sl : Nat) : verifySlot t sl = verifySlot s sl := by
  rw [verifySlot, verifySlot, nvmBadAt_of_nvm he, slotHead, slotHead, nvmRead_of_nvm h he, slotField_of_nvm h he,
    hdrNow_of_nvm h he, signedOk_of_nvm h he]

theorem verifyBytes_of_nvm (sl result : Nat) : verifyBytes t sl result = verifyBytes s sl result := by
  rw [verifyBytes, verifyBytes, slotVersion, slotVersion, slotField_of_nvm h he, slotField_of_nvm h he]

end

/-- The body of a slot that passes its checks lies within the slot. -/
theorem slotField_of_valid {sl : Nat} (h : verifySlot s sl = .valid) : slotField s sl 0x10 ≤ 97952 := by
  unfold verifySlot at h
  split at h
  · exact nomatch h
  · split at h
    · exact nomatch h
    · rename_i ok
      simp only [Bool.or_eq_true, not_or, Bool.not_eq_true', Bool.not_eq_false] at ok
      have container := ok.1
      simp only [containerOk, Bool.and_eq_true, decide_eq_true_eq] at container
      obtain ⟨⟨⟨⟨⟨-, -, hbody⟩, -⟩, -⟩, -⟩, -⟩ := container
      exact hbody

/-- A write of the header leaves the slots. -/
theorem slot_of_wrote (hs : s.NvmClean) {f : NvmHdr → NvmHdr} {sl : Nat} (hsl : sl ≤ 1)
    (hw : (rowsCounted s).Wrote t (hdrAddr (freeCopy s)) (hdrBytes (nextHdr s f))) :
    (∀ o, slotField t sl o = slotField s sl o) ∧
      (slotField s sl 0x10 ≤ 97952 → slotBody t sl = slotBody s sl) := by
  have same {a n : Nat} (h : a + n ≤ 0x30000) : nvmRead t a n = nvmRead s a n := by
    have counted : nvmRead (rowsCounted s) a n = nvmRead s a n := nvmRead_of_nvm rfl rfl a n
    rw [hw.read_outside hs.rowsCounted (.inl (by unfold hdrAddr; omega)), counted]
  have field (o : Nat) : slotField t sl o = slotField s sl o := by
    rw [slotField, slotField, slotHead, slotHead, same (by unfold slotAddr; omega)]
  refine ⟨field, fun hfit => ?_⟩
  rw [slotBody, slotBody, field, same (by unfold slotAddr; omega)]

/-- The state in which FW_VERIFY ends, once its header write has: the body is in the free bank. -/
def verified (v : Verdict) (t : State) (sl : Nat) : State :=
  if v = .valid ∧ t.fw.boot = .running then
    (copyBody t sl (1 - t.fw.bank) true).updFw fun w => { w with loaded := true }
  else t

def verifyStatus (v : Verdict) : Nat := if v = .valid then 0 else 8

def verifyDetail : Verdict → Nat
  | .valid => 0
  | .badContainer => 0x701
  | .badSignature => 0x702

/-- The header that FW_VERIFY writes. -/
def verifyMark (s : State) (v : Verdict) : NvmHdr → NvmHdr :=
  markSlot (inactiveSlot s) (v == .valid) (slotVersion s (inactiveSlot s))

theorem doFwVerify_verifies (hs : s.NvmClean) {v : Verdict} (hv : verifySlot s (inactiveSlot s) = v) (x : Option Nat)
    (pl : List Byte) : ∃ t, doFwVerify s x pl = .done (verifyStatus v) (verifyDetail v)
        (verifyBytes s (inactiveSlot s) v.code) (verified v t (inactiveSlot s)) ∧
      (rowsCounted s).Wrote t (hdrAddr (freeCopy s)) (hdrBytes (nextHdr s (verifyMark s v))) := by
  obtain ⟨t, run, wrote⟩ := writeHdr_wrote hs (verifyMark s v)
  refine ⟨t, ?_, wrote⟩
  unfold verifyMark at run
  unfold doFwVerify
  dsimp only
  rw [hv, run]
  cases v <;> rfl

theorem verified_keeps (v : Verdict) (t : State) (sl : Nat) : { verified v t sl with fw := t.fw } = t := by
  unfold verified
  split <;> rfl

theorem verified_loaded {v : Verdict} (hv : v = .valid) {t : State} (hb : t.fw.boot = .running) (sl : Nat) :
    (verified v t sl).fw.loaded = true ∧
      (verified v t sl).fw.bankOf (1 - t.fw.bank) = ⟨slotBody t sl, slotField t sl 0x14, true⟩ := by
  rw [verified, if_pos ⟨hv, hb⟩]
  refine ⟨rfl, ?_⟩
  have free : 1 - t.fw.bank = 0 ∨ 1 - t.fw.bank = 1 := by omega
  rcases free with h | h <;> rw [h] <;> rfl

theorem verified_failed {v : Verdict} (hv : v ≠ .valid) (t : State) (sl : Nat) : verified v t sl = t :=
  if_neg fun h => hv h.1

/-- After FW_VERIFY's header write, the slot is marked verified where it passed, or was. -/
theorem slotVerified_written (hs : s.NvmClean) (hg : (hdrNow s).gen + 1 < 2 ^ 32) {v : Verdict}
    (hw : (rowsCounted s).Wrote t (hdrAddr (freeCopy s)) (hdrBytes (nextHdr s (verifyMark s v)))) :
    slotVerified (hdrNow t) (inactiveSlot s) = (v == .valid || slotVerified (hdrNow s) (inactiveSlot s)) := by
  have fields (h : NvmHdr) := (markSlot_fields (inactiveSlot s) (v == .valid) (slotVersion s (inactiveSlot s)) h).2
  have slots := markSlot_slots_lt (inactiveSlot_le s) (v == .valid) (slotVersion s (inactiveSlot s)) (hdrNow_fits s).1
  have minSvn : (verifyMark s v (hdrNow s)).minSvn < 2 ^ 32 := by
    rw [verifyMark, (fields _).1]
    exact (hdrNow_fits s).2
  have gen (h : NvmHdr) : (verifyMark s v h).gen = h.gen := (fields h).2
  obtain ⟨hslots, -⟩ := hdrNow_written hs gen (nextHdr_fits gen hg slots minSvn) hw
  rw [← slotVerified_markSlot (inactiveSlot s) (v == .valid) (slotVersion s (inactiveSlot s)), slotVerified, hslots]
  rfl

theorem numAt_verifyBytes (s : State) (sl result : Nat) : (verifyBytes s sl result).length = 12 ∧
    numAt (verifyBytes s sl result) 0 1 = sl % 256 ∧ numAt (verifyBytes s sl result) 1 1 = result % 256 := by
  unfold verifyBytes
  refine ⟨by simp, ?_, ?_⟩
  · simp only [List.append_assoc, numAt_toBytes_one]
  · iterate 2 rw [numAt_append_left (by simp)]
    exact numAt_field (by simp) 1 result _

/-- What FW_VERIFY leaves: the bank loaded where the slot passes, the slot's mark. -/
structure State.Verified (s t : State) (v : Verdict) : Prop where
  failed : v ≠ .valid → t.fw.loaded = s.fw.loaded
  passed : v = .valid → s.fw.boot = .running → t.fw.loaded = true ∧ t.fw.bankOf (1 - s.fw.bank)
    = ⟨slotBody s (inactiveSlot s), slotField s (inactiveSlot s) 0x14, true⟩
  mark : (hdrNow s).gen + 1 < 2 ^ 32 → slotVerified (hdrNow t) (inactiveSlot s)
    = (v == .valid || slotVerified (hdrNow s) (inactiveSlot s))

theorem verified_of_wrote (hs : s.NvmClean) {v : Verdict} (hv : verifySlot s (inactiveSlot s) = v)
    (hw : (rowsCounted s).Wrote t (hdrAddr (freeCopy s)) (hdrBytes (nextHdr s (verifyMark s v)))) :
    s.Verified (verified v t (inactiveSlot s)) v ∧ (verified v t (inactiveSlot s)).mbs = s.mbs ∧
      (verified v t (inactiveSlot s)).mbram = s.mbram := by
  have keeps := verified_keeps v t (inactiveSlot s)
  have boot : t.fw.boot = s.fw.boot := (congrArg Firmware.boot hw.fw :)
  have bank : t.fw.bank = s.fw.bank := (congrArg Firmware.bank hw.fw :)
  obtain ⟨field, body⟩ := slot_of_wrote hs (inactiveSlot_le s) hw
  refine ⟨⟨fun hne => ?_, fun hval hrun => ?_, fun hg => ?_⟩,
    (congrArg State.mbs keeps :).trans (congrArg State.mbs hw.rest :),
    (congrArg State.mbram keeps :).trans (congrArg State.mbram hw.rest :)⟩
  · rw [verified_failed hne, hw.fw]
    rfl
  · obtain ⟨hloaded, hbank⟩ := verified_loaded hval (boot.trans hrun) (inactiveSlot s)
    rw [bank, body (slotField_of_valid (hv.trans hval)), field] at hbank
    exact ⟨hloaded, hbank⟩
  · rw [← slotVerified_written hs hg hw]
    have nvm : (verified v t (inactiveSlot s)).nvm = t.nvm := (congrArg State.nvm keeps :)
    have nvmErr : (verified v t (inactiveSlot s)).nvmErr = t.nvmErr := (congrArg State.nvmErr keeps :)
    rw [hdrNow_of_nvm nvm nvmErr]

theorem State.Verified.of_turned {m : Nat} {v : Verdict} (h : (s.turned m).Verified t v) : s.Verified t v where
  failed := h.failed
  passed hval hrun := by
    have passed := h.passed hval hrun
    rwa [inactiveSlot_turned, slotBody_of_nvm (t := s.turned m) (s := s) rfl rfl,
      slotField_of_nvm (t := s.turned m) (s := s) rfl rfl] at passed
  mark hg := by
    have mark := h.mark (by rw [hdrNow_turned]; exact hg)
    rwa [inactiveSlot_turned, hdrNow_turned] at mark

theorem State.Verified.congr {u : State} {v : Verdict} (h : s.Verified t v) (hfw : u.fw = t.fw)
    (hnow : hdrNow u = hdrNow t) : s.Verified u v where
  failed hne := by rw [hfw, h.failed hne]
  passed hval hrun := by rw [hfw]; exact h.passed hval hrun
  mark hg := by rw [hnow, h.mark hg]

theorem fwVerify_verifies (h : s.holds m 0x701 pl) (hs : s.NvmClean) {v : Verdict}
    (hv : verifySlot s (inactiveSlot s) = v) : ∃ t r, exec (.fwVerify m) s = .next t ∧
      numAt r 0 1 = inactiveSlot s ∧ numAt r 1 1 = v.code ∧ t.ended m (verifyStatus v) (verifyDetail v) r ∧
      s.Verified t v := by
  have hv' : verifySlot (s.turned m) (inactiveSlot (s.turned m)) = v := by
    rw [inactiveSlot_turned, verifySlot_of_nvm (t := s.turned m) (s := s) rfl rfl, hv]
  obtain ⟨u, body, wrote⟩ := doFwVerify_verifies (hs.turned m) hv' (some m.val) pl
  obtain ⟨did, hmbs, hmbram⟩ := verified_of_wrote (hs.turned m) hv' wrote
  rw [verifyBytes_of_nvm (t := s.turned m) (s := s) rfl rfl, inactiveSlot_turned] at body
  rw [inactiveSlot_turned] at did hmbs hmbram
  obtain ⟨hlen, hslot, hcode⟩ := numAt_verifyBytes s (inactiveSlot s) v.code
  have le := inactiveSlot_le s
  generalize verifyBytes s (inactiveSlot s) v.code = r at body hlen hslot hcode
  generalize verified v u (inactiveSlot s) = x at body did hmbs hmbram
  obtain ⟨hrun, hend, -⟩ := mbRun_endsWith h (form := anyForm) rfl verifyBusy body hmbs hmbram (by omega)
    (by cases v <;> decide) (by cases v <;> decide)
  obtain ⟨hfw, -, hnow⟩ := mbFinish_nvm x m (verifyStatus v) (verifyDetail v) r
  generalize mbFinish x m (verifyStatus v) (verifyDetail v) r = t at hrun hend hfw hnow
  refine ⟨t, r, hrun, hslot.trans (Nat.mod_eq_of_lt (by omega)), hcode.trans ?_, hend, did.of_turned.congr hfw hnow⟩
  cases v <;> rfl

/-- Settles O37: a header write makes the header written the one in effect and leaves the slots, which the commands'
own rules then read. -/
theorem firmwareCommands : Obligations.FirmwareCommands := by
  intro s m pl hfail herr hwf
  have hs : s.NvmClean := ⟨herr, hfail, hwf⟩
  refine ⟨fun h hn hm ha hfit hsel hv => ?_, fun h hn hm ha hfit hsel => ?_, fun h => ?_, fun h hl hx => ?_,
    fun h hb hv => ?_, fun h hb hv => ?_, fun h ha hn hm hfit => ?_, fun h ha hn hm hfit => ?_⟩
  · exact fwStage_stages h hs hn hm ha hfit hsel hv
  · exact fwStage_refused h hn hm ha hfit hsel
  · generalize hv : verifySlot s (inactiveSlot s) = v
    obtain ⟨t, r, run, hslot, hcode, hend, did⟩ := fwVerify_verifies h hs hv
    refine ⟨t, r, run, hslot, hcode, ?_, did.failed, did.passed, fun hg => ?_⟩
    · cases v <;> exact hend
    · rw [did.mark hg, Bool.or_eq_true, beq_iff_eq]
  · exact fwActivate_begins h hl hx
  · exact fwCommit_selects h hs hb hv
  · exact fwCommit_refused h hb hv
  · exact nvmRead_answers h hs ha hn hm hfit
  · exact nvmRead_refused h ha hn hm hfit

end Sys2Proof.Machine
end
